-- ==== Sys2Proof/Word.lean ====
section
/-! DEFINITION. The words of the machine and the plain data that its events carry: the 64-bit register word
(R79), the byte (R3), the five sequencers (R18), and the arguments of the table's event rows (packets of R362,
verdicts of R404, requests of R406). -/
namespace Sys2Proof

/-- A register word (R79). -/
abbrev Word := BitVec 64
/-- A byte of memory or of a buffer (R3). -/
abbrev Byte := BitVec 8

/-- The five sequencers of a core, in ring order CC → AE → ME → SE → VE → CC (R18, R20). -/
inductive Sqr where
  | cc | ae | me | se | ve
  deriving DecidableEq, Repr, Inhabited

/-- The units that a fault is charged to: R339, field UNIT. -/
inductive FUnit where
  | seq (u : Sqr) | copyEngine | sampling | spillEngine | relocated
  deriving DecidableEq, Repr, Inhabited

/-- The verdict of the security processor on one image (R404): whether each signature verifies, whether each
public key hashes to its fuse value, and the image's anti-rollback version and measurement (SHA-384); and, of an image of schedule
firmware, its bytes (R372). The signature algorithms themselves are computed outside the model. (DESIGN CHOICE, assumption 5.) -/
structure ImageVerdict where
  rsa : Bool
  slh : Bool
  keyHashes : Bool
  version : Nat
  measurement : BitVec 384
  firmware : Option (List (BitVec 8)) := none
  deriving DecidableEq, Repr, Inhabited

/-- A PUT packet of a collective run (R377, R378): its number, its sender and its target, its place in the flow of its sender
(R359), the run, the record, the key index, the sender's SIG where it is its first to this receiver, where it goes (2^64 × DSTB + DOFF), the data and
their length, of which this packet brings the last 256 bytes, the counter that it raises, and whether it uses an option that this device does not
implement (R354). -/
structure PutPacket where
  id : Nat
  srcDev : Nat
  srcLnum : Nat
  dstDev : Nat
  dstLnum : Nat
  flowSeq : Nat
  key : Nat
  tenant : Nat
  handle : Nat
  generation : Nat
  srcRank : Nat
  dstRank : Nat
  record : Nat
  sig : Option Word
  dst : Nat
  data : List Byte
  counter : Option Nat
  len : Nat
  foreign : Bool
  deriving DecidableEq, Repr, Inhabited

/-- What a packet of the fabric asks for (R362–R364, R370, R378). `space` is 0 WB, 1 AB, 2 AS (R360). -/
inductive Request where
  /-- A posted window write; `bar` names a barrier in the same window and its count (R172). -/
  | winWrite (space off : Nat) (data : List Byte) (bar : Option Nat)
  /-- A posted window write of single bytes, each with its offset and the bits that it writes (a vector write, R362). -/
  | winBytes (space : Nat) (data : List (Nat × Nat × Byte))
  /-- A window read of `n` bytes (R362). -/
  | winRead (space off n : Nat)
  /-- A barrier arrival through a window (R166, R169). -/
  | arrive (off n : Nat)
  /-- A read, a store, a reduction or an atomic on memory; `op` numbers the operation by funct3 of R143 or R144. -/
  | memRead (pa n : Nat)
  | memWrite (pa : Nat) (data : List Byte)
  | memRed (pa n op : Nat) (v : Word)
  | memAmo (pa n op : Nat) (v c : Word)
  /-- A barrier word on a barrier in memory of another device, by funct7 of R169; 3 reads the phase and 5 counts
  sectors (R172). -/
  | memBar (pa op : Nat) (v : Word)
  /-- The step of a log append at the ring header's home (R293). -/
  | memLog (pa : Nat)
  /-- A chain-forwarded store, at peer `k` of `peers` (R370). A peer dword is laid out as R369 says. -/
  | stc (space off size : Nat) (v : Word) (peers : List (BitVec 32)) (k : Nat)
  /-- A carry packet (R256, R261). -/
  | carry (tag level : Nat) (dir : Bool) (elems planes fmt : Nat) (payload : List Byte)
  /-- 256 bytes of a carry, or of a PUT, whose rest follows (R354). -/
  | part (carry : Bool) (data : List Byte)
  /-- The PUT of a record (R377). -/
  | put (p : PutPacket)
  /-- The answer to a request: 0 or the cause of R365, and the data. -/
  | resp (cause : Nat) (data : List Byte)
  deriving DecidableEq, Repr, Inhabited

/-- A packet of the fabric: its number at the sender, its sender, its target, the tenant that hardware stamps and
the key index (R363), the core that put it on the fabric, whose flow it belongs to, with its flow sequence number (R359), whether
it uses an option that this device does not implement (R354), and the request. -/
structure Packet where
  id : Nat
  srcDev : Nat
  srcLnum : Nat
  srcUnit : Sqr
  dstDev : Nat
  dstLnum : Nat
  tenant : Nat
  key : Nat
  viaDev : Nat
  viaLnum : Nat
  flowSeq : Nat
  foreign : Bool
  req : Request
  deriving DecidableEq, Repr, Inhabited

/-- Where a protected word lies, for a scrub or an error (R396, R397): the stores of a core, with its instruction memories,
routine tables, queues and descriptors; the L2; memory; and the SRAM of a communication processor, whose port stands for a core's
number. A place in a queue or a descriptor is its offset in the register area (R342). -/
inductive Store where
  | wb | ab | as | srf | l2 | hbm | imem | queue | rtab | desc | comm
  deriving DecidableEq, Repr, Inhabited

/-- What a scrub finds of a word: an error of one bit, which it corrects; one that it cannot correct; or, after it has passed, an
error of one bit that the next access will meet (R396, R397). -/
inductive EccFinding where
  | corrected | uncorrectable | upset
  deriving DecidableEq, Repr, Inhabited

/-- The client certificate of a session, as TLS finds it: whether its chain verifies, and the hash of the root at which it ends (R406).
(DESIGN CHOICE, assumption 5.) -/
structure ClientCert where
  chain : Bool
  root : BitVec 384
  deriving DecidableEq, Repr, Inhabited

/-- What the operator asks the management controller for (R406). -/
inductive MgmtRequest where
  | readMonitors (cluster : Nat)
  | setLimits (cluster : Nat) (throttle critical : BitVec 16)
  | retireCore (lnum : Nat)
  | spareChannel (stack pair : Nat)
  | dropLane (port : Nat)
  | attest (nonce : BitVec 256)
  | recovery (v : ImageVerdict)
  deriving DecidableEq, Repr, Inhabited

/-- A request with the certificate of its session (R406). -/
structure MgmtSession where
  cert : ClientCert
  request : MgmtRequest
  deriving DecidableEq, Repr, Inhabited

/-- An access to the IOD control space: its offset and its size in bytes (R401). -/
structure IodPlace where
  off : Nat
  size : Nat
  deriving DecidableEq, Repr, Inhabited

/-- A member of a collective: its core and its tenant (R372). -/
structure CollMember where
  lnum : Nat
  tenant : Nat
  deriving DecidableEq, Repr, Inhabited

/-- The core that a recompute moves to slot 8, and the tasks of the first replica's step that resume from their checkpoints (R393). -/
structure RecomputeCore where
  core : Nat
  tasks : List (BitVec 64)
  deriving DecidableEq, Repr, Inhabited

/-- The end of a recompute in a cluster: the tasks of the subtree that is halted and, where there is no majority, the tenant and its
root RCB (R393). -/
structure RecomputeEnd where
  cluster : Nat
  halted : List (BitVec 64)
  told : Option (Nat × BitVec 64)
  deriving DecidableEq, Repr, Inhabited

/-- One region of the machine's own sensors, as sampled (R394). -/
structure Sensors where
  temp : List (BitVec 16)
  minMv : BitVec 16
  freq : BitVec 16
  deriving DecidableEq, Repr, Inhabited

end Sys2Proof
end

