-- ==== Sys2Proof/Config.lean ====
section
/-! DEFINITION. What an implementation fixes and what the spec leaves open: free values (opaque constants, which no
proof can see) and the plain choices that a log entry names. -/
namespace Sys2Proof.Config

/-- Free value: the hash of a physical line address that picks the L2 set of its versions (R13, R301: the spec gives
no function). (DESIGN CHOICE, assumption 6.) -/
opaque l2Set : Nat → Nat

/-- Free value: the RSA-3072 signature of the n-th attestation report (R404, R405). (DESIGN CHOICE, assumption 5.) -/
opaque attestRsa : Nat → BitVec 3072

/-- Free value: the bytes of the SLH-DSA-SHA2-192s signature of the n-th attestation report (R404, R405). (DESIGN CHOICE,
assumption 5.) -/
opaque attestSlh : Nat → List (BitVec 8)

/-- Free value: the hash of the device public keys in a report (R405). (DESIGN CHOICE, assumption 5.) -/
opaque deviceId : BitVec 384

/-- Free value: bits 63:32 of a ring entry that a 32-bit result entered, by the place of the result in its chain and the
result itself (R221 gives an entry 64 bits and a result of .f32, .i32 or .n32 only 32). Nothing of a core's history has a
part in it, so replicas hold equal entries (R384). (DESIGN CHOICE, assumption 4.) -/
opaque ringHigh : Nat → BitVec 32 → BitVec 32

/-- Free value: whether an MM with KEEP set sees an element of A as the latch holds it, or as it is now (R196 allows either,
element by element), by the descriptor of A, the element's place, and its old and new value. Nothing of a core's number or history
has a part in it, so replicas see equal elements (R384). (DESIGN CHOICE, assumption 51.) -/
opaque latchSees : BitVec 128 → Nat → Nat → Nat → Bool

/-- Free value: the number of outputs of a router, 0 the IOD's and 1–4 the dies' (R357, R402 give no number).
(DESIGN CHOICE, assumption 7.) -/
opaque routerOutputs : Nat → Nat

/-- Free value: the number of a router's output towards a stop, and of its input from one (R357, R358 give no numbers): stop 0 is the
IOD's router, 1–4 the dies', 32 to 55 the UALink ports, 64 and up the clusters. (DESIGN CHOICE, assumption 28.) -/
opaque outputOf : Nat → Nat → BitVec 5
opaque inputOf : Nat → Nat → BitVec 5

/-- Free value: whether a UALink port lies on a minimal path to a device (R354, R359 leave the pod's links open).
(DESIGN CHOICE, assumption 28.) -/
opaque reaches : Nat → Nat → Bool

/-- Free value: a page-table entry that a walker reads in another device's memory, which this model does not hold, by the period of
sys.gtc and the physical address (R349, R350). (DESIGN CHOICE, assumption 43.) -/
opaque remoteEntry : Nat → Nat → BitVec 64

/-- Free value: a byte of another device's memory that the pool, a table or a task reads there, by the period of sys.gtc and
the physical address (R316, R319, R349). (DESIGN CHOICE, assumption 36.) -/
opaque remoteByte : Nat → Nat → BitVec 8

/-- Free value: whether a fetch returns a word as the instruction cache holds it, where that may differ from memory (R85 allows
either), by the number of groups that the CC has retired and the word's address. (DESIGN CHOICE, assumption 54.) -/
opaque fetchKept : Nat → Nat → Bool

/-- Free value: whether the L2 of a die evicts a dirty remote line in a period of sys.gtc (R163 gives no rule), by the
period and the line, with its die above the address. (DESIGN CHOICE, assumption 55.) -/
opaque evicts : Nat → Nat → Bool

/-- Free value: the channel pair of its HBM stack that an address lies in (R399 gives no map). (DESIGN CHOICE, assumption 33.) -/
opaque channelPair : Nat → Nat

/-- Free value: whether a packet that has left by a port and is not answered is still on the port's link, by the period of sys.gtc
and the packet's number (R400). (DESIGN CHOICE, assumption 33.) -/
opaque onLink : Nat → Nat → Bool

/-- The number of untimed copies in flight, and of timed places (R173, R174). -/
def copiesInFlight : Nat := 16
def timedPlaces : Nat := 64

/-- Version ways of an L2 set (R301). -/
def versionWays : Nat := 4

end Sys2Proof.Config
end

