-- ==== Sys2Proof/Syntax.lean ====
section
/-! DEFINITION. The instruction syntax: one constructor per row of the spec's table of operations and events.
A row with a word (R32, R49) has its ring bits `r` (bits 31:28) and the table's own fields, each a bit vector of
the field's width. A row without a word is an event of the machine (R21, R106, R123, R338, R345 and others); its
arguments say where it happens and what comes from outside the core. -/
namespace Sys2Proof

/-- A request for a credit: its sender as device × 512 + logical core, the sender's tenant, and the TAG of its packet (R256). -/
structure CreditRequest where
  src : Nat
  tenant : Nat
  tag : Nat
  deriving DecidableEq, Repr

/-- One instruction word of a sequencer, or one event of the machine: one constructor per row of the table.
(DESIGN CHOICE, assumption 11.) -/
inductive Instr where
  /-- R99: No operation; only its ring bits act. -/
  | nop (r : BitVec 4)
  /-- R100: Retires and then stops the core with a software-trap frame carrying the code. -/
  | trap (r : BitVec 4) (c : BitVec 10)
  /-- R101: Reads a system register into rd. -/
  | sysr (r : BitVec 4) (d : BitVec 5) (n : BitVec 10)
  /-- R102: Writes a system register field by field under its access codes. -/
  | sysw (r : BitVec 4) (n : BitVec 10) (b : BitVec 5)
  /-- R330: Fences all engines and, if a request stands or KEEP is set, saves the context. -/
  | ckpt (r : BitVec 4) (a : BitVec 5)
  /-- R46: Prefix that makes its group issue exactly at a schedule-frame count in Calm mode. -/
  | stamp (c : BitVec 22)
  /-- R47: Prefix that widens the primary immediate of the base word. -/
  | extI (h : BitVec 21)
  /-- R47: Prefix that gives order, scope and width to an AMO, RED or ordering word. -/
  | extM (p : BitVec 1) (s : BitVec 3) (o : BitVec 2) (w : BitVec 2)
  /-- R87: rd := ra + rb modulo 2^64. -/
  | add (r : BitVec 4) (d : BitVec 5) (a : BitVec 5) (b : BitVec 5)
  /-- R87: rd := ra - rb modulo 2^64. -/
  | sub (r : BitVec 4) (d : BitVec 5) (a : BitVec 5) (b : BitVec 5)
  /-- R87: rd := ra AND rb. -/
  | and (r : BitVec 4) (d : BitVec 5) (a : BitVec 5) (b : BitVec 5)
  /-- R87: rd := ra OR rb. -/
  | or (r : BitVec 4) (d : BitVec 5) (a : BitVec 5) (b : BitVec 5)
  /-- R87: rd := ra XOR rb. -/
  | xor (r : BitVec 4) (d : BitVec 5) (a : BitVec 5) (b : BitVec 5)
  /-- R87: rd := ra AND NOT rb. -/
  | andn (r : BitVec 4) (d : BitVec 5) (a : BitVec 5) (b : BitVec 5)
  /-- R87: rd := signed minimum of ra and rb. -/
  | minI64 (r : BitVec 4) (d : BitVec 5) (a : BitVec 5) (b : BitVec 5)
  /-- R87: rd := signed maximum of ra and rb. -/
  | maxI64 (r : BitVec 4) (d : BitVec 5) (a : BitVec 5) (b : BitVec 5)
  /-- R87: rd := unsigned minimum of ra and rb. -/
  | minN64 (r : BitVec 4) (d : BitVec 5) (a : BitVec 5) (b : BitVec 5)
  /-- R87: rd := unsigned maximum of ra and rb. -/
  | maxN64 (r : BitVec 4) (d : BitVec 5) (a : BitVec 5) (b : BitVec 5)
  /-- R87: rd := sign-extended low 32 bits of ra + rb. -/
  | addI32 (r : BitVec 4) (d : BitVec 5) (a : BitVec 5) (b : BitVec 5)
  /-- R87: rd := sign-extended low 32 bits of ra - rb. -/
  | subI32 (r : BitVec 4) (d : BitVec 5) (a : BitVec 5) (b : BitVec 5)
  /-- R87: rd := count of leading zero bits of ra. -/
  | clz (r : BitVec 4) (d : BitVec 5) (a : BitVec 5)
  /-- R87: rd := count of trailing zero bits of ra. -/
  | ctz (r : BitVec 4) (d : BitVec 5) (a : BitVec 5)
  /-- R87: rd := count of one bits of ra. -/
  | popc (r : BitVec 4) (d : BitVec 5) (a : BitVec 5)
  /-- R87: rd := saturating signed sum of ra and rb. -/
  | addsI64 (r : BitVec 4) (d : BitVec 5) (a : BitVec 5) (b : BitVec 5)
  /-- R88: rd := ra + sign-extended immediate. -/
  | addi (r : BitVec 4) (d : BitVec 5) (a : BitVec 5) (i : BitVec 9)
  /-- R88: rd := ra AND sign-extended immediate. -/
  | andi (r : BitVec 4) (d : BitVec 5) (a : BitVec 5) (i : BitVec 9)
  /-- R88: rd := ra OR sign-extended immediate. -/
  | ori (r : BitVec 4) (d : BitVec 5) (a : BitVec 5) (i : BitVec 9)
  /-- R88: rd := ra XOR sign-extended immediate. -/
  | xori (r : BitVec 4) (d : BitVec 5) (a : BitVec 5) (i : BitVec 9)
  /-- R88: rd := 1 if ra is signed-less than the immediate, else 0. -/
  | slti (r : BitVec 4) (d : BitVec 5) (a : BitVec 5) (i : BitVec 9)
  /-- R88: rd := 1 if ra is unsigned-less than the immediate, else 0. -/
  | sltiu (r : BitVec 4) (d : BitVec 5) (a : BitVec 5) (i : BitVec 9)
  /-- R89: Logical left shift by rb bits 5:0. -/
  | sll (r : BitVec 4) (d : BitVec 5) (a : BitVec 5) (b : BitVec 5)
  /-- R89: Logical right shift by rb bits 5:0. -/
  | srl (r : BitVec 4) (d : BitVec 5) (a : BitVec 5) (b : BitVec 5)
  /-- R89: Arithmetic right shift by rb bits 5:0. -/
  | sra (r : BitVec 4) (d : BitVec 5) (a : BitVec 5) (b : BitVec 5)
  /-- R89: Rotate right by rb bits 5:0. -/
  | ror (r : BitVec 4) (d : BitVec 5) (a : BitVec 5) (b : BitVec 5)
  /-- R89: Logical left shift by an immediate amount. -/
  | slli (r : BitVec 4) (d : BitVec 5) (a : BitVec 5) (n : BitVec 5) (h : BitVec 1)
  /-- R89: Logical right shift by an immediate amount. -/
  | srli (r : BitVec 4) (d : BitVec 5) (a : BitVec 5) (n : BitVec 5) (h : BitVec 1)
  /-- R89: Arithmetic right shift by an immediate amount. -/
  | srai (r : BitVec 4) (d : BitVec 5) (a : BitVec 5) (n : BitVec 5) (h : BitVec 1)
  /-- R89: Rotate right by an immediate amount. -/
  | rori (r : BitVec 4) (d : BitVec 5) (a : BitVec 5) (n : BitVec 5) (h : BitVec 1)
  /-- R90: rd := low 64 bits of ra × rb. -/
  | mul (r : BitVec 4) (d : BitVec 5) (a : BitVec 5) (b : BitVec 5)
  /-- R90: rd := high 64 bits of the signed product. -/
  | mulhI64 (r : BitVec 4) (d : BitVec 5) (a : BitVec 5) (b : BitVec 5)
  /-- R90: rd := high 64 bits of the unsigned product. -/
  | mulhN64 (r : BitVec 4) (d : BitVec 5) (a : BitVec 5) (b : BitVec 5)
  /-- R90: Signed division, truncated, with defined divide-by-zero and overflow results. -/
  | divI64 (r : BitVec 4) (d : BitVec 5) (a : BitVec 5) (b : BitVec 5)
  /-- R90: Unsigned division with a defined divide-by-zero result. -/
  | divN64 (r : BitVec 4) (d : BitVec 5) (a : BitVec 5) (b : BitVec 5)
  /-- R90: Signed remainder with the sign of ra. -/
  | remI64 (r : BitVec 4) (d : BitVec 5) (a : BitVec 5) (b : BitVec 5)
  /-- R90: Unsigned remainder. -/
  | remN64 (r : BitVec 4) (d : BitVec 5) (a : BitVec 5) (b : BitVec 5)
  /-- R93: gd := ra = rb. -/
  | cmpEq (r : BitVec 4) (d : BitVec 5) (a : BitVec 5) (b : BitVec 5)
  /-- R93: gd := ra ≠ rb. -/
  | cmpNe (r : BitVec 4) (d : BitVec 5) (a : BitVec 5) (b : BitVec 5)
  /-- R93: gd := signed ra < rb. -/
  | cmpLtI64 (r : BitVec 4) (d : BitVec 5) (a : BitVec 5) (b : BitVec 5)
  /-- R93: gd := signed ra ≥ rb. -/
  | cmpGeI64 (r : BitVec 4) (d : BitVec 5) (a : BitVec 5) (b : BitVec 5)
  /-- R93: gd := unsigned ra < rb. -/
  | cmpLtN64 (r : BitVec 4) (d : BitVec 5) (a : BitVec 5) (b : BitVec 5)
  /-- R93: gd := unsigned ra ≥ rb. -/
  | cmpGeN64 (r : BitVec 4) (d : BitVec 5) (a : BitVec 5) (b : BitVec 5)
  /-- R93: gd := (ra AND rb) ≠ 0. -/
  | tst (r : BitVec 4) (d : BitVec 5) (a : BitVec 5) (b : BitVec 5)
  /-- R94: gd := ga AND gb. -/
  | gand (r : BitVec 4) (d : BitVec 5) (a : BitVec 5) (b : BitVec 5)
  /-- R94: gd := ga OR gb. -/
  | gor (r : BitVec 4) (d : BitVec 5) (a : BitVec 5) (b : BitVec 5)
  /-- R94: gd := ga XOR gb. -/
  | gxor (r : BitVec 4) (d : BitVec 5) (a : BitVec 5) (b : BitVec 5)
  /-- R94: gd := ga AND NOT gb. -/
  | gandn (r : BitVec 4) (d : BitVec 5) (a : BitVec 5) (b : BitVec 5)
  /-- R94: gd := ga. -/
  | gmov (r : BitVec 4) (d : BitVec 5) (a : BitVec 5)
  /-- R94: gd := NOT ga. -/
  | gnot (r : BitVec 4) (d : BitVec 5) (a : BitVec 5)
  /-- R94: gd := 1. -/
  | gset (r : BitVec 4) (d : BitVec 5)
  /-- R94: gd := 0. -/
  | gclr (r : BitVec 4) (d : BitVec 5)
  /-- R95: Guarded register move rd := ra. -/
  | sel (r : BitVec 4) (g : BitVec 3) (n : BitVec 1) (d : BitVec 5) (a : BitVec 5)
  /-- R91: rd := sign-extended 16-bit immediate. -/
  | movi (r : BitVec 4) (d : BitVec 5) (i : BitVec 16)
  /-- R91: rd := (rd << 16) | immediate. -/
  | lih (r : BitVec 4) (d : BitVec 5) (i : BitVec 16)
  /-- R96: Guarded PC-relative branch. -/
  | br (r : BitVec 4) (g : BitVec 3) (n : BitVec 1) (o : BitVec 18)
  /-- R97: Jump and link to a PC-relative target. -/
  | jal (r : BitVec 4) (d : BitVec 5) (i : BitVec 17)
  /-- R98: Jump to the address in ra and link into rd. -/
  | jr (r : BitVec 4) (d : BitVec 5) (a : BitVec 5)
  /-- R92: rd := rd + ra × 1 + immediate. -/
  | lea1 (r : BitVec 4) (d : BitVec 5) (a : BitVec 5) (i : BitVec 9)
  /-- R92: rd := rd + ra × 2 + immediate. -/
  | lea2 (r : BitVec 4) (d : BitVec 5) (a : BitVec 5) (i : BitVec 9)
  /-- R92: rd := rd + ra × 4 + immediate. -/
  | lea4 (r : BitVec 4) (d : BitVec 5) (a : BitVec 5) (i : BitVec 9)
  /-- R92: rd := rd + ra × 8 + immediate. -/
  | lea8 (r : BitVec 4) (d : BitVec 5) (a : BitVec 5) (i : BitVec 9)
  /-- R140: Loads a sign-extended byte from memory. -/
  | ldI8 (r : BitVec 4) (d : BitVec 5) (a : BitVec 5) (i : BitVec 9)
  /-- R140: Loads a zero-extended byte from memory. -/
  | ldN8 (r : BitVec 4) (d : BitVec 5) (a : BitVec 5) (i : BitVec 9)
  /-- R140: Loads a sign-extended half from memory. -/
  | ldI16 (r : BitVec 4) (d : BitVec 5) (a : BitVec 5) (i : BitVec 9)
  /-- R140: Loads a zero-extended half from memory. -/
  | ldN16 (r : BitVec 4) (d : BitVec 5) (a : BitVec 5) (i : BitVec 9)
  /-- R140: Loads a sign-extended word from memory. -/
  | ldI32 (r : BitVec 4) (d : BitVec 5) (a : BitVec 5) (i : BitVec 9)
  /-- R140: Loads a zero-extended word from memory. -/
  | ldN32 (r : BitVec 4) (d : BitVec 5) (a : BitVec 5) (i : BitVec 9)
  /-- R140: Loads a dword from memory. -/
  | ldN64 (r : BitVec 4) (d : BitVec 5) (a : BitVec 5) (i : BitVec 9)
  /-- R141: Guarded byte store to memory. -/
  | stN8 (r : BitVec 4) (g : BitVec 3) (n : BitVec 1) (o : BitVec 5) (a : BitVec 5) (b : BitVec 5)
  /-- R141: Guarded half store to memory. -/
  | stN16 (r : BitVec 4) (g : BitVec 3) (n : BitVec 1) (o : BitVec 5) (a : BitVec 5) (b : BitVec 5)
  /-- R141: Guarded word store to memory. -/
  | stN32 (r : BitVec 4) (g : BitVec 3) (n : BitVec 1) (o : BitVec 5) (a : BitVec 5) (b : BitVec 5)
  /-- R141: Guarded dword store to memory. -/
  | stN64 (r : BitVec 4) (g : BitVec 3) (n : BitVec 1) (o : BitVec 5) (a : BitVec 5) (b : BitVec 5)
  /-- R143: Atomic swap at the location's home, returning the old value. -/
  | amoSwap (r : BitVec 4) (g : BitVec 3) (n : BitVec 1) (d : BitVec 5) (a : BitVec 5) (b : BitVec 5)
  /-- R143: Atomic add returning the old value. -/
  | amoAdd (r : BitVec 4) (g : BitVec 3) (n : BitVec 1) (d : BitVec 5) (a : BitVec 5) (b : BitVec 5)
  /-- R143: Atomic AND returning the old value. -/
  | amoAnd (r : BitVec 4) (g : BitVec 3) (n : BitVec 1) (d : BitVec 5) (a : BitVec 5) (b : BitVec 5)
  /-- R143: Atomic OR returning the old value. -/
  | amoOr (r : BitVec 4) (g : BitVec 3) (n : BitVec 1) (d : BitVec 5) (a : BitVec 5) (b : BitVec 5)
  /-- R143: Atomic XOR returning the old value. -/
  | amoXor (r : BitVec 4) (g : BitVec 3) (n : BitVec 1) (d : BitVec 5) (a : BitVec 5) (b : BitVec 5)
  /-- R143: Atomic signed maximum returning the old value. -/
  | amoMax (r : BitVec 4) (g : BitVec 3) (n : BitVec 1) (d : BitVec 5) (a : BitVec 5) (b : BitVec 5)
  /-- R143: Atomic signed minimum returning the old value. -/
  | amoMin (r : BitVec 4) (g : BitVec 3) (n : BitVec 1) (d : BitVec 5) (a : BitVec 5) (b : BitVec 5)
  /-- R143: Atomic compare-and-swap returning the old value. -/
  | amoCas (r : BitVec 4) (g : BitVec 3) (n : BitVec 1) (d : BitVec 5) (a : BitVec 5) (b : BitVec 5)
  /-- R144: Non-returning atomic add at the home. -/
  | redAdd (r : BitVec 4) (g : BitVec 3) (n : BitVec 1) (a : BitVec 5) (b : BitVec 5)
  /-- R144: Non-returning atomic AND. -/
  | redAnd (r : BitVec 4) (g : BitVec 3) (n : BitVec 1) (a : BitVec 5) (b : BitVec 5)
  /-- R144: Non-returning atomic OR. -/
  | redOr (r : BitVec 4) (g : BitVec 3) (n : BitVec 1) (a : BitVec 5) (b : BitVec 5)
  /-- R144: Non-returning atomic XOR. -/
  | redXor (r : BitVec 4) (g : BitVec 3) (n : BitVec 1) (a : BitVec 5) (b : BitVec 5)
  /-- R144: Non-returning atomic signed maximum. -/
  | redMax (r : BitVec 4) (g : BitVec 3) (n : BitVec 1) (a : BitVec 5) (b : BitVec 5)
  /-- R144: Non-returning atomic signed minimum. -/
  | redMin (r : BitVec 4) (g : BitVec 3) (n : BitVec 1) (a : BitVec 5) (b : BitVec 5)
  /-- R144: Non-returning binary32 atomic add, rounded once under RNE. -/
  | redFaddF32 (r : BitVec 4) (g : BitVec 3) (n : BitVec 1) (a : BitVec 5) (b : BitVec 5)
  /-- R144: Non-returning binary64 atomic add, rounded once under RNE. -/
  | redFaddF64 (r : BitVec 4) (g : BitVec 3) (n : BitVec 1) (a : BitVec 5) (b : BitVec 5)
  /-- R155: Orders all earlier accesses before later ones at the named scope. -/
  | fence (r : BitVec 4) (s : BitVec 3)
  /-- R156: Load that acquires at its scope. -/
  | ldAcq (r : BitVec 4) (d : BitVec 5) (a : BitVec 5) (s : BitVec 3)
  /-- R157: Guarded store that releases at its scope. -/
  | stRel (r : BitVec 4) (g : BitVec 3) (n : BitVec 1) (s : BitVec 3) (a : BitVec 5) (b : BitVec 5)
  /-- R156: Acquiring load that promotes the other party's release to its scope. -/
  | ldAcqPromote (r : BitVec 4) (d : BitVec 5) (a : BitVec 5) (s : BitVec 3)
  /-- R158: Atomic swap with promotion. -/
  | amoSwapPromote (r : BitVec 4) (g : BitVec 3) (n : BitVec 1) (d : BitVec 5) (a : BitVec 5) (b : BitVec 5)
  /-- R158: Atomic add with promotion. -/
  | amoAddPromote (r : BitVec 4) (g : BitVec 3) (n : BitVec 1) (d : BitVec 5) (a : BitVec 5) (b : BitVec 5)
  /-- R158: Atomic compare-and-swap with promotion. -/
  | amoCasPromote (r : BitVec 4) (g : BitVec 3) (n : BitVec 1) (d : BitVec 5) (a : BitVec 5) (b : BitVec 5)
  /-- R169: Initialises a transaction barrier's reloads and counts. -/
  | tbarInit (r : BitVec 4) (a : BitVec 5) (b : BitVec 5)
  /-- R169: Applies arrivals to a barrier and returns the old phase. -/
  | tbarArrive (r : BitVec 4) (d : BitVec 5) (a : BitVec 5) (b : BitVec 5)
  /-- R169: Posts expected sectors on a barrier and returns the old phase. -/
  | tbarExpect (r : BitVec 4) (d : BitVec 5) (a : BitVec 5) (b : BitVec 5)
  /-- R169: Waits until the barrier leaves the awaited phase, then acquires. -/
  | tbarWait (r : BitVec 4) (a : BitVec 5) (b : BitVec 5)
  /-- R169: Writes whether the barrier has left the awaited phase. -/
  | tbarTest (r : BitVec 4) (d : BitVec 5) (a : BitVec 5) (b : BitVec 5)
  /-- R142: Loads a byte from a local buffer. -/
  | bldN8 (r : BitVec 4) (d : BitVec 5) (a : BitVec 5) (i : BitVec 9)
  /-- R142: Loads a half from a local buffer. -/
  | bldN16 (r : BitVec 4) (d : BitVec 5) (a : BitVec 5) (i : BitVec 9)
  /-- R142: Loads a word from a local buffer. -/
  | bldN32 (r : BitVec 4) (d : BitVec 5) (a : BitVec 5) (i : BitVec 9)
  /-- R142: Loads a dword from a local buffer. -/
  | bldN64 (r : BitVec 4) (d : BitVec 5) (a : BitVec 5) (i : BitVec 9)
  /-- R142: Stores a byte to a buffer or window. -/
  | bstN8 (r : BitVec 4) (d : BitVec 5) (a : BitVec 5) (i : BitVec 9)
  /-- R142: Stores a half to a buffer or window. -/
  | bstN16 (r : BitVec 4) (d : BitVec 5) (a : BitVec 5) (i : BitVec 9)
  /-- R142: Stores a word to a buffer or window. -/
  | bstN32 (r : BitVec 4) (d : BitVec 5) (a : BitVec 5) (i : BitVec 9)
  /-- R142: Stores a dword to a buffer or window. -/
  | bstN64 (r : BitVec 4) (d : BitVec 5) (a : BitVec 5) (i : BitVec 9)
  /-- R105: Pushes a command into an engine's command queue. -/
  | engCmd (r : BitVec 4) (e : BitVec 2) (a : BitVec 5) (b : BitVec 5) (n : BitVec 9)
  /-- R105: Pushes a relocatable matrix command into the ME queue. -/
  | engCmdReloc (r : BitVec 4) (a : BitVec 5) (b : BitVec 5) (n : BitVec 9)
  /-- R121: Stalls the CC until the masked engines are empty, idle and complete. -/
  | engFence (r : BitVec 4) (m : BitVec 5)
  /-- R122: Writes the busy flags of the four engines. -/
  | engBusy (r : BitVec 4) (d : BitVec 5)
  /-- R118: Pushes a branch outcome into an engine's BQ. -/
  | bqEnq (r : BitVec 4) (e : BitVec 5) (a : BitVec 5)
  /-- R120: Pops the oldest reply-queue entry into two registers. -/
  | rqDeq (r : BitVec 4) (d : BitVec 5) (s : BitVec 5)
  /-- R119: Pushes a format word into FMTQ. -/
  | fmtEnq (r : BitVec 4) (a : BitVec 5)
  /-- R107: Ends the running routine and makes the engine idle. -/
  | endr (r : BitVec 4)
  /-- R109: Reads an item of the engine's command and loop state. -/
  | arg (r : BitVec 4) (d : BitVec 5) (i : BitVec 4)
  /-- R109: Reads and writes a loop item of the engine. -/
  | argWrite (r : BitVec 4) (d : BitVec 5) (i : BitVec 4) (b : BitVec 5)
  /-- R120: Pushes a value with the engine's source code into RQ. -/
  | rqEnq (r : BitVec 4) (a : BitVec 5)
  /-- R118: Pops a branch outcome and branches when it is 1. -/
  | bqBr (r : BitVec 4) (o : BitVec 15)
  /-- R118: Pops a branch outcome and branches when it is 0. -/
  | bqBrn (r : BitVec 4) (o : BitVec 15)
  /-- R111: Enters a hardware loop with an immediate trip count. -/
  | loopImm (r : BitVec 4) (n : BitVec 2) (c : BitVec 12) (l : BitVec 7)
  /-- R111: Enters a hardware loop with a register trip count. -/
  | loopReg (r : BitVec 4) (n : BitVec 2) (c : BitVec 5) (l : BitVec 7)
  /-- R124: Waits until the outstanding-operation counters fall to the given limits. -/
  | waitc (r : BitVec 4) (a : BitVec 4) (b : BitVec 4) (c : BitVec 4) (d : BitVec 4)
  /-- R326: Places a task record into a die's ready pool. -/
  | taskEnq (r : BitVec 4) (a : BitVec 5) (b : BitVec 5)
  /-- R327: Fences, releases successors and frees the core at the end of a task. -/
  | taskDone (r : BitVec 4) (a : BitVec 5)
  /-- R328: Saves like CKPT when an eligible equal or higher-priority task waits. -/
  | taskYield (r : BitVec 4) (a : BitVec 5)
  /-- R310: Opens a child hypothesis of the given parent. -/
  | hypOpen (r : BitVec 4) (d : BitVec 5) (a : BitVec 5)
  /-- R311: Sets the CC's current hypothesis. -/
  | hypEnter (r : BitVec 4) (a : BitVec 5)
  /-- R312: Confirms a hypothesis and merges its versions into its parent. -/
  | hypOk (r : BitVec 4) (d : BitVec 5) (a : BitVec 5)
  /-- R313: Refutes a hypothesis and its subtree. -/
  | hypNo (r : BitVec 4) (d : BitVec 5) (a : BitVec 5)
  /-- R314: Reads a hypothesis table entry. -/
  | hypQuery (r : BitVec 4) (d : BitVec 5) (a : BitVec 5)
  /-- R182: Starts an untimed copy from a descriptor snapshot. -/
  | cpy (r : BitVec 4) (c : BitVec 4)
  /-- R180: Offers a timed copy to the time-sorted buffer and writes its status. -/
  | cpyT (r : BitVec 4) (c : BitVec 4) (d : BitVec 4) (t : BitVec 4)
  /-- R181: Writes one field of a copy descriptor. -/
  | cdSet (r : BitVec 4) (c : BitVec 4) (s : BitVec 4) (f : BitVec 6)
  /-- R183: Starts an untimed gather copy through an index vector. -/
  | gath (r : BitVec 4) (c : BitVec 4)
  /-- R183: Offers a timed gather copy. -/
  | gathT (r : BitVec 4) (c : BitVec 4) (d : BitVec 4) (t : BitVec 4)
  /-- R183: Starts an untimed scatter copy through an index vector. -/
  | scat (r : BitVec 4) (c : BitVec 4)
  /-- R183: Offers a timed scatter copy. -/
  | scatT (r : BitVec 4) (c : BitVec 4) (d : BitVec 4) (t : BitVec 4)
  /-- R184: Starts an untimed multicast fill into cores of the cluster. -/
  | mcast (r : BitVec 4) (c : BitVec 4)
  /-- R184: Offers a timed multicast fill. -/
  | mcastT (r : BitVec 4) (c : BitVec 4) (d : BitVec 4) (t : BitVec 4)
  /-- R185: Starts an untimed scale load into SCLQ. -/
  | sclLd (r : BitVec 4) (c : BitVec 4)
  /-- R185: Offers a timed scale load. -/
  | sclLdT (r : BitVec 4) (c : BitVec 4) (d : BitVec 4) (t : BitVec 4)
  /-- R186: Asks the home L2 to prefetch source rows. -/
  | pref (r : BitVec 4) (c : BitVec 4)
  /-- R202: Tile dot-product command continuing or starting the tile's group chains. -/
  | mm (r : BitVec 4) (c : BitVec 4) (a : BitVec 4) (b : BitVec 4) (k : BitVec 1) (z : BitVec 1) (y : BitVec 1) (x : BitVec 1)
  /-- R202: Tile dot-product with A rows gathered through an index vector. -/
  | mmG (r : BitVec 4) (c : BitVec 4) (a : BitVec 4) (b : BitVec 4) (i : BitVec 3) (z : BitVec 1) (y : BitVec 1)
  /-- R201: Zeroes a tile and begins a group sequence. -/
  | accZero (r : BitVec 4) (c : BitVec 4)
  /-- R204: Finishes a tile's chains and writes the output to AB. -/
  | accRd (r : BitVec 4) (d : BitVec 4) (c : BitVec 4)
  /-- R203: Loads a tile's even plane from a buffer and begins a sequence. -/
  | accWr (r : BitVec 4) (c : BitVec 4) (s : BitVec 4)
  /-- R200: Writes a tile descriptor. -/
  | tdSet (r : BitVec 4) (t : BitVec 4) (a : BitVec 4) (b : BitVec 4)
  /-- R215: Element-wise add over regions. -/
  | vadd (r : BitVec 4) (d : BitVec 4) (a : BitVec 4) (b : BitVec 4) (x : BitVec 1) (y : BitVec 1) (z : BitVec 1) (t : BitVec 3)
  /-- R215: Element-wise subtract. -/
  | vsub (r : BitVec 4) (d : BitVec 4) (a : BitVec 4) (b : BitVec 4) (x : BitVec 1) (y : BitVec 1) (z : BitVec 1) (t : BitVec 3)
  /-- R215: Element-wise multiply. -/
  | vmul (r : BitVec 4) (d : BitVec 4) (a : BitVec 4) (b : BitVec 4) (x : BitVec 1) (y : BitVec 1) (z : BitVec 1) (t : BitVec 3)
  /-- R215: Element-wise divide. -/
  | vdiv (r : BitVec 4) (d : BitVec 4) (a : BitVec 4) (b : BitVec 4) (x : BitVec 1) (y : BitVec 1) (z : BitVec 1) (t : BitVec 3)
  /-- R215: Element-wise minimum. -/
  | vmin (r : BitVec 4) (d : BitVec 4) (a : BitVec 4) (b : BitVec 4) (x : BitVec 1) (y : BitVec 1) (z : BitVec 1) (t : BitVec 3)
  /-- R215: Element-wise maximum. -/
  | vmax (r : BitVec 4) (d : BitVec 4) (a : BitVec 4) (b : BitVec 4) (x : BitVec 1) (y : BitVec 1) (z : BitVec 1) (t : BitVec 3)
  /-- R215: Element-wise integer AND. -/
  | vand (r : BitVec 4) (d : BitVec 4) (a : BitVec 4) (b : BitVec 4) (x : BitVec 1) (y : BitVec 1) (z : BitVec 1) (t : BitVec 3)
  /-- R215: Element-wise integer OR. -/
  | vor (r : BitVec 4) (d : BitVec 4) (a : BitVec 4) (b : BitVec 4) (x : BitVec 1) (y : BitVec 1) (z : BitVec 1) (t : BitVec 3)
  /-- R215: Element-wise integer XOR. -/
  | vxor (r : BitVec 4) (d : BitVec 4) (a : BitVec 4) (b : BitVec 4) (x : BitVec 1) (y : BitVec 1) (z : BitVec 1) (t : BitVec 3)
  /-- R215: Element-wise integer left shift. -/
  | vshl (r : BitVec 4) (d : BitVec 4) (a : BitVec 4) (b : BitVec 4) (x : BitVec 1) (y : BitVec 1) (z : BitVec 1) (t : BitVec 3)
  /-- R215: Element-wise integer right shift. -/
  | vshr (r : BitVec 4) (d : BitVec 4) (a : BitVec 4) (b : BitVec 4) (x : BitVec 1) (y : BitVec 1) (z : BitVec 1) (t : BitVec 3)
  /-- R216: Element-wise fused multiply-add into the destination. -/
  | vfma (r : BitVec 4) (d : BitVec 4) (a : BitVec 4) (b : BitVec 4) (x : BitVec 1) (y : BitVec 1) (t : BitVec 3)
  /-- R216: Element-wise fused multiply-subtract. -/
  | vfms (r : BitVec 4) (d : BitVec 4) (a : BitVec 4) (b : BitVec 4) (x : BitVec 1) (y : BitVec 1) (t : BitVec 3)
  /-- R216: Element-wise negated fused multiply-add. -/
  | vfnma (r : BitVec 4) (d : BitVec 4) (a : BitVec 4) (b : BitVec 4) (x : BitVec 1) (y : BitVec 1) (t : BitVec 3)
  /-- R216: Element-wise select by the old destination element. -/
  | vsel (r : BitVec 4) (d : BitVec 4) (a : BitVec 4) (b : BitVec 4) (x : BitVec 1) (y : BitVec 1) (t : BitVec 3)
  /-- R216: Element-wise clamp of the old destination element. -/
  | vclamp (r : BitVec 4) (d : BitVec 4) (a : BitVec 4) (b : BitVec 4) (x : BitVec 1) (y : BitVec 1) (t : BitVec 3)
  /-- R217: Element-wise equality compare. -/
  | vcmpEq (r : BitVec 4) (d : BitVec 4) (a : BitVec 4) (b : BitVec 4) (x : BitVec 1) (y : BitVec 1) (z : BitVec 1) (t : BitVec 3)
  /-- R217: Element-wise less-than compare. -/
  | vcmpLt (r : BitVec 4) (d : BitVec 4) (a : BitVec 4) (b : BitVec 4) (x : BitVec 1) (y : BitVec 1) (z : BitVec 1) (t : BitVec 3)
  /-- R217: Element-wise less-or-equal compare. -/
  | vcmpLe (r : BitVec 4) (d : BitVec 4) (a : BitVec 4) (b : BitVec 4) (x : BitVec 1) (y : BitVec 1) (z : BitVec 1) (t : BitVec 3)
  /-- R217: Element-wise single-rounding conversion into the destination format. -/
  | vcvt (r : BitVec 4) (d : BitVec 4) (a : BitVec 4) (x : BitVec 1)
  /-- R217: Element-wise integer NOT. -/
  | vnot (r : BitVec 4) (d : BitVec 4) (a : BitVec 4) (x : BitVec 1) (z : BitVec 1) (t : BitVec 3)
  /-- R217: Element-wise absolute value. -/
  | vabs (r : BitVec 4) (d : BitVec 4) (a : BitVec 4) (x : BitVec 1) (z : BitVec 1) (t : BitVec 3)
  /-- R217: Element-wise negation. -/
  | vneg (r : BitVec 4) (d : BitVec 4) (a : BitVec 4) (x : BitVec 1) (z : BitVec 1) (t : BitVec 3)
  /-- R217: Element-wise move through the computation type. -/
  | vmov (r : BitVec 4) (d : BitVec 4) (a : BitVec 4) (x : BitVec 1) (z : BitVec 1) (t : BitVec 3)
  /-- R218: Correctly rounded 2^a with delayed writes. -/
  | vexp2 (r : BitVec 4) (d : BitVec 4) (a : BitVec 4) (x : BitVec 1) (z : BitVec 1)
  /-- R218: Correctly rounded log2 a with delayed writes. -/
  | vlog2 (r : BitVec 4) (d : BitVec 4) (a : BitVec 4) (x : BitVec 1) (z : BitVec 1)
  /-- R218: Correctly rounded reciprocal with delayed writes. -/
  | vrcp (r : BitVec 4) (d : BitVec 4) (a : BitVec 4) (x : BitVec 1) (z : BitVec 1)
  /-- R218: Correctly rounded reciprocal square root with delayed writes. -/
  | vrsq (r : BitVec 4) (d : BitVec 4) (a : BitVec 4) (x : BitVec 1) (z : BitVec 1)
  /-- R218: Correctly rounded square root with delayed writes. -/
  | vsqrt (r : BitVec 4) (d : BitVec 4) (a : BitVec 4) (x : BitVec 1) (z : BitVec 1)
  /-- R219: Correctly rounded sine with exact reduction below 2^20. -/
  | vsin (r : BitVec 4) (d : BitVec 4) (a : BitVec 4) (x : BitVec 1) (z : BitVec 1)
  /-- R219: Correctly rounded cosine with exact reduction below 2^20. -/
  | vcos (r : BitVec 4) (d : BitVec 4) (a : BitVec 4) (x : BitVec 1) (z : BitVec 1)
  /-- R218: Correctly rounded tanh with delayed writes. -/
  | vtanh (r : BitVec 4) (d : BitVec 4) (a : BitVec 4) (x : BitVec 1) (z : BitVec 1)
  /-- R220: Fixed-tree sum reduction of a region. -/
  | vrsum (r : BitVec 4) (d : BitVec 4) (a : BitVec 4) (t : BitVec 3)
  /-- R220: Fixed-tree maximum reduction. -/
  | vrmax (r : BitVec 4) (d : BitVec 4) (a : BitVec 4) (t : BitVec 3)
  /-- R220: Fixed-tree minimum reduction. -/
  | vrmin (r : BitVec 4) (d : BitVec 4) (a : BitVec 4) (t : BitVec 3)
  /-- R220: Fixed-tree sum of squares. -/
  | vrsumsq (r : BitVec 4) (d : BitVec 4) (a : BitVec 4) (t : BitVec 3)
  /-- R220: Fixed-tree argmax reduction. -/
  | vrargmax (r : BitVec 4) (d : BitVec 4) (a : BitVec 4) (t : BitVec 3)
  /-- R222: Opens a fused chain of up to eight slots. -/
  | vchBegin (r : BitVec 4) (d : BitVec 4)
  /-- R222: Checks and runs the chain's slots element by element. -/
  | vchEnd (r : BitVec 4)
  /-- R224: Chain slot: appends an element and the ring to a deferral queue. -/
  | vdefer (r : BitVec 4) (q : BitVec 4) (k : BitVec 3) (p : BitVec 4)
  /-- R225: Begins a drain chain over queued entries of one path. -/
  | vdrain (r : BitVec 4) (q : BitVec 4) (p : BitVec 4)
  /-- R214: Writes a region descriptor. -/
  | rgnSet (r : BitVec 4) (d : BitVec 4) (a : BitVec 4) (b : BitVec 4)
  /-- R278: Fills a region with Sobol coordinates. -/
  | qrGen (r : BitVec 4) (d : BitVec 4) (a : BitVec 4) (b : BitVec 4)
  /-- R243: Allocates and zeroes a range of SRF slots. -/
  | srfAlloc (r : BitVec 4) (w : BitVec 4)
  /-- R243: Frees a range of SRF slots and their versions. -/
  | srfFree (r : BitVec 4) (w : BitVec 4)
  /-- R244: Moves state elements from AB into the SRF. -/
  | srfLd (r : BitVec 4) (s : BitVec 4) (x : BitVec 4)
  /-- R244: Moves state elements from the SRF into AB. -/
  | srfSt (r : BitVec 4) (x : BitVec 4) (s : BitVec 4)
  /-- R244: Zeroes state elements in the SRF. -/
  | srfZero (r : BitVec 4) (w : BitVec 4)
  /-- R242: Loads and checks an operator descriptor from AB. -/
  | opdLd (r : BitVec 4) (k : BitVec 4) (a : BitVec 4)
  /-- R246: Runs the whole scan tree over one chunk. -/
  | scan (r : BitVec 4) (x : BitVec 4) (k : BitVec 4)
  /-- R246: Runs the whole scan tree and writes the final tuple to the SRF. -/
  | scanSw (r : BitVec 4) (x : BitVec 4) (s : BitVec 4) (k : BitVec 4)
  /-- R247: Runs the up-sweep of one chunk and writes OUT. -/
  | scanRed (r : BitVec 4) (x : BitVec 4) (s : BitVec 4) (k : BitVec 4)
  /-- R248: Runs the down-sweep of one chunk using IN and OUT. -/
  | scanApply (r : BitVec 4) (x : BitVec 4) (s : BitVec 4) (k : BitVec 4)
  /-- R248: Down-sweep of the first chunk, without IN. -/
  | scanApplyFirst (r : BitVec 4) (x : BitVec 4) (s : BitVec 4) (k : BitVec 4)
  /-- R260: Joins the cluster Front operation for the cross-rank up-sweep. -/
  | nscanUp (r : BitVec 4) (s : BitVec 4) (g : BitVec 4) (k : BitVec 4)
  /-- R260: Joins the cluster Front operation for the cross-rank down-sweep. -/
  | nscanDown (r : BitVec 4) (s : BitVec 4) (g : BitVec 4) (k : BitVec 4)
  /-- R261: Sends the IN tuple to a peer over Jetstream. -/
  | carrySendIn (r : BitVec 4) (s : BitVec 4) (g : BitVec 4) (p : BitVec 4)
  /-- R261: Sends the OUT tuple to a peer over Jetstream. -/
  | carrySendOut (r : BitVec 4) (s : BitVec 4) (g : BitVec 4) (p : BitVec 4)
  /-- R261: Receives a carry into IN. -/
  | carryRecvIn (r : BitVec 4) (s : BitVec 4) (g : BitVec 4) (p : BitVec 4)
  /-- R261: Receives a carry into OUT. -/
  | carryRecvOut (r : BitVec 4) (s : BitVec 4) (g : BitVec 4) (p : BitVec 4)
  /-- R261: Receives a carry and combines it into IN as the earlier operand. -/
  | carryRecvCombIn (r : BitVec 4) (s : BitVec 4) (g : BitVec 4) (p : BitVec 4) (k : BitVec 4)
  /-- R261: Receives a carry and combines it into OUT as the earlier operand. -/
  | carryRecvCombOut (r : BitVec 4) (s : BitVec 4) (g : BitVec 4) (p : BitVec 4) (k : BitVec 4)
  /-- R262: Advances a MULADD recurrence serially on the Drizzle pipeline. -/
  | step (r : BitVec 4) (h : BitVec 4) (x : BitVec 4) (k : BitVec 4)
  /-- R262: Advances a MULADD recurrence and also writes each state to wY. -/
  | stepY (r : BitVec 4) (h : BitVec 4) (x : BitVec 4) (k : BitVec 4) (y : BitVec 3)
  /-- R241: Writes a state-window descriptor. -/
  | swSet (r : BitVec 4) (w : BitVec 4) (a : BitVec 4) (b : BitVec 4)
  /-- R275: Loads whole dimensions of the LDS direction table. -/
  | qrDirld (r : BitVec 4) (a : BitVec 5) (b : BitVec 5)
  /-- R276: Writes sys.qrseed. -/
  | qrSeed (r : BitVec 4) (a : BitVec 5)
  /-- R277: Returns one Sobol coordinate. -/
  | qrPt (r : BitVec 4) (d : BitVec 5) (a : BitVec 5) (b : BitVec 5)
  /-- R287: Reserves an RQ place and queues a draw on a sampling slot. -/
  | smpDraw (r : BitVec 4) (a : BitVec 5)
  /-- R287: Queues an acceptance check of a draft token. -/
  | smpCheck (r : BitVec 4) (a : BitVec 5) (b : BitVec 5)
  /-- R287: Queues a draw from the residual distribution. -/
  | smpResid (r : BitVec 4) (a : BitVec 5) (b : BitVec 5)
  /-- R291: Configures a sampling slot and arms its logit rows. -/
  | smpCfg (r : BitVec 4) (a : BitVec 5) (b : BitVec 5)
  /-- R292: Replaces a slot's stop set. -/
  | smpStop (r : BitVec 4) (a : BitVec 5) (b : BitVec 5)
  /-- R293: Appends a slot's latest result to the log ring. -/
  | logAppend (r : BitVec 4) (d : BitVec 5) (a : BitVec 5)
  /-- R382: Checks and loads a collective graph into a handle. -/
  | collLoad (r : BitVec 4) (a : BitVec 5) (b : BitVec 5)
  /-- R382: Starts a run of a loaded collective graph. -/
  | collRun (r : BitVec 4) (a : BitVec 5) (b : BitVec 5)
  /-- R382: Waits for a collective run to complete. -/
  | collWait (r : BitVec 4) (a : BitVec 5)
  /-- R382: Adds to a trigger counter of a running collective. -/
  | trigAdd (r : BitVec 4) (a : BitVec 5) (b : BitVec 5)
  /-- R370: Sends a chain-forwarded store to up to 16 peers. -/
  | stc (r : BitVec 4) (a : BitVec 5) (b : BitVec 5)
  /-- R371: Waits until the masked windows have no unacknowledged writes. -/
  | winDrain (r : BitVec 4) (a : BitVec 5)
  /-- R391: Folds the regions of a table into a CRC-64. -/
  | digest (r : BitVec 4) (d : BitVec 5) (a : BitVec 5) (b : BitVec 5)
  /-- R390: Starts the schedule frame at a given count. -/
  | frameBegin (r : BitVec 4) (a : BitVec 5)
  /-- R24: Device reset halts every core and sets all state to its reset value. -/
  | deviceReset
  /-- R403: The security processor runs its ROM and verifies and starts the boot images in order. -/
  | bootSequence (images : List ImageVerdict)
  /-- R404: An image presented for execution is checked against both signatures and the rollback counter. -/
  | imageVerify (v : ImageVerdict)
  /-- R355: Before first dispatch, a lagging sys.gtc steps forward once to the master value. -/
  | gtcBringupStep (master : BitVec 64)
  /-- R355: Alignment withholds an increment or makes it two to correct drift. -/
  | gtcDriftCorrection (leads : Bool)
  /-- R106: An idle engine takes the oldest command and starts its routine. -/
  | engineCommandTake (lnum : Nat) (u : Sqr)
  /-- R197: An idle sibling ME pulls the oldest relocatable command. -/
  | relocCommandPull (issuer : Nat)
  /-- R123: A load's value is written and the ld counter falls. -/
  | loadValueReturn (lnum k : Nat)
  /-- R117: A store, RED or BST is performed at .core scope, retires and st falls. -/
  | storePerformed (lnum k : Nat)
  /-- R173: A timed copy becomes due when sys.gtc reaches its TIME. -/
  | timedCopyDue (lnum : Nat)
  /-- R174: The copy engine performs one burst of a chosen copy. -/
  | copyBurst (lnum : Nat)
  /-- R185: The scale loader pushes one 64-byte group into SCLQ when room exists. -/
  | scaleGroupPush (lnum : Nat)
  /-- R194: A tile command commits its results and tl falls. -/
  | tileCommit (lnum : Nat)
  /-- R211: A pending special-function write lands in its buffer. -/
  | sfWriteLand (lnum : Nat)
  /-- R254: All ranks have issued NSCAN words and the Front operation forms and runs. -/
  | frontFormation (cluster : Nat)
  /-- R256: A destination reserves an inbox entry and grants a carry credit. -/
  | carryCreditGrant (q : CreditRequest)
  /-- R257: A carry packet lands in the destination inbox. -/
  | carryPacketDeliver (p : Packet)
  /-- R127: A sequencer's blocked count exceeds the stall limit and raises F.STALL. -/
  | stallLimitExpiry (lnum : Nat) (u : Sqr)
  /-- R387: A stamped group finds the frame count past or at its stamp unready and faults with F.STAMP. -/
  | stampOverrun (lnum : Nat) (u : Sqr)
  /-- R338: A fault stops all sequencers, settles accepted work, writes the frame and holds the core. -/
  | faultStop (lnum : Nat) (unit : FUnit) (code detail : Nat) (addr : BitVec 64)
  /-- R345: The IOD posts a fault record into the fault queue and interrupts the host cores. -/
  | faultRecordPost
  /-- R346: Fault response RESUME restarts a held core or marks a saved task handled. -/
  | frespResume (task : BitVec 64)
  /-- R346: Fault response FAIL fails the task and clears the core. -/
  | frespFail (task : BitVec 64)
  /-- R346: Fault response SAVE forces a Squall of the held context. -/
  | frespSave (task : BitVec 64)
  /-- R346: Fault response action 3 has no effect. -/
  | frespNoAction (task : BitVec 64)
  /-- R305: At the next CC boundary an orphaned core takes F.ORPHAN and resumes at the orphan vector or the handler. -/
  | orphanTrap (lnum : Nat)
  /-- R306: A draining identifier becomes free when its last reference disappears. -/
  | hypIdFree (h : Nat)
  /-- R283: An armed row completes and the filter computes its results. -/
  | logitRowComplete (lnum slot row : Nat)
  /-- R284: The filter's results for a row reach the sampling unit. -/
  | logitResultsDeliver (lnum slot row : Nat)
  /-- R287: The sampling unit performs a pending word, replies to TOKA, BARA and its RQ place. -/
  | smpWordPerform (lnum : Nat)
  /-- R321: The ready pool dispatches a task to a free core, loading its image and state. -/
  | taskDispatch (die : Nat)
  /-- R331: The pool or the region manager requests pre-emption of a core with a deadline. -/
  | preemptRequest (die : Nat) (victim : Option Nat)
  /-- R332: At the deadline a forced save stops the core and writes its full state. -/
  | squall (lnum : Nat)
  /-- R332: The last save write is performed, the task is saved and the core becomes free. -/
  | squallSaveComplete (lnum : Nat)
  /-- R401: Host write to the IOD enqueue register enqueues a task or posts F.QUEUE. -/
  | taskenq (w : BitVec 64) (tenant : Nat)
  /-- R345: The region manager advances FQHEAD, freeing fault-queue places. -/
  | fqheadWrite (v : BitVec 64)
  /-- R401: Write of the device number, which sets sys.coreid.DEV until first dispatch. -/
  | devidWrite (v : BitVec 64)
  /-- R401: Write to an IOD control register without behaviour of its own. -/
  | iodRegisterWrite (p : IodPlace) (v : BitVec 64)
  /-- R402: KEYPORT command that loads key-table entries. -/
  | keyLoad (w : BitVec 64)
  /-- R402: KEYPORT command that invalidates key-table entries. -/
  | keyInvalidate (w : BitVec 64)
  /-- R402: FABPORT command that loads a router's inactive slot-table bank. -/
  | fabLoadBank (w : BitVec 64)
  /-- R402: FABPORT command that schedules a bank swap at a sys.gtc value. -/
  | fabSwap (w : BitVec 64)
  /-- R402: XLTPORT command that invalidates a virtual range of a tenant. -/
  | xltRange (w : BitVec 64)
  /-- R402: XLTPORT command that invalidates every translation of a tenant. -/
  | xltTenant (w : BitVec 64)
  /-- R402: XLTPORT command that invalidates every translation. -/
  | xltAll (w : BitVec 64)
  /-- R353: An invalidation completes once caches, walks and accesses have drained. -/
  | xltInvalidationComplete
  /-- R356: Routers swap slot-table banks at the first frame start after the swap value. -/
  | slotBankSwap (router : Nat)
  /-- R358: In each slot an output sends a carry, circuit or best-effort packet. -/
  | fabricSlotSend (router output : Nat)
  /-- R359: A flow gap unfilled for 64 µs drops the waiting packets with F.REMOTE. -/
  | reorderGapTimeout (srcDev srcLnum : Nat)
  /-- R364: The receiving port checks an arriving request and performs or refuses it. -/
  | portRequestCheck (port : Nat) (p : Packet)
  /-- R362: A posted remote write is acknowledged, lowering OUT and st. -/
  | remoteWriteAck (id : Nat)
  /-- R362: A remote read or remote arrival response returns its data. -/
  | remoteReadResponse (id : Nat) (data : List Byte)
  /-- R365: A negative response raises F.REMOTE at the sending core. -/
  | remoteNegativeResponse (id cause peer : Nat)
  /-- R365: No response within 2 ms raises F.REMOTE with cause 7. -/
  | remoteResponseTimeout (id : Nat)
  /-- R370: An STC peer checks, performs its write and forwards or acknowledges. -/
  | stcPeerForward (port : Nat) (p : Packet)
  /-- R376: A queued collective record fires when its counter reaches its threshold. -/
  | collRecordFire (run : Nat)
  /-- R377: A fired record completes and increments its DONE counter. -/
  | collRecordComplete (run rec : Nat)
  /-- R378: A PUT packet arrives and is accepted or refused by generation. -/
  | collPutReceive (port : Nat) (p : PutPacket)
  /-- R378: A refused PUT is retried after 1 µs. -/
  | collPutRetry (run rec : Nat)
  /-- R380: A refusal lasting 2 ms aborts the run. -/
  | collRefusalTimeout (run rec : Nat)
  /-- R380: A member receives an abort and stops queuing records. -/
  | collAbortReceive (member : CollMember) (handle generation : Nat) (detail : BitVec 16)
  /-- R380: F.COLL is raised at the next CC boundary or posted for a finished task. -/
  | collFaultRaise (run : Nat)
  /-- R395: A HOT sensor makes the controller lower the cluster clock. -/
  | thermalThrottle (cluster : Nat) (s : Sensors)
  /-- R395: CRIT for 1 ms pre-empts every task of the cluster. -/
  | thermalCritical (cluster : Nat)
  /-- R395: A droop event stretches the domain's core clock. -/
  | droopStretch (cluster : Nat) (s : Sensors)
  /-- R397: The scrubber reads and corrects a protected word. -/
  | scrubPass (st : Store) (lnum addr : Nat) (found : EccFinding)
  /-- R398: A physical core is retired and its logical core is remapped to slot 8. -/
  | coreRetirement (lnum : Nat)
  /-- R399: A failing channel pair starts copying to a spare. -/
  | hbmChannelSpare (stack pair : Nat)
  /-- R399: The spare copy completes and accesses move to the spare. -/
  | hbmSpareCopyDone (stack pair : Nat)
  /-- R400: A failing UALink lane is dropped and the port narrows. -/
  | laneDrop (port : Nat)
  /-- R405: The security processor issues a signed attestation report. -/
  | attestationReport (nonce : BitVec 256)
  /-- R406: The management controller serves an operator request over TLS. -/
  | mgmtRequest (m : MgmtSession)
  /-- R17: sys.gtc increments by one in each 940 MHz period and wraps modulo 2^64. -/
  | gtcPeriodIncrement
  /-- R386: While RUN = 1, COUNT of sys.frame, like sys.cycle, rises by one in each core-clock cycle in which the core is resident and not stopped. -/
  | frameCountAdvance (lnum : Nat)
  /-- R395: When all of a cluster's sensors fall below HOT, the throttled clock is restored and a CRIT hold on the cluster's cores is released. -/
  | hotSensorsClear (cluster : Nat) (s : Sensors)
  /-- R393: For a replica recompute, the cluster map binds the logical core of lowest LNUM in the step to spare slot 8. -/
  | recomputeSpareBind (cluster : Nat) (x : RecomputeCore)
  /-- R393: When the recompute ends, each moved logical core is bound to its own slot again and slot 8 returns to spare duty. -/
  | recomputeSpareRelease (x : RecomputeEnd)
  deriving DecidableEq, Repr, Inhabited

end Sys2Proof
end

