-- ==== Sys2Proof/WellFormed.lean ====
section
/-! DEFINITION. What an instruction word's fields may hold in every stream (R48 step 6, as far as it does not
depend on the stream): guard numbers 0–7 and descriptor numbers 0–7 (R35), scope codes 0–4 (R47, R154), computation
types and ring-source bits (R208, R213), and the limits that single entries state. An event row has no fields to
check: every event is well formed. -/
namespace Sys2Proof

/-- The field limits of a word that hold in every stream (R35, R36, R47, R108, R109, R120, R154, R181, R208, R213). -/
def Instr.wf (i : Instr) : Bool :=
  match i with
  | .extM _ s _ w => decide (s.toNat ≤ 4 ∧ w.toNat ≤ 1)
  | .cmpEq _ d _ _ => decide (d.toNat ≤ 7)
  | .cmpNe _ d _ _ => decide (d.toNat ≤ 7)
  | .cmpLtI64 _ d _ _ => decide (d.toNat ≤ 7)
  | .cmpGeI64 _ d _ _ => decide (d.toNat ≤ 7)
  | .cmpLtN64 _ d _ _ => decide (d.toNat ≤ 7)
  | .cmpGeN64 _ d _ _ => decide (d.toNat ≤ 7)
  | .tst _ d _ _ => decide (d.toNat ≤ 7)
  | .gand _ d a b => decide (d.toNat ≤ 7 ∧ a.toNat ≤ 7 ∧ b.toNat ≤ 7)
  | .gor _ d a b => decide (d.toNat ≤ 7 ∧ a.toNat ≤ 7 ∧ b.toNat ≤ 7)
  | .gxor _ d a b => decide (d.toNat ≤ 7 ∧ a.toNat ≤ 7 ∧ b.toNat ≤ 7)
  | .gandn _ d a b => decide (d.toNat ≤ 7 ∧ a.toNat ≤ 7 ∧ b.toNat ≤ 7)
  | .gmov _ d a => decide (d.toNat ≤ 7 ∧ a.toNat ≤ 7)
  | .gnot _ d a => decide (d.toNat ≤ 7 ∧ a.toNat ≤ 7)
  | .gset _ d => decide (d.toNat ≤ 7)
  | .gclr _ d => decide (d.toNat ≤ 7)
  | .fence _ s => decide (s.toNat ≤ 4)
  | .ldAcq _ _ _ s => decide (s.toNat ≤ 4)
  | .stRel _ _ _ s _ _ => decide (s.toNat ≤ 4)
  | .ldAcqPromote _ _ _ s => decide (s.toNat ≤ 4)
  | .engFence _ m => decide (m.toNat ≠ 0 ∧ m.toNat ≤ 15)
  | .bqEnq _ e _ => decide (e.toNat ≤ 3)
  | .rqDeq _ d s => decide ((d = s → d = 0#5))
  | .argWrite _ _ i _ => decide (4 ≤ i.toNat)
  | .cpy _ c => decide (c.toNat ≤ 7)
  | .cpyT _ c _ _ => decide (c.toNat ≤ 7)
  | .cdSet _ c _ f => decide (c.toNat ≤ 7 ∧ f.toNat ≤ 5)
  | .gath _ c => decide (c.toNat ≤ 7)
  | .gathT _ c _ _ => decide (c.toNat ≤ 7)
  | .scat _ c => decide (c.toNat ≤ 7)
  | .scatT _ c _ _ => decide (c.toNat ≤ 7)
  | .mcast _ c => decide (c.toNat ≤ 7)
  | .mcastT _ c _ _ => decide (c.toNat ≤ 7)
  | .sclLd _ c => decide (c.toNat ≤ 7)
  | .sclLdT _ c _ _ => decide (c.toNat ≤ 7)
  | .pref _ c => decide (c.toNat ≤ 7)
  | .mm _ c a b _ _ _ _ => decide (c.toNat ≤ 7 ∧ a.toNat ≤ 7 ∧ b.toNat ≤ 7)
  | .mmG _ c a b _ _ _ => decide (c.toNat ≤ 7 ∧ a.toNat ≤ 7 ∧ b.toNat ≤ 7)
  | .accZero _ c => decide (c.toNat ≤ 7)
  | .accRd _ d c => decide (d.toNat ≤ 7 ∧ c.toNat ≤ 7)
  | .accWr _ c s => decide (c.toNat ≤ 7 ∧ s.toNat ≤ 7)
  | .tdSet _ t _ _ => decide (t.toNat ≤ 7)
  | .vadd _ d a b x y z t => decide (t.toNat ≤ 3 ∧ (x = 1#1 → a.toNat ≤ 7) ∧ (y = 1#1 → b.toNat ≤ 7) ∧ (z = 1#1 → d = 0#4))
  | .vsub _ d a b x y z t => decide (t.toNat ≤ 3 ∧ (x = 1#1 → a.toNat ≤ 7) ∧ (y = 1#1 → b.toNat ≤ 7) ∧ (z = 1#1 → d = 0#4))
  | .vmul _ d a b x y z t => decide (t.toNat ≤ 3 ∧ (x = 1#1 → a.toNat ≤ 7) ∧ (y = 1#1 → b.toNat ≤ 7) ∧ (z = 1#1 → d = 0#4))
  | .vdiv _ d a b x y z t => decide (t.toNat ≤ 3 ∧ (x = 1#1 → a.toNat ≤ 7) ∧ (y = 1#1 → b.toNat ≤ 7) ∧ (z = 1#1 → d = 0#4))
  | .vmin _ d a b x y z t => decide (t.toNat ≤ 3 ∧ (x = 1#1 → a.toNat ≤ 7) ∧ (y = 1#1 → b.toNat ≤ 7) ∧ (z = 1#1 → d = 0#4))
  | .vmax _ d a b x y z t => decide (t.toNat ≤ 3 ∧ (x = 1#1 → a.toNat ≤ 7) ∧ (y = 1#1 → b.toNat ≤ 7) ∧ (z = 1#1 → d = 0#4))
  | .vand _ d a b x y z t => decide (2 ≤ t.toNat ∧ t.toNat ≤ 3 ∧ (x = 1#1 → a.toNat ≤ 7) ∧ (y = 1#1 → b.toNat ≤ 7) ∧ (z = 1#1 → d = 0#4))
  | .vor _ d a b x y z t => decide (2 ≤ t.toNat ∧ t.toNat ≤ 3 ∧ (x = 1#1 → a.toNat ≤ 7) ∧ (y = 1#1 → b.toNat ≤ 7) ∧ (z = 1#1 → d = 0#4))
  | .vxor _ d a b x y z t => decide (2 ≤ t.toNat ∧ t.toNat ≤ 3 ∧ (x = 1#1 → a.toNat ≤ 7) ∧ (y = 1#1 → b.toNat ≤ 7) ∧ (z = 1#1 → d = 0#4))
  | .vshl _ d a b x y z t => decide (2 ≤ t.toNat ∧ t.toNat ≤ 3 ∧ (x = 1#1 → a.toNat ≤ 7) ∧ (y = 1#1 → b.toNat ≤ 7) ∧ (z = 1#1 → d = 0#4))
  | .vshr _ d a b x y z t => decide (2 ≤ t.toNat ∧ t.toNat ≤ 3 ∧ (x = 1#1 → a.toNat ≤ 7) ∧ (y = 1#1 → b.toNat ≤ 7) ∧ (z = 1#1 → d = 0#4))
  | .vfma _ _ a b x y t => decide (t.toNat ≤ 3 ∧ (x = 1#1 → a.toNat ≤ 7) ∧ (y = 1#1 → b.toNat ≤ 7))
  | .vfms _ _ a b x y t => decide (t.toNat ≤ 3 ∧ (x = 1#1 → a.toNat ≤ 7) ∧ (y = 1#1 → b.toNat ≤ 7))
  | .vfnma _ _ a b x y t => decide (t.toNat ≤ 3 ∧ (x = 1#1 → a.toNat ≤ 7) ∧ (y = 1#1 → b.toNat ≤ 7))
  | .vsel _ _ a b x y t => decide (t.toNat ≤ 3 ∧ (x = 1#1 → a.toNat ≤ 7) ∧ (y = 1#1 → b.toNat ≤ 7))
  | .vclamp _ _ a b x y t => decide (t.toNat ≤ 3 ∧ (x = 1#1 → a.toNat ≤ 7) ∧ (y = 1#1 → b.toNat ≤ 7))
  | .vcmpEq _ d a b x y z t => decide (t.toNat ≤ 3 ∧ (x = 1#1 → a.toNat ≤ 7) ∧ (y = 1#1 → b.toNat ≤ 7) ∧ (z = 1#1 → d = 0#4))
  | .vcmpLt _ d a b x y z t => decide (t.toNat ≤ 3 ∧ (x = 1#1 → a.toNat ≤ 7) ∧ (y = 1#1 → b.toNat ≤ 7) ∧ (z = 1#1 → d = 0#4))
  | .vcmpLe _ d a b x y z t => decide (t.toNat ≤ 3 ∧ (x = 1#1 → a.toNat ≤ 7) ∧ (y = 1#1 → b.toNat ≤ 7) ∧ (z = 1#1 → d = 0#4))
  | .vcvt _ _ a x => decide ((x = 1#1 → a.toNat ≤ 7))
  | .vnot _ d a x z t => decide (2 ≤ t.toNat ∧ t.toNat ≤ 3 ∧ (x = 1#1 → a.toNat ≤ 7) ∧ (z = 1#1 → d = 0#4))
  | .vabs _ d a x z t => decide (t.toNat ≤ 3 ∧ (x = 1#1 → a.toNat ≤ 7) ∧ (z = 1#1 → d = 0#4))
  | .vneg _ d a x z t => decide (t.toNat ≤ 3 ∧ (x = 1#1 → a.toNat ≤ 7) ∧ (z = 1#1 → d = 0#4))
  | .vmov _ d a x z t => decide (t.toNat ≤ 3 ∧ (x = 1#1 → a.toNat ≤ 7) ∧ (z = 1#1 → d = 0#4))
  | .vexp2 _ d a x z => decide ((x = 1#1 → a.toNat ≤ 7) ∧ (z = 1#1 → d = 0#4))
  | .vlog2 _ d a x z => decide ((x = 1#1 → a.toNat ≤ 7) ∧ (z = 1#1 → d = 0#4))
  | .vrcp _ d a x z => decide ((x = 1#1 → a.toNat ≤ 7) ∧ (z = 1#1 → d = 0#4))
  | .vrsq _ d a x z => decide ((x = 1#1 → a.toNat ≤ 7) ∧ (z = 1#1 → d = 0#4))
  | .vsqrt _ d a x z => decide ((x = 1#1 → a.toNat ≤ 7) ∧ (z = 1#1 → d = 0#4))
  | .vsin _ d a x z => decide ((x = 1#1 → a.toNat ≤ 7) ∧ (z = 1#1 → d = 0#4))
  | .vcos _ d a x z => decide ((x = 1#1 → a.toNat ≤ 7) ∧ (z = 1#1 → d = 0#4))
  | .vtanh _ d a x z => decide ((x = 1#1 → a.toNat ≤ 7) ∧ (z = 1#1 → d = 0#4))
  | .vrsum _ _ _ t => decide (t.toNat ≤ 3)
  | .vrmax _ _ _ t => decide (t.toNat ≤ 3)
  | .vrmin _ _ _ t => decide (t.toNat ≤ 3)
  | .vrsumsq _ _ _ t => decide (t.toNat ≤ 3)
  | .vrargmax _ _ _ t => decide (t.toNat ≤ 3)
  | .srfAlloc _ w => decide (w.toNat ≤ 7)
  | .srfFree _ w => decide (w.toNat ≤ 7)
  | .srfLd _ s x => decide (s.toNat ≤ 7 ∧ x.toNat ≤ 7)
  | .srfSt _ x s => decide (x.toNat ≤ 7 ∧ s.toNat ≤ 7)
  | .srfZero _ w => decide (w.toNat ≤ 7)
  | .scan _ x _ => decide (x.toNat ≤ 7)
  | .scanSw _ x s _ => decide (x.toNat ≤ 7 ∧ s.toNat ≤ 7)
  | .scanRed _ x s _ => decide (x.toNat ≤ 7 ∧ s.toNat ≤ 7)
  | .scanApply _ x s _ => decide (x.toNat ≤ 7 ∧ s.toNat ≤ 7)
  | .scanApplyFirst _ x s _ => decide (x.toNat ≤ 7 ∧ s.toNat ≤ 7)
  | .nscanUp _ s _ _ => decide (s.toNat ≤ 7)
  | .nscanDown _ s _ _ => decide (s.toNat ≤ 7)
  | .carrySendIn _ s _ _ => decide (s.toNat ≤ 7)
  | .carrySendOut _ s _ _ => decide (s.toNat ≤ 7)
  | .carryRecvIn _ s _ _ => decide (s.toNat ≤ 7)
  | .carryRecvOut _ s _ _ => decide (s.toNat ≤ 7)
  | .carryRecvCombIn _ s _ _ _ => decide (s.toNat ≤ 7)
  | .carryRecvCombOut _ s _ _ _ => decide (s.toNat ≤ 7)
  | .step _ h x _ => decide (h.toNat ≤ 7 ∧ x.toNat ≤ 7)
  | .stepY _ h x _ _ => decide (h.toNat ≤ 7 ∧ x.toNat ≤ 7)
  | .swSet _ w _ _ => decide (w.toNat ≤ 7)
  | _ => true

/-- The general registers that a word names in its 5-bit register fields (R35), for the range check of the engine
streams. Guard fields are not registers here. -/
def Instr.regs5 (i : Instr) : List Nat :=
  match i with
  | .sysr _ d _ => [d.toNat]
  | .sysw _ _ b => [b.toNat]
  | .ckpt _ a => [a.toNat]
  | .add _ d a b => [d.toNat, a.toNat, b.toNat]
  | .sub _ d a b => [d.toNat, a.toNat, b.toNat]
  | .and _ d a b => [d.toNat, a.toNat, b.toNat]
  | .or _ d a b => [d.toNat, a.toNat, b.toNat]
  | .xor _ d a b => [d.toNat, a.toNat, b.toNat]
  | .andn _ d a b => [d.toNat, a.toNat, b.toNat]
  | .minI64 _ d a b => [d.toNat, a.toNat, b.toNat]
  | .maxI64 _ d a b => [d.toNat, a.toNat, b.toNat]
  | .minN64 _ d a b => [d.toNat, a.toNat, b.toNat]
  | .maxN64 _ d a b => [d.toNat, a.toNat, b.toNat]
  | .addI32 _ d a b => [d.toNat, a.toNat, b.toNat]
  | .subI32 _ d a b => [d.toNat, a.toNat, b.toNat]
  | .clz _ d a => [d.toNat, a.toNat]
  | .ctz _ d a => [d.toNat, a.toNat]
  | .popc _ d a => [d.toNat, a.toNat]
  | .addsI64 _ d a b => [d.toNat, a.toNat, b.toNat]
  | .addi _ d a _ => [d.toNat, a.toNat]
  | .andi _ d a _ => [d.toNat, a.toNat]
  | .ori _ d a _ => [d.toNat, a.toNat]
  | .xori _ d a _ => [d.toNat, a.toNat]
  | .slti _ d a _ => [d.toNat, a.toNat]
  | .sltiu _ d a _ => [d.toNat, a.toNat]
  | .sll _ d a b => [d.toNat, a.toNat, b.toNat]
  | .srl _ d a b => [d.toNat, a.toNat, b.toNat]
  | .sra _ d a b => [d.toNat, a.toNat, b.toNat]
  | .ror _ d a b => [d.toNat, a.toNat, b.toNat]
  | .slli _ d a _ _ => [d.toNat, a.toNat]
  | .srli _ d a _ _ => [d.toNat, a.toNat]
  | .srai _ d a _ _ => [d.toNat, a.toNat]
  | .rori _ d a _ _ => [d.toNat, a.toNat]
  | .mul _ d a b => [d.toNat, a.toNat, b.toNat]
  | .mulhI64 _ d a b => [d.toNat, a.toNat, b.toNat]
  | .mulhN64 _ d a b => [d.toNat, a.toNat, b.toNat]
  | .divI64 _ d a b => [d.toNat, a.toNat, b.toNat]
  | .divN64 _ d a b => [d.toNat, a.toNat, b.toNat]
  | .remI64 _ d a b => [d.toNat, a.toNat, b.toNat]
  | .remN64 _ d a b => [d.toNat, a.toNat, b.toNat]
  | .cmpEq _ _ a b => [a.toNat, b.toNat]
  | .cmpNe _ _ a b => [a.toNat, b.toNat]
  | .cmpLtI64 _ _ a b => [a.toNat, b.toNat]
  | .cmpGeI64 _ _ a b => [a.toNat, b.toNat]
  | .cmpLtN64 _ _ a b => [a.toNat, b.toNat]
  | .cmpGeN64 _ _ a b => [a.toNat, b.toNat]
  | .tst _ _ a b => [a.toNat, b.toNat]
  | .sel _ _ _ d a => [d.toNat, a.toNat]
  | .movi _ d _ => [d.toNat]
  | .lih _ d _ => [d.toNat]
  | .jal _ d _ => [d.toNat]
  | .jr _ d a => [d.toNat, a.toNat]
  | .lea1 _ d a _ => [d.toNat, a.toNat]
  | .lea2 _ d a _ => [d.toNat, a.toNat]
  | .lea4 _ d a _ => [d.toNat, a.toNat]
  | .lea8 _ d a _ => [d.toNat, a.toNat]
  | .ldI8 _ d a _ => [d.toNat, a.toNat]
  | .ldN8 _ d a _ => [d.toNat, a.toNat]
  | .ldI16 _ d a _ => [d.toNat, a.toNat]
  | .ldN16 _ d a _ => [d.toNat, a.toNat]
  | .ldI32 _ d a _ => [d.toNat, a.toNat]
  | .ldN32 _ d a _ => [d.toNat, a.toNat]
  | .ldN64 _ d a _ => [d.toNat, a.toNat]
  | .stN8 _ _ _ _ a b => [a.toNat, b.toNat]
  | .stN16 _ _ _ _ a b => [a.toNat, b.toNat]
  | .stN32 _ _ _ _ a b => [a.toNat, b.toNat]
  | .stN64 _ _ _ _ a b => [a.toNat, b.toNat]
  | .amoSwap _ _ _ d a b => [d.toNat, a.toNat, b.toNat]
  | .amoAdd _ _ _ d a b => [d.toNat, a.toNat, b.toNat]
  | .amoAnd _ _ _ d a b => [d.toNat, a.toNat, b.toNat]
  | .amoOr _ _ _ d a b => [d.toNat, a.toNat, b.toNat]
  | .amoXor _ _ _ d a b => [d.toNat, a.toNat, b.toNat]
  | .amoMax _ _ _ d a b => [d.toNat, a.toNat, b.toNat]
  | .amoMin _ _ _ d a b => [d.toNat, a.toNat, b.toNat]
  | .amoCas _ _ _ d a b => [d.toNat, a.toNat, b.toNat]
  | .redAdd _ _ _ a b => [a.toNat, b.toNat]
  | .redAnd _ _ _ a b => [a.toNat, b.toNat]
  | .redOr _ _ _ a b => [a.toNat, b.toNat]
  | .redXor _ _ _ a b => [a.toNat, b.toNat]
  | .redMax _ _ _ a b => [a.toNat, b.toNat]
  | .redMin _ _ _ a b => [a.toNat, b.toNat]
  | .redFaddF32 _ _ _ a b => [a.toNat, b.toNat]
  | .redFaddF64 _ _ _ a b => [a.toNat, b.toNat]
  | .ldAcq _ d a _ => [d.toNat, a.toNat]
  | .stRel _ _ _ _ a b => [a.toNat, b.toNat]
  | .ldAcqPromote _ d a _ => [d.toNat, a.toNat]
  | .amoSwapPromote _ _ _ d a b => [d.toNat, a.toNat, b.toNat]
  | .amoAddPromote _ _ _ d a b => [d.toNat, a.toNat, b.toNat]
  | .amoCasPromote _ _ _ d a b => [d.toNat, a.toNat, b.toNat]
  | .tbarInit _ a b => [a.toNat, b.toNat]
  | .tbarArrive _ d a b => [d.toNat, a.toNat, b.toNat]
  | .tbarExpect _ d a b => [d.toNat, a.toNat, b.toNat]
  | .tbarWait _ a b => [a.toNat, b.toNat]
  | .tbarTest _ d a b => [d.toNat, a.toNat, b.toNat]
  | .bldN8 _ d a _ => [d.toNat, a.toNat]
  | .bldN16 _ d a _ => [d.toNat, a.toNat]
  | .bldN32 _ d a _ => [d.toNat, a.toNat]
  | .bldN64 _ d a _ => [d.toNat, a.toNat]
  | .bstN8 _ d a _ => [d.toNat, a.toNat]
  | .bstN16 _ d a _ => [d.toNat, a.toNat]
  | .bstN32 _ d a _ => [d.toNat, a.toNat]
  | .bstN64 _ d a _ => [d.toNat, a.toNat]
  | .engCmd _ _ a b _ => [a.toNat, b.toNat]
  | .engCmdReloc _ a b _ => [a.toNat, b.toNat]
  | .engBusy _ d => [d.toNat]
  | .bqEnq _ _ a => [a.toNat]
  | .rqDeq _ d s => [d.toNat, s.toNat]
  | .fmtEnq _ a => [a.toNat]
  | .arg _ d _ => [d.toNat]
  | .argWrite _ d _ b => [d.toNat, b.toNat]
  | .rqEnq _ a => [a.toNat]
  | .loopReg _ _ c _ => [c.toNat]
  | .taskEnq _ a b => [a.toNat, b.toNat]
  | .taskDone _ a => [a.toNat]
  | .taskYield _ a => [a.toNat]
  | .hypOpen _ d a => [d.toNat, a.toNat]
  | .hypEnter _ a => [a.toNat]
  | .hypOk _ d a => [d.toNat, a.toNat]
  | .hypNo _ d a => [d.toNat, a.toNat]
  | .hypQuery _ d a => [d.toNat, a.toNat]
  | .qrDirld _ a b => [a.toNat, b.toNat]
  | .qrSeed _ a => [a.toNat]
  | .qrPt _ d a b => [d.toNat, a.toNat, b.toNat]
  | .smpDraw _ a => [a.toNat]
  | .smpCheck _ a b => [a.toNat, b.toNat]
  | .smpResid _ a b => [a.toNat, b.toNat]
  | .smpCfg _ a b => [a.toNat, b.toNat]
  | .smpStop _ a b => [a.toNat, b.toNat]
  | .logAppend _ d a => [d.toNat, a.toNat]
  | .collLoad _ a b => [a.toNat, b.toNat]
  | .collRun _ a b => [a.toNat, b.toNat]
  | .collWait _ a => [a.toNat]
  | .trigAdd _ a b => [a.toNat, b.toNat]
  | .stc _ a b => [a.toNat, b.toNat]
  | .winDrain _ a => [a.toNat]
  | .digest _ d a b => [d.toNat, a.toNat, b.toNat]
  | .frameBegin _ a => [a.toNat]
  | _ => []

/-- The engine registers that a format D word names in 4-bit fields (R43). -/
def Instr.regs4 (i : Instr) : List Nat :=
  match i with
  | .cpyT _ _ d t => [d.toNat, t.toNat]
  | .cdSet _ _ s _ => [s.toNat]
  | .gathT _ _ d t => [d.toNat, t.toNat]
  | .scatT _ _ d t => [d.toNat, t.toNat]
  | .mcastT _ _ d t => [d.toNat, t.toNat]
  | .sclLdT _ _ d t => [d.toNat, t.toNat]
  | .tdSet _ _ a b => [a.toNat, b.toNat]
  | .rgnSet _ _ a b => [a.toNat, b.toNat]
  | .qrGen _ _ a b => [a.toNat, b.toNat]
  | .opdLd _ _ a => [a.toNat]
  | .nscanUp _ _ g _ => [g.toNat]
  | .nscanDown _ _ g _ => [g.toNat]
  | .carrySendIn _ _ g p => [g.toNat, p.toNat]
  | .carrySendOut _ _ g p => [g.toNat, p.toNat]
  | .carryRecvIn _ _ g p => [g.toNat, p.toNat]
  | .carryRecvOut _ _ g p => [g.toNat, p.toNat]
  | .carryRecvCombIn _ _ g p _ => [g.toNat, p.toNat]
  | .carryRecvCombOut _ _ g p _ => [g.toNat, p.toNat]
  | .swSet _ _ a b => [a.toNat, b.toNat]
  | _ => []

/-- Every register that a word names: the words that the interlock of R83 and R138 holds back. -/
def Instr.regs (i : Instr) : List Nat := i.regs5 ++ i.regs4

/-- The guard field of a format G or B word: `gsel` and `gneg` (R39, R40). -/
def Instr.guardField (i : Instr) : Option (BitVec 3 × BitVec 1) :=
  match i with
  | .sel _ g n _ _ => some (g, n)
  | .br _ g n _ => some (g, n)
  | .stN8 _ g n _ _ _ => some (g, n)
  | .stN16 _ g n _ _ _ => some (g, n)
  | .stN32 _ g n _ _ _ => some (g, n)
  | .stN64 _ g n _ _ _ => some (g, n)
  | .amoSwap _ g n _ _ _ => some (g, n)
  | .amoAdd _ g n _ _ _ => some (g, n)
  | .amoAnd _ g n _ _ _ => some (g, n)
  | .amoOr _ g n _ _ _ => some (g, n)
  | .amoXor _ g n _ _ _ => some (g, n)
  | .amoMax _ g n _ _ _ => some (g, n)
  | .amoMin _ g n _ _ _ => some (g, n)
  | .amoCas _ g n _ _ _ => some (g, n)
  | .redAdd _ g n _ _ => some (g, n)
  | .redAnd _ g n _ _ => some (g, n)
  | .redOr _ g n _ _ => some (g, n)
  | .redXor _ g n _ _ => some (g, n)
  | .redMax _ g n _ _ => some (g, n)
  | .redMin _ g n _ _ => some (g, n)
  | .redFaddF32 _ g n _ _ => some (g, n)
  | .redFaddF64 _ g n _ _ => some (g, n)
  | .stRel _ g n _ _ _ => some (g, n)
  | .amoSwapPromote _ g n _ _ _ => some (g, n)
  | .amoAddPromote _ g n _ _ _ => some (g, n)
  | .amoCasPromote _ g n _ _ _ => some (g, n)
  | _ => none

/-- The ring bits WB, WA, SB, SA of a word, bits 31:28 (R32); prefixes and events have none. -/
def Instr.ring (i : Instr) : BitVec 4 :=
  match i with
  | .nop r => r
  | .trap r _ => r
  | .sysr r _ _ => r
  | .sysw r _ _ => r
  | .ckpt r _ => r
  | .add r _ _ _ => r
  | .sub r _ _ _ => r
  | .and r _ _ _ => r
  | .or r _ _ _ => r
  | .xor r _ _ _ => r
  | .andn r _ _ _ => r
  | .minI64 r _ _ _ => r
  | .maxI64 r _ _ _ => r
  | .minN64 r _ _ _ => r
  | .maxN64 r _ _ _ => r
  | .addI32 r _ _ _ => r
  | .subI32 r _ _ _ => r
  | .clz r _ _ => r
  | .ctz r _ _ => r
  | .popc r _ _ => r
  | .addsI64 r _ _ _ => r
  | .addi r _ _ _ => r
  | .andi r _ _ _ => r
  | .ori r _ _ _ => r
  | .xori r _ _ _ => r
  | .slti r _ _ _ => r
  | .sltiu r _ _ _ => r
  | .sll r _ _ _ => r
  | .srl r _ _ _ => r
  | .sra r _ _ _ => r
  | .ror r _ _ _ => r
  | .slli r _ _ _ _ => r
  | .srli r _ _ _ _ => r
  | .srai r _ _ _ _ => r
  | .rori r _ _ _ _ => r
  | .mul r _ _ _ => r
  | .mulhI64 r _ _ _ => r
  | .mulhN64 r _ _ _ => r
  | .divI64 r _ _ _ => r
  | .divN64 r _ _ _ => r
  | .remI64 r _ _ _ => r
  | .remN64 r _ _ _ => r
  | .cmpEq r _ _ _ => r
  | .cmpNe r _ _ _ => r
  | .cmpLtI64 r _ _ _ => r
  | .cmpGeI64 r _ _ _ => r
  | .cmpLtN64 r _ _ _ => r
  | .cmpGeN64 r _ _ _ => r
  | .tst r _ _ _ => r
  | .gand r _ _ _ => r
  | .gor r _ _ _ => r
  | .gxor r _ _ _ => r
  | .gandn r _ _ _ => r
  | .gmov r _ _ => r
  | .gnot r _ _ => r
  | .gset r _ => r
  | .gclr r _ => r
  | .sel r _ _ _ _ => r
  | .movi r _ _ => r
  | .lih r _ _ => r
  | .br r _ _ _ => r
  | .jal r _ _ => r
  | .jr r _ _ => r
  | .lea1 r _ _ _ => r
  | .lea2 r _ _ _ => r
  | .lea4 r _ _ _ => r
  | .lea8 r _ _ _ => r
  | .ldI8 r _ _ _ => r
  | .ldN8 r _ _ _ => r
  | .ldI16 r _ _ _ => r
  | .ldN16 r _ _ _ => r
  | .ldI32 r _ _ _ => r
  | .ldN32 r _ _ _ => r
  | .ldN64 r _ _ _ => r
  | .stN8 r _ _ _ _ _ => r
  | .stN16 r _ _ _ _ _ => r
  | .stN32 r _ _ _ _ _ => r
  | .stN64 r _ _ _ _ _ => r
  | .amoSwap r _ _ _ _ _ => r
  | .amoAdd r _ _ _ _ _ => r
  | .amoAnd r _ _ _ _ _ => r
  | .amoOr r _ _ _ _ _ => r
  | .amoXor r _ _ _ _ _ => r
  | .amoMax r _ _ _ _ _ => r
  | .amoMin r _ _ _ _ _ => r
  | .amoCas r _ _ _ _ _ => r
  | .redAdd r _ _ _ _ => r
  | .redAnd r _ _ _ _ => r
  | .redOr r _ _ _ _ => r
  | .redXor r _ _ _ _ => r
  | .redMax r _ _ _ _ => r
  | .redMin r _ _ _ _ => r
  | .redFaddF32 r _ _ _ _ => r
  | .redFaddF64 r _ _ _ _ => r
  | .fence r _ => r
  | .ldAcq r _ _ _ => r
  | .stRel r _ _ _ _ _ => r
  | .ldAcqPromote r _ _ _ => r
  | .amoSwapPromote r _ _ _ _ _ => r
  | .amoAddPromote r _ _ _ _ _ => r
  | .amoCasPromote r _ _ _ _ _ => r
  | .tbarInit r _ _ => r
  | .tbarArrive r _ _ _ => r
  | .tbarExpect r _ _ _ => r
  | .tbarWait r _ _ => r
  | .tbarTest r _ _ _ => r
  | .bldN8 r _ _ _ => r
  | .bldN16 r _ _ _ => r
  | .bldN32 r _ _ _ => r
  | .bldN64 r _ _ _ => r
  | .bstN8 r _ _ _ => r
  | .bstN16 r _ _ _ => r
  | .bstN32 r _ _ _ => r
  | .bstN64 r _ _ _ => r
  | .engCmd r _ _ _ _ => r
  | .engCmdReloc r _ _ _ => r
  | .engFence r _ => r
  | .engBusy r _ => r
  | .bqEnq r _ _ => r
  | .rqDeq r _ _ => r
  | .fmtEnq r _ => r
  | .endr r => r
  | .arg r _ _ => r
  | .argWrite r _ _ _ => r
  | .rqEnq r _ => r
  | .bqBr r _ => r
  | .bqBrn r _ => r
  | .loopImm r _ _ _ => r
  | .loopReg r _ _ _ => r
  | .waitc r _ _ _ _ => r
  | .taskEnq r _ _ => r
  | .taskDone r _ => r
  | .taskYield r _ => r
  | .hypOpen r _ _ => r
  | .hypEnter r _ => r
  | .hypOk r _ _ => r
  | .hypNo r _ _ => r
  | .hypQuery r _ _ => r
  | .cpy r _ => r
  | .cpyT r _ _ _ => r
  | .cdSet r _ _ _ => r
  | .gath r _ => r
  | .gathT r _ _ _ => r
  | .scat r _ => r
  | .scatT r _ _ _ => r
  | .mcast r _ => r
  | .mcastT r _ _ _ => r
  | .sclLd r _ => r
  | .sclLdT r _ _ _ => r
  | .pref r _ => r
  | .mm r _ _ _ _ _ _ _ => r
  | .mmG r _ _ _ _ _ _ => r
  | .accZero r _ => r
  | .accRd r _ _ => r
  | .accWr r _ _ => r
  | .tdSet r _ _ _ => r
  | .vadd r _ _ _ _ _ _ _ => r
  | .vsub r _ _ _ _ _ _ _ => r
  | .vmul r _ _ _ _ _ _ _ => r
  | .vdiv r _ _ _ _ _ _ _ => r
  | .vmin r _ _ _ _ _ _ _ => r
  | .vmax r _ _ _ _ _ _ _ => r
  | .vand r _ _ _ _ _ _ _ => r
  | .vor r _ _ _ _ _ _ _ => r
  | .vxor r _ _ _ _ _ _ _ => r
  | .vshl r _ _ _ _ _ _ _ => r
  | .vshr r _ _ _ _ _ _ _ => r
  | .vfma r _ _ _ _ _ _ => r
  | .vfms r _ _ _ _ _ _ => r
  | .vfnma r _ _ _ _ _ _ => r
  | .vsel r _ _ _ _ _ _ => r
  | .vclamp r _ _ _ _ _ _ => r
  | .vcmpEq r _ _ _ _ _ _ _ => r
  | .vcmpLt r _ _ _ _ _ _ _ => r
  | .vcmpLe r _ _ _ _ _ _ _ => r
  | .vcvt r _ _ _ => r
  | .vnot r _ _ _ _ _ => r
  | .vabs r _ _ _ _ _ => r
  | .vneg r _ _ _ _ _ => r
  | .vmov r _ _ _ _ _ => r
  | .vexp2 r _ _ _ _ => r
  | .vlog2 r _ _ _ _ => r
  | .vrcp r _ _ _ _ => r
  | .vrsq r _ _ _ _ => r
  | .vsqrt r _ _ _ _ => r
  | .vsin r _ _ _ _ => r
  | .vcos r _ _ _ _ => r
  | .vtanh r _ _ _ _ => r
  | .vrsum r _ _ _ => r
  | .vrmax r _ _ _ => r
  | .vrmin r _ _ _ => r
  | .vrsumsq r _ _ _ => r
  | .vrargmax r _ _ _ => r
  | .vchBegin r _ => r
  | .vchEnd r => r
  | .vdefer r _ _ _ => r
  | .vdrain r _ _ => r
  | .rgnSet r _ _ _ => r
  | .qrGen r _ _ _ => r
  | .srfAlloc r _ => r
  | .srfFree r _ => r
  | .srfLd r _ _ => r
  | .srfSt r _ _ => r
  | .srfZero r _ => r
  | .opdLd r _ _ => r
  | .scan r _ _ => r
  | .scanSw r _ _ _ => r
  | .scanRed r _ _ _ => r
  | .scanApply r _ _ _ => r
  | .scanApplyFirst r _ _ _ => r
  | .nscanUp r _ _ _ => r
  | .nscanDown r _ _ _ => r
  | .carrySendIn r _ _ _ => r
  | .carrySendOut r _ _ _ => r
  | .carryRecvIn r _ _ _ => r
  | .carryRecvOut r _ _ _ => r
  | .carryRecvCombIn r _ _ _ _ => r
  | .carryRecvCombOut r _ _ _ _ => r
  | .step r _ _ _ => r
  | .stepY r _ _ _ _ => r
  | .swSet r _ _ _ => r
  | .qrDirld r _ _ => r
  | .qrSeed r _ => r
  | .qrPt r _ _ _ => r
  | .smpDraw r _ => r
  | .smpCheck r _ _ => r
  | .smpResid r _ _ => r
  | .smpCfg r _ _ => r
  | .smpStop r _ _ => r
  | .logAppend r _ _ => r
  | .collLoad r _ _ => r
  | .collRun r _ _ => r
  | .collWait r _ => r
  | .trigAdd r _ _ => r
  | .stc r _ _ => r
  | .winDrain r _ => r
  | .digest r _ _ _ => r
  | .frameBegin r _ => r
  | _ => 0#4

end Sys2Proof
end

