-- ==== Sys2Proof/Decode.lean ====
section
/-! DEFINITION. Decoding and encoding of instruction words. A word is read as a number, bit 0 least significant
(R3, R32). `candidate` finds the row by major and funct (R49, R50) and says whether the fields that the row leaves
unused are zero (R36); `decodeRaw` adds the field limits of `Instr.wf`; `decodeIn` makes the checks of R48 in order
for one stream, with the prefixes already read (R45, R47). `encode` writes the word of a row from the same tables. -/
namespace Sys2Proof

/-- Field `high:low` of a word, as `len` bits from `lo` up (R3). -/
def fld (w lo len : Nat) : BitVec len := BitVec.ofNat len (w / 2 ^ lo)

/-- The major opcode, bits 27:22 (R32). -/
def majorOf (w : Nat) : Nat := w / 2 ^ 22 % 64

/-- Bits `lo` to `lo + len - 1` are zero (R36). -/
def isZero (w lo len : Nat) : Bool := w / 2 ^ lo % 2 ^ len == 0

/-- Majors that no stream has: R48 step 2. -/
def reservedMajor (m : Nat) : Bool := m == 0x03 || m == 0x17 || m == 0x1F || m == 0x27 || m == 0x37 || m == 0x3E || m == 0x3F

/-- The streams of a major: the Streams column of R49. -/
def majorIn (m : Nat) (u : Sqr) : Bool :=
  match u with
  | .cc => (0 ≤ m && m ≤ 2) || (4 ≤ m && m ≤ 22) || (24 ≤ m && m ≤ 25) || (28 ≤ m && m ≤ 30) || (56 ≤ m && m ≤ 59) || m == 61
  | .ae => (0 ≤ m && m ≤ 2) || (4 ≤ m && m ≤ 7) || m == 11 || (15 ≤ m && m ≤ 22) || (26 ≤ m && m ≤ 28) || (32 ≤ m && m ≤ 35) || m == 60
  | .me => (0 ≤ m && m ≤ 2) || (4 ≤ m && m ≤ 7) || m == 11 || m == 21 || (26 ≤ m && m ≤ 28) || (36 ≤ m && m ≤ 38)
  | .se => (0 ≤ m && m ≤ 2) || (4 ≤ m && m ≤ 7) || m == 11 || m == 21 || (26 ≤ m && m ≤ 28) || (48 ≤ m && m ≤ 54)
  | .ve => (0 ≤ m && m ≤ 2) || (4 ≤ m && m ≤ 7) || m == 11 || m == 21 || (26 ≤ m && m ≤ 28) || (40 ≤ m && m ≤ 47) || m == 60

/-- Major 0x00 marks TRAP, SYSW and CKPT for the CC only (R49): R48 step 5. -/
def functIn (w : Nat) (u : Sqr) : Bool :=
  !(majorOf w == 0 && u != .cc && (w % 128 == 1 || w % 128 == 3 || w % 128 == 4))

/-- Major 0x00 of R49. -/
def cand00 (w : Nat) : Option (Instr × Bool) :=
  match w % 128 with
  | 0 => some (.nop (fld w 28 4), isZero w 7 15)
  | 1 => some (.trap (fld w 28 4) (fld w 7 10), isZero w 17 5)
  | 2 => some (.sysr (fld w 28 4) (fld w 17 5) (fld w 7 10), true)
  | 3 => some (.sysw (fld w 28 4) (fld w 12 10) (fld w 7 5), true)
  | 4 => some (.ckpt (fld w 28 4) (fld w 12 5), isZero w 7 5 && isZero w 17 5)
  | _ => none

/-- Major 0x01 of R49. -/
def cand01 (w : Nat) : Option (Instr × Bool) :=
  some (.stamp (fld w 0 22), true)

/-- Major 0x02 of R49. -/
def cand02 (w : Nat) : Option (Instr × Bool) :=
  if w / 2097152 % 2 == 0 then some (.extI (fld w 0 21), true) else some (.extM (fld w 20 1) (fld w 17 3) (fld w 15 2) (fld w 13 2), isZero w 0 13)

/-- Major 0x04 of R49. -/
def cand04 (w : Nat) : Option (Instr × Bool) :=
  match w % 128 with
  | 0 => some (.add (fld w 28 4) (fld w 17 5) (fld w 12 5) (fld w 7 5), true)
  | 1 => some (.sub (fld w 28 4) (fld w 17 5) (fld w 12 5) (fld w 7 5), true)
  | 2 => some (.and (fld w 28 4) (fld w 17 5) (fld w 12 5) (fld w 7 5), true)
  | 3 => some (.or (fld w 28 4) (fld w 17 5) (fld w 12 5) (fld w 7 5), true)
  | 4 => some (.xor (fld w 28 4) (fld w 17 5) (fld w 12 5) (fld w 7 5), true)
  | 5 => some (.andn (fld w 28 4) (fld w 17 5) (fld w 12 5) (fld w 7 5), true)
  | 6 => some (.minI64 (fld w 28 4) (fld w 17 5) (fld w 12 5) (fld w 7 5), true)
  | 7 => some (.maxI64 (fld w 28 4) (fld w 17 5) (fld w 12 5) (fld w 7 5), true)
  | 8 => some (.minN64 (fld w 28 4) (fld w 17 5) (fld w 12 5) (fld w 7 5), true)
  | 9 => some (.maxN64 (fld w 28 4) (fld w 17 5) (fld w 12 5) (fld w 7 5), true)
  | 10 => some (.addI32 (fld w 28 4) (fld w 17 5) (fld w 12 5) (fld w 7 5), true)
  | 11 => some (.subI32 (fld w 28 4) (fld w 17 5) (fld w 12 5) (fld w 7 5), true)
  | 12 => some (.clz (fld w 28 4) (fld w 17 5) (fld w 12 5), isZero w 7 5)
  | 13 => some (.ctz (fld w 28 4) (fld w 17 5) (fld w 12 5), isZero w 7 5)
  | 14 => some (.popc (fld w 28 4) (fld w 17 5) (fld w 12 5), isZero w 7 5)
  | 15 => some (.addsI64 (fld w 28 4) (fld w 17 5) (fld w 12 5) (fld w 7 5), true)
  | _ => none

/-- Major 0x05 of R49. -/
def cand05 (w : Nat) : Option (Instr × Bool) :=
  match w / 512 % 8 with
  | 0 => some (.addi (fld w 28 4) (fld w 17 5) (fld w 12 5) (fld w 0 9), true)
  | 1 => some (.andi (fld w 28 4) (fld w 17 5) (fld w 12 5) (fld w 0 9), true)
  | 2 => some (.ori (fld w 28 4) (fld w 17 5) (fld w 12 5) (fld w 0 9), true)
  | 3 => some (.xori (fld w 28 4) (fld w 17 5) (fld w 12 5) (fld w 0 9), true)
  | 4 => some (.slti (fld w 28 4) (fld w 17 5) (fld w 12 5) (fld w 0 9), true)
  | 5 => some (.sltiu (fld w 28 4) (fld w 17 5) (fld w 12 5) (fld w 0 9), true)
  | _ => none

/-- Major 0x06 of R49. -/
def cand06 (w : Nat) : Option (Instr × Bool) :=
  match w % 128 with
  | 0 => some (.sll (fld w 28 4) (fld w 17 5) (fld w 12 5) (fld w 7 5), true)
  | 16 => some (.slli (fld w 28 4) (fld w 17 5) (fld w 12 5) (fld w 7 5) (fld w 0 1), true)
  | 17 => some (.slli (fld w 28 4) (fld w 17 5) (fld w 12 5) (fld w 7 5) (fld w 0 1), true)
  | 32 => some (.srl (fld w 28 4) (fld w 17 5) (fld w 12 5) (fld w 7 5), true)
  | 48 => some (.srli (fld w 28 4) (fld w 17 5) (fld w 12 5) (fld w 7 5) (fld w 0 1), true)
  | 49 => some (.srli (fld w 28 4) (fld w 17 5) (fld w 12 5) (fld w 7 5) (fld w 0 1), true)
  | 64 => some (.sra (fld w 28 4) (fld w 17 5) (fld w 12 5) (fld w 7 5), true)
  | 80 => some (.srai (fld w 28 4) (fld w 17 5) (fld w 12 5) (fld w 7 5) (fld w 0 1), true)
  | 81 => some (.srai (fld w 28 4) (fld w 17 5) (fld w 12 5) (fld w 7 5) (fld w 0 1), true)
  | 96 => some (.ror (fld w 28 4) (fld w 17 5) (fld w 12 5) (fld w 7 5), true)
  | 112 => some (.rori (fld w 28 4) (fld w 17 5) (fld w 12 5) (fld w 7 5) (fld w 0 1), true)
  | 113 => some (.rori (fld w 28 4) (fld w 17 5) (fld w 12 5) (fld w 7 5) (fld w 0 1), true)
  | _ => none

/-- Major 0x07 of R49. -/
def cand07 (w : Nat) : Option (Instr × Bool) :=
  match w % 128 with
  | 0 => some (.mul (fld w 28 4) (fld w 17 5) (fld w 12 5) (fld w 7 5), true)
  | 1 => some (.mulhI64 (fld w 28 4) (fld w 17 5) (fld w 12 5) (fld w 7 5), true)
  | 2 => some (.mulhN64 (fld w 28 4) (fld w 17 5) (fld w 12 5) (fld w 7 5), true)
  | 3 => some (.divI64 (fld w 28 4) (fld w 17 5) (fld w 12 5) (fld w 7 5), true)
  | 4 => some (.divN64 (fld w 28 4) (fld w 17 5) (fld w 12 5) (fld w 7 5), true)
  | 5 => some (.remI64 (fld w 28 4) (fld w 17 5) (fld w 12 5) (fld w 7 5), true)
  | 6 => some (.remN64 (fld w 28 4) (fld w 17 5) (fld w 12 5) (fld w 7 5), true)
  | _ => none

/-- Major 0x08 of R49. -/
def cand08 (w : Nat) : Option (Instr × Bool) :=
  match w % 128 with
  | 0 => some (.cmpEq (fld w 28 4) (fld w 17 5) (fld w 12 5) (fld w 7 5), true)
  | 1 => some (.cmpNe (fld w 28 4) (fld w 17 5) (fld w 12 5) (fld w 7 5), true)
  | 2 => some (.cmpLtI64 (fld w 28 4) (fld w 17 5) (fld w 12 5) (fld w 7 5), true)
  | 3 => some (.cmpGeI64 (fld w 28 4) (fld w 17 5) (fld w 12 5) (fld w 7 5), true)
  | 4 => some (.cmpLtN64 (fld w 28 4) (fld w 17 5) (fld w 12 5) (fld w 7 5), true)
  | 5 => some (.cmpGeN64 (fld w 28 4) (fld w 17 5) (fld w 12 5) (fld w 7 5), true)
  | 6 => some (.tst (fld w 28 4) (fld w 17 5) (fld w 12 5) (fld w 7 5), true)
  | _ => none

/-- Major 0x09 of R49. -/
def cand09 (w : Nat) : Option (Instr × Bool) :=
  match w % 128 with
  | 0 => some (.gand (fld w 28 4) (fld w 17 5) (fld w 12 5) (fld w 7 5), true)
  | 1 => some (.gor (fld w 28 4) (fld w 17 5) (fld w 12 5) (fld w 7 5), true)
  | 2 => some (.gxor (fld w 28 4) (fld w 17 5) (fld w 12 5) (fld w 7 5), true)
  | 3 => some (.gandn (fld w 28 4) (fld w 17 5) (fld w 12 5) (fld w 7 5), true)
  | 4 => some (.gmov (fld w 28 4) (fld w 17 5) (fld w 12 5), isZero w 7 5)
  | 5 => some (.gnot (fld w 28 4) (fld w 17 5) (fld w 12 5), isZero w 7 5)
  | 6 => some (.gset (fld w 28 4) (fld w 17 5), isZero w 7 10)
  | 7 => some (.gclr (fld w 28 4) (fld w 17 5), isZero w 7 10)
  | _ => none

/-- Major 0x0A of R49. -/
def cand0A (w : Nat) : Option (Instr × Bool) :=
  match w % 8 with
  | 0 => some (.sel (fld w 28 4) (fld w 19 3) (fld w 18 1) (fld w 13 5) (fld w 8 5), isZero w 3 5)
  | _ => none

/-- Major 0x0B of R49. -/
def cand0B (w : Nat) : Option (Instr × Bool) :=
  if w / 65536 % 2 == 0 then some (.movi (fld w 28 4) (fld w 17 5) (fld w 0 16), true) else some (.lih (fld w 28 4) (fld w 17 5) (fld w 0 16), true)

/-- Major 0x0C of R49. -/
def cand0C (w : Nat) : Option (Instr × Bool) :=
  some (.br (fld w 28 4) (fld w 19 3) (fld w 18 1) (fld w 0 18), true)

/-- Major 0x0D of R49. -/
def cand0D (w : Nat) : Option (Instr × Bool) :=
  some (.jal (fld w 28 4) (fld w 17 5) (fld w 0 17), true)

/-- Major 0x0E of R49. -/
def cand0E (w : Nat) : Option (Instr × Bool) :=
  match w % 128 with
  | 0 => some (.jr (fld w 28 4) (fld w 17 5) (fld w 12 5), isZero w 7 5)
  | _ => none

/-- Major 0x0F of R49. -/
def cand0F (w : Nat) : Option (Instr × Bool) :=
  match w / 512 % 8 with
  | 0 => some (.lea1 (fld w 28 4) (fld w 17 5) (fld w 12 5) (fld w 0 9), true)
  | 1 => some (.lea2 (fld w 28 4) (fld w 17 5) (fld w 12 5) (fld w 0 9), true)
  | 2 => some (.lea4 (fld w 28 4) (fld w 17 5) (fld w 12 5) (fld w 0 9), true)
  | 3 => some (.lea8 (fld w 28 4) (fld w 17 5) (fld w 12 5) (fld w 0 9), true)
  | _ => none

/-- Major 0x10 of R49. -/
def cand10 (w : Nat) : Option (Instr × Bool) :=
  match w / 512 % 8 with
  | 0 => some (.ldI8 (fld w 28 4) (fld w 17 5) (fld w 12 5) (fld w 0 9), true)
  | 1 => some (.ldN8 (fld w 28 4) (fld w 17 5) (fld w 12 5) (fld w 0 9), true)
  | 2 => some (.ldI16 (fld w 28 4) (fld w 17 5) (fld w 12 5) (fld w 0 9), true)
  | 3 => some (.ldN16 (fld w 28 4) (fld w 17 5) (fld w 12 5) (fld w 0 9), true)
  | 4 => some (.ldI32 (fld w 28 4) (fld w 17 5) (fld w 12 5) (fld w 0 9), true)
  | 5 => some (.ldN32 (fld w 28 4) (fld w 17 5) (fld w 12 5) (fld w 0 9), true)
  | 6 => some (.ldN64 (fld w 28 4) (fld w 17 5) (fld w 12 5) (fld w 0 9), true)
  | _ => none

/-- Major 0x11 of R49. -/
def cand11 (w : Nat) : Option (Instr × Bool) :=
  match w % 8 with
  | 0 => some (.stN8 (fld w 28 4) (fld w 19 3) (fld w 18 1) (fld w 13 5) (fld w 8 5) (fld w 3 5), true)
  | 1 => some (.stN16 (fld w 28 4) (fld w 19 3) (fld w 18 1) (fld w 13 5) (fld w 8 5) (fld w 3 5), true)
  | 2 => some (.stN32 (fld w 28 4) (fld w 19 3) (fld w 18 1) (fld w 13 5) (fld w 8 5) (fld w 3 5), true)
  | 3 => some (.stN64 (fld w 28 4) (fld w 19 3) (fld w 18 1) (fld w 13 5) (fld w 8 5) (fld w 3 5), true)
  | _ => none

/-- Major 0x12 of R49. -/
def cand12 (w : Nat) : Option (Instr × Bool) :=
  match w % 8 with
  | 0 => some (.amoSwap (fld w 28 4) (fld w 19 3) (fld w 18 1) (fld w 13 5) (fld w 8 5) (fld w 3 5), true)
  | 1 => some (.amoAdd (fld w 28 4) (fld w 19 3) (fld w 18 1) (fld w 13 5) (fld w 8 5) (fld w 3 5), true)
  | 2 => some (.amoAnd (fld w 28 4) (fld w 19 3) (fld w 18 1) (fld w 13 5) (fld w 8 5) (fld w 3 5), true)
  | 3 => some (.amoOr (fld w 28 4) (fld w 19 3) (fld w 18 1) (fld w 13 5) (fld w 8 5) (fld w 3 5), true)
  | 4 => some (.amoXor (fld w 28 4) (fld w 19 3) (fld w 18 1) (fld w 13 5) (fld w 8 5) (fld w 3 5), true)
  | 5 => some (.amoMax (fld w 28 4) (fld w 19 3) (fld w 18 1) (fld w 13 5) (fld w 8 5) (fld w 3 5), true)
  | 6 => some (.amoMin (fld w 28 4) (fld w 19 3) (fld w 18 1) (fld w 13 5) (fld w 8 5) (fld w 3 5), true)
  | 7 => some (.amoCas (fld w 28 4) (fld w 19 3) (fld w 18 1) (fld w 13 5) (fld w 8 5) (fld w 3 5), true)
  | _ => none

/-- Major 0x13 of R49. -/
def cand13 (w : Nat) : Option (Instr × Bool) :=
  match w % 8 with
  | 0 => some (.redAdd (fld w 28 4) (fld w 19 3) (fld w 18 1) (fld w 8 5) (fld w 3 5), isZero w 13 5)
  | 1 => some (.redAnd (fld w 28 4) (fld w 19 3) (fld w 18 1) (fld w 8 5) (fld w 3 5), isZero w 13 5)
  | 2 => some (.redOr (fld w 28 4) (fld w 19 3) (fld w 18 1) (fld w 8 5) (fld w 3 5), isZero w 13 5)
  | 3 => some (.redXor (fld w 28 4) (fld w 19 3) (fld w 18 1) (fld w 8 5) (fld w 3 5), isZero w 13 5)
  | 4 => some (.redMax (fld w 28 4) (fld w 19 3) (fld w 18 1) (fld w 8 5) (fld w 3 5), isZero w 13 5)
  | 5 => some (.redMin (fld w 28 4) (fld w 19 3) (fld w 18 1) (fld w 8 5) (fld w 3 5), isZero w 13 5)
  | 6 => some (.redFaddF32 (fld w 28 4) (fld w 19 3) (fld w 18 1) (fld w 8 5) (fld w 3 5), isZero w 13 5)
  | 7 => some (.redFaddF64 (fld w 28 4) (fld w 19 3) (fld w 18 1) (fld w 8 5) (fld w 3 5), isZero w 13 5)
  | _ => none

/-- Major 0x14 of R49. -/
def cand14 (w : Nat) : Option (Instr × Bool) :=
  match w % 8 with
  | 0 => some (.fence (fld w 28 4) (fld w 3 3), isZero w 6 16)
  | 1 => some (.ldAcq (fld w 28 4) (fld w 13 5) (fld w 8 5) (fld w 3 3), isZero w 6 2 && isZero w 18 4)
  | 2 => some (.stRel (fld w 28 4) (fld w 19 3) (fld w 18 1) (fld w 13 3) (fld w 8 5) (fld w 3 5), isZero w 16 2)
  | 3 => some (.ldAcqPromote (fld w 28 4) (fld w 13 5) (fld w 8 5) (fld w 3 3), isZero w 6 2 && isZero w 18 4)
  | 4 => some (.amoSwapPromote (fld w 28 4) (fld w 19 3) (fld w 18 1) (fld w 13 5) (fld w 8 5) (fld w 3 5), true)
  | 5 => some (.amoAddPromote (fld w 28 4) (fld w 19 3) (fld w 18 1) (fld w 13 5) (fld w 8 5) (fld w 3 5), true)
  | 6 => some (.amoCasPromote (fld w 28 4) (fld w 19 3) (fld w 18 1) (fld w 13 5) (fld w 8 5) (fld w 3 5), true)
  | _ => none

/-- Major 0x15 of R49. -/
def cand15 (w : Nat) : Option (Instr × Bool) :=
  match w % 128 with
  | 0 => some (.tbarInit (fld w 28 4) (fld w 12 5) (fld w 7 5), isZero w 17 5)
  | 1 => some (.tbarArrive (fld w 28 4) (fld w 17 5) (fld w 12 5) (fld w 7 5), true)
  | 2 => some (.tbarExpect (fld w 28 4) (fld w 17 5) (fld w 12 5) (fld w 7 5), true)
  | 3 => some (.tbarWait (fld w 28 4) (fld w 12 5) (fld w 7 5), isZero w 17 5)
  | 4 => some (.tbarTest (fld w 28 4) (fld w 17 5) (fld w 12 5) (fld w 7 5), true)
  | _ => none

/-- Major 0x16 of R49. -/
def cand16 (w : Nat) : Option (Instr × Bool) :=
  match w / 512 % 8 with
  | 0 => some (.bldN8 (fld w 28 4) (fld w 17 5) (fld w 12 5) (fld w 0 9), true)
  | 1 => some (.bldN16 (fld w 28 4) (fld w 17 5) (fld w 12 5) (fld w 0 9), true)
  | 2 => some (.bldN32 (fld w 28 4) (fld w 17 5) (fld w 12 5) (fld w 0 9), true)
  | 3 => some (.bldN64 (fld w 28 4) (fld w 17 5) (fld w 12 5) (fld w 0 9), true)
  | 4 => some (.bstN8 (fld w 28 4) (fld w 17 5) (fld w 12 5) (fld w 0 9), true)
  | 5 => some (.bstN16 (fld w 28 4) (fld w 17 5) (fld w 12 5) (fld w 0 9), true)
  | 6 => some (.bstN32 (fld w 28 4) (fld w 17 5) (fld w 12 5) (fld w 0 9), true)
  | 7 => some (.bstN64 (fld w 28 4) (fld w 17 5) (fld w 12 5) (fld w 0 9), true)
  | _ => none

/-- Major 0x18 of R49. -/
def cand18 (w : Nat) : Option (Instr × Bool) :=
  if w / 524288 % 2 == 0 then some (.engCmd (fld w 28 4) (fld w 20 2) (fld w 14 5) (fld w 9 5) (fld w 0 9), true) else some (.engCmdReloc (fld w 28 4) (fld w 14 5) (fld w 9 5) (fld w 0 9), (w / 1048576 % 4 == 1))

/-- Major 0x19 of R49. -/
def cand19 (w : Nat) : Option (Instr × Bool) :=
  match w % 128 with
  | 0 => some (.engFence (fld w 28 4) (fld w 12 5), isZero w 7 5 && isZero w 17 5)
  | 1 => some (.engBusy (fld w 28 4) (fld w 17 5), isZero w 7 10)
  | 2 => some (.bqEnq (fld w 28 4) (fld w 17 5) (fld w 12 5), isZero w 7 5)
  | 3 => some (.rqDeq (fld w 28 4) (fld w 17 5) (fld w 12 5), isZero w 7 5)
  | 4 => some (.fmtEnq (fld w 28 4) (fld w 12 5), isZero w 7 5 && isZero w 17 5)
  | _ => none

/-- Major 0x1A of R49. -/
def cand1A (w : Nat) : Option (Instr × Bool) :=
  match w % 128 with
  | 0 => some (.endr (fld w 28 4), isZero w 7 15)
  | 1 => if w / 65536 % 2 == 0 then some (.arg (fld w 28 4) (fld w 17 5) (fld w 12 4), isZero w 7 5) else some (.argWrite (fld w 28 4) (fld w 17 5) (fld w 12 4) (fld w 7 5), true)
  | 2 => some (.rqEnq (fld w 28 4) (fld w 12 5), isZero w 7 5 && isZero w 17 5)
  | 3 => some (.bqBr (fld w 28 4) (fld w 7 15), true)
  | 4 => some (.bqBrn (fld w 28 4) (fld w 7 15), true)
  | _ => none

/-- Major 0x1B of R49. -/
def cand1B (w : Nat) : Option (Instr × Bool) :=
  if w / 524288 % 2 == 0 then some (.loopImm (fld w 28 4) (fld w 20 2) (fld w 7 12) (fld w 0 7), true) else some (.loopReg (fld w 28 4) (fld w 20 2) (fld w 14 5) (fld w 0 7), isZero w 7 7)

/-- Major 0x1C of R49. -/
def cand1C (w : Nat) : Option (Instr × Bool) :=
  some (.waitc (fld w 28 4) (fld w 12 4) (fld w 8 4) (fld w 4 4) (fld w 0 4), isZero w 16 6)

/-- Major 0x1D of R49. -/
def cand1D (w : Nat) : Option (Instr × Bool) :=
  match w % 128 with
  | 0 => some (.taskEnq (fld w 28 4) (fld w 12 5) (fld w 7 5), isZero w 17 5)
  | 1 => some (.taskDone (fld w 28 4) (fld w 12 5), isZero w 7 5 && isZero w 17 5)
  | 2 => some (.taskYield (fld w 28 4) (fld w 12 5), isZero w 7 5 && isZero w 17 5)
  | _ => none

/-- Major 0x1E of R49. -/
def cand1E (w : Nat) : Option (Instr × Bool) :=
  match w % 128 with
  | 0 => some (.hypOpen (fld w 28 4) (fld w 17 5) (fld w 12 5), isZero w 7 5)
  | 1 => some (.hypEnter (fld w 28 4) (fld w 12 5), isZero w 7 5 && isZero w 17 5)
  | 2 => some (.hypOk (fld w 28 4) (fld w 17 5) (fld w 12 5), isZero w 7 5)
  | 3 => some (.hypNo (fld w 28 4) (fld w 17 5) (fld w 12 5), isZero w 7 5)
  | 4 => some (.hypQuery (fld w 28 4) (fld w 17 5) (fld w 12 5), isZero w 7 5)
  | _ => none

/-- Major 0x20 of R49. -/
def cand20 (w : Nat) : Option (Instr × Bool) :=
  match w / 262144 % 16 with
  | 0 => some (.cpy (fld w 28 4) (fld w 14 4), isZero w 0 14)
  | 1 => some (.cpyT (fld w 28 4) (fld w 14 4) (fld w 10 4) (fld w 6 4), isZero w 0 6)
  | 2 => some (.cdSet (fld w 28 4) (fld w 14 4) (fld w 6 4) (fld w 0 6), isZero w 10 4)
  | _ => none

/-- Major 0x21 of R49. -/
def cand21 (w : Nat) : Option (Instr × Bool) :=
  match w / 262144 % 16 with
  | 0 => if w % 2 == 0 then some (.gath (fld w 28 4) (fld w 14 4), isZero w 1 13) else some (.gathT (fld w 28 4) (fld w 14 4) (fld w 10 4) (fld w 6 4), isZero w 1 5)
  | 1 => if w % 2 == 0 then some (.scat (fld w 28 4) (fld w 14 4), isZero w 1 13) else some (.scatT (fld w 28 4) (fld w 14 4) (fld w 10 4) (fld w 6 4), isZero w 1 5)
  | _ => none

/-- Major 0x22 of R49. -/
def cand22 (w : Nat) : Option (Instr × Bool) :=
  match w / 262144 % 16 with
  | 0 => if w % 2 == 0 then some (.mcast (fld w 28 4) (fld w 14 4), isZero w 1 13) else some (.mcastT (fld w 28 4) (fld w 14 4) (fld w 10 4) (fld w 6 4), isZero w 1 5)
  | _ => none

/-- Major 0x23 of R49. -/
def cand23 (w : Nat) : Option (Instr × Bool) :=
  match w / 262144 % 16 with
  | 0 => if w % 2 == 0 then some (.sclLd (fld w 28 4) (fld w 14 4), isZero w 1 13) else some (.sclLdT (fld w 28 4) (fld w 14 4) (fld w 10 4) (fld w 6 4), isZero w 1 5)
  | 1 => some (.pref (fld w 28 4) (fld w 14 4), isZero w 0 14)
  | _ => none

/-- Major 0x24 of R49. -/
def cand24 (w : Nat) : Option (Instr × Bool) :=
  match w / 262144 % 16 with
  | 0 => some (.mm (fld w 28 4) (fld w 14 4) (fld w 10 4) (fld w 6 4) (fld w 3 1) (fld w 2 1) (fld w 1 1) (fld w 0 1), isZero w 4 2)
  | 1 => some (.mmG (fld w 28 4) (fld w 14 4) (fld w 10 4) (fld w 6 4) (fld w 3 3) (fld w 2 1) (fld w 1 1), isZero w 0 1)
  | _ => none

/-- Major 0x25 of R49. -/
def cand25 (w : Nat) : Option (Instr × Bool) :=
  match w / 262144 % 16 with
  | 0 => some (.accZero (fld w 28 4) (fld w 14 4), isZero w 0 14)
  | 1 => some (.accRd (fld w 28 4) (fld w 14 4) (fld w 10 4), isZero w 0 10)
  | 2 => some (.accWr (fld w 28 4) (fld w 14 4) (fld w 10 4), isZero w 0 10)
  | _ => none

/-- Major 0x26 of R49. -/
def cand26 (w : Nat) : Option (Instr × Bool) :=
  match w / 262144 % 16 with
  | 0 => some (.tdSet (fld w 28 4) (fld w 14 4) (fld w 10 4) (fld w 6 4), isZero w 0 6)
  | _ => none

/-- Major 0x28 of R49. -/
def cand28 (w : Nat) : Option (Instr × Bool) :=
  match w / 262144 % 16 with
  | 0 => some (.vadd (fld w 28 4) (fld w 14 4) (fld w 10 4) (fld w 6 4) (fld w 5 1) (fld w 4 1) (fld w 3 1) (fld w 0 3), true)
  | 1 => some (.vsub (fld w 28 4) (fld w 14 4) (fld w 10 4) (fld w 6 4) (fld w 5 1) (fld w 4 1) (fld w 3 1) (fld w 0 3), true)
  | 2 => some (.vmul (fld w 28 4) (fld w 14 4) (fld w 10 4) (fld w 6 4) (fld w 5 1) (fld w 4 1) (fld w 3 1) (fld w 0 3), true)
  | 3 => some (.vdiv (fld w 28 4) (fld w 14 4) (fld w 10 4) (fld w 6 4) (fld w 5 1) (fld w 4 1) (fld w 3 1) (fld w 0 3), true)
  | 4 => some (.vmin (fld w 28 4) (fld w 14 4) (fld w 10 4) (fld w 6 4) (fld w 5 1) (fld w 4 1) (fld w 3 1) (fld w 0 3), true)
  | 5 => some (.vmax (fld w 28 4) (fld w 14 4) (fld w 10 4) (fld w 6 4) (fld w 5 1) (fld w 4 1) (fld w 3 1) (fld w 0 3), true)
  | 6 => some (.vand (fld w 28 4) (fld w 14 4) (fld w 10 4) (fld w 6 4) (fld w 5 1) (fld w 4 1) (fld w 3 1) (fld w 0 3), true)
  | 7 => some (.vor (fld w 28 4) (fld w 14 4) (fld w 10 4) (fld w 6 4) (fld w 5 1) (fld w 4 1) (fld w 3 1) (fld w 0 3), true)
  | 8 => some (.vxor (fld w 28 4) (fld w 14 4) (fld w 10 4) (fld w 6 4) (fld w 5 1) (fld w 4 1) (fld w 3 1) (fld w 0 3), true)
  | 9 => some (.vshl (fld w 28 4) (fld w 14 4) (fld w 10 4) (fld w 6 4) (fld w 5 1) (fld w 4 1) (fld w 3 1) (fld w 0 3), true)
  | 10 => some (.vshr (fld w 28 4) (fld w 14 4) (fld w 10 4) (fld w 6 4) (fld w 5 1) (fld w 4 1) (fld w 3 1) (fld w 0 3), true)
  | _ => none

/-- Major 0x29 of R49. -/
def cand29 (w : Nat) : Option (Instr × Bool) :=
  match w / 262144 % 16 with
  | 0 => some (.vfma (fld w 28 4) (fld w 14 4) (fld w 10 4) (fld w 6 4) (fld w 5 1) (fld w 4 1) (fld w 0 3), isZero w 3 1)
  | 1 => some (.vfms (fld w 28 4) (fld w 14 4) (fld w 10 4) (fld w 6 4) (fld w 5 1) (fld w 4 1) (fld w 0 3), isZero w 3 1)
  | 2 => some (.vfnma (fld w 28 4) (fld w 14 4) (fld w 10 4) (fld w 6 4) (fld w 5 1) (fld w 4 1) (fld w 0 3), isZero w 3 1)
  | 3 => some (.vsel (fld w 28 4) (fld w 14 4) (fld w 10 4) (fld w 6 4) (fld w 5 1) (fld w 4 1) (fld w 0 3), isZero w 3 1)
  | 4 => some (.vclamp (fld w 28 4) (fld w 14 4) (fld w 10 4) (fld w 6 4) (fld w 5 1) (fld w 4 1) (fld w 0 3), isZero w 3 1)
  | _ => none

/-- Major 0x2A of R49. -/
def cand2A (w : Nat) : Option (Instr × Bool) :=
  match w / 262144 % 16 with
  | 0 => some (.vcmpEq (fld w 28 4) (fld w 14 4) (fld w 10 4) (fld w 6 4) (fld w 5 1) (fld w 4 1) (fld w 3 1) (fld w 0 3), true)
  | 1 => some (.vcmpLt (fld w 28 4) (fld w 14 4) (fld w 10 4) (fld w 6 4) (fld w 5 1) (fld w 4 1) (fld w 3 1) (fld w 0 3), true)
  | 2 => some (.vcmpLe (fld w 28 4) (fld w 14 4) (fld w 10 4) (fld w 6 4) (fld w 5 1) (fld w 4 1) (fld w 3 1) (fld w 0 3), true)
  | 3 => some (.vcvt (fld w 28 4) (fld w 14 4) (fld w 10 4) (fld w 5 1), isZero w 0 5 && isZero w 6 4)
  | 4 => some (.vnot (fld w 28 4) (fld w 14 4) (fld w 10 4) (fld w 5 1) (fld w 3 1) (fld w 0 3), isZero w 4 1 && isZero w 6 4)
  | 5 => some (.vabs (fld w 28 4) (fld w 14 4) (fld w 10 4) (fld w 5 1) (fld w 3 1) (fld w 0 3), isZero w 4 1 && isZero w 6 4)
  | 6 => some (.vneg (fld w 28 4) (fld w 14 4) (fld w 10 4) (fld w 5 1) (fld w 3 1) (fld w 0 3), isZero w 4 1 && isZero w 6 4)
  | 7 => some (.vmov (fld w 28 4) (fld w 14 4) (fld w 10 4) (fld w 5 1) (fld w 3 1) (fld w 0 3), isZero w 4 1 && isZero w 6 4)
  | _ => none

/-- Major 0x2B of R49. -/
def cand2B (w : Nat) : Option (Instr × Bool) :=
  match w / 262144 % 16 with
  | 0 => some (.vexp2 (fld w 28 4) (fld w 14 4) (fld w 10 4) (fld w 5 1) (fld w 3 1), isZero w 0 3 && isZero w 4 1 && isZero w 6 4)
  | 1 => some (.vlog2 (fld w 28 4) (fld w 14 4) (fld w 10 4) (fld w 5 1) (fld w 3 1), isZero w 0 3 && isZero w 4 1 && isZero w 6 4)
  | 2 => some (.vrcp (fld w 28 4) (fld w 14 4) (fld w 10 4) (fld w 5 1) (fld w 3 1), isZero w 0 3 && isZero w 4 1 && isZero w 6 4)
  | 3 => some (.vrsq (fld w 28 4) (fld w 14 4) (fld w 10 4) (fld w 5 1) (fld w 3 1), isZero w 0 3 && isZero w 4 1 && isZero w 6 4)
  | 4 => some (.vsqrt (fld w 28 4) (fld w 14 4) (fld w 10 4) (fld w 5 1) (fld w 3 1), isZero w 0 3 && isZero w 4 1 && isZero w 6 4)
  | 5 => some (.vsin (fld w 28 4) (fld w 14 4) (fld w 10 4) (fld w 5 1) (fld w 3 1), isZero w 0 3 && isZero w 4 1 && isZero w 6 4)
  | 6 => some (.vcos (fld w 28 4) (fld w 14 4) (fld w 10 4) (fld w 5 1) (fld w 3 1), isZero w 0 3 && isZero w 4 1 && isZero w 6 4)
  | 7 => some (.vtanh (fld w 28 4) (fld w 14 4) (fld w 10 4) (fld w 5 1) (fld w 3 1), isZero w 0 3 && isZero w 4 1 && isZero w 6 4)
  | _ => none

/-- Major 0x2C of R49. -/
def cand2C (w : Nat) : Option (Instr × Bool) :=
  match w / 262144 % 16 with
  | 0 => some (.vrsum (fld w 28 4) (fld w 14 4) (fld w 10 4) (fld w 0 3), isZero w 3 7)
  | 1 => some (.vrmax (fld w 28 4) (fld w 14 4) (fld w 10 4) (fld w 0 3), isZero w 3 7)
  | 2 => some (.vrmin (fld w 28 4) (fld w 14 4) (fld w 10 4) (fld w 0 3), isZero w 3 7)
  | 3 => some (.vrsumsq (fld w 28 4) (fld w 14 4) (fld w 10 4) (fld w 0 3), isZero w 3 7)
  | 4 => some (.vrargmax (fld w 28 4) (fld w 14 4) (fld w 10 4) (fld w 0 3), isZero w 3 7)
  | _ => none

/-- Major 0x2D of R49. -/
def cand2D (w : Nat) : Option (Instr × Bool) :=
  match w / 262144 % 16 with
  | 0 => some (.vchBegin (fld w 28 4) (fld w 14 4), isZero w 0 14)
  | 1 => some (.vchEnd (fld w 28 4), isZero w 0 18)
  | 2 => some (.vdefer (fld w 28 4) (fld w 14 4) (fld w 10 3) (fld w 0 4), (w / 16 % 64 == 2) && isZero w 13 1)
  | 3 => some (.vdrain (fld w 28 4) (fld w 14 4) (fld w 0 4), isZero w 4 10)
  | _ => none

/-- Major 0x2E of R49. -/
def cand2E (w : Nat) : Option (Instr × Bool) :=
  match w / 262144 % 16 with
  | 0 => some (.rgnSet (fld w 28 4) (fld w 14 4) (fld w 10 4) (fld w 6 4), isZero w 0 6)
  | _ => none

/-- Major 0x2F of R49. -/
def cand2F (w : Nat) : Option (Instr × Bool) :=
  match w / 262144 % 16 with
  | 0 => some (.qrGen (fld w 28 4) (fld w 14 4) (fld w 10 4) (fld w 6 4), isZero w 0 6)
  | _ => none

/-- Major 0x30 of R49. -/
def cand30 (w : Nat) : Option (Instr × Bool) :=
  match w / 262144 % 16 with
  | 0 => some (.srfAlloc (fld w 28 4) (fld w 14 4), isZero w 0 14)
  | 1 => some (.srfFree (fld w 28 4) (fld w 14 4), isZero w 0 14)
  | 2 => some (.srfLd (fld w 28 4) (fld w 14 4) (fld w 10 4), isZero w 0 10)
  | 3 => some (.srfSt (fld w 28 4) (fld w 14 4) (fld w 10 4), isZero w 0 10)
  | 4 => some (.srfZero (fld w 28 4) (fld w 14 4), isZero w 0 14)
  | _ => none

/-- Major 0x31 of R49. -/
def cand31 (w : Nat) : Option (Instr × Bool) :=
  match w / 262144 % 16 with
  | 0 => some (.opdLd (fld w 28 4) (fld w 14 4) (fld w 10 4), isZero w 0 10)
  | _ => none

/-- Major 0x32 of R49. -/
def cand32 (w : Nat) : Option (Instr × Bool) :=
  match w / 262144 % 16 with
  | 0 => if w / 2 % 2 == 0 then some (.scan (fld w 28 4) (fld w 14 4) (fld w 6 4), isZero w 0 1 && isZero w 2 4 && isZero w 10 4) else some (.scanSw (fld w 28 4) (fld w 14 4) (fld w 10 4) (fld w 6 4), isZero w 0 1 && isZero w 2 4)
  | 1 => some (.scanRed (fld w 28 4) (fld w 14 4) (fld w 10 4) (fld w 6 4), isZero w 0 6)
  | 2 => if w % 2 == 0 then some (.scanApply (fld w 28 4) (fld w 14 4) (fld w 10 4) (fld w 6 4), isZero w 1 5) else some (.scanApplyFirst (fld w 28 4) (fld w 14 4) (fld w 10 4) (fld w 6 4), isZero w 1 5)
  | _ => none

/-- Major 0x33 of R49. -/
def cand33 (w : Nat) : Option (Instr × Bool) :=
  match w / 262144 % 16 with
  | 0 => some (.nscanUp (fld w 28 4) (fld w 14 4) (fld w 10 4) (fld w 6 4), isZero w 0 6)
  | 1 => some (.nscanDown (fld w 28 4) (fld w 14 4) (fld w 10 4) (fld w 6 4), isZero w 0 6)
  | _ => none

/-- Major 0x34 of R49. -/
def cand34 (w : Nat) : Option (Instr × Bool) :=
  match w / 262144 % 16 with
  | 0 => if w / 32 % 2 == 0 then some (.carrySendIn (fld w 28 4) (fld w 14 4) (fld w 10 4) (fld w 6 4), isZero w 0 5) else some (.carrySendOut (fld w 28 4) (fld w 14 4) (fld w 10 4) (fld w 6 4), isZero w 0 5)
  | 1 => match w / 16 % 4 with
    | 0 => some (.carryRecvIn (fld w 28 4) (fld w 14 4) (fld w 10 4) (fld w 6 4), isZero w 0 4)
    | 1 => some (.carryRecvCombIn (fld w 28 4) (fld w 14 4) (fld w 10 4) (fld w 6 4) (fld w 0 4), true)
    | 2 => some (.carryRecvOut (fld w 28 4) (fld w 14 4) (fld w 10 4) (fld w 6 4), isZero w 0 4)
    | _ => some (.carryRecvCombOut (fld w 28 4) (fld w 14 4) (fld w 10 4) (fld w 6 4) (fld w 0 4), true)
  | _ => none

/-- Major 0x35 of R49. -/
def cand35 (w : Nat) : Option (Instr × Bool) :=
  match w / 262144 % 16 with
  | 0 => if w / 8 % 2 == 0 then some (.step (fld w 28 4) (fld w 14 4) (fld w 10 4) (fld w 6 4), isZero w 0 3 && isZero w 4 2) else some (.stepY (fld w 28 4) (fld w 14 4) (fld w 10 4) (fld w 6 4) (fld w 0 3), isZero w 4 2)
  | _ => none

/-- Major 0x36 of R49. -/
def cand36 (w : Nat) : Option (Instr × Bool) :=
  match w / 262144 % 16 with
  | 0 => some (.swSet (fld w 28 4) (fld w 14 4) (fld w 10 4) (fld w 6 4), isZero w 0 6)
  | _ => none

/-- Major 0x38 of R49. -/
def cand38 (w : Nat) : Option (Instr × Bool) :=
  match w % 128 with
  | 0 => some (.qrDirld (fld w 28 4) (fld w 12 5) (fld w 7 5), isZero w 17 5)
  | 1 => some (.qrSeed (fld w 28 4) (fld w 12 5), isZero w 7 5 && isZero w 17 5)
  | 2 => some (.qrPt (fld w 28 4) (fld w 17 5) (fld w 12 5) (fld w 7 5), true)
  | _ => none

/-- Major 0x39 of R49. -/
def cand39 (w : Nat) : Option (Instr × Bool) :=
  match w % 128 with
  | 0 => some (.smpDraw (fld w 28 4) (fld w 12 5), isZero w 7 5 && isZero w 17 5)
  | 1 => some (.smpCheck (fld w 28 4) (fld w 12 5) (fld w 7 5), isZero w 17 5)
  | 2 => some (.smpResid (fld w 28 4) (fld w 12 5) (fld w 7 5), isZero w 17 5)
  | 3 => some (.smpCfg (fld w 28 4) (fld w 12 5) (fld w 7 5), isZero w 17 5)
  | 4 => some (.smpStop (fld w 28 4) (fld w 12 5) (fld w 7 5), isZero w 17 5)
  | _ => none

/-- Major 0x3A of R49. -/
def cand3A (w : Nat) : Option (Instr × Bool) :=
  match w % 128 with
  | 0 => some (.logAppend (fld w 28 4) (fld w 17 5) (fld w 12 5), isZero w 7 5)
  | _ => none

/-- Major 0x3B of R49. -/
def cand3B (w : Nat) : Option (Instr × Bool) :=
  match w % 128 with
  | 0 => some (.collLoad (fld w 28 4) (fld w 12 5) (fld w 7 5), isZero w 17 5)
  | 1 => some (.collRun (fld w 28 4) (fld w 12 5) (fld w 7 5), isZero w 17 5)
  | 2 => some (.collWait (fld w 28 4) (fld w 12 5), isZero w 7 5 && isZero w 17 5)
  | 3 => some (.trigAdd (fld w 28 4) (fld w 12 5) (fld w 7 5), isZero w 17 5)
  | _ => none

/-- Major 0x3C of R49. -/
def cand3C (w : Nat) : Option (Instr × Bool) :=
  match w % 128 with
  | 0 => some (.stc (fld w 28 4) (fld w 12 5) (fld w 7 5), isZero w 17 5)
  | 1 => some (.winDrain (fld w 28 4) (fld w 12 5), isZero w 7 5 && isZero w 17 5)
  | _ => none

/-- Major 0x3D of R49. -/
def cand3D (w : Nat) : Option (Instr × Bool) :=
  match w % 128 with
  | 0 => some (.digest (fld w 28 4) (fld w 17 5) (fld w 12 5) (fld w 7 5), true)
  | 1 => some (.frameBegin (fld w 28 4) (fld w 12 5), isZero w 7 5 && isZero w 17 5)
  | _ => none

/-- The row that major and funct select (R48 steps 2 and 4), with the test that its unused fields are zero (R36). -/
def candidate (w : Nat) : Option (Instr × Bool) :=
  match majorOf w with
  | 0 => cand00 w
  | 1 => cand01 w
  | 2 => cand02 w
  | 4 => cand04 w
  | 5 => cand05 w
  | 6 => cand06 w
  | 7 => cand07 w
  | 8 => cand08 w
  | 9 => cand09 w
  | 10 => cand0A w
  | 11 => cand0B w
  | 12 => cand0C w
  | 13 => cand0D w
  | 14 => cand0E w
  | 15 => cand0F w
  | 16 => cand10 w
  | 17 => cand11 w
  | 18 => cand12 w
  | 19 => cand13 w
  | 20 => cand14 w
  | 21 => cand15 w
  | 22 => cand16 w
  | 24 => cand18 w
  | 25 => cand19 w
  | 26 => cand1A w
  | 27 => cand1B w
  | 28 => cand1C w
  | 29 => cand1D w
  | 30 => cand1E w
  | 32 => cand20 w
  | 33 => cand21 w
  | 34 => cand22 w
  | 35 => cand23 w
  | 36 => cand24 w
  | 37 => cand25 w
  | 38 => cand26 w
  | 40 => cand28 w
  | 41 => cand29 w
  | 42 => cand2A w
  | 43 => cand2B w
  | 44 => cand2C w
  | 45 => cand2D w
  | 46 => cand2E w
  | 47 => cand2F w
  | 48 => cand30 w
  | 49 => cand31 w
  | 50 => cand32 w
  | 51 => cand33 w
  | 52 => cand34 w
  | 53 => cand35 w
  | 54 => cand36 w
  | 56 => cand38 w
  | 57 => cand39 w
  | 58 => cand3A w
  | 59 => cand3B w
  | 60 => cand3C w
  | 61 => cand3D w
  | _ => none

/-- Why a word does not decode: the step of R48 that failed. Steps 3 and 5 are F.STREAM, the others F.ILLEGAL. -/
inductive DecodeError where
  | step (n : Nat)
  deriving DecidableEq, Repr

/-- The prefixes of a group that have been read so far (R44, R45). -/
structure Prefixes where
  stamp : Option (BitVec 22) := none
  extI : Option (BitVec 21) := none
  extM : Option (BitVec 1 × BitVec 3 × BitVec 2 × BitVec 2) := none
  /-- The words read, first word first: `n` words precede the base word. -/
  count : Nat := 0
  lastWord : BitVec 32 := 0#32
  /-- The EXT is malformed: step 6 of R48 finds it when the base word has passed the steps before. -/
  bad : Bool := false
  /-- The group has reached its count, where only its own memory work keeps it (R387). -/
  met : Bool := false
  deriving DecidableEq, Repr, Inhabited

/-- An EXT has been read. -/
def Prefixes.hasExt (p : Prefixes) : Bool := p.extI.isSome || p.extM.isSome

/-- Prefix order and prefix ring bits: R48 step 1 (R44, R45). -/
def prefixOk (p : Prefixes) (w : Nat) : Bool :=
  if majorOf w == 1 then p.stamp.isNone && !p.hasExt && w / 2 ^ 28 % 16 == 0
  else if majorOf w == 2 then !p.hasExt && w / 2 ^ 28 % 16 == 0
  else true

/-- The instruction of a word, whatever the stream: R48 steps 2, 4 and 6, with the prefix ring bits of
step 1 (R44). -/
def decodeRaw (w : Nat) : Except DecodeError Instr :=
  if !prefixOk {} w then .error (.step 1)
  else if reservedMajor (majorOf w) then .error (.step 2)
  else match candidate w with
    | none => .error (.step 4)
    | some (i, unusedZero) => if unusedZero && i.wf then .ok i else .error (.step 6)

/-- The bases whose immediate EXT.I widens: the table of R47. -/
def widens (i : Instr) : Bool :=
  match i with
  | .addi ..
  | .andi ..
  | .ori ..
  | .xori ..
  | .slti ..
  | .sltiu ..
  | .movi ..
  | .br ..
  | .jal ..
  | .lea1 ..
  | .lea2 ..
  | .lea4 ..
  | .lea8 ..
  | .ldI8 ..
  | .ldN8 ..
  | .ldI16 ..
  | .ldN16 ..
  | .ldI32 ..
  | .ldN32 ..
  | .ldN64 ..
  | .stN8 ..
  | .stN16 ..
  | .stN32 ..
  | .stN64 ..
  | .bldN8 ..
  | .bldN16 ..
  | .bldN32 ..
  | .bldN64 ..
  | .bstN8 ..
  | .bstN16 ..
  | .bstN32 ..
  | .bstN64 ..
  | .bqBr ..
  | .bqBrn ..
  | .loopImm ..
  | .loopReg .. => true
  | _ => false

/-- The EXT.M combinations that a base accepts: R145 for AMO and RED, R154 for major 0x14. Without EXT.M every base
but the AMO.*.PROMOTE forms is accepted. -/
def extMOk (i : Instr) (m : Option (BitVec 1 × BitVec 3 × BitVec 2 × BitVec 2)) : Bool :=
  match i, m with
  | .amoSwapPromote .., none | .amoAddPromote .., none | .amoCasPromote .., none => false
  | .amoSwapPromote .., some (p, _, o, _) | .amoAddPromote .., some (p, _, o, _) | .amoCasPromote .., some (p, _, o, _) =>
    p == 1#1 && (o == 1#2 || o == 3#2)
  | _, none => true
  | .ldAcq .., some (p, s, o, _) | .ldAcqPromote .., some (p, s, o, _) | .stRel .., some (p, s, o, _) =>
    p == 0#1 && s == 0#3 && o == 0#2
  | .amoSwap .., some (p, s, _, _) | .amoAdd .., some (p, s, _, _) | .amoAnd .., some (p, s, _, _)
  | .amoOr .., some (p, s, _, _) | .amoXor .., some (p, s, _, _) | .amoMax .., some (p, s, _, _)
  | .amoMin .., some (p, s, _, _) | .amoCas .., some (p, s, _, _) => p == 1#1 || s == 0#3
  | .redAdd .., some (p, s, o, _) | .redAnd .., some (p, s, o, _) | .redOr .., some (p, s, o, _)
  | .redXor .., some (p, s, o, _) | .redMax .., some (p, s, o, _) | .redMin .., some (p, s, o, _) =>
    (p == 1#1 || s == 0#3) && (o == 0#2 || o == 2#2)
  | .redFaddF32 .., some (p, s, o, w) | .redFaddF64 .., some (p, s, o, w) =>
    (p == 1#1 || s == 0#3) && (o == 0#2 || o == 2#2) && w == 0#2
  | _, some _ => false

/-- The prefixes that a base word accepts (R47): EXT.I only where it widens, EXT.M only by `extMOk`. -/
def extOk (i : Instr) (p : Prefixes) : Bool :=
  match i with
  | .stamp .. | .extI .. | .extM .. => true
  | i => (p.extI.isNone || widens i) && extMOk i p.extM

/-- Register and guard limits of one stream: in an engine, 5-bit register fields name e0–e15 and the guard field is
zero (R35, R39). -/
def streamFieldsOk (i : Instr) (u : Sqr) : Bool :=
  u == .cc || (i.regs5.all (fun n => n ≤ 15) && (match i.guardField with | some (g, n) => g == 0#3 && n == 0#1 | none => true))

/-- Decoding in stream `u` with prefixes `p` already read: the checks of R48, in order. -/
def decodeIn (u : Sqr) (p : Prefixes) (w : Nat) : Except DecodeError Instr :=
  if !prefixOk p w then .error (.step 1)
  else if reservedMajor (majorOf w) then .error (.step 2)
  else if !majorIn (majorOf w) u then .error (.step 3)
  else match candidate w with
    | none => .error (.step 4)
    | some (i, unusedZero) =>
      if !functIn w u then .error (.step 5)
      else if unusedZero && i.wf && streamFieldsOk i u && extOk i p && !p.bad then .ok i
      else .error (.step 6)

/-- The word of an instruction, from the same tables (R37–R43, R46, R47, R49, R50); an event has none. -/
def encode (i : Instr) : Option Nat :=
  match i with
  | .nop r => some (0 + r.toNat * 268435456)
  | .trap r c => some (1 + r.toNat * 268435456 + c.toNat * 128)
  | .sysr r d n => some (2 + r.toNat * 268435456 + d.toNat * 131072 + n.toNat * 128)
  | .sysw r n b => some (3 + r.toNat * 268435456 + n.toNat * 4096 + b.toNat * 128)
  | .ckpt r a => some (4 + r.toNat * 268435456 + a.toNat * 4096)
  | .stamp c => some (4194304 + c.toNat)
  | .extI h => some (8388608 + h.toNat)
  | .extM p s o w => some (10485760 + p.toNat * 1048576 + s.toNat * 131072 + o.toNat * 32768 + w.toNat * 8192)
  | .add r d a b => some (16777216 + r.toNat * 268435456 + d.toNat * 131072 + a.toNat * 4096 + b.toNat * 128)
  | .sub r d a b => some (16777217 + r.toNat * 268435456 + d.toNat * 131072 + a.toNat * 4096 + b.toNat * 128)
  | .and r d a b => some (16777218 + r.toNat * 268435456 + d.toNat * 131072 + a.toNat * 4096 + b.toNat * 128)
  | .or r d a b => some (16777219 + r.toNat * 268435456 + d.toNat * 131072 + a.toNat * 4096 + b.toNat * 128)
  | .xor r d a b => some (16777220 + r.toNat * 268435456 + d.toNat * 131072 + a.toNat * 4096 + b.toNat * 128)
  | .andn r d a b => some (16777221 + r.toNat * 268435456 + d.toNat * 131072 + a.toNat * 4096 + b.toNat * 128)
  | .minI64 r d a b => some (16777222 + r.toNat * 268435456 + d.toNat * 131072 + a.toNat * 4096 + b.toNat * 128)
  | .maxI64 r d a b => some (16777223 + r.toNat * 268435456 + d.toNat * 131072 + a.toNat * 4096 + b.toNat * 128)
  | .minN64 r d a b => some (16777224 + r.toNat * 268435456 + d.toNat * 131072 + a.toNat * 4096 + b.toNat * 128)
  | .maxN64 r d a b => some (16777225 + r.toNat * 268435456 + d.toNat * 131072 + a.toNat * 4096 + b.toNat * 128)
  | .addI32 r d a b => some (16777226 + r.toNat * 268435456 + d.toNat * 131072 + a.toNat * 4096 + b.toNat * 128)
  | .subI32 r d a b => some (16777227 + r.toNat * 268435456 + d.toNat * 131072 + a.toNat * 4096 + b.toNat * 128)
  | .clz r d a => some (16777228 + r.toNat * 268435456 + d.toNat * 131072 + a.toNat * 4096)
  | .ctz r d a => some (16777229 + r.toNat * 268435456 + d.toNat * 131072 + a.toNat * 4096)
  | .popc r d a => some (16777230 + r.toNat * 268435456 + d.toNat * 131072 + a.toNat * 4096)
  | .addsI64 r d a b => some (16777231 + r.toNat * 268435456 + d.toNat * 131072 + a.toNat * 4096 + b.toNat * 128)
  | .addi r d a i => some (20971520 + r.toNat * 268435456 + d.toNat * 131072 + a.toNat * 4096 + i.toNat)
  | .andi r d a i => some (20972032 + r.toNat * 268435456 + d.toNat * 131072 + a.toNat * 4096 + i.toNat)
  | .ori r d a i => some (20972544 + r.toNat * 268435456 + d.toNat * 131072 + a.toNat * 4096 + i.toNat)
  | .xori r d a i => some (20973056 + r.toNat * 268435456 + d.toNat * 131072 + a.toNat * 4096 + i.toNat)
  | .slti r d a i => some (20973568 + r.toNat * 268435456 + d.toNat * 131072 + a.toNat * 4096 + i.toNat)
  | .sltiu r d a i => some (20974080 + r.toNat * 268435456 + d.toNat * 131072 + a.toNat * 4096 + i.toNat)
  | .sll r d a b => some (25165824 + r.toNat * 268435456 + d.toNat * 131072 + a.toNat * 4096 + b.toNat * 128)
  | .srl r d a b => some (25165856 + r.toNat * 268435456 + d.toNat * 131072 + a.toNat * 4096 + b.toNat * 128)
  | .sra r d a b => some (25165888 + r.toNat * 268435456 + d.toNat * 131072 + a.toNat * 4096 + b.toNat * 128)
  | .ror r d a b => some (25165920 + r.toNat * 268435456 + d.toNat * 131072 + a.toNat * 4096 + b.toNat * 128)
  | .slli r d a n h => some (25165840 + r.toNat * 268435456 + d.toNat * 131072 + a.toNat * 4096 + n.toNat * 128 + h.toNat)
  | .srli r d a n h => some (25165872 + r.toNat * 268435456 + d.toNat * 131072 + a.toNat * 4096 + n.toNat * 128 + h.toNat)
  | .srai r d a n h => some (25165904 + r.toNat * 268435456 + d.toNat * 131072 + a.toNat * 4096 + n.toNat * 128 + h.toNat)
  | .rori r d a n h => some (25165936 + r.toNat * 268435456 + d.toNat * 131072 + a.toNat * 4096 + n.toNat * 128 + h.toNat)
  | .mul r d a b => some (29360128 + r.toNat * 268435456 + d.toNat * 131072 + a.toNat * 4096 + b.toNat * 128)
  | .mulhI64 r d a b => some (29360129 + r.toNat * 268435456 + d.toNat * 131072 + a.toNat * 4096 + b.toNat * 128)
  | .mulhN64 r d a b => some (29360130 + r.toNat * 268435456 + d.toNat * 131072 + a.toNat * 4096 + b.toNat * 128)
  | .divI64 r d a b => some (29360131 + r.toNat * 268435456 + d.toNat * 131072 + a.toNat * 4096 + b.toNat * 128)
  | .divN64 r d a b => some (29360132 + r.toNat * 268435456 + d.toNat * 131072 + a.toNat * 4096 + b.toNat * 128)
  | .remI64 r d a b => some (29360133 + r.toNat * 268435456 + d.toNat * 131072 + a.toNat * 4096 + b.toNat * 128)
  | .remN64 r d a b => some (29360134 + r.toNat * 268435456 + d.toNat * 131072 + a.toNat * 4096 + b.toNat * 128)
  | .cmpEq r d a b => some (33554432 + r.toNat * 268435456 + d.toNat * 131072 + a.toNat * 4096 + b.toNat * 128)
  | .cmpNe r d a b => some (33554433 + r.toNat * 268435456 + d.toNat * 131072 + a.toNat * 4096 + b.toNat * 128)
  | .cmpLtI64 r d a b => some (33554434 + r.toNat * 268435456 + d.toNat * 131072 + a.toNat * 4096 + b.toNat * 128)
  | .cmpGeI64 r d a b => some (33554435 + r.toNat * 268435456 + d.toNat * 131072 + a.toNat * 4096 + b.toNat * 128)
  | .cmpLtN64 r d a b => some (33554436 + r.toNat * 268435456 + d.toNat * 131072 + a.toNat * 4096 + b.toNat * 128)
  | .cmpGeN64 r d a b => some (33554437 + r.toNat * 268435456 + d.toNat * 131072 + a.toNat * 4096 + b.toNat * 128)
  | .tst r d a b => some (33554438 + r.toNat * 268435456 + d.toNat * 131072 + a.toNat * 4096 + b.toNat * 128)
  | .gand r d a b => some (37748736 + r.toNat * 268435456 + d.toNat * 131072 + a.toNat * 4096 + b.toNat * 128)
  | .gor r d a b => some (37748737 + r.toNat * 268435456 + d.toNat * 131072 + a.toNat * 4096 + b.toNat * 128)
  | .gxor r d a b => some (37748738 + r.toNat * 268435456 + d.toNat * 131072 + a.toNat * 4096 + b.toNat * 128)
  | .gandn r d a b => some (37748739 + r.toNat * 268435456 + d.toNat * 131072 + a.toNat * 4096 + b.toNat * 128)
  | .gmov r d a => some (37748740 + r.toNat * 268435456 + d.toNat * 131072 + a.toNat * 4096)
  | .gnot r d a => some (37748741 + r.toNat * 268435456 + d.toNat * 131072 + a.toNat * 4096)
  | .gset r d => some (37748742 + r.toNat * 268435456 + d.toNat * 131072)
  | .gclr r d => some (37748743 + r.toNat * 268435456 + d.toNat * 131072)
  | .sel r g n d a => some (41943040 + r.toNat * 268435456 + g.toNat * 524288 + n.toNat * 262144 + d.toNat * 8192 + a.toNat * 256)
  | .movi r d i => some (46137344 + r.toNat * 268435456 + d.toNat * 131072 + i.toNat)
  | .lih r d i => some (46202880 + r.toNat * 268435456 + d.toNat * 131072 + i.toNat)
  | .br r g n o => some (50331648 + r.toNat * 268435456 + g.toNat * 524288 + n.toNat * 262144 + o.toNat)
  | .jal r d i => some (54525952 + r.toNat * 268435456 + d.toNat * 131072 + i.toNat)
  | .jr r d a => some (58720256 + r.toNat * 268435456 + d.toNat * 131072 + a.toNat * 4096)
  | .lea1 r d a i => some (62914560 + r.toNat * 268435456 + d.toNat * 131072 + a.toNat * 4096 + i.toNat)
  | .lea2 r d a i => some (62915072 + r.toNat * 268435456 + d.toNat * 131072 + a.toNat * 4096 + i.toNat)
  | .lea4 r d a i => some (62915584 + r.toNat * 268435456 + d.toNat * 131072 + a.toNat * 4096 + i.toNat)
  | .lea8 r d a i => some (62916096 + r.toNat * 268435456 + d.toNat * 131072 + a.toNat * 4096 + i.toNat)
  | .ldI8 r d a i => some (67108864 + r.toNat * 268435456 + d.toNat * 131072 + a.toNat * 4096 + i.toNat)
  | .ldN8 r d a i => some (67109376 + r.toNat * 268435456 + d.toNat * 131072 + a.toNat * 4096 + i.toNat)
  | .ldI16 r d a i => some (67109888 + r.toNat * 268435456 + d.toNat * 131072 + a.toNat * 4096 + i.toNat)
  | .ldN16 r d a i => some (67110400 + r.toNat * 268435456 + d.toNat * 131072 + a.toNat * 4096 + i.toNat)
  | .ldI32 r d a i => some (67110912 + r.toNat * 268435456 + d.toNat * 131072 + a.toNat * 4096 + i.toNat)
  | .ldN32 r d a i => some (67111424 + r.toNat * 268435456 + d.toNat * 131072 + a.toNat * 4096 + i.toNat)
  | .ldN64 r d a i => some (67111936 + r.toNat * 268435456 + d.toNat * 131072 + a.toNat * 4096 + i.toNat)
  | .stN8 r g n o a b => some (71303168 + r.toNat * 268435456 + g.toNat * 524288 + n.toNat * 262144 + o.toNat * 8192 + a.toNat * 256 + b.toNat * 8)
  | .stN16 r g n o a b => some (71303169 + r.toNat * 268435456 + g.toNat * 524288 + n.toNat * 262144 + o.toNat * 8192 + a.toNat * 256 + b.toNat * 8)
  | .stN32 r g n o a b => some (71303170 + r.toNat * 268435456 + g.toNat * 524288 + n.toNat * 262144 + o.toNat * 8192 + a.toNat * 256 + b.toNat * 8)
  | .stN64 r g n o a b => some (71303171 + r.toNat * 268435456 + g.toNat * 524288 + n.toNat * 262144 + o.toNat * 8192 + a.toNat * 256 + b.toNat * 8)
  | .amoSwap r g n d a b => some (75497472 + r.toNat * 268435456 + g.toNat * 524288 + n.toNat * 262144 + d.toNat * 8192 + a.toNat * 256 + b.toNat * 8)
  | .amoAdd r g n d a b => some (75497473 + r.toNat * 268435456 + g.toNat * 524288 + n.toNat * 262144 + d.toNat * 8192 + a.toNat * 256 + b.toNat * 8)
  | .amoAnd r g n d a b => some (75497474 + r.toNat * 268435456 + g.toNat * 524288 + n.toNat * 262144 + d.toNat * 8192 + a.toNat * 256 + b.toNat * 8)
  | .amoOr r g n d a b => some (75497475 + r.toNat * 268435456 + g.toNat * 524288 + n.toNat * 262144 + d.toNat * 8192 + a.toNat * 256 + b.toNat * 8)
  | .amoXor r g n d a b => some (75497476 + r.toNat * 268435456 + g.toNat * 524288 + n.toNat * 262144 + d.toNat * 8192 + a.toNat * 256 + b.toNat * 8)
  | .amoMax r g n d a b => some (75497477 + r.toNat * 268435456 + g.toNat * 524288 + n.toNat * 262144 + d.toNat * 8192 + a.toNat * 256 + b.toNat * 8)
  | .amoMin r g n d a b => some (75497478 + r.toNat * 268435456 + g.toNat * 524288 + n.toNat * 262144 + d.toNat * 8192 + a.toNat * 256 + b.toNat * 8)
  | .amoCas r g n d a b => some (75497479 + r.toNat * 268435456 + g.toNat * 524288 + n.toNat * 262144 + d.toNat * 8192 + a.toNat * 256 + b.toNat * 8)
  | .redAdd r g n a b => some (79691776 + r.toNat * 268435456 + g.toNat * 524288 + n.toNat * 262144 + a.toNat * 256 + b.toNat * 8)
  | .redAnd r g n a b => some (79691777 + r.toNat * 268435456 + g.toNat * 524288 + n.toNat * 262144 + a.toNat * 256 + b.toNat * 8)
  | .redOr r g n a b => some (79691778 + r.toNat * 268435456 + g.toNat * 524288 + n.toNat * 262144 + a.toNat * 256 + b.toNat * 8)
  | .redXor r g n a b => some (79691779 + r.toNat * 268435456 + g.toNat * 524288 + n.toNat * 262144 + a.toNat * 256 + b.toNat * 8)
  | .redMax r g n a b => some (79691780 + r.toNat * 268435456 + g.toNat * 524288 + n.toNat * 262144 + a.toNat * 256 + b.toNat * 8)
  | .redMin r g n a b => some (79691781 + r.toNat * 268435456 + g.toNat * 524288 + n.toNat * 262144 + a.toNat * 256 + b.toNat * 8)
  | .redFaddF32 r g n a b => some (79691782 + r.toNat * 268435456 + g.toNat * 524288 + n.toNat * 262144 + a.toNat * 256 + b.toNat * 8)
  | .redFaddF64 r g n a b => some (79691783 + r.toNat * 268435456 + g.toNat * 524288 + n.toNat * 262144 + a.toNat * 256 + b.toNat * 8)
  | .fence r s => some (83886080 + r.toNat * 268435456 + s.toNat * 8)
  | .ldAcq r d a s => some (83886081 + r.toNat * 268435456 + d.toNat * 8192 + a.toNat * 256 + s.toNat * 8)
  | .stRel r g n s a b => some (83886082 + r.toNat * 268435456 + g.toNat * 524288 + n.toNat * 262144 + s.toNat * 8192 + a.toNat * 256 + b.toNat * 8)
  | .ldAcqPromote r d a s => some (83886083 + r.toNat * 268435456 + d.toNat * 8192 + a.toNat * 256 + s.toNat * 8)
  | .amoSwapPromote r g n d a b => some (83886084 + r.toNat * 268435456 + g.toNat * 524288 + n.toNat * 262144 + d.toNat * 8192 + a.toNat * 256 + b.toNat * 8)
  | .amoAddPromote r g n d a b => some (83886085 + r.toNat * 268435456 + g.toNat * 524288 + n.toNat * 262144 + d.toNat * 8192 + a.toNat * 256 + b.toNat * 8)
  | .amoCasPromote r g n d a b => some (83886086 + r.toNat * 268435456 + g.toNat * 524288 + n.toNat * 262144 + d.toNat * 8192 + a.toNat * 256 + b.toNat * 8)
  | .tbarInit r a b => some (88080384 + r.toNat * 268435456 + a.toNat * 4096 + b.toNat * 128)
  | .tbarArrive r d a b => some (88080385 + r.toNat * 268435456 + d.toNat * 131072 + a.toNat * 4096 + b.toNat * 128)
  | .tbarExpect r d a b => some (88080386 + r.toNat * 268435456 + d.toNat * 131072 + a.toNat * 4096 + b.toNat * 128)
  | .tbarWait r a b => some (88080387 + r.toNat * 268435456 + a.toNat * 4096 + b.toNat * 128)
  | .tbarTest r d a b => some (88080388 + r.toNat * 268435456 + d.toNat * 131072 + a.toNat * 4096 + b.toNat * 128)
  | .bldN8 r d a i => some (92274688 + r.toNat * 268435456 + d.toNat * 131072 + a.toNat * 4096 + i.toNat)
  | .bldN16 r d a i => some (92275200 + r.toNat * 268435456 + d.toNat * 131072 + a.toNat * 4096 + i.toNat)
  | .bldN32 r d a i => some (92275712 + r.toNat * 268435456 + d.toNat * 131072 + a.toNat * 4096 + i.toNat)
  | .bldN64 r d a i => some (92276224 + r.toNat * 268435456 + d.toNat * 131072 + a.toNat * 4096 + i.toNat)
  | .bstN8 r d a i => some (92276736 + r.toNat * 268435456 + d.toNat * 131072 + a.toNat * 4096 + i.toNat)
  | .bstN16 r d a i => some (92277248 + r.toNat * 268435456 + d.toNat * 131072 + a.toNat * 4096 + i.toNat)
  | .bstN32 r d a i => some (92277760 + r.toNat * 268435456 + d.toNat * 131072 + a.toNat * 4096 + i.toNat)
  | .bstN64 r d a i => some (92278272 + r.toNat * 268435456 + d.toNat * 131072 + a.toNat * 4096 + i.toNat)
  | .engCmd r e a b n => some (100663296 + r.toNat * 268435456 + e.toNat * 1048576 + a.toNat * 16384 + b.toNat * 512 + n.toNat)
  | .engCmdReloc r a b n => some (102236160 + r.toNat * 268435456 + a.toNat * 16384 + b.toNat * 512 + n.toNat)
  | .engFence r m => some (104857600 + r.toNat * 268435456 + m.toNat * 4096)
  | .engBusy r d => some (104857601 + r.toNat * 268435456 + d.toNat * 131072)
  | .bqEnq r e a => some (104857602 + r.toNat * 268435456 + e.toNat * 131072 + a.toNat * 4096)
  | .rqDeq r d s => some (104857603 + r.toNat * 268435456 + d.toNat * 131072 + s.toNat * 4096)
  | .fmtEnq r a => some (104857604 + r.toNat * 268435456 + a.toNat * 4096)
  | .endr r => some (109051904 + r.toNat * 268435456)
  | .arg r d i => some (109051905 + r.toNat * 268435456 + d.toNat * 131072 + i.toNat * 4096)
  | .argWrite r d i b => some (109117441 + r.toNat * 268435456 + d.toNat * 131072 + i.toNat * 4096 + b.toNat * 128)
  | .rqEnq r a => some (109051906 + r.toNat * 268435456 + a.toNat * 4096)
  | .bqBr r o => some (109051907 + r.toNat * 268435456 + o.toNat * 128)
  | .bqBrn r o => some (109051908 + r.toNat * 268435456 + o.toNat * 128)
  | .loopImm r n c l => some (113246208 + r.toNat * 268435456 + n.toNat * 1048576 + c.toNat * 128 + l.toNat)
  | .loopReg r n c l => some (113770496 + r.toNat * 268435456 + n.toNat * 1048576 + c.toNat * 16384 + l.toNat)
  | .waitc r a b c d => some (117440512 + r.toNat * 268435456 + a.toNat * 4096 + b.toNat * 256 + c.toNat * 16 + d.toNat)
  | .taskEnq r a b => some (121634816 + r.toNat * 268435456 + a.toNat * 4096 + b.toNat * 128)
  | .taskDone r a => some (121634817 + r.toNat * 268435456 + a.toNat * 4096)
  | .taskYield r a => some (121634818 + r.toNat * 268435456 + a.toNat * 4096)
  | .hypOpen r d a => some (125829120 + r.toNat * 268435456 + d.toNat * 131072 + a.toNat * 4096)
  | .hypEnter r a => some (125829121 + r.toNat * 268435456 + a.toNat * 4096)
  | .hypOk r d a => some (125829122 + r.toNat * 268435456 + d.toNat * 131072 + a.toNat * 4096)
  | .hypNo r d a => some (125829123 + r.toNat * 268435456 + d.toNat * 131072 + a.toNat * 4096)
  | .hypQuery r d a => some (125829124 + r.toNat * 268435456 + d.toNat * 131072 + a.toNat * 4096)
  | .cpy r c => some (134217728 + r.toNat * 268435456 + c.toNat * 16384)
  | .cpyT r c d t => some (134479872 + r.toNat * 268435456 + c.toNat * 16384 + d.toNat * 1024 + t.toNat * 64)
  | .cdSet r c s f => some (134742016 + r.toNat * 268435456 + c.toNat * 16384 + s.toNat * 64 + f.toNat)
  | .gath r c => some (138412032 + r.toNat * 268435456 + c.toNat * 16384)
  | .gathT r c d t => some (138412033 + r.toNat * 268435456 + c.toNat * 16384 + d.toNat * 1024 + t.toNat * 64)
  | .scat r c => some (138674176 + r.toNat * 268435456 + c.toNat * 16384)
  | .scatT r c d t => some (138674177 + r.toNat * 268435456 + c.toNat * 16384 + d.toNat * 1024 + t.toNat * 64)
  | .mcast r c => some (142606336 + r.toNat * 268435456 + c.toNat * 16384)
  | .mcastT r c d t => some (142606337 + r.toNat * 268435456 + c.toNat * 16384 + d.toNat * 1024 + t.toNat * 64)
  | .sclLd r c => some (146800640 + r.toNat * 268435456 + c.toNat * 16384)
  | .sclLdT r c d t => some (146800641 + r.toNat * 268435456 + c.toNat * 16384 + d.toNat * 1024 + t.toNat * 64)
  | .pref r c => some (147062784 + r.toNat * 268435456 + c.toNat * 16384)
  | .mm r c a b k z y x => some (150994944 + r.toNat * 268435456 + c.toNat * 16384 + a.toNat * 1024 + b.toNat * 64 + k.toNat * 8 + z.toNat * 4 + y.toNat * 2 + x.toNat)
  | .mmG r c a b i z y => some (151257088 + r.toNat * 268435456 + c.toNat * 16384 + a.toNat * 1024 + b.toNat * 64 + i.toNat * 8 + z.toNat * 4 + y.toNat * 2)
  | .accZero r c => some (155189248 + r.toNat * 268435456 + c.toNat * 16384)
  | .accRd r d c => some (155451392 + r.toNat * 268435456 + d.toNat * 16384 + c.toNat * 1024)
  | .accWr r c s => some (155713536 + r.toNat * 268435456 + c.toNat * 16384 + s.toNat * 1024)
  | .tdSet r t a b => some (159383552 + r.toNat * 268435456 + t.toNat * 16384 + a.toNat * 1024 + b.toNat * 64)
  | .vadd r d a b x y z t => some (167772160 + r.toNat * 268435456 + d.toNat * 16384 + a.toNat * 1024 + b.toNat * 64 + x.toNat * 32 + y.toNat * 16 + z.toNat * 8 + t.toNat)
  | .vsub r d a b x y z t => some (168034304 + r.toNat * 268435456 + d.toNat * 16384 + a.toNat * 1024 + b.toNat * 64 + x.toNat * 32 + y.toNat * 16 + z.toNat * 8 + t.toNat)
  | .vmul r d a b x y z t => some (168296448 + r.toNat * 268435456 + d.toNat * 16384 + a.toNat * 1024 + b.toNat * 64 + x.toNat * 32 + y.toNat * 16 + z.toNat * 8 + t.toNat)
  | .vdiv r d a b x y z t => some (168558592 + r.toNat * 268435456 + d.toNat * 16384 + a.toNat * 1024 + b.toNat * 64 + x.toNat * 32 + y.toNat * 16 + z.toNat * 8 + t.toNat)
  | .vmin r d a b x y z t => some (168820736 + r.toNat * 268435456 + d.toNat * 16384 + a.toNat * 1024 + b.toNat * 64 + x.toNat * 32 + y.toNat * 16 + z.toNat * 8 + t.toNat)
  | .vmax r d a b x y z t => some (169082880 + r.toNat * 268435456 + d.toNat * 16384 + a.toNat * 1024 + b.toNat * 64 + x.toNat * 32 + y.toNat * 16 + z.toNat * 8 + t.toNat)
  | .vand r d a b x y z t => some (169345024 + r.toNat * 268435456 + d.toNat * 16384 + a.toNat * 1024 + b.toNat * 64 + x.toNat * 32 + y.toNat * 16 + z.toNat * 8 + t.toNat)
  | .vor r d a b x y z t => some (169607168 + r.toNat * 268435456 + d.toNat * 16384 + a.toNat * 1024 + b.toNat * 64 + x.toNat * 32 + y.toNat * 16 + z.toNat * 8 + t.toNat)
  | .vxor r d a b x y z t => some (169869312 + r.toNat * 268435456 + d.toNat * 16384 + a.toNat * 1024 + b.toNat * 64 + x.toNat * 32 + y.toNat * 16 + z.toNat * 8 + t.toNat)
  | .vshl r d a b x y z t => some (170131456 + r.toNat * 268435456 + d.toNat * 16384 + a.toNat * 1024 + b.toNat * 64 + x.toNat * 32 + y.toNat * 16 + z.toNat * 8 + t.toNat)
  | .vshr r d a b x y z t => some (170393600 + r.toNat * 268435456 + d.toNat * 16384 + a.toNat * 1024 + b.toNat * 64 + x.toNat * 32 + y.toNat * 16 + z.toNat * 8 + t.toNat)
  | .vfma r d a b x y t => some (171966464 + r.toNat * 268435456 + d.toNat * 16384 + a.toNat * 1024 + b.toNat * 64 + x.toNat * 32 + y.toNat * 16 + t.toNat)
  | .vfms r d a b x y t => some (172228608 + r.toNat * 268435456 + d.toNat * 16384 + a.toNat * 1024 + b.toNat * 64 + x.toNat * 32 + y.toNat * 16 + t.toNat)
  | .vfnma r d a b x y t => some (172490752 + r.toNat * 268435456 + d.toNat * 16384 + a.toNat * 1024 + b.toNat * 64 + x.toNat * 32 + y.toNat * 16 + t.toNat)
  | .vsel r d a b x y t => some (172752896 + r.toNat * 268435456 + d.toNat * 16384 + a.toNat * 1024 + b.toNat * 64 + x.toNat * 32 + y.toNat * 16 + t.toNat)
  | .vclamp r d a b x y t => some (173015040 + r.toNat * 268435456 + d.toNat * 16384 + a.toNat * 1024 + b.toNat * 64 + x.toNat * 32 + y.toNat * 16 + t.toNat)
  | .vcmpEq r d a b x y z t => some (176160768 + r.toNat * 268435456 + d.toNat * 16384 + a.toNat * 1024 + b.toNat * 64 + x.toNat * 32 + y.toNat * 16 + z.toNat * 8 + t.toNat)
  | .vcmpLt r d a b x y z t => some (176422912 + r.toNat * 268435456 + d.toNat * 16384 + a.toNat * 1024 + b.toNat * 64 + x.toNat * 32 + y.toNat * 16 + z.toNat * 8 + t.toNat)
  | .vcmpLe r d a b x y z t => some (176685056 + r.toNat * 268435456 + d.toNat * 16384 + a.toNat * 1024 + b.toNat * 64 + x.toNat * 32 + y.toNat * 16 + z.toNat * 8 + t.toNat)
  | .vcvt r d a x => some (176947200 + r.toNat * 268435456 + d.toNat * 16384 + a.toNat * 1024 + x.toNat * 32)
  | .vnot r d a x z t => some (177209344 + r.toNat * 268435456 + d.toNat * 16384 + a.toNat * 1024 + x.toNat * 32 + z.toNat * 8 + t.toNat)
  | .vabs r d a x z t => some (177471488 + r.toNat * 268435456 + d.toNat * 16384 + a.toNat * 1024 + x.toNat * 32 + z.toNat * 8 + t.toNat)
  | .vneg r d a x z t => some (177733632 + r.toNat * 268435456 + d.toNat * 16384 + a.toNat * 1024 + x.toNat * 32 + z.toNat * 8 + t.toNat)
  | .vmov r d a x z t => some (177995776 + r.toNat * 268435456 + d.toNat * 16384 + a.toNat * 1024 + x.toNat * 32 + z.toNat * 8 + t.toNat)
  | .vexp2 r d a x z => some (180355072 + r.toNat * 268435456 + d.toNat * 16384 + a.toNat * 1024 + x.toNat * 32 + z.toNat * 8)
  | .vlog2 r d a x z => some (180617216 + r.toNat * 268435456 + d.toNat * 16384 + a.toNat * 1024 + x.toNat * 32 + z.toNat * 8)
  | .vrcp r d a x z => some (180879360 + r.toNat * 268435456 + d.toNat * 16384 + a.toNat * 1024 + x.toNat * 32 + z.toNat * 8)
  | .vrsq r d a x z => some (181141504 + r.toNat * 268435456 + d.toNat * 16384 + a.toNat * 1024 + x.toNat * 32 + z.toNat * 8)
  | .vsqrt r d a x z => some (181403648 + r.toNat * 268435456 + d.toNat * 16384 + a.toNat * 1024 + x.toNat * 32 + z.toNat * 8)
  | .vsin r d a x z => some (181665792 + r.toNat * 268435456 + d.toNat * 16384 + a.toNat * 1024 + x.toNat * 32 + z.toNat * 8)
  | .vcos r d a x z => some (181927936 + r.toNat * 268435456 + d.toNat * 16384 + a.toNat * 1024 + x.toNat * 32 + z.toNat * 8)
  | .vtanh r d a x z => some (182190080 + r.toNat * 268435456 + d.toNat * 16384 + a.toNat * 1024 + x.toNat * 32 + z.toNat * 8)
  | .vrsum r d a t => some (184549376 + r.toNat * 268435456 + d.toNat * 16384 + a.toNat * 1024 + t.toNat)
  | .vrmax r d a t => some (184811520 + r.toNat * 268435456 + d.toNat * 16384 + a.toNat * 1024 + t.toNat)
  | .vrmin r d a t => some (185073664 + r.toNat * 268435456 + d.toNat * 16384 + a.toNat * 1024 + t.toNat)
  | .vrsumsq r d a t => some (185335808 + r.toNat * 268435456 + d.toNat * 16384 + a.toNat * 1024 + t.toNat)
  | .vrargmax r d a t => some (185597952 + r.toNat * 268435456 + d.toNat * 16384 + a.toNat * 1024 + t.toNat)
  | .vchBegin r d => some (188743680 + r.toNat * 268435456 + d.toNat * 16384)
  | .vchEnd r => some (189005824 + r.toNat * 268435456)
  | .vdefer r q k p => some (189268000 + r.toNat * 268435456 + q.toNat * 16384 + k.toNat * 1024 + p.toNat)
  | .vdrain r q p => some (189530112 + r.toNat * 268435456 + q.toNat * 16384 + p.toNat)
  | .rgnSet r d a b => some (192937984 + r.toNat * 268435456 + d.toNat * 16384 + a.toNat * 1024 + b.toNat * 64)
  | .qrGen r d a b => some (197132288 + r.toNat * 268435456 + d.toNat * 16384 + a.toNat * 1024 + b.toNat * 64)
  | .srfAlloc r w => some (201326592 + r.toNat * 268435456 + w.toNat * 16384)
  | .srfFree r w => some (201588736 + r.toNat * 268435456 + w.toNat * 16384)
  | .srfLd r s x => some (201850880 + r.toNat * 268435456 + s.toNat * 16384 + x.toNat * 1024)
  | .srfSt r x s => some (202113024 + r.toNat * 268435456 + x.toNat * 16384 + s.toNat * 1024)
  | .srfZero r w => some (202375168 + r.toNat * 268435456 + w.toNat * 16384)
  | .opdLd r k a => some (205520896 + r.toNat * 268435456 + k.toNat * 16384 + a.toNat * 1024)
  | .scan r x k => some (209715200 + r.toNat * 268435456 + x.toNat * 16384 + k.toNat * 64)
  | .scanSw r x s k => some (209715202 + r.toNat * 268435456 + x.toNat * 16384 + s.toNat * 1024 + k.toNat * 64)
  | .scanRed r x s k => some (209977344 + r.toNat * 268435456 + x.toNat * 16384 + s.toNat * 1024 + k.toNat * 64)
  | .scanApply r x s k => some (210239488 + r.toNat * 268435456 + x.toNat * 16384 + s.toNat * 1024 + k.toNat * 64)
  | .scanApplyFirst r x s k => some (210239489 + r.toNat * 268435456 + x.toNat * 16384 + s.toNat * 1024 + k.toNat * 64)
  | .nscanUp r s g k => some (213909504 + r.toNat * 268435456 + s.toNat * 16384 + g.toNat * 1024 + k.toNat * 64)
  | .nscanDown r s g k => some (214171648 + r.toNat * 268435456 + s.toNat * 16384 + g.toNat * 1024 + k.toNat * 64)
  | .carrySendIn r s g p => some (218103808 + r.toNat * 268435456 + s.toNat * 16384 + g.toNat * 1024 + p.toNat * 64)
  | .carrySendOut r s g p => some (218103840 + r.toNat * 268435456 + s.toNat * 16384 + g.toNat * 1024 + p.toNat * 64)
  | .carryRecvIn r s g p => some (218365952 + r.toNat * 268435456 + s.toNat * 16384 + g.toNat * 1024 + p.toNat * 64)
  | .carryRecvOut r s g p => some (218365984 + r.toNat * 268435456 + s.toNat * 16384 + g.toNat * 1024 + p.toNat * 64)
  | .carryRecvCombIn r s g p k => some (218365968 + r.toNat * 268435456 + s.toNat * 16384 + g.toNat * 1024 + p.toNat * 64 + k.toNat)
  | .carryRecvCombOut r s g p k => some (218366000 + r.toNat * 268435456 + s.toNat * 16384 + g.toNat * 1024 + p.toNat * 64 + k.toNat)
  | .step r h x k => some (222298112 + r.toNat * 268435456 + h.toNat * 16384 + x.toNat * 1024 + k.toNat * 64)
  | .stepY r h x k y => some (222298120 + r.toNat * 268435456 + h.toNat * 16384 + x.toNat * 1024 + k.toNat * 64 + y.toNat)
  | .swSet r w a b => some (226492416 + r.toNat * 268435456 + w.toNat * 16384 + a.toNat * 1024 + b.toNat * 64)
  | .qrDirld r a b => some (234881024 + r.toNat * 268435456 + a.toNat * 4096 + b.toNat * 128)
  | .qrSeed r a => some (234881025 + r.toNat * 268435456 + a.toNat * 4096)
  | .qrPt r d a b => some (234881026 + r.toNat * 268435456 + d.toNat * 131072 + a.toNat * 4096 + b.toNat * 128)
  | .smpDraw r a => some (239075328 + r.toNat * 268435456 + a.toNat * 4096)
  | .smpCheck r a b => some (239075329 + r.toNat * 268435456 + a.toNat * 4096 + b.toNat * 128)
  | .smpResid r a b => some (239075330 + r.toNat * 268435456 + a.toNat * 4096 + b.toNat * 128)
  | .smpCfg r a b => some (239075331 + r.toNat * 268435456 + a.toNat * 4096 + b.toNat * 128)
  | .smpStop r a b => some (239075332 + r.toNat * 268435456 + a.toNat * 4096 + b.toNat * 128)
  | .logAppend r d a => some (243269632 + r.toNat * 268435456 + d.toNat * 131072 + a.toNat * 4096)
  | .collLoad r a b => some (247463936 + r.toNat * 268435456 + a.toNat * 4096 + b.toNat * 128)
  | .collRun r a b => some (247463937 + r.toNat * 268435456 + a.toNat * 4096 + b.toNat * 128)
  | .collWait r a => some (247463938 + r.toNat * 268435456 + a.toNat * 4096)
  | .trigAdd r a b => some (247463939 + r.toNat * 268435456 + a.toNat * 4096 + b.toNat * 128)
  | .stc r a b => some (251658240 + r.toNat * 268435456 + a.toNat * 4096 + b.toNat * 128)
  | .winDrain r a => some (251658241 + r.toNat * 268435456 + a.toNat * 4096)
  | .digest r d a b => some (255852544 + r.toNat * 268435456 + d.toNat * 131072 + a.toNat * 4096 + b.toNat * 128)
  | .frameBegin r a => some (255852545 + r.toNat * 268435456 + a.toNat * 4096)
  | _ => none

/-- The instruction that the decoder reads from a word of the table's numbering: bit 0 is the least significant bit
of the one 32-bit word (R32). An event row has no word. -/
def decodeTableWord (nbits w : Nat) : Option Instr :=
  if nbits == 0 then none
  else match decodeRaw (w % 2 ^ nbits % 2 ^ 32) with
    | .ok i => some i
    | .error _ => none

end Sys2Proof
end

