-- ==== Sys2Proof/Machine/Tab.lean ====
section
/-! DEFINITION. Sparse tables: registers, buffers and memory as lists of (key, value) pairs with rising keys, in which
no listed value equals the default that an unlisted key reads as. Equal tables are equal lists. -/
namespace Sys2Proof.Machine

/-- A table from numbers to values: an unlisted key reads as `default`. -/
abbrev Tab (α : Type) := List (Nat × α)

namespace Tab
variable {α : Type}

/-- The value at key `k`, or none when `k` is not listed. -/
def find? (m : Tab α) (k : Nat) : Option α :=
  match m with
  | [] => none
  | (a, v) :: t => if a = k then some v else find? t k

/-- The value at key `k`. -/
def get [Inhabited α] (m : Tab α) (k : Nat) : α := (find? m k).getD default

/-- Insert at the place that keeps the keys rising; the key must not be listed. -/
def insert (k : Nat) (v : α) (m : Tab α) : Tab α :=
  match m with
  | [] => [(k, v)]
  | (a, w) :: t => if a < k then (a, w) :: insert k v t else (k, v) :: (a, w) :: t

/-- Drop key `k`. -/
def erase (m : Tab α) (k : Nat) : Tab α := m.filter (fun p => p.1 ≠ k)

/-- List `v` at `k`, whatever `v` is. -/
def put (m : Tab α) (k : Nat) (v : α) : Tab α := insert k v (erase m k)

/-- Write `v` at `k`; the default value unlists the key. -/
def set [Inhabited α] [DecidableEq α] (m : Tab α) (k : Nat) (v : α) : Tab α :=
  if v = default then erase m k else put m k v

/-- The keys rise strictly. -/
def rising : Tab α → Bool
  | [] => true
  | [_] => true
  | (a, _) :: (b, w) :: t => decide (a < b) && rising ((b, w) :: t)

/-- The canonical form: rising keys, no default value listed. -/
def wf [Inhabited α] [DecidableEq α] (m : Tab α) : Bool := rising m && m.all (fun p => decide (p.2 ≠ default))

/-- A table in canonical form, with the same values where no key is listed twice; it is itself where it has that form. -/
def clean [Inhabited α] [DecidableEq α] (m : Tab α) : Tab α := if wf m then m else m.foldl (fun t p => set t p.1 p.2) []

/-- The part of a table with keys in `lo .. hi - 1`, moved so that `lo` becomes `base`. -/
def slice (m : Tab α) (lo hi base : Nat) : Tab α :=
  (m.filter (fun p => decide (lo ≤ p.1 ∧ p.1 < hi))).map (fun p => (p.1 - lo + base, p.2))

/-- `m` with keys in `lo .. hi - 1` replaced by the entries of `p`, whose keys lie there and rise. -/
def splice (m : Tab α) (lo hi : Nat) (p : Tab α) : Tab α :=
  m.filter (fun q => decide (q.1 < lo)) ++ p ++ m.filter (fun q => decide (hi ≤ q.1))

end Tab

/-- The little-endian number of `n` bytes at `a` of a byte table (R3). -/
def readLE (m : Tab Byte) (a n : Nat) : Nat :=
  match n with
  | 0 => 0
  | n + 1 => (Tab.get m a).toNat + 256 * readLE m (a + 1) n

/-- Write the low `n` bytes of `v` at `a`, little-endian (R3). -/
def writeLE (m : Tab Byte) (a n v : Nat) : Tab Byte :=
  match n with
  | 0 => m
  | n + 1 => writeLE (Tab.set m a (BitVec.ofNat 8 v)) (a + 1) n (v / 256)

/-- The bytes at `a .. a + n - 1`. -/
def readBytes (m : Tab Byte) (a n : Nat) : List Byte := (List.range n).map (fun i => Tab.get m (a + i))

/-- Write a list of bytes from `a` up. -/
def writeBytes (m : Tab Byte) (a : Nat) (bs : List Byte) : Tab Byte :=
  match bs with
  | [] => m
  | b :: t => writeBytes (Tab.set m a b) (a + 1) t

/-- The little-endian number of a list of bytes. -/
def bytesToNat : List Byte → Nat
  | [] => 0
  | b :: t => b.toNat + 256 * bytesToNat t

/-- The low `n` bytes of a number, little-endian. -/
def natToBytes (n v : Nat) : List Byte :=
  match n with
  | 0 => []
  | n + 1 => BitVec.ofNat 8 v :: natToBytes n (v / 256)

end Sys2Proof.Machine
end

