-- ==== Sys2Proof/Machine/State.lean ====
section
/-! DEFINITION. The state of one VX2 device as plain data: the core in focus and the other cores (R18, R22–R24), the
device-wide structures (memory, hypothesis table, ready pools, fault queue, fabric, collectives, monitors), and the
model's own scheduling data. `State.reset` is the device right after reset (R24, R403). -/
namespace Sys2Proof.Machine

/-- Why the machine stops. No meaning of this model raises one: every fault of the spec (R337) is an architectural
next state (R338). The constructor is kept for the interface; it is safe (a stop proves nothing false). -/
inductive Fault where
  /-- Raised by nothing. -/
  | none
  deriving DecidableEq, Repr

/-- Why an instruction has no meaning. -/
inductive Refusal where
  /-- An arm of `exec` that has no meaning yet; safe. -/
  | notModelled (mnemonic : String)
  deriving DecidableEq, Repr

/-- A queue of the core with its architected head pointer; the tail is head + length modulo the depth (R23, R343). -/
structure Queue (α : Type) where
  head : Nat := 0
  items : List α := []
  deriving DecidableEq, Repr, Inhabited

/-- A command of a command queue: R104. -/
structure Command where
  a : Word
  b : Word
  entry : BitVec 9
  reloc : Bool
  macroAddr : BitVec 57
  hyp : BitVec 8
  src : BitVec 9
  deriving DecidableEq, Repr, Inhabited

/-- A loop register: R110. -/
structure LoopReg where
  a : Bool
  ls : Bool
  le : Bool
  count : BitVec 24
  start : BitVec 16
  stop : BitVec 16
  deriving DecidableEq, Repr, Inhabited

/-- A loop latch: R110. -/
structure Latch where
  start : BitVec 16
  stop : BitVec 16
  deriving DecidableEq, Repr, Inhabited

/-- A token FIFO: the hypothesis carried by each token, oldest first, and the places reserved by words that have
issued (R115, R305). -/
structure TokenFifo where
  toks : List (BitVec 8)
  reserved : Nat
  deriving DecidableEq, Repr, Inhabited

/-- An orphan's mark (R305): the topmost refuted hypothesis above it, the parent of that one, and the orphan's own
hypothesis. (DEDUCED, assumption 40.) -/
structure Orphan where
  top : BitVec 8
  parent : BitVec 8
  hyp : BitVec 8
  deriving DecidableEq, Repr, Inhabited

/-- A result that later groups wait for: the cycles left, the register, and whether it is a division's or remainder's
(R83). -/
structure Latency where
  left : Nat
  rd : Nat
  division : Bool
  deriving DecidableEq, Repr, Inhabited

/-- One engine sequencer (R18, R21, R106). `ending` marks a VE whose ENDR has issued and waits for pending
special-function writes, with its ring bits (R211); `reloc` is the issuer of the relocatable command that a puller runs
(R197); `orphan` marks an engine that abandoned its command (R305). -/
structure Engine where
  upc : Nat
  e : Tab Word
  loops : Tab LoopReg
  loopOrder : List Nat
  latches : Tab Latch
  run : Option Command
  ending : Option Nat
  reloc : Option Nat
  orphan : Option Orphan
  imem : Tab (BitVec 32)
  rtab : Tab (BitVec 32)
  cmdq : Queue Command
  bq : Queue (Bool × BitVec 8)
  deriving DecidableEq, Repr, Inhabited

/-- A relocation context: the sequencer state of a command that a sibling pulled, and its tile descriptors (R197, R198). -/
structure RelocCtx where
  eng : Engine
  t : Tab (BitVec 128)
  deriving DecidableEq, Repr, Inhabited

/-- Kinds of access to memory or to a local buffer that complete after they issue (R117, R123). -/
inductive AccessKind where
  /-- A load; `sgn` sign-extends (R140). -/
  | load (sgn : Bool)
  | store
  /-- A value-returning atomic or a reduction, by funct3 of R143 or R144. -/
  | amo (op : Nat) (v c : Word)
  | red (op : Nat) (v : Word)
  /-- The ring signals of a word that waits for its own and earlier accesses (R117): SB, SA and the carried
  hypothesis. -/
  | signal (sb sa : Bool)
  /-- A queue entry of its sequencer that may not be popped before its earlier accesses are performed (R152); the queue
  by number: 0–3 the command queues and 4–7 the BQs of AE, ME, SE, VE, 8 FMTQ, 9 RQ. -/
  | gate (q : Nat)
  /-- A FENCE that has issued and waits for its earlier accesses (R155); without a release side it is what is left of an
  acquire at .sys that has its value and waits for the write-backs of R164. -/
  | fence
  /-- A TBAR word on a barrier in memory or in AB that has issued and is not applied yet: its funct7, and its operand
  (R169). -/
  | bar (op : Nat) (v : Word)
  /-- The step of a LOG.APPEND on its ring header in another device's memory, with the bytes of its record (R293). -/
  | log (bs : List Byte)
  /-- One predecessor less in the record of a successor in another device's memory (R327). -/
  | pred
  deriving DecidableEq, Repr, Inhabited

/-- Where an access goes: memory by virtual and physical address, or a local buffer (space id and offset). -/
inductive Place where
  | mem (va pa : Nat)
  | buf (space off : Nat)
  | none
  deriving DecidableEq, Repr, Inhabited

/-- An access that has issued and is not yet performed (R117, R123, R133–R135). `kindSO` and `kindUO` give the
page's ordering kind (R134; neither is RC; buffers count as SO), `acq` and `rel` its ordering suffix with the scope;
`rmc` the remote-cacheable bit and `key` the key index of its page (R163, R363), and `pid` the packet that carries it to
another device, or 0; `word` the group's words, as WORD of a frame gives them (R340); `upto` the number of the last packet
that had been sent when it issued (R162), and `promote` a PROMOTE form (R151). -/
structure Access where
  unit : Sqr
  kind : AccessKind
  place : Place
  size : Nat
  rd : Nat
  data : Word
  hyp : BitVec 8
  kindSO : Bool
  kindUO : Bool
  acq : Bool
  rel : Bool
  scope : Nat
  rmc : Bool
  pid : Nat
  word : Word
  key : Nat := 0
  upto : Nat := 0
  promote : Bool := false
  deriving DecidableEq, Repr, Inhabited

/-- The kinds of a copy: R177. -/
inductive CopyKind where
  | cpy | cpyT | gath | scat | mcast | sclLd
  deriving DecidableEq, Repr, Inhabited

/-- A copy in flight or in the timed buffer, laid out as a copy-resume entry: R177. `timed` tells the two apart;
`seq` is its order of acceptance; `drops` are the logical cores whose share of a multicast has been dropped (R184);
`waiting` counts the packets of the copy that are not yet acknowledged (R179); `idx` is the index element of the row
in progress (R183); `fetch` numbers the packet that reads the next source bytes from another core or device, and `got`
holds what has been read of the next piece; `slot` is its place in the copy-resume list last written. `acked` lists packets,
by row, offset and length, that have been acknowledged while an earlier one had not. -/
structure Copy where
  time : Word
  timed : Bool
  hyp : BitVec 8
  kind : CopyKind
  due : Bool
  row : Nat
  off : Nat
  desc : BitVec 384
  seq : Nat
  drops : List Nat
  waiting : Nat
  idx : Option Nat
  fetch : Nat
  got : Option (List Byte)
  slot : Option Nat
  acked : List (Nat × Nat × Nat) := []
  deriving DecidableEq, Repr, Inhabited

/-- An accepted tile command: the instruction, its format word, its descriptors (C or D, A or source, B) as read at
acceptance, the gathered rows of MM.G, and the scale entries it popped
(R192–R194, R197); `me` is the core whose ME took it, the same one unless a sibling pulled the command. `need` holds the
packets that fetch operands through windows, each with its operand and the offset that it fetches first; `got` holds what
has arrived; `asked` says that they are out, or that there are none. `failed` marks a command that faulted after its
acceptance (R338), `gen` is the operand latch's count of clearings at its acceptance (R196), and `word` its group's words
(R340). (DEDUCED, assumption 19.) -/
structure Tile where
  cmd : Instr
  fmt : Word
  descs : List (BitVec 128)
  rows : List Nat
  scales : List (List Byte)
  me : Nat
  reloc : Bool
  need : List (Nat × Nat × Nat)
  got : List (Nat × List Byte)
  failed : Bool
  gen : Nat
  asked : Bool := true
  word : Word := 0#64
  deriving DecidableEq, Repr, Inhabited

/-- The operand latch of an ME (R196): the A descriptor and the DA bit of its tag, with the bytes that A lies in as they were
when the latch was loaded; and how often the tag has been cleared from outside, so that a command accepted before a clearing
neither uses the latch nor loads it. -/
structure OpLatch where
  tag : Option (BitVec 128 × Bool × Tab Byte)
  gen : Nat
  deriving DecidableEq, Repr, Inhabited

/-- The tag is cleared by pre-emption, a resume, a fault restart and a pull (R196). -/
def OpLatch.clear (l : OpLatch) : OpLatch := { l with tag := none, gen := l.gen + 1 }

/-- A scale entry of the SCLQ with the hypothesis of the copy that pushed it: R193, R305. -/
structure ScaleEntry where
  bytes : List Byte
  hyp : BitVec 8
  deriving DecidableEq, Repr, Inhabited

/-- A place of the RQ: reserved places hold no value yet (R120, R290). -/
structure RqEntry where
  val : Option Word
  src : Nat
  hyp : BitVec 8
  deriving DecidableEq, Repr, Inhabited

/-- A pending vector write: the buffer space and offset (or a window address), the bytes, the step after whose end
it lands, counted in VE steps from now, whether a special function made it, and for those the binary32 value and the
region's FMT, RND and SAT (R210–R212, R344). `word` numbers the word that made it, and `win` is the window register
that it read at issue, for a window address (R360); `counted` says that its packet counts in OUT of the window
(R362), and `group` is the word that a frame shows where that packet fails (R340). An ordinary write that is `landed` has
changed its bytes, or left for its window, while the VE took no step: it still counts the steps that hold a reader. -/
structure VWrite where
  addr : Nat
  nibble : Option Bool
  bytes : List Byte
  left : Nat
  sf : Bool
  val : BitVec 32
  fmt : Nat
  rnd : Nat
  sat : Bool
  word : Nat
  win : Word
  counted : Bool
  group : Word := 0#64
  landed : Bool := false
  deriving DecidableEq, Repr, Inhabited

/-- A vector word that has issued and retires when its writes have landed: its number, its ring signals with the
hypothesis they carry, and the flags that it sets at its retirement (R68, R117, R211). `gate` marks an RQ.ENQ, whose entry
may not be popped before (R120, R152). -/
structure VRetire where
  word : Nat
  sb : Bool
  sa : Bool
  hyp : BitVec 8
  flags : BitVec 6
  gate : Bool
  deriving DecidableEq, Repr, Inhabited

/-- A transient ring entry, in two halves, with the computation type that wrote it: R221. -/
structure RingEntry where
  lo : BitVec 32
  hi : BitVec 32
  ct : BitVec 2
  deriving DecidableEq, Repr, Inhabited

/-- The 64 bits of a ring entry. -/
def RingEntry.val (r : RingEntry) : Word := r.hi ++ r.lo

/-- The slots of a chain that is being collected: R222, R225. -/
structure Chain where
  head : Instr
  start : Nat
  slots : List Instr
  deriving DecidableEq, Repr, Inhabited

/-- An operator descriptor: sixteen dwords, and whether it has been loaded (R234). -/
structure OpDesc where
  loaded : Bool
  dwords : List Word
  deriving DecidableEq, Repr, Inhabited

/-- What a slot of the SRF is: R226. -/
inductive SlotState where
  | free
  | primary
  | version (slot : Nat) (hyp : BitVec 8) (depth : Nat)
  deriving DecidableEq, Repr, Inhabited

/-- A carry in the inbox: R256, R344. A reserved entry (credit granted, packet not landed) has no packet; `listed` says
that the register area last written holds the packet. -/
structure InboxEntry where
  src : Nat
  srcDev : Nat
  tenant : Nat
  tag : Nat
  packet : Option Request
  listed : Bool
  deriving DecidableEq, Repr, Inhabited

/-- The latest result of a sampling slot: R280, R293. -/
structure SmpResult where
  reply : Word
  kind : Nat
  lp : List (BitVec 32)
  sl : List (BitVec 32)
  step : BitVec 32
  deriving DecidableEq, Repr, Inhabited

/-- The computed results of a completed logit row: R284. `e` and `z` go with the shortlist. -/
structure RowResult where
  sl : List Nat
  e : List (BitVec 32)
  z : List (BitVec 32)
  s : BitVec 32
  lp : List (BitVec 32)
  nanl : Bool
  empty : Bool
  deriving DecidableEq, Repr, Inhabited

/-- An armed row of the logit filter: its physical segments (address, length, offset in the row), its length, the bytes
written since it was armed, and its state (R283, R284). `snap` holds the row's contents at the instant it completed, until the filter has computed its
results; `pending` holds results that have not reached the sampling unit. -/
structure LogitRow where
  segs : List (Nat × Nat × Nat)
  bytes : Nat
  written : List Nat
  complete : Bool
  late : Bool
  snap : List Byte
  pending : Option RowResult
  fresh : Bool
  last : Option RowResult
  deriving DecidableEq, Repr, Inhabited

/-- A sampling slot: R280, R281. State 0 unconfigured, 1 active, 2 retired (R344). -/
structure SmpSlot where
  state : Nat
  record : List Byte
  step : BitVec 32
  stop : List (BitVec 32)
  latest : Option SmpResult
  rows : List LogitRow
  deriving DecidableEq, Repr, Inhabited

/-- A sampling word that has issued and is not performed, with its snapshot: R286, R290, R295. -/
structure SmpWord where
  kind : Nat
  word : BitVec 32
  ra : Word
  rb : Word
  seed : Word
  rows : List (List (BitVec 32))
  stop : List (BitVec 32)
  deriving DecidableEq, Repr, Inhabited

/-- An NSCAN word that waits for the Front: the word, its fields and its group word, and the number of ranks of the
operation that it joined (R254). -/
structure FrontWord where
  word : Instr
  up : Bool
  wS : Nat
  k : Nat
  group : Word
  ranks : Nat
  deriving DecidableEq, Repr, Inhabited

/-- A resolution of hypotheses: a confirmation of `h` into `p`, or a refutation of a subtree (R303, R304). -/
inductive Resolution where
  | ok (h p : BitVec 8) (below : List (BitVec 8))
  | no (top parent : BitVec 8) (hs : List (BitVec 8))
  deriving DecidableEq, Repr, Inhabited

/-- A remembered access of the access replay list: R344; `slot` is its place in the list last written. -/
structure Replay where
  access : Access
  replay : Bool
  code : Nat
  slot : Option Nat
  deriving DecidableEq, Repr, Inhabited

/-- A fault as it is raised: the unit, its code and detail (R337), the faulting address, and the group's words. -/
structure Raised where
  unit : FUnit
  code : Nat
  detail : Nat
  addr : Word
  word : Word
  hyp : BitVec 8
  deriving DecidableEq, Repr, Inhabited

/-- What a core is doing: halted with no task, running a context, or held after a fault (R24, R321, R338). A
core that is `stopping` has faulted and waits for its loads from other devices (R338 step 2). A Squall that is writing
its save keeps the core stopped (R332). A core that is `restarting` performs its access replays (R346 step 3). -/
inductive CoreMode where
  | halted | running | stopping | held | saving | restarting
  deriving DecidableEq, Repr, Inhabited

/-- What a core does once the last of its save writes to another device is acknowledged: it is held, with its frame
written (R338), or its context is parked with the listed ranges, eligible or not (R330, R332). -/
inductive Parking where
  | frame
  | context (ranges : List (Nat × Nat × Nat)) (eligible : Bool)
  deriving DecidableEq, Repr, Inhabited

/-- The task context of a core: its task and RCB and the effective values fixed for the task (R317, R322). -/
structure Context where
  task : Word
  rcb : Word
  tenant : Nat
  prio : Nat
  calm : Bool
  keep : Bool
  srfQuota : Nat
  stall : BitVec 32
  ckw : Nat
  domain : Nat
  handler : Word
  orphanVec : Word
  spill : Word
  spillN : Nat
  save : Word
  saveIx : Nat
  image : Word
  /-- The RCB and its ancestors, nearest first, each with its effective CORES and HYPS (R318). -/
  chain : List (Word × Nat × Nat)
  deriving DecidableEq, Repr, Inhabited

/-- A translation that a cache holds: tenant, page base and size, and the leaf (R352, R353). -/
structure TlbEntry where
  tenant : Nat
  base : Nat
  size : Nat
  leaf : Word
  pa : Nat
  deriving DecidableEq, Repr, Inhabited

/-- The CC's instruction cache (R85): the words that it holds, by physical address / 4, those of them that this CC has stored
to since, and whether a FENCE, or any acquire, has been executed since the last taken branch; `held` says that a branch
has been taken and the fences and acquires before it are still to be performed. -/
structure ICache where
  words : Tab (BitVec 32)
  own : List Nat
  fenced : Bool
  acquired : Bool
  held : Bool
  deriving DecidableEq, Repr, Inhabited

/-- One compute core (R18, R22–R24). Field groups: the CC; the engines; queues and counters; descriptors; buffers;
engine work in progress; system registers; the context. (DESIGN CHOICE, assumption 48.) -/
structure Core where
  -- control core
  pc : Word
  x : Tab Word
  g : BitVec 8
  -- engines
  ae : Engine
  me : Engine
  se : Engine
  ve : Engine
  -- per sequencer: prefixes read, consecutive blocked cycles, the cause, the stamp exemption (R45, R127, R126, R388)
  pfx : Tab Prefixes
  blocked : Tab Nat
  cause : Tab (Option Nat)
  exempt : Tab Bool
  /-- What a TBAR.WAIT has read from a barrier on another device: 32 × its physical address + the phase, or + 16 where the
  home refused the read. -/
  poll : Tab (Option Nat)
  curWord : Tab (BitVec 32)
  /-- A CC word has issued and is still at its own work (R423). -/
  underway : Bool
  icache : ICache
  /-- A fetch from another device's memory: its address, and the word when it has come. -/
  fetching : Option (Nat × Option (BitVec 32))
  /-- Blocks of another device's memory that the present CC word reads: physical address and, once they have come, the
  bytes. -/
  bulk : List (Nat × Option (List Byte))
  -- queues and counters
  tokens : Tab TokenFifo
  fmtq : Queue (Word × BitVec 8)
  sclq : Queue ScaleEntry
  rq : Queue RqEntry
  cntLd : Nat
  cntSt : Nat
  cntCp : Nat
  /-- Zero copies that cp counts for this cycle (R176). -/
  cpZero : Nat
  cntTl : Nat
  pend : List Access
  -- descriptors
  c : Tab (BitVec 384)
  t : Tab (BitVec 128)
  w : Tab (BitVec 128)
  d : Tab (BitVec 128)
  opd : Tab OpDesc
  ring : List RingEntry
  -- buffers
  wb : Tab Byte
  ab : Tab Byte
  as : Tab Byte
  srf : Tab Byte
  slots : Tab SlotState
  -- work in progress
  copies : List Copy
  copySeq : Nat
  copyTurn : Nat
  tiles : List Tile
  latch : OpLatch
  vpend : List VWrite
  vword : Nat
  vretire : List VRetire
  chain : Option Chain
  front : Option FrontWord
  ctag : BitVec 16
  inbox : List InboxEntry
  /-- Credits that a CARRY.SEND may use: the peer, device × 512 + logical core, and the TAG; and the credit that the
  waiting CARRY.SEND asks for (R256). -/
  credits : List (Nat × Nat)
  carryAsk : Option (Nat × Nat)
  ldsTab : Tab (BitVec 32)
  qrseed : Word
  smp : Tab SmpSlot
  smpq : List SmpWord
  replays : List Replay
  tileReplay : Option Tile
  /-- While this ME runs a pulled command, its own sequencer and tile descriptors, set aside (R197). -/
  meOwn : Option Engine
  tOwn : Tab (BitVec 128)
  /-- Relocation contexts that have come back to this core and wait to be reinstated, oldest first (R198). -/
  relocs : List RelocCtx
  seprog : Word
  /-- Flags of the nodes that the SE's present word has evaluated (R68). -/
  seFlags : BitVec 6
  veprog : Word
  frontRank : BitVec 8
  -- system registers
  hyp : BitVec 8
  hypDepth : BitVec 2
  aflags : BitVec 6
  cycle : Word
  instret : Word
  scratch : Tab Word
  rtbase : Word
  logring : Word
  win : Tab Word
  winst : Tab Nat
  remoteOut : Tab Nat
  frameRun : Bool
  frameCount : BitVec 32
  /-- The results of major 0x07 and of SYSR that later groups still wait for, by sequencer; they stand in the registers
already (R83). -/
  divs : Tab (List Latency)
  /-- The count of a FRAME.BEGIN that has issued, which COUNT takes at the end of this cycle (R390). -/
  frameNext : Option (BitVec 32)
  fcause : Word
  faddr : Word
  eccCorr : BitVec 32
  eccUncorr : BitVec 32
  /-- Words of this core's storage that a scrub found uncorrectable and that nothing has accessed since: the storage and
  the byte address of the word (R397). -/
  marks : List (Store × Nat)
  /-- Words of this core's storage with an error of one bit that nothing has read since (R396). -/
  upsets : List (Store × Nat)
  -- context and mode
  mode : CoreMode
  ctx : Option Context
  lastTenant : Option Nat
  primary : Option Raised
  multi : Bool
  causes : List Raised
  handled : Bool
  saved : Bool
  answered : Bool
  /-- Save writes to another device are not acknowledged yet, and what follows them (R332, R338). -/
  parking : Option Parking
  frameGtc : Word
  preempt : Option Word
  /-- Successors that the TASK.DONE in progress has already handled (R327). -/
  succDone : Nat
  /-- PRED of the present successor as its home had it before the update of a TASK.DONE (R327). -/
  succPred : Option Nat
  /-- The successor that waits for a place in the pool, with its entry point: its PRED is 0 and its checks have passed (R327). -/
  succWait : Option (Context × Word)
  orphan : Option Orphan
  heldFaults : List Raised
  /-- Copies and replays that the register area last written lists, and the resolutions since, which a restart applies to
  what it reads back (R303, R304). -/
  listed : Nat × Nat
  log : List Resolution
  deriving DecidableEq, Repr, Inhabited

/-- The sequencer registers and states of a core after reset: R24. Every table is empty, so every register reads
zero; guard g0 is true. -/
def Core.reset : Core := { (default : Core) with g := 1#8, frontRank := 0xFF#8 }

/-- An entry of the hypothesis table: R296, with the spill area of the context that opened it (R302, R322). In a draining
entry, `top` is the topmost refuted hypothesis at or above it and `up` the parent of that one (R305).
(DEDUCED, assumption 40.) -/
structure Hyp where
  /-- 0 free, 1 open, 2 draining. -/
  state : Nat
  parent : BitVec 8
  depth : Nat
  tenant : Nat
  spill : Word
  spillN : Nat
  /-- The RCB of that context and its ancestors, where HOPEN counts the entry (R318). -/
  chain : List Word
  top : BitVec 8
  up : BitVec 8
  deriving DecidableEq, Repr, Inhabited

/-- A version line of the L2 or of a spill area: R300–R302. `age` orders the uses; `spilled` names the entry, by its tenant
and virtual address: what memory holds there is the version (R302). (DESIGN CHOICE, assumption 6.) -/
structure Version where
  line : Nat
  hyp : BitVec 8
  mask : Nat
  data : Tab Byte
  age : Nat
  spilled : Option (Nat × Word)
  deriving DecidableEq, Repr, Inhabited

/-- An entry of a ready pool: R320, R321. -/
structure PoolEntry where
  ctx : Context
  entry : Word
  arrival : Nat
  bound : Option Nat
  /-- A saved task with an unanswered frame is not eligible (R347). -/
  eligible : Bool
  deriving DecidableEq, Repr, Inhabited

/-- A saved context (R332, R346): the core's state when it was saved, and the resolutions since, which its restart
applies to what it reads back (R251, R307). The save block in memory holds the same state in the layout of R342; a
restart reads the register area from there. `ranges` are the buffer ranges that the save wrote, as (space, offset,
length) (R330). (DEDUCED, assumption 44.) -/
structure SavedContext where
  task : Word
  lnum : Nat
  core : Core
  log : List Resolution
  ranges : List (Nat × Nat × Nat)
  deriving DecidableEq, Repr, Inhabited

/-- A fault-queue record: R345. -/
structure FaultRecord where
  frame : Word
  cause : Word
  task : Word
  rcb : Word
  domain : Nat
  handler : Word
  gtc : Word
  deriving DecidableEq, Repr, Inhabited

/-- What the answer to a packet of this device does (R362, R123): it lowers OUT of a window (and st when `st`), ends a
part of a copy that begins at a row and offset, brings source bytes of a copy, counts sectors on a barrier,
brings a word that the CC fetches, lowers st, returns a load or an atomic, returns the result of a barrier word to `rd` (through window
`w`, or on a barrier in memory), answers the poll of a TBAR.WAIT, ends an STC, a write-back of a die (R162), or a
carry. -/
inductive WaitKind where
  | window (w : Nat) (st : Bool)
  | copy (w : Option Nat) (seq row off : Nat)
  | copyRead (seq : Nat)
  | fetch
  /-- A block that a CC word reads. -/
  | bulk
  | count
  | store
  | load
  | bar (w : Option Nat) (rd : Nat)
  | poll
  /-- Operand bytes of a relocated tile command (R197). -/
  | tile
  | stc
  | writeBack (die : Nat)
  | carry
  /-- A block that a record of a collective run reads, and a part that it writes: handle, generation and record (R377). -/
  | collRead (handle gen rec : Nat)
  | collWrite (handle gen rec : Nat)
  /-- A part of a PUT that has come here and whose destination is another device's memory (R377). -/
  | collLand (p : PutPacket)
  /-- A write of a save, with the UNIT that a fault of it reports (R334, R347). -/
  | save (unit : Nat)
  deriving DecidableEq, Repr, Inhabited

/-- Who sends a packet: the core, its sequencer, its task, its tenant and the group's words (R340). -/
structure Source where
  lnum : Nat
  unit : Sqr
  task : Word
  tenant : Nat
  word : Word
  deriving DecidableEq, Repr, Inhabited

/-- A dirty byte of a remote line in the L2 of a die: its value, who stored it, and the key index of the page (R163, R363). -/
structure DirtyByte where
  val : Byte
  src : Source
  key : Nat
  deriving DecidableEq, Repr, Inhabited

/-- A packet that this device has sent and that is not answered yet, with the task whose context sent it (R362), the words
of the group (R340), and the access that a posted write of an access list carries (R344). -/
structure Waiting where
  pkt : Packet
  kind : WaitKind
  since : Word
  task : Word
  word : Word
  access : Option Access := none
  deriving DecidableEq, Repr, Inhabited

/-- A collective handle that is loaded or running, with its run (R375–R380): the context that loaded it, the graph and its
SIG, the owner's tables and base addresses, the counters, the record that is queued and whether its condition has been
met, the records that have fired and are not complete, the PUTs that were refused with the first and the last refusal,
when each record's PUT was last sent, the members that have had SIG with the record that carried it, and the abort with whether its
fault has been raised. `finished` says that the task is over; `bulk` holds blocks of other devices' memory that a record
reads: the record, the physical address, the bytes. -/
structure CollRun where
  lnum : Nat
  handle : Nat
  ctx : Context
  running : Bool
  finished : Bool
  ncnt : Nat
  etype : Nat
  op : Nat
  rank : Nat
  sig : Word
  members : List (BitVec 32)
  records : List (List Byte)
  bases : List Word
  counters : Tab (BitVec 32)
  generation : BitVec 16
  queued : Option Nat
  met : Bool
  fired : List Nat
  refused : List (Nat × Word × Word)
  out : List (Nat × Word)
  sentTo : List (Nat × Nat)
  aborted : Option (BitVec 16)
  raised : Bool
  bulk : List (Nat × Nat × Option (List Byte))
  deriving DecidableEq, Repr, Inhabited

/-- The abort of a run on its way to a member on another device (R380). -/
structure Abort where
  dev : Nat
  lnum : Nat
  tenant : Nat
  handle : Nat
  generation : Nat
  detail : BitVec 16
  deriving DecidableEq, Repr, Inhabited

/-- A slot table of a router (R356, R357): two banks of 256 × 32 connection words, keyed 32 × slot + output, and the frame starts
at which it is to swap them (R402).
(DESIGN CHOICE, assumption 3.) -/
structure SlotTable where
  bank0 : Tab (BitVec 32)
  bank1 : Tab (BitVec 32)
  active : Bool
  swapAt : List Nat
  deriving DecidableEq, Repr, Inhabited

/-- What the error correction of one physical core knows: sys.ecc, and the words with errors that stand in its storage (R394,
R396, R397). -/
structure Ecc where
  corr : BitVec 32
  uncorr : BitVec 32
  marks : List (Store × Nat)
  upsets : List (Store × Nat)
  deriving DecidableEq, Repr, Inhabited

/-- The health state of a cluster (R393–R395, R398): the sensors and limits, since when each sensor shows CRIT, the rail and the ring
oscillator, by how many sixteenths of 940 MHz the clock is lowered, whether a droop stretches it and whether CRIT holds
the cores free; the logical core bound to slot 8, whether for a recompute, whether slot 8 itself is retired, the error correction
of the physical core that no logical core is bound to, and the logical cores with no slot.
(DESIGN CHOICE, assumption 3.) -/
structure Cluster where
  temp : List (BitVec 16)
  throttleLimit : BitVec 16
  criticalLimit : BitVec 16
  hot : List Bool
  crit : List Bool
  critSince : List (Option Word)
  droopEvents : BitVec 32
  minMv : BitVec 16
  freq : BitVec 16
  lowered : Nat
  stretched : Bool
  critHold : Bool
  spare : Option Nat
  recompute : Bool
  spareBad : Bool
  away : Ecc
  unavailable : List Nat
  deriving DecidableEq, Repr, Inhabited

/-- An attestation report (R405). -/
structure Report where
  nonce : BitVec 256
  devid : BitVec 384
  meas : List (BitVec 384)
  svn : BitVec 64
  spare : BitVec 128
  rsa : BitVec 3072
  slh : List Byte
  deriving DecidableEq, Repr, Inhabited

/-- A communication processor (R372): its SRAM; the state of RV64IMAC with the V extension, in the RISC-V layout, with vector
registers of 256 bits; and the measurement of its firmware. (PRESUMED, assumption 59.) -/
structure CommProc where
  sram : Tab Byte
  x : Tab Word
  pc : Word
  reserved : Option Nat
  v : Tab (BitVec 256)
  vstart : Word
  vl : Word
  vtype : Word
  vcsr : BitVec 3
  firmware : Option (BitVec 384)
  deriving DecidableEq, Repr, Inhabited

/-- How far the boot has come: R403. -/
inductive BootStage where
  | rom | images (done : Nat) | os | running | refused (index : Nat)
  deriving DecidableEq, Repr, Inhabited

/-- Whose move it is when no event is scheduled: a sequencer of the core in focus, or the units beside them. -/
inductive Turn where
  | seq (u : Sqr) | background
  deriving DecidableEq, Repr, Inhabited

/-- An event that falls due of itself in the default order: which of the table's events, on the core in focus or on the
device. `send` hands on the window packets of the VE, and `depart` a packet bound for another device. -/
inductive Due where
  | stall (u : Sqr)
  | relocPull
  | access (k : Nat)
  | fence
  | copyDue
  | copyBurst
  | scalePush
  | tileCommit
  | send
  | front
  | carryGrant
  | smpPerform
  | rowComplete (slot row : Nat)
  | rowDeliver (slot row : Nat)
  | hypFree (h : Nat)
  | squall
  | squallDone
  | restart
  | request (p : Packet)
  | depart (router output : Nat)
  | answer (id : Nat)
  | timeout (id : Nat)
  | dispatch (die : Nat)
  | preempt (die : Nat)
  | post
  | recordFire (run : Nat)
  | recordDone (run rec : Nat)
  | putRetry (run rec : Nat)
  | refusalEnd (run rec : Nat)
  | collFault (run : Nat)
  | xltDone
  | bankSwap (router : Nat)
  | evict
  | gap (dev lnum : Nat)
  | critical (cluster : Nat)
  | retire (lnum : Nat)
  | spare (stack pair : Nat)
  | period
  | tick (lnum : Nat)
  | rotate
  deriving DecidableEq, Repr, Inhabited

/-- A packet on its way through this device: the stop where it waits, the stop that it came from, and the stop of the output
whose queue it is in (R358, R359), and the slots that have carried a part of it (R400). Stop 0 is the IOD's router and 1–4 the dies'; a
cluster's is 64 and up, then the memories' of the dies, and the communication processors'. -/
structure Flight where
  pkt : Packet
  stop : Nat
  src : Nat
  out : Nat
  sent : Nat := 0
  deriving DecidableEq, Repr, Inhabited

/-- What waits in a reorder buffer (R359). -/
inductive Arrival where
  | req (p : Packet)
  | put (p : PutPacket)
  deriving DecidableEq, Repr, Inhabited

/-- One VX2 device. (DESIGN CHOICE, assumption 48.) -/
structure State where
  /-- The core in focus: the core whose sequencer or unit acts, with its logical number (R15). -/
  core : Core
  lnum : Nat
  others : Tab Core
  -- the model's own scheduling data
  unit : Sqr
  /-- Words and events that come next, from outside the default order. -/
  agenda : List Instr
  turn : Turn
  /-- What the default order has found due and not yet done. -/
  dues : List Due
  -- time and identity
  gtc : Word
  dev : BitVec 10
  dispatched : Bool
  gtcStepped : Bool
  lastCorrection : Option Word
  phys : Tab Nat
  -- memory
  mem : List Host.Cell
  /-- Translation caches: core n under n, cluster c under 512 + c, die d under 1024 + d (R352). -/
  tlbs : Tab (List TlbEntry)
  roots : Tab Word
  -- hypotheses
  hyps : Tab Hyp
  vers : List Version
  verAge : Nat
  -- tasks
  pools : Tab (List PoolEntry)
  arrivals : Nat
  saves : List SavedContext
  /-- The last checkpoint that KEEP wrote for a running task (R330, R398). -/
  kept : List SavedContext
  /-- When each core was last dispatched, by a running number (R331). -/
  dispatches : Tab Nat
  -- faults
  faultq : List FaultRecord
  unposted : List FaultRecord
  fqBase : Word
  fqHead : Nat
  fqTail : Nat
  hostIrqs : Nat
  /-- What the management controller has been told: uncorrectable words that scrubs found (R397). -/
  mgmtReports : List (Store × Nat × Nat)
  -- fabric
  packets : List Flight
  packetId : Nat
  /-- Packets sent and not answered. -/
  waiting : List Waiting
  /-- Answers to requests of other devices: the sender, the request's number, the cause code (0 for success, R365) and
  the data. -/
  responses : List (Nat × Nat × Nat × List Byte)
  flowSeq : Tab Nat
  flowDone : Tab Nat
  /-- Packets that wait for an earlier one of their flow: the port, the packet, when it came (R359). -/
  reorder : List (Nat × Arrival × Word)
  /-- Numbers of flows that are lost and are passed over when their turn comes: the flow and the number (R359). -/
  flowLost : List (Nat × Nat)
  /-- What has come of a carry or a PUT that takes several packets, by flow and target (R354). -/
  assembly : Tab (List Byte)
  /-- Packets of this device that have left by a port and are not answered: the port and the packet's number (R400). -/
  left : List (Nat × Nat)
  /-- Error counters of the ports (R354). -/
  portErrors : Tab Nat
  keys : Tab (BitVec 128)
  drops : Tab Nat
  slotTables : Tab SlotTable
  /-- Deficit round-robin of a best-effort output (R358), by 32 × router + output: 2^16 × tenant + packets left. -/
  drr : Tab Nat
  /-- Dirty bytes of remote lines, by die × 2^52 + physical address (R163). -/
  dirtyRemote : Tab DirtyByte
  -- IOD
  xltPending : Nat
  xltDone : Word
  portDone : Word
  portErr : Word
  -- collectives
  colls : List CollRun
  puts : List PutPacket
  /-- Aborts sent to members on other devices (R380). -/
  aborts : List Abort
  -- health
  clusters : Tab Cluster
  /-- Words of memory and of the L2 that a scrub found uncorrectable and that nothing has accessed since (R397), and words there
  with an error of one bit that nothing has read since (R396). -/
  marked : List (Store × Nat)
  upset : List (Store × Nat)
  /-- Errors of the channel pairs of the HBM stacks: stack, pair, when, and whether it could not be corrected (R399). -/
  pairErrors : List (Nat × Nat × Word × Bool)
  hbmSpares : List (Nat × Nat × Bool)
  lanes : Tab Nat
  retired : List (Nat × Nat)
  /-- Cores whose retirement waits for their save, with the context that was on them (R398). -/
  retiring : List (Nat × Option Context)
  /-- Tenants and root RCBs of which the management controller has been told that no majority was found (R393). -/
  noMajority : List (Nat × Word)
  -- platform
  boot : BootStage
  measurements : List (BitVec 384)
  /-- Measurements of images accepted after the boot (R403, R404). -/
  images : List (BitVec 384)
  svn : BitVec 64
  /-- The hash of the operator root, which is loaded at provisioning (R406). -/
  operatorRoot : BitVec 384
  /-- The communication processors, by port (R372). -/
  comms : Tab CommProc
  reports : List Report
  replies : List (List Word)
  deriving DecidableEq, Repr, Inhabited

/-- Boot images that have been accepted and stand: none while the device is in its ROM (R403, R404). -/
def BootStage.loaded (b : BootStage) : Nat := match b with
  | .images n => n
  | .os => 4
  | .running => 5
  | _ => 0

/-- The operating system has started the region manager (R403 step 4). -/
def State.hostUp (s : State) : Bool := s.boot == .running

/-- The management controller runs: its image is the third (R403 step 2). -/
def State.managed (s : State) : Bool := decide (3 ≤ s.boot.loaded)

/-- What a host core does, where the region manager runs (R403, R404). -/
def State.byHost (s : State) (t : State) : State := if s.hostUp then t else s

/-- Memory in canonical form: addresses rise strictly, and no listed byte is 0, which is what an unlisted address reads as
(DESIGN CHOICE, assumption 2: the spec gives memory no contents at reset). -/
abbrev Memory.wf (m : List Host.Cell) : Bool := Tab.wf m

/-- The device right after reset (R24, R403): every core halted, sys.gtc 0, no hypothesis open, pools and queues
empty, memory with nothing listed, the security processor in its ROM. (DESIGN CHOICE, assumptions 2 and 3.) -/
def State.reset : State :=
  { (default : State) with core := Core.reset, unit := .cc, turn := .seq .cc, boot := .rom }

end Sys2Proof.Machine
end

