-- ==== Sys2Proof/Machine/Regs.lean ====
section
/-! DEFINITION. Accessors of the state: the core in focus, the registers, guards, queues, token FIFOs and counters.
Registers that are hard-wired read and discard writes here and nowhere else (R35, R79, R80). -/
namespace Sys2Proof.Machine

/-- The core of logical number `n`. -/
def State.coreAt (s : State) (n : Nat) : Core :=
  if n = s.lnum then s.core else (s.others.find? n).getD Core.reset

/-- Bring core `n` into focus. -/
def focus (n : Nat) (s : State) : State :=
  if n = s.lnum then s
  else { s with core := s.coreAt n, lnum := n, others := Tab.put (Tab.erase s.others n) s.lnum s.core }

/-- Act on core `n` and come back to the core in focus. -/
def within (n : Nat) (f : State → State) (s : State) : State := focus s.lnum (f (focus n s))

/-- Change the core in focus. -/
def State.mapCore (s : State) (f : Core → Core) : State := { s with core := f s.core }

/-- The engine of a sequencer; the CC has none (R18). -/
def Core.eng (c : Core) (u : Sqr) : Engine :=
  match u with
  | .cc => default
  | .ae => c.ae
  | .me => c.me
  | .se => c.se
  | .ve => c.ve

def Core.setEng (c : Core) (u : Sqr) (e : Engine) : Core :=
  match u with
  | .cc => c
  | .ae => { c with ae := e }
  | .me => { c with me := e }
  | .se => { c with se := e }
  | .ve => { c with ve := e }

def Core.mapEng (c : Core) (u : Sqr) (f : Engine → Engine) : Core := c.setEng u (f (c.eng u))

/-- Register `n` of sequencer `u`: x0–x31 in the CC, e0–e15 in an engine; number 0 reads zero (R35, R79). -/
def Core.reg (c : Core) (u : Sqr) (n : Nat) : Word :=
  if n = 0 then 0#64 else match u with
    | .cc => c.x.get n
    | u => (c.eng u).e.get n

/-- Write register `n` of sequencer `u`; a write to number 0 is discarded (R35, R79). -/
def Core.setReg (c : Core) (u : Sqr) (n : Nat) (v : Word) : Core :=
  if n = 0 then c else match u with
    | .cc => { c with x := c.x.set n v }
    | u => c.mapEng u (fun e => { e with e := e.e.set n v })

/-- Register `n` of the acting sequencer. -/
def State.reg (s : State) (n : Nat) : Word := s.core.reg s.unit n
/-- Write register `n` of the acting sequencer. -/
def State.setReg (s : State) (n : Nat) (v : Word) : State := { s with core := s.core.setReg s.unit n v }

/-- Guard `n`: g0 is always true (R80). -/
def Core.guard (c : Core) (n : Nat) : Bool := n == 0 || c.g.getLsbD n

/-- Write guard `n`; a write to g0 is discarded (R80). -/
def Core.setGuard (c : Core) (n : Nat) (b : Bool) : Core :=
  if n = 0 then c
  else { c with g := if b then c.g ||| (1#8 <<< n) else c.g &&& ~~~(1#8 <<< n) }

/-- The guard field of a G or B word lets it execute (R39). -/
def Core.guardTrue (c : Core) (gsel : BitVec 3) (gneg : BitVec 1) : Bool :=
  c.guard gsel.toNat != (gneg == 1#1)

/-- The hypothesis of sequencer `u`: sys.hyp for the CC, the running command's for an engine (R297). -/
def Core.hypOf (c : Core) (u : Sqr) : BitVec 8 :=
  match u with
  | .cc => c.hyp
  | u => match (c.eng u).run with
    | some r => r.hyp
    | none => 0#8

/-- The current hypothesis of the acting sequencer (R297). -/
def State.hyp (s : State) : BitVec 8 := s.core.hypOf s.unit

/-- The context runs in Calm mode (R383). -/
def Core.calm (c : Core) : Bool := match c.ctx with
  | some x => x.calm
  | none => false

def Core.tenant (c : Core) : Nat := match c.ctx with
  | some x => x.tenant
  | none => 0

/-! ### Identity -/

/-- Die, cluster and core of a logical core number: LNUM = DIE × 96 + CLU × 8 + CORE (R15). -/
def dieOf (n : Nat) : Nat := n / 96
def clusterOf (n : Nat) : Nat := n % 96 / 8
def coreOf (n : Nat) : Nat := n % 8
/-- The cluster's index on the device, 0–47. -/
def clusterIx (n : Nat) : Nat := n / 8

/-- The physical slot bound to a logical core: its own number until a remap (R14). The table holds slot + 1. -/
def State.physOf (s : State) (n : Nat) : Nat :=
  match s.phys.get n with
  | 0 => coreOf n
  | k + 1 => k

/-- sys.coreid: R15. -/
def State.coreid (s : State) : Word :=
  BitVec.ofNat 64 (s.dev.toNat * 2 ^ 22 + s.physOf s.lnum * 2 ^ 18 + dieOf s.lnum * 2 ^ 16
    + clusterOf s.lnum * 2 ^ 12 + coreOf s.lnum * 2 ^ 9 + s.lnum)

/-! ### Queues -/

/-- The tail pointer of a queue (R23). -/
def Queue.tail {α : Type} (q : Queue α) (depth : Nat) : Nat := (q.head + q.items.length) % depth

/-- Push at the tail. -/
def Queue.push {α : Type} (q : Queue α) (v : α) : Queue α := { q with items := q.items ++ [v] }

/-- Pop the oldest entry. -/
def Queue.pop {α : Type} (q : Queue α) (depth : Nat) : Queue α :=
  match q.items with
  | [] => q
  | _ :: t => { head := (q.head + 1) % depth, items := t }

/-- Keep the entries that `p` accepts, in order (R304). -/
def Queue.keep {α : Type} (q : Queue α) (p : α → Bool) : Queue α := { q with items := q.items.filter p }

/-- Depths of the queues: R23. -/
def cmdqDepth : Nat := 16
def fmtqDepth : Nat := 16
def sclqDepth : Nat := 64
def bqDepth : Nat := 8
def rqDepth : Nat := 16
def tokenDepth : Nat := 32

/-! ### Token FIFOs -/

/-- The FIFO on which WB, WA, SB, SA of a word of sequencer `u` act, numbered as in sys.tokens (R20, R125). -/
def waitBefore (u : Sqr) : Nat := match u with
  | .cc => 4 | .ae => 0 | .me => 1 | .se => 2 | .ve => 3
def waitAfter (u : Sqr) : Nat := match u with
  | .cc => 5 | .ae => 6 | .me => 7 | .se => 8 | .ve => 9
def signalBefore (u : Sqr) : Nat := match u with
  | .cc => 9 | .ae => 5 | .me => 6 | .se => 7 | .ve => 8
def signalAfter (u : Sqr) : Nat := match u with
  | .cc => 0 | .ae => 1 | .me => 2 | .se => 3 | .ve => 4

def TokenFifo.hasToken (f : TokenFifo) : Bool := !f.toks.isEmpty
/-- A place is free when it is neither filled nor reserved (R115). -/
def TokenFifo.hasPlace (f : TokenFifo) : Bool := decide (f.toks.length + f.reserved < tokenDepth)

def Core.popToken (c : Core) (i : Nat) : Core :=
  { c with tokens := c.tokens.set i { c.tokens.get i with toks := (c.tokens.get i).toks.drop 1 } }
def Core.reserveToken (c : Core) (i : Nat) : Core :=
  { c with tokens := c.tokens.set i { c.tokens.get i with reserved := (c.tokens.get i).reserved + 1 } }
def Core.unreserveToken (c : Core) (i : Nat) : Core :=
  { c with tokens := c.tokens.set i { c.tokens.get i with reserved := (c.tokens.get i).reserved - 1 } }
def Core.pushToken (c : Core) (i : Nat) (h : BitVec 8) : Core :=
  { c with tokens := c.tokens.set i { c.tokens.get i with toks := (c.tokens.get i).toks ++ [h] } }

/-- The ring bits of a word: WB, WA, SB, SA in bits 3 to 0 of the field (R32). -/
def wbBit (r : BitVec 4) : Bool := r.getLsbD 3
def waBit (r : BitVec 4) : Bool := r.getLsbD 2
def sbBit (r : BitVec 4) : Bool := r.getLsbD 1
def saBit (r : BitVec 4) : Bool := r.getLsbD 0

/-- Every FIFO that the word waits on holds a token (R115). -/
def Core.waitsReady (c : Core) (u : Sqr) (r : BitVec 4) : Bool :=
  (!wbBit r || (c.tokens.get (waitBefore u)).hasToken) && (!waBit r || (c.tokens.get (waitAfter u)).hasToken)

/-- Every FIFO that the word signals has a free place (R115). -/
def Core.signalsReady (c : Core) (u : Sqr) (r : BitVec 4) : Bool :=
  (!sbBit r || (c.tokens.get (signalBefore u)).hasPlace) && (!saBit r || (c.tokens.get (signalAfter u)).hasPlace)

/-- Pop one token from each FIFO that the word waits on (R115). -/
def Core.takeWaits (c : Core) (u : Sqr) (r : BitVec 4) : Core :=
  let c := if wbBit r then c.popToken (waitBefore u) else c
  if waBit r then c.popToken (waitAfter u) else c

/-- Push one token, carrying hypothesis `h`, into each FIFO that the word signals (R115, R305). -/
def Core.giveSignals (c : Core) (u : Sqr) (r : BitVec 4) (h : BitVec 8) : Core :=
  let c := if sbBit r then c.pushToken (signalBefore u) h else c
  if saBit r then c.pushToken (signalAfter u) h else c

/-- Reserve the places of the word's signals (R115). -/
def Core.reserveSignals (c : Core) (u : Sqr) (r : BitVec 4) : Core :=
  let c := if sbBit r then c.reserveToken (signalBefore u) else c
  if saBit r then c.reserveToken (signalAfter u) else c

/-- Fill the reserved places (R115). -/
def Core.fillSignals (c : Core) (u : Sqr) (sb sa : Bool) (h : BitVec 8) : Core :=
  let c := if sb then (c.unreserveToken (signalBefore u)).pushToken (signalBefore u) h else c
  if sa then (c.unreserveToken (signalAfter u)).pushToken (signalAfter u) h else c

/-! ### Bit fields -/

/-- Bits `hi:lo` of a 64-bit value, as a number (R3). -/
def bits (v : Word) (hi lo : Nat) : Nat := v.toNat / 2 ^ lo % 2 ^ (hi + 1 - lo)

/-- Bits `hi:lo` of a number. -/
def nbits (v hi lo : Nat) : Nat := v / 2 ^ lo % 2 ^ (hi + 1 - lo)

/-- The `n` low bits of a number, read as two's complement. -/
def sextNat (n v : Nat) : Int := if v % 2 ^ n < 2 ^ (n - 1) then (v % 2 ^ n : Nat) else (v % 2 ^ n : Nat) - (2 ^ n : Nat)

/-- A word from an integer, modulo 2^64 (R79). -/
def wordOfInt (v : Int) : Word := BitVec.ofInt 64 v

/-- Bits 63:57 of an address equal bit 56 (R133 step 1). -/
def canonical (a : Word) : Bool := bits a 63 56 == 0 || bits a 63 56 == 255

end Sys2Proof.Machine
end

