-- ==== Sys2Proof/Machine/Mem.lean ====
section
/-! DEFINITION. Physical and virtual memory: bytes, the five-level walk with its A and D bits (R349–R353), the versions
of lines under hypotheses with their spill area (R299–R302), and the marks of armed logit rows (R283). -/
namespace Sys2Proof.Machine

/-- A fault before it is taken: code and detail of R337, and the faulting address. -/
structure Flt where
  code : Nat
  detail : Nat
  addr : Word
  deriving DecidableEq, Repr, Inhabited

/-- Fault codes: R337. -/
def cIllegal : Nat := 0x01
def cStream : Nat := 0x02
def cBufacc : Nat := 0x03
def cAlign : Nat := 0x04
def cPage : Nat := 0x05
def cProt : Nat := 0x06
def cFmtq : Nat := 0x07
def cQimb : Nat := 0x08
def cStall : Nat := 0x09
def cStamp : Nat := 0x0A
def cCalm : Nat := 0x0B
def cHypfull : Nat := 0x0C
def cHypso : Nat := 0x0D
def cOrphan : Nat := 0x0E
def cColl : Nat := 0x0F
def cRemote : Nat := 0x10
def cEcc : Nat := 0x11
def cSrf : Nat := 0x12
def cOpd : Nat := 0x13
def cLoop : Nat := 0x14
def cQueue : Nat := 0x15
def cTrap : Nat := 0x20

/-! ### Physical addresses: R349 -/

/-- The device field of a physical address. -/
def paDev (pa : Nat) : Nat := pa / 2 ^ 42 % 1024

/-- The address is in this device's own space. -/
def State.isLocal (s : State) (pa : Nat) : Bool := paDev pa == s.dev.toNat

/-- A local address with memory: bit 41 clear, an offset below 80 GB in its stack (R349). -/
def paHasMem (pa : Nat) : Bool := pa / 2 ^ 41 % 2 == 0 && decide (pa % 2 ^ 37 < 0x12A05F2000)

/-- The stack of a local address, 0–15. -/
def paStack (pa : Nat) : Nat := pa / 2 ^ 37 % 16

/-- The die that owns a local address (R12). -/
def paDie (pa : Nat) : Nat := paStack pa / 4

/-! ### Words that a scrub has marked: R397 -/

/-- The first marked word of a core's storage that `n` bytes from `lo` touch. (DEDUCED, assumptions 14 and 15.) -/
def Core.markHit (c : Core) (st : Store) (lo n : Nat) : Option Nat :=
  (c.marks.find? (fun m => m.1 == st && decide (m.2 < lo + n ∧ lo < m.2 + 8))).map (·.2)

/-- F.ECC where `n` bytes of memory from `pa` touch a marked word (R337, R396). (DEDUCED, assumption 14.) -/
def State.memMark (s : State) (pa n : Nat) : Option Flt :=
  (s.marked.find? (fun m => (m.1 == .l2 || m.1 == .hbm) && decide (m.2 < pa + n ∧ pa < m.2 + 8))).map
    (fun m => ⟨cEcc, if m.1 == .l2 then 2 else 3, BitVec.ofNat 64 m.2⟩)

/-! ### Committed bytes -/

def State.readPhys (s : State) (pa n : Nat) : Nat := readLE s.mem pa n

/-- Mark the bytes `pa .. pa + n - 1` in one armed row; the row completes when its last byte is written, and its
contents at that instant are kept (R283). `m` is memory after the write. -/
def LogitRow.mark (m : Tab Byte) (pa n : Nat) (r : LogitRow) : LogitRow :=
  let hit := r.segs.flatMap (fun g => (List.range n).filterMap (fun i =>
    if g.1 ≤ pa + i ∧ pa + i < g.1 + g.2.1 then some (g.2.2 + (pa + i - g.1)) else none))
  if hit.isEmpty then r
  else if r.complete then { r with late := true }
  else
    let w := hit.foldl (fun l b => if l.contains b then l else b :: l) r.written
    if w.length = r.bytes then { r with written := w, complete := true, snap := r.segs.flatMap (fun g => readBytes m g.1 g.2.1) }
    else { r with written := w }

/-- Mark a write in every armed row of a core. -/
def Core.markRows (m : Tab Byte) (pa n : Nat) (c : Core) : Core :=
  if c.smp.isEmpty then c
  else { c with smp := c.smp.map (fun p => (p.1, { p.2 with rows := p.2.rows.map (LogitRow.mark m pa n) })) }

/-- The byte lies in a row armed for a slot of the core. -/
def Core.armedAt (c : Core) (pa : Nat) : Bool :=
  c.smp.any (fun p => p.2.rows.any (fun r => r.segs.any (fun g => decide (g.1 ≤ pa ∧ pa < g.1 + g.2.1))))

/-- The byte lies in an armed row of some context of the device, saved ones included (R283, R295). -/
def State.armedAt (s : State) (pa : Nat) : Bool :=
  s.core.armedAt pa || s.others.any (fun p => p.2.armedAt pa) || s.saves.any (fun x => x.core.armedAt pa)

/-- Memory becomes `m` by a write of the bytes `pa .. pa + n - 1`: armed rows take note, those of saved contexts too
(R283, R295). -/
def State.setMem (s : State) (m : Tab Byte) (pa n : Nat) : State :=
  { s with mem := m, core := s.core.markRows m pa n, others := s.others.map (fun p => (p.1, p.2.markRows m pa n)),
           saves := s.saves.map (fun x => { x with core := x.core.markRows m pa n }) }

/-- Write committed bytes from `pa` up, one write per element in coherence order, marking armed rows (R137, R283). -/
def State.writePhys (s : State) (pa : Nat) (bs : List Byte) : State := s.setMem (writeBytes s.mem pa bs) pa bs.length

/-- Write the low `n` bytes of a number. -/
def State.writePhysLE (s : State) (pa n v : Nat) : State := s.writePhys pa (natToBytes n v)

/-! ### Translation: R350–R353 -/

/-- Bits of the virtual address that index a level, and the number of index bits (R350). -/
def levelShift (level : Nat) : Nat :=
  match level with
  | 0 => 12
  | 1 => 21
  | 2 => 29
  | 3 => 38
  | _ => 47
def levelBits (level : Nat) : Nat :=
  match level with
  | 0 => 9
  | 1 => 8
  | 2 => 9
  | 3 => 9
  | _ => 10

/-- Entry index of an address at a level. -/
def levelIndex (level va : Nat) : Nat := va / 2 ^ levelShift level % 2 ^ levelBits level

/-- A page-table entry's fields (R351). -/
def pteV (e : Word) : Bool := e.getLsbD 0
def pteR (e : Word) : Bool := e.getLsbD 2
def pteW (e : Word) : Bool := e.getLsbD 3
def pteX (e : Word) : Bool := e.getLsbD 4
def pteA (e : Word) : Bool := e.getLsbD 6
def pteD (e : Word) : Bool := e.getLsbD 7
def pteCont (e : Word) : Bool := e.getLsbD 8
def pteRmc (e : Word) : Bool := e.getLsbD 9
def pteKind (e : Word) : Nat := bits e 11 10
def ptePa (e : Word) : Nat := bits e 51 12 * 4096
def pteKey (e : Word) : Nat := bits e 63 52

/-- Access kinds of F.PAGE and F.PROT: 0 read, 1 write, 2 execute, 3 read and write (R337). -/
abbrev AccKind := Nat

/-- A leaf grants an access (R133 step 4, R85). -/
def pteAllows (e : Word) (acc : AccKind) : Bool :=
  match acc with
  | 0 => pteR e
  | 1 => pteW e
  | 2 => pteX e
  | _ => pteR e && pteW e

/-- What a walk ends in: a leaf with its level, the address of its entry and its page size, or the level at which it
stopped, and whether the entry was malformed, or the F.ECC of an entry. -/
inductive Walk where
  | leaf (level entry size : Nat) (e : Word)
  | stop (level : Nat) (malformed : Bool)
  /-- An entry that the walk reads is marked (R397). -/
  | ecc (f : Flt)
  deriving DecidableEq, Repr

/-- The page size of a leaf (R350). -/
def leafSize (level : Nat) (cont : Bool) : Nat := 2 ^ levelShift level * (if cont then 16 else 1)

/-- The page-table entry at a physical address: this device's memory, or another device's (R349). -/
def State.tableEntry (s : State) (a : Nat) : Word := if s.isLocal a then BitVec.ofNat 64 (s.readPhys a 8) else Config.remoteEntry s.gtc.toNat a

/-- The F.ECC of `n` bytes of a table of this device (R396, R397). -/
def State.tableMark (s : State) (a n : Nat) : Option Flt := if s.isLocal a then s.memMark a n else none

/-- A table lies in the hole of this device's addresses (R349). -/
def State.tableHole (s : State) (tb : Nat) : Bool := s.isLocal tb && !paHasMem tb

/-- A CONT group is consistent (R350): sixteen aligned entries with equal bits 11:2 and 63:52 that map one naturally
aligned physical range. -/
def contOk (s : State) (level entry : Nat) (e : Word) : Bool :=
  let first := entry - entry % 128
  let ps := 2 ^ levelShift level
  let base := ptePa e - (entry % 128 / 8) * ps
  base % (16 * ps) == 0 && (List.range 16).all (fun k =>
    let x := s.tableEntry (first + 8 * k)
    pteV x && bits x 11 2 == bits e 11 2 && bits x 63 52 == bits e 63 52 && ptePa x == base + k * ps)

/-- The end of a walk at a leaf, whose other entries are read where it is one of a CONT group. -/
def leafWalk (s : State) (level a : Nat) (e : Word) : Walk :=
  match (if pteCont e then s.tableMark (a - a % 128) 128 else none) with
  | some f => .ecc f
  | none => if pteCont e && !(decide (level ≤ 1) && contOk s level a e) then .stop level true else .leaf level a (leafSize level (pteCont e)) e

/-- The walk of R350 and R351 from the table `tb` of `level`. (DEDUCED, assumption 43.) -/
def walk (s : State) (tb va : Nat) : Nat → Walk
  | 0 =>
    let a := tb + 8 * levelIndex 0 va
    let e := s.tableEntry a
    if s.tableHole tb then .stop 7 false
    else if let some f := s.tableMark a 8 then .ecc f
    else if !pteV e then .stop 0 false
    else if !(pteR e || pteW e || pteX e) then .stop 0 true
    else if !pteR e || pteKind e == 3 then .stop 0 true
    else leafWalk s 0 a e
  | level + 1 =>
    let a := tb + 8 * levelIndex (level + 1) va
    let e := s.tableEntry a
    if s.tableHole tb then .stop 7 false
    else if let some f := s.tableMark a 8 then .ecc f
    else if !pteV e then .stop (level + 1) false
    else if !(pteR e || pteW e || pteX e) then
      if bits e 63 52 != 0 || bits e 11 1 != 0 then .stop (level + 1) true
      else walk s (ptePa e) va level
    else if level + 1 ≥ 3 || !pteR e || pteKind e == 3 then .stop (level + 1) true
    else leafWalk s (level + 1) a e

/-- Set A, and D on a write, in a leaf entry, or in all sixteen of a CONT group (R351). An entry on another device changes there.
(DEDUCED, assumption 43.) -/
def setAD (s : State) (entry : Nat) (e : Word) (write : Bool) : State :=
  let e' := e ||| 0x40#64 ||| (if write then 0x80#64 else 0#64)
  if e' = e ∨ s.isLocal entry = false then s
  else if pteCont e then
    (List.range 16).foldl (fun s k =>
      let a := entry - entry % 128 + 8 * k
      let x : Word := BitVec.ofNat 64 (s.readPhys a 8)
      s.writePhysLE a 8 (x ||| 0x40#64 ||| (if write then 0x80#64 else 0#64)).toNat) s
  else s.writePhysLE entry 8 e'.toNat

/-- A translation cache: its number among the device's, its sets and its ways (R352). -/
structure TlbShape where
  num : Nat
  sets : Nat
  ways : Nat
  deriving DecidableEq, Repr

/-- The caches that core `n` looks in, in order: its own, its cluster's, its die's (R352). -/
def cachesOf (n : Nat) : List TlbShape := [⟨n, 1, 64⟩, ⟨512 + n / 8, 128, 8⟩, ⟨1024 + dieOf n, 1024, 16⟩]

/-- The set of an entry: the low bits of its page number. (DESIGN CHOICE, assumption 42.) -/
def TlbEntry.set (t : TlbEntry) (c : TlbShape) : Nat := t.base / t.size % c.sets

/-- Put an entry into a cache, ahead of its set, whose last entry makes room. (DESIGN CHOICE, assumption 42.) -/
def fillCache (t : TlbEntry) (m : Tab (List TlbEntry)) (c : TlbShape) : Tab (List TlbEntry) :=
  let old := (m.get c.num).filter (fun x => !(x.tenant == t.tenant && x.base == t.base))
  let mine := (old.filter (fun x => x.set c == t.set c)).take (c.ways - 1)
  m.set c.num (t :: mine ++ old.filter (fun x => x.set c != t.set c))

/-- An entry translates an access. A write needs D set (R351). -/
def TlbEntry.serves (t : TlbEntry) (tenant v : Nat) (writes : Bool) : Bool :=
  t.tenant == tenant && decide (t.base ≤ v ∧ v < t.base + t.size) && (!writes || pteD t.leaf)

/-- Look in some caches in order; a hit fills those before it (R352). -/
def lookCaches (m : Tab (List TlbEntry)) (hit : TlbEntry → Bool) : List TlbShape → Option (TlbEntry × Tab (List TlbEntry))
  | [] => none
  | c :: t => match (m.get c.num).find? hit with
    | some e => some (e, m)
    | none => (lookCaches m hit t).map (fun r => (r.1, fillCache r.1 r.2 c))

/-- A write needs D set (R351). -/
def accWrites (acc : AccKind) : Bool := acc == 1 || acc == 3

/-- Translate a canonical address for a tenant (R133 steps 3 and 4, R349–R353): the physical address, the leaf, and the
state with the translation cached and A and D set. (DESIGN CHOICE, assumption 42; DEDUCED, assumption 43.) -/
def translate (s : State) (tenant : Nat) (va : Word) (acc : AccKind) : Except Flt (Nat × Word × State) :=
  let v := va.toNat % 2 ^ 57
  let fltPage (level : Nat) (mal : Bool) : Flt := ⟨cPage, level + 8 * acc + (if mal then 32 else 0), va⟩
  let finish (pa : Nat) (e : Word) (s : State) : Except Flt (Nat × Word × State) :=
    if s.isLocal pa && !paHasMem pa then .error (fltPage 7 false)
    else if !pteAllows e acc then .error ⟨cProt, 8 * acc, va⟩
    else .ok (pa, e, s)
  match lookCaches s.tlbs (fun t => t.serves tenant v (accWrites acc)) (cachesOf s.lnum) with
  | some (t, m) => finish (t.pa + (v - t.base)) t.leaf { s with tlbs := m }
  | none =>
    match walk s (bits (s.roots.get tenant) 51 13 * 8192) v 4 with
    | .stop level mal => .error (fltPage level mal)
    | .ecc f => .error f
    | .leaf level entry size e =>
      let base := v - v % size
      let pbase := if pteCont e then ptePa e - (entry % 128 / 8) * 2 ^ levelShift level else ptePa e - ptePa e % size
      if s.isLocal (pbase + v % size) && !paHasMem (pbase + v % size) then .error (fltPage 7 false)
      else if !pteAllows e acc then .error ⟨cProt, 8 * acc, va⟩
      else
        let s := setAD s entry e (accWrites acc)
        let e' := e ||| 0x40#64 ||| (if accWrites acc then 0x80#64 else 0#64)
        let t : TlbEntry := ⟨tenant, base, size, e', pbase⟩
        .ok (pbase + v % size, e', { s with tlbs := (cachesOf s.lnum).foldl (fillCache t) s.tlbs })

/-- R133 for the acting core: canonical form, alignment, mapping, permission. -/
def checkMem (s : State) (va : Word) (align : Nat) (acc : AccKind) : Except Flt (Nat × Word × State) :=
  if !canonical va then .error ⟨cPage, 0x40 + 8 * acc, va⟩
  else if va.toNat % align ≠ 0 then .error ⟨cAlign, 0, va⟩
  else translate s s.core.tenant va acc

/-! ### Versions: R299–R302 -/

/-- The path from `h` up to, not including, the root; at most three entries (R296). -/
def hypPath (s : State) (h : Nat) : Nat → List Nat
  | 0 => []
  | fuel + 1 => if h = 0 then [] else h :: hypPath s (s.hyps.get h).parent.toNat fuel

/-- A spilled version as its entry in memory has it (R302). -/
def State.loadSpill (s : State) (v : Version) : Version :=
  match v.spilled with
  | none => v
  | some (tenant, va) =>
    match translate s tenant va 0 with
    | .ok (pa, _, _) =>
      if s.isLocal pa then
        { v with line := s.readPhys pa 8 / 128, hyp := BitVec.ofNat 8 (s.readPhys (pa + 8) 1), mask := s.readPhys (pa + 16) 16,
                 data := (List.range 128).foldl (fun t i => Tab.set t i (Tab.get s.mem (pa + 32 + i))) [] }
      else v
    | .error _ => v

/-- The versions as the L2 and the spill areas hold them; an entry whose HYP is 0 holds none (R302). (DESIGN CHOICE,
assumption 6.) -/
def State.versNow (s : State) : List Version := (s.vers.map s.loadSpill).filter (fun v => v.spilled.isNone || v.hyp != 0#8)

/-- The version of a line under a hypothesis. -/
def findVer (s : State) (line h : Nat) : Option Version := s.versNow.find? (fun v => v.line == line && v.hyp.toNat == h)

/-- The byte of a version, where its mask holds it. -/
def Version.byte (v : Version) (pa : Nat) : Option Byte :=
  if v.mask / 2 ^ (pa % 128) % 2 = 1 then some (v.data.get (pa % 128)) else none

/-- read_byte of R300. -/
def readByteH (s : State) (h pa : Nat) : Byte :=
  ((hypPath s h 4).findSome? (fun g => (findVer s (pa / 128) g).bind (fun v => v.byte pa))).getD (Tab.get s.mem pa)

/-- Bytes `pa .. pa + n - 1` as a reader under `h` sees them (R153, R300). -/
def readH (s : State) (h pa n : Nat) : List Byte :=
  if h = 0 || s.vers.isEmpty then readBytes s.mem pa n else (List.range n).map (fun i => readByteH s h (pa + i))

/-- A read under `h` uses the versions that hold its bytes (R301). -/
def touchVers (s : State) (h pa n : Nat) : State :=
  if h = 0 || s.vers.isEmpty then s
  else
    let path := hypPath s h 4
    let used (v : Version) : Bool :=
      let w := s.loadSpill v
      path.contains w.hyp.toNat && (List.range n).any (fun i => (pa + i) / 128 == w.line && (w.byte (pa + i)).isSome)
    { s with vers := s.vers.map (fun v => if used v then { v with age := s.verAge } else v), verAge := s.verAge + 1 }

/-- The bytes of a spill entry (R302). -/
def spillBytes (v : Version) : List Byte :=
  natToBytes 8 (v.line * 128) ++ natToBytes 8 v.hyp.toNat ++ natToBytes 16 v.mask ++ readBytes v.data 0 128
    ++ List.replicate 96 0#8

/-- Store bytes at a virtual address of a tenant, page by page of 256 bytes or less; an unmapped part is left out. -/
def storeVirt (s : State) (tenant : Nat) (va : Word) (bs : List Byte) : State :=
  match translate s tenant va 1 with
  | .ok (pa, _, s) => if s.isLocal pa then s.writePhys pa bs else s
  | .error _ => s

/-- Write a spilled version to its entry in the spill area. -/
def mirrorSpill (s : State) (v : Version) : State :=
  match v.spilled with
  | none => s
  | some (tenant, va) => storeVirt s tenant va (spillBytes v)

/-- Free the spill entry of a version: its HYP becomes 0 (R302, R304). -/
def freeSpill (s : State) (v : Version) : State :=
  match v.spilled with
  | none => s
  | some (tenant, va) => storeVirt s tenant (va + 8#64) [0#8]

/-- The record of a version: its spill entry, or the line and hypothesis that it has in L2. -/
def Version.same (v x : Version) : Bool :=
  match v.spilled with
  | some k => x.spilled == some k
  | none => x.spilled.isNone && x.line == v.line && x.hyp == v.hyp

/-- The version is no longer there. -/
def dropVer (s : State) (v : Version) : State := { s with vers := s.vers.filter (fun x => !v.same x) }

/-- Replace a version in place, or append it. -/
def setVer (s : State) (v : Version) : State :=
  if s.vers.any v.same then { s with vers := s.vers.map (fun x => if v.same x then v else x) } else { s with vers := s.vers ++ [v] }

/-- The lowest free entry of a hypothesis's spill area: its HYP in memory is 0 (R302). -/
def freeSpillEntry (s : State) (hy : Hyp) : Option Word :=
  ((List.range hy.spillN).map (fun i => hy.spill + BitVec.ofNat 64 (256 * i))).find? (fun va =>
    match translate s hy.tenant (va + 8#64) 0 with
    | .ok (pa, _, _) => s.isLocal pa && s.readPhys pa 1 == 0
    | .error _ => false)

/-- The least recently used version of some. -/
def lruVer (vs : List Version) : Option Version :=
  vs.foldl (fun acc v => match acc with
    | none => some v
    | some w => if v.age < w.age then some v else some w) none

/-- Make room for a new version of `line` (R301): with four versions of its set in L2, the least recently used one
moves to the spill area of its hypothesis's tenant; F.HYPFULL detail 0 when that area is full. -/
def makeRoom (s : State) (line : Nat) : Except Flt State :=
  let inL2 := s.vers.filter (fun v => v.spilled.isNone)
  if inL2.length < Config.versionWays then .ok s
  else
    let set := inL2.filter (fun v => paDie (v.line * 128) == paDie (line * 128) && Config.l2Set v.line == Config.l2Set line)
    if set.length < Config.versionWays then .ok s
    else match lruVer set with
      | none => .ok s
      | some v =>
        let hy := s.hyps.get v.hyp.toNat
        match freeSpillEntry s hy with
        | none => .error ⟨cHypfull, 0, BitVec.ofNat 64 (line * 128)⟩
        | some va =>
          let w := { v with spilled := some (hy.tenant, va) }
          .ok (mirrorSpill (setVer (dropVer (dropVer s v) w) w) w)

/-- The version of a line under `h`, created with an empty mask when absent (R300, R301). -/
def ensureVer (s : State) (line h : Nat) : Except Flt (Version × State) :=
  match findVer s line h with
  | some v => .ok (v, s)
  | none =>
    match makeRoom s line with
    | .error f => .error f
    | .ok s => .ok (⟨line, BitVec.ofNat 8 h, 0, [], s.verAge, none⟩, s)

/-- write_byte of R300. -/
def writeByteH (s : State) (h pa : Nat) (b : Byte) : Except Flt State :=
  match ensureVer s (pa / 128) h with
  | .error f => .error f
  | .ok (v, s) =>
    let v := { v with mask := v.mask ||| 2 ^ (pa % 128), data := v.data.set (pa % 128) b, age := s.verAge }
    .ok (mirrorSpill { setVer s v with verAge := s.verAge + 1 } v)

/-- Write the bytes outside armed rows, each into the version of its line. -/
def writeTagged (s : State) (h pa : Nat) : List Byte → Except Flt State
  | [] => .ok s
  | b :: t =>
    if s.armedAt pa then writeTagged s h (pa + 1) t
    else match writeByteH s h pa b with
      | .error f => .error f
      | .ok s => writeTagged s h (pa + 1) t

/-- Write bytes under hypothesis `h` as one access, tagged when h ≠ 0 and the byte is in no armed row (R137, R283, R299). -/
def writeH (s : State) (h pa : Nat) (bs : List Byte) : Except Flt State :=
  if h = 0 then .ok (s.writePhys pa bs)
  else match writeTagged s h pa bs with
    | .error f => .error f
    | .ok s =>
      let armed := ((List.range bs.length).zip bs).filter (fun p => s.armedAt (pa + p.1))
      .ok (if armed.isEmpty then s else s.setMem (armed.foldl (fun m p => Tab.set m (pa + p.1) p.2) s.mem) pa bs.length)

/-! ### Blocks at virtual addresses -/

/-- Check one page of a block (R133 steps 3 and 4) and answer the physical address. -/
def blockPage (s : State) (va : Word) (acc : AccKind) : Except Flt (Nat × State) :=
  if !canonical va then .error ⟨cPage, 0x40 + 8 * acc, va⟩
  else match translate s s.core.tenant va acc with
    | .error f => .error f
    | .ok (pa, _, s) => .ok (pa, s)

/-- Read `n` bytes at a virtual address page by page, each part of at most 4 KiB, as a reader under `h` sees them
(R133, R136). -/
def readVirtFrom (s : State) (h : Nat) (va : Word) (n : Nat) : Nat → Except Flt (List Byte × State)
  | 0 => .ok ([], s)
  | fuel + 1 =>
    if n = 0 then .ok ([], s)
    else
      let k := min n (4096 - va.toNat % 4096)
      match blockPage s va 0 with
      | .error f => .error f
      | .ok (pa, s) =>
        match s.memMark pa k with
        | some f => .error f
        | none =>
          match readVirtFrom s h (va + BitVec.ofNat 64 k) (n - k) fuel with
          | .error f => .error f
          | .ok (rest, s') => .ok (readH s' h pa k ++ rest, touchVers s' h pa k)

/-- Read a block that must be aligned to `align`: R133, step 2 before any translation. -/
def readVirt (s : State) (h : Nat) (va : Word) (n align : Nat) : Except Flt (List Byte × State) :=
  if !canonical va then .error ⟨cPage, 0x40, va⟩
  else if va.toNat % align ≠ 0 then .error ⟨cAlign, 0, va⟩
  else readVirtFrom s h va n (n / 4096 + 2)

/-- Read an aligned value of `n` bytes, committed. -/
def loadVirt (s : State) (va : Word) (n : Nat) : Except Flt (Word × State) :=
  match readVirt s 0 va n n with
  | .error f => .error f
  | .ok (bs, s) => .ok (BitVec.ofNat 64 (bytesToNat bs), s)

/-- Write committed bytes at a virtual address page by page; one that meets a marked word faults (R397). -/
def writeVirtFrom (s : State) (va : Word) (bs : List Byte) : Nat → Except Flt State
  | 0 => .ok s
  | fuel + 1 =>
    if bs.isEmpty then .ok s
    else
      let k := min bs.length (4096 - va.toNat % 4096)
      match blockPage s va 1 with
      | .error f => .error f
      | .ok (pa, s) => match s.memMark pa k with
        | some f => .error f
        | none => writeVirtFrom (s.writePhys pa (bs.take k)) (va + BitVec.ofNat 64 k) (bs.drop k) fuel

def writeVirt (s : State) (va : Word) (bs : List Byte) : Except Flt State := writeVirtFrom s va bs (bs.length / 4096 + 2)

end Sys2Proof.Machine
end

