-- ==== Sys2Proof/Machine/Buf.lean ====
section
/-! DEFINITION. The typed buffers of a core: spaces and sizes (R22), rights (R130), the checks of a local access (R131)
and of a window (R360, R361), and element accesses (R132). -/
namespace Sys2Proof.Machine

/-- Space id and offset of a buffer address (R22). -/
def bufSpace (b : Nat) : Nat := b / 2 ^ 28 % 16
def bufOff (b : Nat) : Nat := b % 2 ^ 28

/-- Sizes of WB, AB and AS (R22). -/
def spaceSize (space : Nat) : Nat :=
  match space with
  | 0 => 0x180000
  | 1 => 0x100000
  | 2 => 0xC0000
  | _ => 0

/-- Rights of a sequencer to a space: R130. ACC.RD's write to AB is checked where it is made (R204); a relocated
command's window read likewise (R197). -/
def bufRight (u : Sqr) (space : Nat) (write : Bool) : Bool :=
  match space, u with
  | 0, .cc => write
  | 0, .ae => write
  | 0, .me => !write
  | 0, .se => false
  | 0, .ve => !write
  | 1, .me => !write
  | 1, _ => true
  | 2, .cc => !write
  | 2, .ae => !write
  | 2, .me => true
  | 2, .se => false
  | 2, .ve => true
  | n, .ae => decide (8 ≤ n)
  | n, .ve => decide (8 ≤ n) && write
  | _, _ => false

/-- The bytes of a local buffer of a core. -/
def Core.buf (c : Core) (space : Nat) : Tab Byte :=
  match space with
  | 0 => c.wb
  | 1 => c.ab
  | 2 => c.as
  | _ => []

def Core.setBuf (c : Core) (space : Nat) (t : Tab Byte) : Core :=
  match space with
  | 0 => { c with wb := t }
  | 1 => { c with ab := t }
  | 2 => { c with as := t }
  | _ => c

/-- Read `n` bytes at an offset of a space, little-endian. -/
def Core.readBuf (c : Core) (space off n : Nat) : Nat := readLE (c.buf space) off n

/-- Write the low `n` bytes of `v`. -/
def Core.writeBuf (c : Core) (space off n v : Nat) : Core := c.setBuf space (writeLE (c.buf space) off n v)

/-- Read `n` bytes of a local buffer as a list. -/
def Core.bufBytes (c : Core) (space off n : Nat) : List Byte := readBytes (c.buf space) off n

/-- Write a list of bytes to a local buffer. -/
def Core.putBytes (c : Core) (space off : Nat) (bs : List Byte) : Core := c.setBuf space (writeBytes (c.buf space) off bs)

/-- The storage of a space. -/
def spaceStore (space : Nat) : Store := match space with
  | 0 => .wb
  | 1 => .ab
  | _ => .as

/-- F.ECC where `n` bytes of a local buffer from an offset touch a marked word (R337, R397). -/
def Core.bufMark (c : Core) (space off n : Nat) : Option Flt :=
  if 2 < space then none else (c.markHit (spaceStore space) off n).map (fun a => ⟨cEcc, 0, BitVec.ofNat 64 (space * 2 ^ 28 + a)⟩)

/-! ### Windows: R360 -/

def winEn (w : Word) : Bool := w.getLsbD 63
def winSpace (w : Word) : Nat := bits w 53 52
def winAllow (w : Word) : Nat := bits w 51 44
def winKey (w : Word) : Nat := bits w 43 32
def winDev (w : Word) : Nat := bits w 31 22
def winLnum (w : Word) : Nat := bits w 21 13

/-- R361 steps 1 to 4 for `size` bytes at an offset of window `k`, aligned to `align`; `hyp` is the current hypothesis
for a write or an arrival, and 0 for a read. -/
def checkWin (c : Core) (k off size align : Nat) (hyp : BitVec 8) (b : Word) : Except Flt Unit :=
  let w := c.win.get k
  if !(winEn w && winSpace w != 3 && decide (1 ≤ winAllow w) && decide (winLnum w ≤ 383)) then .error ⟨cBufacc, 0x51, b⟩
  else if off + size > spaceSize (winSpace w) then .error ⟨cBufacc, 0x52, b⟩
  else if off % align ≠ 0 then .error ⟨cAlign, 0, b⟩
  else if hyp != 0#8 then .error ⟨cHypso, 0, b⟩
  else .ok ()

/-- R131 for `size` bytes at buffer address `b`, aligned to `align`; `hyp` is the current hypothesis. -/
def checkBuf (c : Core) (u : Sqr) (b : Word) (size align : Nat) (write : Bool) (hyp : BitVec 8) : Except Flt Unit :=
  let space := bufSpace b.toNat
  let off := bufOff b.toNat
  if bits b 63 32 ≠ 0 then .error ⟨cBufacc, 0x11, b⟩
  else if !bufRight u space write then .error ⟨cBufacc, 0x12, b⟩
  else if 8 ≤ space then checkWin c (space - 8) off size align (if write then hyp else 0#8) b
  else if off + size > spaceSize space then .error ⟨cBufacc, 0x13, b⟩
  else if off % align ≠ 0 then .error ⟨cAlign, 0, b⟩
  else match c.bufMark space off size with
    | some f => .error f
    | none => .ok ()

/-- Writes through window `k` that are not acknowledged: sys.winst (R360). -/
def Core.out (c : Core) (k : Nat) : Nat := c.winst.get k

/-- A further packet through window `k` keeps within its allowance (R362). -/
def Core.winRoom (c : Core) (k : Nat) : Bool := decide (c.out k < winAllow (c.win.get k))

end Sys2Proof.Machine
end

