-- ==== Sys2Proof/Machine/Barrier.lean ====
section
/-! DEFINITION. Transaction barriers (R165–R169): the 128-bit word, its updates, and where a barrier lies. -/
namespace Sys2Proof.Machine

/-- A barrier's fields: R165. -/
structure Bar where
  phase : Nat
  arr : Nat
  sec : Int
  ovf : Bool
  arl : Nat
  srl : Nat
  deriving DecidableEq, Repr, Inhabited

/-- The fields of a 128-bit barrier word. -/
def Bar.decode (v : Nat) : Bar :=
  { phase := nbits v 3 0, arr := nbits v 23 4, sec := sextNat 36 (nbits v 59 24), ovf := nbits v 63 63 == 1,
    arl := nbits v 83 64, srl := nbits v 119 84 }

/-- The 128-bit word of a barrier; reserved bits are zero. -/
def Bar.encode (b : Bar) : Nat :=
  b.phase % 16 + b.arr % 2 ^ 20 * 2 ^ 4 + (b.sec % (2 ^ 36 : Nat)).toNat * 2 ^ 24 + (if b.ovf then 2 ^ 63 else 0)
    + b.arl % 2 ^ 20 * 2 ^ 64 + b.srl % 2 ^ 36 * 2 ^ 84

/-- The phase completes when no arrival and no sector is pending (R167 steps 1 and 4). -/
def Bar.settle (b : Bar) : Bar :=
  if b.arr = 0 ∧ b.sec = 0 then { b with phase := (b.phase + 1) % 16, arr := b.arl, sec := (b.srl : Int) } else b

/-- One counted sector (R167 step 1): SEC wraps modulo 2^36 and sets OVF. -/
def Bar.sector (b : Bar) : Bar :=
  let s := b.sec - 1
  if s < -(2 ^ 35 : Nat) then Bar.settle { b with sec := s + (2 ^ 36 : Nat), ovf := true } else Bar.settle { b with sec := s }

/-- `n` counted sectors. -/
def Bar.sectors (b : Bar) : Nat → Bar
  | 0 => b
  | n + 1 => (b.sector).sectors n

/-- TBAR.ARRIVE of `n`: none when n exceeds ARR; an arrival of 0 changes nothing (R169). -/
def Bar.arrive (b : Bar) (n : Nat) : Option Bar :=
  if n > b.arr then none else if n = 0 then some b else some (Bar.settle { b with arr := b.arr - n })

/-- TBAR.EXPECT of `n` sectors (R169). -/
def Bar.expect (b : Bar) (n : Nat) : Option Bar :=
  if b.sec + n > (2 ^ 35 - 1 : Nat) then none else some (Bar.settle { b with sec := b.sec + n })

/-- TBAR.INIT (R169): PHASE is unchanged. -/
def Bar.init (b : Bar) (v : Word) : Option Bar :=
  if bits v 63 55 ≠ 0 ∨ bits v 19 0 = 0 then none
  else some { b with arl := bits v 19 0, srl := bits v 54 20, arr := bits v 19 0, sec := (bits v 54 20 : Nat), ovf := false }

/-- Where a barrier lies: the AB of a core, memory, or behind a window. -/
inductive BarPlace where
  | ab (off : Nat)
  | mem (pa : Nat) (leaf : Word)
  | win (k off : Nat)
  deriving DecidableEq, Repr, Inhabited

/-- Resolve a barrier operand for a sequencer (R166): details 0x72 a space that the rule forbids, 0x73 a range that
leaves its space. `arrive` allows a window. -/
def barPlace (s : State) (u : Sqr) (a : Word) (arrive : Bool) : Except Flt (BarPlace × State) :=
  if bits a 63 32 = 0 then
    let space := bufSpace a.toNat
    let off := bufOff a.toNat
    if space = 1 then
      if off + 16 > spaceSize 1 then .error ⟨cBufacc, 0x73, a⟩
      else if off % 16 ≠ 0 then .error ⟨cAlign, 0, a⟩
      else .ok (.ab off, s)
    else if 8 ≤ space ∧ arrive = true ∧ (u = .ae ∨ u = .ve) then
      match checkWin s.core (space - 8) off 16 16 (s.core.hypOf u) a with
      | .error f => .error f
      | .ok () =>
        if winSpace (s.core.win.get (space - 8)) ≠ 1 then .error ⟨cBufacc, 0x72, a⟩ else .ok (.win (space - 8) off, s)
    else .error ⟨cBufacc, 0x72, a⟩
  else if u = .cc ∨ u = .ae then
    match checkMem s a 16 3 with
    | .error f => .error f
    | .ok (pa, leaf, s) => .ok (.mem pa leaf, s)
  else .error ⟨cBufacc, 0x72, a⟩

/-- The barrier at a place on this device (committed view, R169). -/
def readBar (s : State) (p : BarPlace) : Bar :=
  match p with
  | .ab off => Bar.decode (s.core.readBuf 1 off 16)
  | .mem pa _ => Bar.decode (s.readPhys pa 16)
  | .win .. => default

/-- Write a barrier, all 128 bits in one step (R165). -/
def writeBar (s : State) (p : BarPlace) (b : Bar) : State :=
  match p with
  | .ab off => { s with core := s.core.writeBuf 1 off 16 b.encode }
  | .mem pa _ => s.writePhysLE pa 16 b.encode
  | .win .. => s

/-- Count `n` sectors on a barrier of this device (R172). -/
def countSectors (s : State) (p : BarPlace) (n : Nat) : State := writeBar s p ((readBar s p).sectors n)

end Sys2Proof.Machine
end

