-- ==== Sys2Proof/Machine/Float.lean ====
section
/-! DEFINITION. The number formats and their arithmetic (R55–R66, R69): decoding a code into an exact value, exact
sums and products, rounding in four modes, conversions, comparisons, and the sticky flags each of them raises. -/
namespace Sys2Proof.Machine

/-- A set of arithmetic flags, laid out as bits 5:0 of sys.aflags (R67). -/
abbrev FlagSet := BitVec 6
def flNX : FlagSet := 1#6
def flUF : FlagSet := 2#6
def flOF : FlagSet := 4#6
def flNV : FlagSet := 8#6
def flSAT : FlagSet := 16#6
def flVR : FlagSet := 32#6

/-- An exact value: NaN (signalling or quiet), an infinity, or (−1)^neg × m × 2^e. Zero keeps its sign. -/
inductive FVal where
  | nan (signalling : Bool)
  | inf (neg : Bool)
  | fin (neg : Bool) (m : Nat) (e : Int)
  deriving DecidableEq, Repr, Inhabited

/-- Families of special codes: IEEE (R56, and E5M2 of R57), E4M3 (R57), E2M1 (R58), E3M5 (R60). -/
inductive Special where
  | ieee | e4m3 | e2m1 | e3m5
  deriving DecidableEq, Repr, Inhabited

/-- A floating-point format: exponent bits, mantissa bits, bias, special codes, and the code of its largest finite
magnitude (R56–R60). -/
structure Fmt where
  eb : Nat
  mb : Nat
  bias : Int
  special : Special
  maxCode : Nat
  deriving DecidableEq, Repr, Inhabited

def f64 : Fmt := ⟨11, 52, 1023, .ieee, 0x7FEFFFFFFFFFFFFF⟩
def f32 : Fmt := ⟨8, 23, 127, .ieee, 0x7F7FFFFF⟩
def bf16 : Fmt := ⟨8, 7, 127, .ieee, 0x7F7F⟩
def f16 : Fmt := ⟨5, 10, 15, .ieee, 0x7BFF⟩
def e4m3 : Fmt := ⟨4, 3, 7, .e4m3, 0x7E⟩
def e5m2 : Fmt := ⟨5, 2, 15, .ieee, 0x7B⟩
def e2m1 : Fmt := ⟨2, 1, 1, .e2m1, 0x7⟩
def e3m5 : Fmt := ⟨3, 5, 3, .e3m5, 0xFE⟩

/-- The format of a code of R55, where it names a floating-point format. -/
def fmtOf (code : Nat) : Option Fmt :=
  match code with
  | 0 => some f64
  | 1 => some f32
  | 2 => some bf16
  | 3 => some f16
  | 4 => some e4m3
  | 5 => some e5m2
  | 6 => some e2m1
  | 8 => some e3m5
  | _ => none

/-- Width in bits of a format code (R55); 0 for a reserved code. -/
def fmtBits (code : Nat) : Nat :=
  match code with
  | 0 => 64
  | 1 => 32
  | 2 => 16
  | 3 => 16
  | 4 => 8
  | 5 => 8
  | 6 => 4
  | 7 => 8
  | 8 => 8
  | 9 => 32
  | 10 => 8
  | _ => 0

/-- The sign bit's weight: E3M5 has no sign (R60). -/
def Fmt.signBit (f : Fmt) : Nat := 2 ^ (f.eb + f.mb)

/-- The default NaN of R56, R57, R60. E2M1 has none (R58); its conversions never ask for one. -/
def Fmt.dnan (f : Fmt) : Nat :=
  match f.special with
  | .ieee => (2 ^ f.eb - 1) * 2 ^ f.mb + 2 ^ (f.mb - 1)
  | .e4m3 => 0x7F
  | .e2m1 => 0
  | .e3m5 => 0xFF

/-- The code of infinity with its sign (R56, R57). -/
def Fmt.infCode (f : Fmt) (neg : Bool) : Nat := (2 ^ f.eb - 1) * 2 ^ f.mb + (if neg then f.signBit else 0)

/-- The exponent of the smallest subnormal (R56). -/
def Fmt.qmin (f : Fmt) : Int := 1 - f.bias - f.mb

/-- The value of a code: R56–R60. -/
def Fmt.decode (f : Fmt) (code : Nat) : FVal :=
  let neg := f.special != .e3m5 && code / f.signBit % 2 == 1
  let mag := code % f.signBit
  let ex := mag / 2 ^ f.mb
  let m := mag % 2 ^ f.mb
  let fin : FVal := if ex = 0 then .fin neg m f.qmin else .fin neg (2 ^ f.mb + m) (f.qmin + (ex - 1 : Nat))
  match f.special with
  | .ieee =>
    if ex = 2 ^ f.eb - 1 then
      if m = 0 then .inf neg else .nan (m / 2 ^ (f.mb - 1) % 2 == 0)
    else fin
  | .e4m3 => if mag = 0x7F then .nan false else fin
  | .e2m1 => fin
  | .e3m5 => if mag = 0xFF then .nan false else fin

/-- An integer as an exact value. -/
def FVal.ofInt (v : Int) : FVal := .fin (decide (v < 0)) v.natAbs 0

/-- The value of an element of format code `c` (R55, R59): integers as themselves, unsigned when `u`. -/
def elemVal (c : Nat) (u : Bool) (code : Nat) : FVal :=
  match fmtOf c with
  | some f => f.decode code
  | none => if u then .ofInt (code % 2 ^ fmtBits c : Nat) else .ofInt (sextNat (fmtBits c) code)

/-! ### Rounding -/

/-- Rounding modes: R61. -/
inductive Rnd where
  | rne | rtz | rdn | rup
  deriving DecidableEq, Repr, Inhabited

def rndOf (code : Nat) : Rnd :=
  match code % 4 with
  | 0 => .rne
  | 1 => .rtz
  | 2 => .rdn
  | _ => .rup

/-- 2^k for an integer exponent that is not negative. -/
def pow2 (k : Int) : Nat := 2 ^ k.toNat

/-- m × 2^e rounded to a multiple of 2^q: the multiple, and whether it is inexact (R61, R62). -/
def roundAt (mode : Rnd) (neg : Bool) (m : Nat) (e q : Int) : Nat × Bool :=
  if q ≤ e then (m * pow2 (e - q), false)
  else
    let d := pow2 (q - e)
    let k := m / d
    let r := m % d
    let up := match mode with
      | .rne => decide (2 * r > d) || (decide (2 * r = d) && k % 2 == 1)
      | .rtz => false
      | .rdn => neg && decide (r ≠ 0)
      | .rup => !neg && decide (r ≠ 0)
    (if up then k + 1 else k, decide (r ≠ 0))

/-- What rounding a finite value gives: the magnitude code without the sign, inexact, over the largest finite value,
and a subnormal or zero result that is inexact (R62). -/
structure Rounded where
  code : Nat
  inexact : Bool
  isOver : Bool
  tiny : Bool
  deriving DecidableEq, Repr, Inhabited

/-- R62 steps 1 to 3 for m × 2^e. -/
def Fmt.round (f : Fmt) (mode : Rnd) (neg : Bool) (m : Nat) (e : Int) : Rounded :=
  if m = 0 then ⟨0, false, false, false⟩
  else
    let l : Int := (Nat.log2 m : Int) + e
    let (k1, ix1) := roundAt mode neg m e (l - f.mb)
    let code1 : Int := (l + f.bias - 1) * (2 ^ f.mb : Nat) + k1
    if code1 > f.maxCode then ⟨0, ix1, true, false⟩
    else if l < 1 - f.bias then
      let (k, ix) := roundAt mode neg m e f.qmin
      ⟨k, ix, false, ix && decide (k < 2 ^ f.mb)⟩
    else ⟨code1.toNat, ix1, false, false⟩

/-- The code of a sign and a magnitude. -/
def Fmt.signed (f : Fmt) (neg : Bool) (mag : Nat) : Nat := mag + (if neg then f.signBit else 0)

/-- The mode points toward zero for a result of this sign (R62 step 2). -/
def Rnd.towardZero (mode : Rnd) (neg : Bool) : Bool :=
  match mode with
  | .rne => false
  | .rtz => true
  | .rdn => !neg
  | .rup => neg

/-- An arithmetic result rounded into `f`, with its flags: R62, R63. -/
def Fmt.arith (f : Fmt) (mode : Rnd) (v : FVal) : Nat × FlagSet :=
  match v with
  | .nan _ => (f.dnan, 0#6)
  | .inf neg => (f.infCode neg, 0#6)
  | .fin neg m e =>
    let r := f.round mode neg m e
    if r.isOver then
      (if mode.towardZero neg then f.signed neg f.maxCode else f.infCode neg, flOF ||| flNX)
    else (f.signed neg r.code, (if r.inexact then flNX else 0#6) ||| (if r.tiny then flUF else 0#6))

/-! ### Exact operations -/

/-- NV of a signalling NaN operand (R63). -/
def nvOf (v : FVal) : FlagSet :=
  match v with
  | .nan true => flNV
  | _ => 0#6

def FVal.isNaN (v : FVal) : Bool :=
  match v with
  | .nan _ => true
  | _ => false

def FVal.isZero (v : FVal) : Bool :=
  match v with
  | .fin _ 0 _ => true
  | _ => false

def FVal.neg (v : FVal) : FVal :=
  match v with
  | .nan s => .nan s
  | .inf n => .inf (!n)
  | .fin n m e => .fin (!n) m e

def FVal.abs (v : FVal) : FVal :=
  match v with
  | .nan s => .nan s
  | .inf _ => .inf false
  | .fin _ m e => .fin false m e

/-- The signed significand of a finite value at exponent `q ≤ e`. -/
def signedAt (neg : Bool) (m : Nat) (e q : Int) : Int :=
  let k : Int := (m * pow2 (e - q) : Nat)
  if neg then -k else k

/-- The exact sum (R62, R64). A zero sum has sign + under RNE, RTZ and RUP unless both addends are −0. -/
def FVal.add (mode : Rnd) (a b : FVal) : FVal × FlagSet :=
  match a, b with
  | .nan _, _ => (.nan false, nvOf a ||| nvOf b)
  | _, .nan _ => (.nan false, nvOf a ||| nvOf b)
  | .inf x, .inf y => if x == y then (.inf x, 0#6) else (.nan false, flNV)
  | .inf x, .fin .. => (.inf x, 0#6)
  | .fin .., .inf y => (.inf y, 0#6)
  | .fin x m e, .fin y n g =>
    let q := min e g
    let t := signedAt x m e q + signedAt y n g q
    if t = 0 then (.fin (if m = 0 ∧ n = 0 ∧ x = true ∧ y = true then true else mode == .rdn) 0 0, 0#6)
    else (.fin (decide (t < 0)) t.natAbs q, 0#6)

/-- The exact product (R63, R64). -/
def FVal.mul (a b : FVal) : FVal × FlagSet :=
  match a, b with
  | .nan _, _ => (.nan false, nvOf a ||| nvOf b)
  | _, .nan _ => (.nan false, nvOf a ||| nvOf b)
  | .inf x, .inf y => (.inf (x != y), 0#6)
  | .inf x, .fin y n _ => if n = 0 then (.nan false, flNV) else (.inf (x != y), 0#6)
  | .fin x m _, .inf y => if m = 0 then (.nan false, flNV) else (.inf (x != y), 0#6)
  | .fin x m e, .fin y n g => (.fin (x != y) (m * n) (e + g), 0#6)

/-- a × b + c, exact (R69). An invalid product sets NV also where c is NaN (R63, R64). -/
def FVal.fma (mode : Rnd) (a b c : FVal) : FVal × FlagSet :=
  let (p, fp) := FVal.mul a b
  let (r, fr) := FVal.add mode p c
  (r, fp ||| fr)

/-- The working precision, in bits, of quotients and roots before the one rounding. -/
def guardBits : Nat := 160

/-- a / b (R63, R64): a quotient truncated to more than `guardBits` bits, with one more bit that is set when the
rest is not zero. No rounding boundary of any format lies between it and the exact quotient. -/
def FVal.div (a b : FVal) : FVal × FlagSet :=
  match a, b with
  | .nan _, _ => (.nan false, nvOf a ||| nvOf b)
  | _, .nan _ => (.nan false, nvOf a ||| nvOf b)
  | .inf _, .inf _ => (.nan false, flNV)
  | .inf x, .fin y _ _ => (.inf (x != y), 0#6)
  | .fin x _ _, .inf y => (.fin (x != y) 0 0, 0#6)
  | .fin x m e, .fin y n g =>
    if n = 0 then (if m = 0 then (.nan false, flNV) else (.inf (x != y), 0#6))
    else if m = 0 then (.fin (x != y) 0 0, 0#6)
    else
      let k := guardBits + Nat.log2 n
      let t := m * 2 ^ k
      (.fin (x != y) (2 * (t / n) + (if t % n = 0 then 0 else 1)) (e - g - k - 1), 0#6)

/-- Integer square root by bits: the largest r with r × r ≤ n, for n below 4^k. -/
def isqrt (n : Nat) : Nat → Nat → Nat
  | 0, r => r
  | k + 1, r => let c := r + 2 ^ k; isqrt n k (if c * c ≤ n then c else r)

/-- √a (R63, R64), with the same truncation as `FVal.div`. -/
def FVal.sqrt (a : FVal) : FVal × FlagSet :=
  match a with
  | .nan _ => (.nan false, nvOf a)
  | .inf true => (.nan false, flNV)
  | .inf false => (.inf false, 0#6)
  | .fin neg m e =>
    if m = 0 then (.fin neg 0 0, 0#6)
    else if neg then (.nan false, flNV)
    else
      let m1 := if e % 2 = 0 then m else 2 * m
      let e1 := if e % 2 = 0 then e else e - 1
      let n := m1 * 2 ^ (2 * guardBits)
      let r := isqrt n (Nat.log2 n / 2 + 1) 0
      (.fin false (2 * r + (if r * r = n then 0 else 1)) (e1 / 2 - guardBits - 1), 0#6)

/-! ### Comparison: R65 -/

/-- Numerical order of two values that are not NaN; −0 and +0 are equal. -/
def FVal.ltNum (a b : FVal) : Bool :=
  match a, b with
  | .nan _, _ => false
  | _, .nan _ => false
  | .inf x, .inf y => x && !y
  | .inf x, .fin .. => x
  | .fin .., .inf y => !y
  | .fin x m e, .fin y n g =>
    let q := min e g
    decide (signedAt x m e q < signedAt y n g q)

def FVal.eqNum (a b : FVal) : Bool :=
  !a.isNaN && !b.isNaN && !(a.ltNum b) && !(b.ltNum a)

/-- The value is below zero or is −0. -/
def FVal.isNeg (v : FVal) : Bool :=
  match v with
  | .nan _ => false
  | .inf n => n
  | .fin n _ _ => n

/-- Order with −0 below +0, for minimum and maximum (R65). -/
def FVal.ltTotal (a b : FVal) : Bool := a.ltNum b || (a.eqNum b && a.isNeg && !b.isNeg)

def FVal.max (a b : FVal) : FVal × FlagSet :=
  if a.isNaN || b.isNaN then (.nan false, nvOf a ||| nvOf b) else (if a.ltTotal b then b else a, 0#6)
def FVal.min (a b : FVal) : FVal × FlagSet :=
  if a.isNaN || b.isNaN then (.nan false, nvOf a ||| nvOf b) else (if b.ltTotal a then b else a, 0#6)

/-! ### Conversion: R66 -/

/-- The result of a conversion to a floating-point or scale format: R66. -/
def cvtFloat (f : Fmt) (x : FVal) (mode : Rnd) (sat : Bool) : Nat × FlagSet :=
  match x with
  | .nan s =>
    let nv := if s then flNV else 0#6
    if f.special == .e2m1 then (0, flNV) else (f.dnan, nv)
  | .inf neg =>
    match f.special with
    | .ieee => (f.infCode neg, 0#6)
    | .e4m3 => if sat then (f.signed neg f.maxCode, flSAT) else (f.dnan, flNV)
    | .e2m1 => (f.signed neg f.maxCode, flSAT)
    | .e3m5 => if neg then (f.dnan, flNV) else if sat then (f.maxCode, flOF ||| flSAT) else (f.dnan, flOF)
  | .fin neg m e =>
    let r := f.round mode neg m e
    let nx := if r.inexact then flNX else 0#6
    let uf := if r.tiny then flUF else 0#6
    match f.special with
    | .e3m5 =>
      if neg && (r.isOver || decide (r.code ≠ 0)) then (f.dnan, flNV ||| flNX)
      else if r.isOver then (if sat then (f.maxCode, flOF ||| flSAT ||| flNX) else (f.dnan, flOF ||| flNX))
      else (r.code, nx ||| uf)
    | .e2m1 =>
      if r.isOver then (f.signed neg f.maxCode, flOF ||| flSAT ||| flNX) else (f.signed neg r.code, nx ||| uf)
    | .e4m3 =>
      if r.isOver then
        if sat then (f.signed neg f.maxCode, flOF ||| flSAT ||| flNX)
        else (if mode.towardZero neg then f.signed neg f.maxCode else f.dnan, flOF ||| flNX)
      else (f.signed neg r.code, nx ||| uf)
    | .ieee =>
      if r.isOver then
        if sat then (f.signed neg f.maxCode, flOF ||| flSAT ||| flNX)
        else (if mode.towardZero neg then f.signed neg f.maxCode else f.infCode neg, flOF ||| flNX)
      else (f.signed neg r.code, nx ||| uf)

/-- A finite value rounded to an integer, and whether it was inexact. -/
def toIntRnd (mode : Rnd) (neg : Bool) (m : Nat) (e : Int) : Int × Bool :=
  let (k, ix) := roundAt mode neg m e 0
  (if neg then -(k : Int) else k, ix)

/-- The result of a conversion to a two's complement integer of `w` bits: R66, always saturating. -/
def cvtInt (w : Nat) (x : FVal) (mode : Rnd) : Nat × FlagSet :=
  let lo : Int := -(2 ^ (w - 1) : Nat)
  let hi : Int := (2 ^ (w - 1) - 1 : Nat)
  let enc (v : Int) : Nat := (v % (2 ^ w : Nat)).toNat
  match x with
  | .nan _ => (0, flNV)
  | .inf neg => (enc (if neg then lo else hi), flNV ||| flSAT)
  | .fin neg m e =>
    let (v, ix) := toIntRnd mode neg m e
    if v < lo then (enc lo, flNV ||| flSAT ||| flNX)
    else if hi < v then (enc hi, flNV ||| flSAT ||| flNX)
    else (enc v, if ix then flNX else 0#6)

/-- cvt(x, F, rnd, sat) for a format code of R55 with the Output role: R66. INT8 and INT32 are two's complement
(R59). -/
def cvt (c : Nat) (x : FVal) (mode : Rnd) (sat : Bool) : Nat × FlagSet :=
  match fmtOf c with
  | some f => cvtFloat f x mode sat
  | none => cvtInt (fmtBits c) x mode

/-- A block scale as a value, or NaN: R60. Types 0 E3M5, 1 E5M2, 2 E8M0. A code that R60 makes NaN is a quiet one, the
codes 0x7D and 0xFD of E5M2 included: R60 says no more than NaN. (DESIGN CHOICE, assumption 52.) -/
def scaleVal (type code : Nat) : FVal :=
  match type with
  | 0 => e3m5.decode code
  | 1 => if code / 128 % 2 = 1 then .nan false else match e5m2.decode code with
    | .fin n m e => .fin n m e
    | _ => .nan false
  | _ => if code = 0xFF then .nan false else .fin false 1 ((code : Int) - 127)

/-! ### The fixed tree of reductions: R76 -/

/-- One level: each complete pair combined, an unpaired last element passed unchanged. -/
def treeLevel {α β : Type} (op : α → α → α × β) (join : β → β → β) (l : List α) (acc : β) : List α × β :=
  match l with
  | [] => ([], acc)
  | [x] => ([x], acc)
  | x :: y :: t =>
    let (v, f) := op x y
    let (r, acc') := treeLevel op join t (join acc f)
    (v :: r, acc')

/-- The whole tree, with `fuel` levels at most. -/
def treeReduce {α β : Type} (op : α → α → α × β) (join : β → β → β) (fuel : Nat) (l : List α) (acc : β) :
    Option α × β :=
  match fuel with
  | 0 => (l.head?, acc)
  | n + 1 =>
    match l with
    | [] => (none, acc)
    | [x] => (some x, acc)
    | l => let (l', acc') := treeLevel op join l acc; treeReduce op join n l' acc'

/-- A sum, difference, product or quotient of two codes of one format, rounded under `mode`. -/
def Fmt.addC (f : Fmt) (mode : Rnd) (a b : Nat) : Nat × FlagSet :=
  let (v, fl) := FVal.add mode (f.decode a) (f.decode b)
  let (r, fr) := f.arith mode v
  (r, fl ||| fr)
def Fmt.subC (f : Fmt) (mode : Rnd) (a b : Nat) : Nat × FlagSet :=
  let (v, fl) := FVal.add mode (f.decode a) (f.decode b).neg
  let (r, fr) := f.arith mode v
  (r, fl ||| fr)
def Fmt.mulC (f : Fmt) (mode : Rnd) (a b : Nat) : Nat × FlagSet :=
  let (v, fl) := FVal.mul (f.decode a) (f.decode b)
  let (r, fr) := f.arith mode v
  (r, fl ||| fr)
def Fmt.divC (f : Fmt) (mode : Rnd) (a b : Nat) : Nat × FlagSet :=
  let (v, fl) := FVal.div (f.decode a) (f.decode b)
  let (r, fr) := f.arith mode v
  (r, fl ||| fr)
def Fmt.fmaC (f : Fmt) (mode : Rnd) (a b c : Nat) : Nat × FlagSet :=
  let (v, fl) := FVal.fma mode (f.decode a) (f.decode b) (f.decode c)
  let (r, fr) := f.arith mode v
  (r, fl ||| fr)
def Fmt.maxC (f : Fmt) (a b : Nat) : Nat × FlagSet :=
  let (v, fl) := FVal.max (f.decode a) (f.decode b)
  let (r, fr) := f.arith .rne v
  (r, fl ||| fr)
def Fmt.minC (f : Fmt) (a b : Nat) : Nat × FlagSet :=
  let (v, fl) := FVal.min (f.decode a) (f.decode b)
  let (r, fr) := f.arith .rne v
  (r, fl ||| fr)

end Sys2Proof.Machine
end

