-- ==== Sys2Proof/Machine/Fabric.lean ====
section
/-! DEFINITION. The operations under remote accesses: read-modify-write functions (R143, R144), sending a packet and
waiting for its answer (R362), what a request does at its target (R362, R364 step 5), and remote-cacheable lines
(R162–R164). -/
namespace Sys2Proof.Machine

/-! ### Read-modify-write -/

/-- The low `w` bytes of a word, as a number. -/
def lowBytes (w : Nat) (v : Word) : Nat := v.toNat % 2 ^ (8 * w)

/-- The new value of an atomic by funct3 of R143, on `w` bytes; none when a CAS does not match. -/
def amoNew (op w old : Nat) (v c : Word) : Option Nat :=
  let x := lowBytes w v
  match op with
  | 0 => some x
  | 1 => some ((old + x) % 2 ^ (8 * w))
  | 2 => some (old &&& x)
  | 3 => some (old ||| x)
  | 4 => some (old ^^^ x)
  | 5 => some (if sextNat (8 * w) old < sextNat (8 * w) x then x else old)
  | 6 => some (if sextNat (8 * w) x < sextNat (8 * w) old then x else old)
  | _ => if old = lowBytes w c then some x else none

/-- The new value of a reduction by funct3 of R144, on `w` bytes. -/
def redNew (op w old : Nat) (v : Word) : Nat :=
  let x := lowBytes w v
  match op with
  | 0 => (old + x) % 2 ^ (8 * w)
  | 1 => old &&& x
  | 2 => old ||| x
  | 3 => old ^^^ x
  | 4 => if sextNat (8 * w) old < sextNat (8 * w) x then x else old
  | 5 => if sextNat (8 * w) x < sextNat (8 * w) old then x else old
  | 6 => (f32.addC .rne old x).1
  | _ => (f64.addC .rne old x).1

/-- One atomic on committed memory: the old value and the state (R143). -/
def amoPhys (s : State) (pa w op : Nat) (v c : Word) : Nat × State :=
  let old := s.readPhys pa w
  match amoNew op w old v c with
  | some n => (old, s.writePhysLE pa w n)
  | none => (old, s)

/-- One reduction on committed memory (R144). -/
def redPhys (s : State) (pa w op : Nat) (v : Word) : State := s.writePhysLE pa w (redNew op w (s.readPhys pa w) v)

/-- The result of a barrier word by funct7 of R169, or of counting sectors (5, R172), on a barrier of this device: the value for rd and the state, or none
where the word faults with F.QUEUE. -/
def barPhys (s : State) (p : BarPlace) (op : Nat) (v : Word) : Option (Nat × State) :=
  let b := readBar s p
  match op with
  | 0 => (b.init v).map (fun b' => (0, writeBar s p b'))
  | 1 => (b.arrive v.toNat).map (fun b' => (b.phase, writeBar s p b'))
  | 2 => (b.expect v.toNat).map (fun b' => (b.phase, writeBar s p b'))
  | 3 => if b.ovf then none else some (b.phase, s)
  | 5 => some (0, writeBar s p (b.sectors v.toNat))
  | _ => if b.ovf then none else some ((if b.phase ≠ v.toNat % 16 then 1 else 0), s)

/-! ### Sending -/

/-- Index of a sequencer in per-sequencer tables. -/
def sqIx (u : Sqr) : Nat := match u with
  | .cc => 0 | .ae => 1 | .me => 2 | .se => 3 | .ve => 4

/-- WORD of a frame: the base word of the group and its last prefix word (R340). -/
def Core.groupWord (c : Core) (u : Sqr) : Word :=
  let p := c.pfx.get (sqIx u)
  BitVec.ofNat 64 ((c.curWord.get (sqIx u)).toNat + (if p.count = 0 then 0 else p.lastWord.toNat) * 2 ^ 32)

/-- The task of the context on a core; 0 with no context. -/
def Core.task (c : Core) : Word := match c.ctx with
  | some x => x.task
  | none => 0#64

/-- The packet was sent by the context on the core in focus. -/
def State.mine (s : State) (w : Waiting) : Bool := w.pkt.srcLnum == s.lnum && w.task == s.core.task

/-! ### The way of a packet: R13, R359, R361 -/

/-- The stops of a core's die and of its cluster. -/
def dieStop (lnum : Nat) : Nat := dieOf lnum + 1
def clusterStop (lnum : Nat) : Nat := 64 + lnum / 8

/-- The physical address and length of a memory request (R364 step 4). -/
def reqRange (r : Request) : Option (Nat × Nat) :=
  match r with
  | .memRead pa n => some (pa, n)
  | .memWrite pa d => some (pa, d.length)
  | .memRed pa n _ _ => some (pa, n)
  | .memAmo pa n _ _ _ => some (pa, n)
  | .memBar pa _ _ => some (pa, 16)
  | .memLog pa => some (pa, 64)
  | _ => none

/-- A carry, or a part of one. -/
def isCarry (p : Packet) : Bool := match p.req with
  | .carry .. => true
  | .part c _ => c
  | _ => false

/-- An answer. -/
def isResp (p : Packet) : Bool := match p.req with
  | .resp .. => true
  | _ => false

/-- The stops of the memory of a die and of the communication processors. -/
def memStop (die : Nat) : Nat := 112 + die
def commStop : Nat := 116

/-- The die's router at which a packet for this device ends, and the stop after it. -/
def endDie (p : Packet) : Nat := match reqRange p.req with
  | some (pa, _) => paDie pa + 1
  | none => dieStop p.dstLnum
def endStop (p : Packet) : Nat := match p.req, reqRange p.req with
  | .put _, _ => commStop
  | .part false _, _ => commStop
  | _, some (pa, _) => memStop (paDie pa)
  | _, none => clusterStop p.dstLnum

/-- The stop that stands for a UALink port. -/
def portStop (port : Nat) : Nat := 32 + port

/-- A port with no working lane takes part in no routing (R400). -/
def State.portWorks (s : State) (port : Nat) : Bool := decide (s.lanes.get port < 3)

/-- The next stops on the minimal paths of a packet at router `r`. What leaves the device, and window traffic of its own,
goes through the IOD's router (R13, R361). A carry within the device follows the ring of the dies, whose neighbours
differ in one bit of their numbers (R13, R256). -/
def State.nextStops (s : State) (r : Nat) (p : Packet) : List Nat :=
  let t := endDie p
  if p.dstDev ≠ s.dev.toNat then
    (if r = 0 then ((List.range 24).filter (fun k => Config.reaches k p.dstDev && s.portWorks k)).map portStop else [0])
  else if endStop p = commStop then [if r = 0 then commStop else 0]
  else if r = t then [endStop p]
  else if r = 0 then [t]
  else if !isCarry p then [0]
  else if (r - 1) ^^^ (t - 1) = 3 then [((r - 1) ^^^ 1) + 1, ((r - 1) ^^^ 2) + 1]
  else [t]

/-- Packets in the queue of an output of a router. -/
def State.queued (s : State) (r out : Nat) : Nat := (s.packets.filter (fun f => f.stop == r && f.out == out)).length

/-- The least occupied of some outputs of a router, the first of those (R359). -/
def State.leastOccupied (s : State) (r : Nat) : List Nat → Nat
  | [] => 63
  | [n] => n
  | n :: t => let m := s.leastOccupied r t; if s.queued r n ≤ s.queued r m then n else m

/-- A packet comes to a router from a stop, and into the queue of an output. (DESIGN CHOICE, assumption 28.) -/
def State.enter (s : State) (r src : Nat) (p : Packet) : State :=
  { s with packets := s.packets ++ [{ pkt := p, stop := r, src := src, out := s.leastOccupied r (s.nextStops r p) }] }

/-- A packet with the next number of its flow goes onto the fabric: at the stop of its core's die, or, from a communication
processor, at the IOD (R359). -/
def State.launchOne (s : State) (iod : Bool) (lnum : Nat) (p : Packet) : Packet × State :=
  let flow := lnum * 1024 + p.dstDev
  let n := s.flowSeq.get flow
  let req : Request := match p.req with
    | .put q => .put { q with flowSeq := n }
    | r => r
  let p : Packet := { p with viaDev := s.dev.toNat, viaLnum := lnum, flowSeq := n, req := req }
  let s : State := { s with flowSeq := s.flowSeq.set flow ((n + 1) % 65536) }
  (p, if iod then s.enter 0 commStop p else s.enter (dieStop lnum) (clusterStop lnum) p)

/-- The first 256 bytes each of a payload of more than 256 bytes, and the last ones. -/
def payloadParts (v : List Byte) : List (List Byte) × List Byte :=
  let k := (v.length - 1) / 256
  ((List.range k).map (fun i => (v.drop (256 * i)).take 256), v.drop (256 * k))

/-- The packets of a request: those that bring the first part of its payload, and the last (R354). -/
def trainOf (p : Packet) : List Packet × Packet :=
  match p.req with
  | .carry tag level dir e k f v =>
    let (l, t) := payloadParts v
    (l.map (fun b => { p with req := .part true b }), { p with req := .carry tag level dir e k f t })
  | .put q =>
    let (l, t) := payloadParts q.data
    (l.map (fun b => { p with req := .part false b }), { p with req := .put { q with data := t } })
  | _ => ([], p)

/-- A core, or a communication processor for it, puts a request on the fabric; the answer is its last packet. -/
def State.launch (s : State) (lnum : Nat) (p : Packet) (iod : Bool := false) : Packet × State :=
  let (l, q) := trainOf p
  State.launchOne (l.foldl (fun s x => (s.launchOne iod lnum x).2) s) iod lnum q

/-- Where a part of a payload is gathered: by the core that sent it and the target. -/
def gatherKey (p : Packet) : Nat := ((p.viaDev * 512 + p.viaLnum) * 512 + p.dstLnum) * 2 + (if isCarry p then 1 else 0)

/-- A part of a payload comes; and the parts that have come are taken. -/
def State.gather (s : State) (p : Packet) (data : List Byte) : State :=
  { s with assembly := s.assembly.set (gatherKey p) (s.assembly.get (gatherKey p) ++ data) }
def State.gathered (s : State) (p : Packet) : List Byte × State :=
  (s.assembly.get (gatherKey p), { s with assembly := s.assembly.set (gatherKey p) [] })

/-- The sequencer that acts, as the sender of a packet. -/
def State.source (s : State) : Source := ⟨s.lnum, s.unit, s.core.task, s.core.tenant, s.core.groupWord s.unit⟩

/-- A packet of a collective run. -/
def WaitKind.isColl (k : WaitKind) : Bool := match k with
  | .collRead .. => true
  | .collWrite .. => true
  | .collLand _ => true
  | _ => false

/-- Send a packet for a source and remember what its answer does: the packet's number and the state (R359, R362, R363). -/
def sendFor (x : Source) (s : State) (dstDev dstLnum key : Nat) (req : Request) (kind : WaitKind) : Nat × State :=
  let id := s.packetId + 1
  let (p, s) := s.launch x.lnum
    { (default : Packet) with id := id, srcDev := s.dev.toNat, srcLnum := x.lnum, srcUnit := x.unit, dstDev := dstDev,
                              dstLnum := dstLnum, tenant := x.tenant, key := key, req := req } kind.isColl
  (id, { s with packetId := id, waiting := s.waiting ++ [⟨p, kind, s.gtc, x.task, x.word, none⟩] })

/-- Send a packet for the sequencer that acts. -/
def send (s : State) (dstDev dstLnum key : Nat) (req : Request) (kind : WaitKind) : Nat × State :=
  sendFor s.source s dstDev dstLnum key req kind

/-- The access that packet `id` carries is remembered with it. -/
def State.carrying (s : State) (id : Nat) (a : Access) : State :=
  { s with waiting := s.waiting.map (fun w => if w.pkt.id = id then { w with access := some a } else w) }

/-- A write of the hardware past the caches leaves no copy of its lines there: no dirty byte of a remote line, and no word of
an instruction cache (R250). -/
def State.uncache (s : State) (pa n : Nat) : State :=
  let line (q : Nat) : Bool := decide (pa / 128 ≤ q / 128 ∧ q / 128 ≤ (pa + n - 1) / 128)
  let fresh (c : Core) : Core :=
    if c.icache.words.any (fun w => line (4 * w.1)) then { c with icache := { c.icache with words := c.icache.words.filter (fun w => !line (4 * w.1)) } } else c
  { s with dirtyRemote := s.dirtyRemote.filter (fun p => !line (p.1 % 2 ^ 52)), core := fresh s.core,
           others := s.others.map (fun p => (p.1, fresh p.2)) }

/-- Write bytes at a physical address for a source: here, or at their home on another device. -/
def putHome (x : Source) (s : State) (pa key : Nat) (bs : List Byte) (kind : WaitKind := .count) : State :=
  if s.isLocal pa then s.writePhys pa bs else (sendFor x s (paDev pa) 0 key (.memWrite pa bs) kind).2

/-- A byte of memory as its home has it: this device's; or another's, as a word has fetched it or as a free value.
(DESIGN CHOICE, assumption 36.) -/
def State.homeByte (s : State) (bulk : List (Nat × Option (List Byte))) (pa : Nat) : Byte :=
  if s.isLocal pa then Tab.get s.mem pa
  else (bulk.findSome? (fun b => b.2.bind (fun d => if b.1 ≤ pa then d[pa - b.1]? else none))).getD (Config.remoteByte s.gtc.toNat pa)

/-- Bytes `pa .. pa + n - 1` as their home has them. -/
def State.homeBytes (s : State) (bulk : List (Nat × Option (List Byte))) (pa n : Nat) : List Byte :=
  if s.isLocal pa then readBytes s.mem pa n else (List.range n).map (fun i => s.homeByte bulk (pa + i))

/-- What a word has fetched, after a write of its own. -/
def patchBulk (pa : Nat) (bs : List Byte) (bulk : List (Nat × Option (List Byte))) : List (Nat × Option (List Byte)) :=
  bulk.map (fun b => (b.1, b.2.map (fun d => ((List.range d.length).zip d).map (fun p =>
    if pa ≤ b.1 + p.1 then (bs[b.1 + p.1 - pa]?).getD p.2 else p.2))))

/-- Send through window value `w`. -/
def sendWin (s : State) (w : Word) (req : Request) (kind : WaitKind) : Nat × State :=
  send s (winDev w) (winLnum w) (winKey w) req kind

/-- One more unacknowledged write through window `k` (R362). -/
def Core.addOut (c : Core) (k : Nat) : Core := { c with winst := c.winst.set k (c.winst.get k + 1) }
def Core.subOut (c : Core) (k : Nat) : Core := { c with winst := c.winst.set k (c.winst.get k - 1) }

/-- The answer of this packet is a posted window write's or an STC's (R162). -/
def WaitKind.isPosted (k : WaitKind) : Bool :=
  match k with
  | .window .. => true
  | .copy (some _) .. => true
  | .stc => true
  | .bar (some _) _ => true
  | _ => false

/-- Remote-memory stores and STCs of sequencer `u` of the core in focus that are not acknowledged (R362, R370). -/
def State.remoteStores (s : State) (u : Sqr) : Nat :=
  (s.waiting.filter (fun w => s.mine w && w.pkt.srcUnit == u && (w.kind == .store || w.kind == .stc))).length

/-! ### Remote-cacheable lines: R162–R164 -/

def dirtyKey (die pa : Nat) : Nat := die * 2 ^ 52 + pa

/-- The dirty bytes of a die. -/
def State.dirtyOf (s : State) (die : Nat) : Tab DirtyByte := s.dirtyRemote.filter (fun p => p.1 / 2 ^ 52 == die)

/-- The die of the core in focus. -/
def State.die (s : State) : Nat := dieOf s.lnum

/-- Write bytes of a page with key index `key` into the cached line of the acting core's die, and mark them dirty (R163). -/
def writeDirty (x : Source) (s : State) (key pa : Nat) : List Byte → State
  | [] => s
  | b :: t => writeDirty x { s with dirtyRemote := Tab.put s.dirtyRemote (dirtyKey s.die pa) ⟨b, x, key⟩ } key (pa + 1) t

/-- The value of a byte that a write-back of the die carries and the home has not acknowledged: the line holds it still. -/
def State.leaving (s : State) (die pa : Nat) : Option Byte :=
  s.waiting.findSome? (fun w => match w.kind, w.pkt.req with
    | .writeBack d, .memWrite q data => if d = die ∧ q ≤ pa then data[pa - q]? else none
    | _, _ => none)

/-- A byte of a remote line as the die of the core in focus holds it. -/
def State.cachedAt (s : State) (pa : Nat) : Option Byte :=
  match Tab.find? s.dirtyRemote (dirtyKey s.die pa) with
  | some b => some b.val
  | none => s.leaving s.die pa

/-- Runs of dirty bytes that one packet carries: neighbours in a line of 128 bytes, of one source and page key. Neighbours in one
dword are never parted, since one store may have written them (R137). -/
def dirtyRuns : Tab DirtyByte → List (Nat × DirtyByte × List Byte)
  | [] => []
  | (k, b) :: t =>
    match dirtyRuns t with
    | [] => [(k, b, [b.val])]
    | (q, x, bs) :: r =>
      if q = k + 1 ∧ q / 128 = k / 128 ∧ (q % 8 ≠ 0 ∨ (x.src = b.src ∧ x.key = b.key)) then (k, b, b.val :: bs) :: r
      else (k, b, [b.val]) :: (q, x, bs) :: r

/-- The dirty bytes of a die, in dwords with a byte of property `p`, that may be written back now: every earlier write-back of
a byte of the dword has been acknowledged, so that a store leaves as one (R137). -/
def State.sendable (s : State) (die : Nat) (p : Nat → Bool) : Tab DirtyByte :=
  let dword (k : Nat) : List Nat := (List.range 8).map (fun i => k % 2 ^ 52 / 8 * 8 + i)
  (s.dirtyOf die).filter (fun x => (dword x.1).any p && (dword x.1).all (fun q => (s.leaving die q).isNone))

/-- Write back the dirty bytes of a die at addresses with property `p`: R163. -/
def writeBackAt (die : Nat) (p : Nat → Bool) (s : State) : State :=
  let d := s.sendable die p
  let s := (dirtyRuns d).foldl (fun s r =>
    let pa := r.1 % 2 ^ 52
    (sendFor r.2.1.src s (paDev pa) 0 r.2.1.key (.memWrite pa r.2.2) (.writeBack die)).2) s
  { s with dirtyRemote := s.dirtyRemote.filter (fun x => !d.any (fun y => y.1 == x.1)) }

/-- A die holds dirty bytes at addresses with property `p`. -/
def State.dirtyAny (s : State) (die : Nat) (p : Nat → Bool) : Bool := (s.dirtyOf die).any (fun x => p (x.1 % 2 ^ 52))

/-- A write-back of a die at addresses with property `p` is not acknowledged. -/
def State.leavingAny (s : State) (die : Nat) (p : Nat → Bool) : Bool :=
  s.waiting.any (fun w => match w.kind, w.pkt.req with
    | .writeBack d, .memWrite q data => d == die && (List.range data.length).any (fun i => p (q + i))
    | _, _ => false)

/-- Lines of a die are to be clean and gone: write back what is dirty, and wait until that is acknowledged (R162–R164). -/
inductive Cleaning where
  | clean | send | wait
  deriving DecidableEq, Repr

/-- How far the cleaning of some dies at addresses with property `p` is. -/
def State.cleaning (s : State) (dies : List Nat) (p : Nat → Bool) : Cleaning :=
  if dies.any (fun d => !(s.sendable d p).isEmpty) then .send
  else if dies.any (fun d => s.dirtyAny d p || s.leavingAny d p) then .wait
  else .clean

/-- Write back the dirty bytes of some dies. -/
def writeBackDies (dies : List Nat) (p : Nat → Bool) (s : State) : State := dies.foldl (fun s d => writeBackAt d p s) s

/-- Dirty remote lines that their dies evict in this period (R163). (DESIGN CHOICE, assumption 55.) -/
def evictLines (s : State) : State :=
  (List.range 4).foldl (fun s d => writeBackAt d (fun q => Config.evicts s.gtc.toNat (d * 2 ^ 45 + q / 128)) s) s

/-- Write back every dirty byte of the die of the core in focus (R162, R164). -/
def writeBack (s : State) : State := writeBackAt s.die (fun _ => true) s

/-- No remote line of the die of the core in focus is dirty, and no write-back is outstanding. -/
def State.dieClean (s : State) : Bool := s.cleaning [s.die] (fun _ => true) == .clean

/-- A core has posted window writes up to packet `upto` that are not acknowledged, or vector writes through a window that
have no packet yet (R162). -/
def State.postedOf (s : State) (lnum upto : Nat) : Bool :=
  s.waiting.any (fun w => w.pkt.srcLnum == lnum && w.task == (s.coreAt lnum).task && w.kind.isPosted && decide (w.pkt.id ≤ upto))
    || (s.coreAt lnum).vpend.any (fun v => decide (8 ≤ bufSpace v.addr) && !v.landed)

/-- The core in focus has posted window writes that are not acknowledged (R162). -/
def State.hasPosted (s : State) : Bool := s.postedOf s.lnum s.packetId

/-! ### At the target -/

/-- The core runs, or holds after a fault, a context of the tenant (R364 step 5). -/
def Core.resident (c : Core) (tenant : Nat) : Bool :=
  (c.mode == .running || c.mode == .held || c.mode == .stopping || c.mode == .restarting) && (match c.ctx with | some x => x.tenant == tenant | none => false)

/-- Destination sectors of 32 bytes that `n` bytes at `off` touch (R172). -/
def sectorsOf (off n : Nat) : Nat := if n = 0 then 0 else (off + n - 1) / 32 - off / 32 + 1

/-- The step of R293 on the ring header at `pa`, which is atomic: 2 where CAP or BASE is refused, 1 where the record gets a
place, 0 where it is dropped; the place's number and its record's virtual address. -/
def logStep (s : State) (pa : Nat) : (Nat × Nat × Nat) × State :=
  let field (o n : Nat) : Nat := s.readPhys (pa + o) n
  let cap := field 8 4
  let base := field 0 8
  let k := field 0x10 8
  if cap = 0 ∨ 2 ^ 24 < cap ∨ 2 ^ Nat.log2 cap ≠ cap ∨ base % 64 ≠ 0 then ((2, 0, 0), s)
  else if cap ≤ (k + 2 ^ 64 - field 0x18 8) % 2 ^ 64 then ((0, 0, 0), s.writePhysLE (pa + 0x20) 8 (field 0x20 8 + 1))
  else ((1, k, base + 64 * (k % cap)), s.writePhysLE (pa + 0x10) 8 (k + 1))

/-- Perform a request on this device: the data of the answer, or the cause of its refusal (R362, R364 step 5, R365).
A barrier word that faults with F.QUEUE answers no data. -/
def performReq (s : State) (p : Packet) : Except Nat (List Byte × State) :=
  let inCore (f : State → Except Nat (List Byte × State)) : Except Nat (List Byte × State) :=
    if !(s.coreAt p.dstLnum).resident p.tenant then .error 5
    else match f (focus p.dstLnum s) with
      | .error e => .error e
      | .ok (d, t) => .ok (d, focus s.lnum t)
  match p.req with
  | .winWrite space off data bar => inCore (fun s =>
      let s := { s with core := s.core.putBytes space off data }
      match bar with
      | none => .ok ([], s)
      | some b => .ok ([], countSectors s (.ab b) (sectorsOf off data.length)))
  | .winBytes space data => inCore (fun s =>
      .ok ([], { s with core := data.foldl (fun c d =>
        let old := (c.buf space).get d.1
        let m := BitVec.ofNat 8 d.2.1
        c.putBytes space d.1 [(old &&& ~~~m) ||| (d.2.2 &&& m)]) s.core }))
  | .winRead space off n => inCore (fun s => .ok (s.core.bufBytes space off n, s))
  | .arrive off n => inCore (fun s => match barPhys s (.ab off) 1 (BitVec.ofNat 64 n) with
      | some (ph, s) => .ok (natToBytes 8 ph, s)
      | none => .ok ([], s))
  | .memRead pa n => .ok (readBytes s.mem pa n, s)
  | .memWrite pa data => .ok ([], s.writePhys pa data)
  | .memRed pa n op v => .ok ([], redPhys s pa n op v)
  | .memAmo pa n op v c => let (old, s) := amoPhys s pa n op v c; .ok (natToBytes n old, s)
  | .memBar pa op v => match barPhys s (.mem pa 0#64) op v with
      | some (r, s) => .ok (natToBytes 8 r, s)
      | none => .ok ([], s)
  | .memLog pa => let (r, s) := logStep s pa; .ok (natToBytes 8 r.1 ++ natToBytes 8 r.2.1 ++ natToBytes 8 r.2.2, s)
  | .stc .. | .carry .. | .part .. | .put _ | .resp .. => .ok ([], s)

end Sys2Proof.Machine
end

