-- ==== Sys2Proof/Machine/Access.lean ====
section
/-! DEFINITION. Accesses that have issued and are performed later (R117, R123, R133–R137): the list `pend` of a core in
issue order, when an entry may be performed, and what performing it does. -/
namespace Sys2Proof.Machine

def counterMax : Nat := 65535

/-- The entry is a load, store, atomic or reduction, not a signal or a fence. -/
def AccessKind.isAccess (k : AccessKind) : Bool :=
  match k with
  | .signal .. => false
  | .gate _ => false
  | .fence => false
  | _ => true

/-- The entry is a store or a reduction, or a LOG.APPEND, and counts on st (R123, R293). -/
def AccessKind.stores (k : AccessKind) : Bool :=
  match k with
  | .store => true
  | .red .. => true
  | .log _ => true
  | _ => false

/-- The entry is a TBAR word (R169). -/
def AccessKind.isBar (k : AccessKind) : Bool :=
  match k with
  | .bar .. => true
  | _ => false

/-- The entry is a LOG.APPEND, which writes its rd with the answer (R293). -/
def AccessKind.isLog (k : AccessKind) : Bool :=
  match k with
  | .log _ => true
  | _ => false

/-- The entry returns a value to a register, and counts on ld (R123). -/
def AccessKind.returns (k : AccessKind) : Bool :=
  match k with
  | .load _ => true
  | .amo .. => true
  | _ => false

/-- Two places share a byte. -/
def overlap (a b : Access) : Bool :=
  match a.place, b.place with
  | .mem _ p, .mem _ q => decide (p < q + b.size ∧ q < p + a.size)
  | .buf x p, .buf y q => x == y && decide (p < q + b.size ∧ q < p + a.size)
  | _, _ => false

/-- The earlier access `a` must be performed before the later access `b` of the same sequencer: the same location
(R135), two SO accesses or two buffer accesses (R132, R134), an acquire or a fence before, a release after (R149,
R155). -/
def mustPrecede (a b : Access) : Bool :=
  match a.kind with
  | .signal .. => false
  | .gate _ => false
  | .fence => true
  | _ => overlap a b || (a.kindSO && b.kindSO) || (a.acq && !b.kindUO) || (b.rel && !a.kindUO)

/-- The access goes to memory of another device, or through a window. -/
def State.isRemote (s : State) (a : Access) : Bool :=
  match a.place with
  | .mem _ pa => !s.isLocal pa
  | .buf space _ => decide (8 ≤ space)
  | .none => false

/-- A store of sequencer `u` to memory of another device has been sent and is not acknowledged. R117 and R362 call such a
store posted, R117 and R139 make every store to memory hold the later ring signals until it is performed; a remote store
does so here until its acknowledgement. (DEDUCED, assumption 46.) -/
def State.storeInFlight (s : State) (u : Sqr) : Bool :=
  s.waiting.any (fun w => s.mine w && w.pkt.srcUnit == u && w.kind == .store)

/-- The dies and addresses whose remote lines are to be clean and gone before the access, or the fence, is performed: for a
release at .dev or .sys and an acquire at .sys every line of the issuer's die (R149, R162, R164), of every die for a PROMOTE
form (R151); for an SO access the lines of its device (R134); for an AMO, a RED or a TBAR word on a remote-cacheable page its
line, and for a load there that finds some of its bytes only (R163). -/
def State.mustClean (s : State) (a : Access) : Option (List Nat × (Nat → Bool)) :=
  if (a.scope == 4 && (a.acq || a.rel)) || (a.scope == 3 && (a.rel || a.promote)) then
    some (if a.promote then List.range 4 else [s.die], fun _ => true)
  else if !s.isRemote a then none
  else match a.place with
    | .mem _ pa =>
      if a.kindSO then some ([s.die], fun q => paDev q == paDev pa)
      else if !a.rmc then none
      else match a.kind with
      | .store => none
      | .load _ =>
        let there := (List.range a.size).map (fun i => (s.cachedAt (pa + i)).isSome)
        if there.contains true && there.contains false then some ([s.die], fun q => q / 128 == pa / 128) else none
      | _ => some ([s.die], fun q => q / 128 == pa / 128)
    | _ => none

/-- A release at .sys waits for posted window writes: for those of its core that were accepted before it issued (R162), and a
PROMOTE form for those of every core (R151). (DESIGN CHOICE, assumption 56.) -/
def State.postedWait (s : State) (a : Access) : Bool :=
  a.scope == 4 && (if a.promote then (s.lnum :: s.others.map (·.1)).any (fun n => s.postedOf n s.packetId)
    else a.rel && s.postedOf s.lnum a.upto)

/-- What an ordering at .sys waits for has been done, or can go on. -/
def State.sysReady (s : State) (a : Access) : Bool :=
  !s.postedWait a && (match s.mustClean a with
    | none => true
    | some (dies, p) => s.cleaning dies p != .wait)

/-- Dirty lines are to be written back before the access is performed. -/
def State.mustSend (s : State) (a : Access) : Bool := match s.mustClean a with
  | none => false
  | some (dies, p) => s.cleaning dies p != .clean

/-- Entry `k` of the list of the core in focus may be performed now. (DEDUCED, assumption 46.) -/
def State.canPerform (s : State) (k : Nat) : Bool :=
  match s.core.pend[k]? with
  | none => false
  | some a =>
    a.kind.isAccess && a.pid == 0
      && (s.core.pend.take k).all (fun b => b.unit != a.unit || !mustPrecede b a)
      && (!a.rel || !s.storeInFlight a.unit) && s.sysReady a

/-- Fire the ring signals and fences of the list that nothing earlier of their sequencer holds up (R117, R155). -/
def drainList (ready : Access → Bool) : List Access → List Access → List Access × List Access
  | [], kept => (kept.reverse, [])
  | a :: t, kept =>
    if !a.kind.isAccess && !kept.any (fun b => b.unit == a.unit) && ready a then
      let (k, f) := drainList ready t kept
      (k, a :: f)
    else drainList ready t (a :: kept)

/-- The fences at .dev and .sys that stand at the head of their sequencer's accesses. -/
def sysFences : List Access → List Access → List Access
  | [], _ => []
  | a :: t, kept =>
    (if a.kind == .fence && decide (3 ≤ a.scope) && !kept.any (fun b => b.unit == a.unit && b.kind.isAccess) then [a] else [])
      ++ sysFences t (a :: kept)

/-- The lines that a fence waits for are written back, as far as that can go now. -/
def cleanFor (a : Access) (s : State) : State :=
  match s.mustClean a with
  | none => s
  | some (dies, p) => writeBackDies dies p s

/-- A signal or a fence has nothing left to wait for. -/
def State.fires (s : State) (a : Access) : Bool :=
  match a.kind with
  | .fence => (!a.rel || !s.storeInFlight a.unit) && !s.postedWait a && (match s.mustClean a with
      | none => true
      | some (dies, p) => s.cleaning dies p == .clean)
  | _ => !s.storeInFlight a.unit

/-- Signals and fences that have nothing left to wait for act now. A fence at .dev or .sys first writes back the die's
dirty lines, and waits as R149, R162 and R164 say. -/
def drain (s : State) : State :=
  let s := (sysFences s.core.pend []).foldl (fun s a => cleanFor a s) s
  let (kept, fired) := drainList s.fires s.core.pend []
  let c := fired.foldl (fun c a => match a.kind with
    | .signal sb sa => c.fillSignals a.unit sb sa a.hyp
    | _ => c) { s.core with pend := kept }
  { s with core := c }

/-- Extend a loaded value to a word (R140). -/
def extend (sgn : Bool) (size v : Nat) : Word :=
  if sgn then wordOfInt (sextNat (8 * size) v) else BitVec.ofNat 64 (v % 2 ^ (8 * size))

/-- Write the result of a returning access, and lower ld (R123). -/
def State.returnValue (s : State) (a : Access) (v : Nat) : State :=
  let sgn := match a.kind with
    | .load b => b
    | _ => false
  { s with core := { s.core.setReg a.unit a.rd (extend sgn a.size v) with cntLd := s.core.cntLd - 1 } }

/-- A store has been performed or acknowledged: st falls (R123). -/
def State.storeDone (s : State) : State := { s with core := { s.core with cntSt := s.core.cntSt - 1 } }

/-- The marked word that an access touches. -/
def State.accessMark (s : State) (a : Access) : Option Flt :=
  match a.place with
  | .mem _ pa => s.memMark pa a.size
  | .buf space off => s.core.bufMark space off a.size
  | .none => none

/-- The CC has written a word that its instruction cache holds (R85). -/
def noteOwn (a : Access) (pa : Nat) (s : State) : State :=
  if a.unit = .cc ∧ s.core.icache.words.any (fun w => w.1 == pa / 4 || w.1 == (pa + a.size - 1) / 4) = true then
    s.mapCore (fun c => { c with icache := { c.icache with own := pa / 4 :: (pa + a.size - 1) / 4 :: c.icache.own } })
  else s

/-- A TBAR update of the CC has been applied: its word has retired, and sys.instret counts it (R81, R169). -/
def State.barRetired (s : State) (a : Access) (op : Nat) : State :=
  if a.unit = .cc ∧ op ≤ 2 then s.mapCore (fun c => { c with instret := c.instret + 1 }) else s

/-- The result of a TBAR word is there: INIT has none. -/
def State.barResult (s : State) (a : Access) (op r : Nat) : State :=
  (if op = 0 then s else { s with core := s.core.setReg a.unit a.rd (BitVec.ofNat 64 r) }).barRetired a op

/-- What performing an access on this device does (R123, R137, R141–R144, R300). -/
def performLocal (s : State) (a : Access) : Except Flt State :=
  match s.accessMark a with
  | some f => .error f
  | none => match a.place, a.kind with
  | .mem _ pa, .load _ => .ok ((touchVers s a.hyp.toNat pa a.size).returnValue a (bytesToNat (readH s a.hyp.toNat pa a.size)))
  | .mem _ pa, .store =>
    match writeH s a.hyp.toNat pa (natToBytes a.size a.data.toNat) with
    | .error f => .error f
    | .ok s => .ok (noteOwn a pa s).storeDone
  | .mem _ pa, .amo op v c => let (old, s) := amoPhys s pa a.size op v c; .ok ((noteOwn a pa s).returnValue a old)
  | .mem _ pa, .red op v => .ok (noteOwn a pa (redPhys s pa a.size op v)).storeDone
  | .buf space off, .load _ => .ok (s.returnValue a (s.core.readBuf space off a.size))
  | .mem va pa, .bar op v =>
    match barPhys s (.mem pa 0#64) op v with
    | none => .error ⟨cQueue, 0, BitVec.ofNat 64 va⟩
    | some (r, s) => .ok (s.barResult a op r)
  | .buf _ off, .bar op v =>
    match barPhys s (.ab off) op v with
    | none => .error ⟨cQueue, 0, BitVec.ofNat 64 (2 ^ 28 + off)⟩
    | some (r, s) => .ok (s.barResult a op r)
  | .buf space off, .store => .ok { s with core := s.core.writeBuf space off a.size a.data.toNat }.storeDone
  | _, _ => .ok s

/-- An access with its translation: physical place, ordering kind, remote-cacheable bit and key index (R133, R351,
R363). -/
def Access.withLeaf (a : Access) (va : Word) (pa : Nat) (leaf : Word) : Access :=
  { a with place := .mem va.toNat pa, kindSO := pteKind leaf == 0, kindUO := pteKind leaf == 2, rmc := pteRmc leaf,
           key := pteKey leaf }

/-- Remove entry `k`. -/
def State.dropPend (s : State) (k : Nat) : State := { s with core := { s.core with pend := s.core.pend.eraseIdx k } }

/-- Perform, for a remote access, its next part: a remote-cacheable store goes to the cached line, a load of bytes that are
all there is served from it, and everything else becomes a packet (R163, R362). -/
def performRemote (s : State) (k : Nat) (a : Access) : State :=
  let keep (p : Nat × State) : State :=
    { p.2 with core := { p.2.core with pend := p.2.core.pend.set k { a with pid := p.1 } } }
  let ask (pa : Nat) (req : Request) (kind : WaitKind) : State := keep (send s (paDev pa) 0 a.key req kind)
  let post (pa : Nat) (req : Request) : State :=
    let (id, s) := sendFor { s.source with word := a.word } (s.dropPend k) (paDev pa) 0 a.key req .store
    s.carrying id a
  match a.place, a.kind with
  | .buf _ off, .load _ => keep (sendWin s a.data (.winRead (winSpace a.data) off a.size) .load)
  | .mem _ pa, .load _ =>
    let bs := (List.range a.size).filterMap (fun i => s.cachedAt (pa + i))
    if a.rmc && bs.length == a.size then (s.dropPend k).returnValue a (bytesToNat bs) else ask pa (.memRead pa a.size) .load
  | .mem _ pa, .store =>
    if a.rmc then (writeDirty { s.source with word := a.word } (s.dropPend k) a.key pa (natToBytes a.size a.data.toNat)).storeDone
    else post pa (.memWrite pa (natToBytes a.size a.data.toNat))
  | .mem _ pa, .amo op v c => ask pa (.memAmo pa a.size op v c) .load
  | .mem _ pa, .red op v => post pa (.memRed pa a.size op v)
  | .mem _ pa, .bar op v => ask pa (.memBar pa op v) (.bar none a.rd)
  | .mem _ pa, .log _ => ask pa (.memLog pa) .load
  | .mem _ pa, .pred => ask pa (.memAmo pa 4 1 (BitVec.allOnes 64) 0#64) .load
  | _, _ => s.dropPend k

/-- Perform entry `k` of the core in focus, acting as its sequencer. What must leave the die first is written back, and
acknowledged, before it (R162–R164). -/
def performEntry (s : State) (k : Nat) : Except (Access × Flt) State :=
  match s.core.pend[k]? with
  | none => .ok s
  | some a =>
    let perform : Except (Access × Flt) State :=
      if s.isRemote a then .ok (drain (performRemote { s with unit := a.unit } k a))
      else match performLocal (s.dropPend k) a with
        | .error f => .error (a, f)
        | .ok s => .ok (drain s)
    match s.mustClean a with
    | some (dies, p) => if s.cleaning dies p == .send then .ok (writeBackDies dies p s) else perform
    | none => perform

/-- What is left of an access that acquires at .sys once its value is there: later accesses wait for the write-backs of R164. -/
def Access.acquired (a : Access) : Access := { a with kind := .fence, place := .none, acq := true, rel := false, scope := 4, pid := 0 }

/-- Entry `k` has its value. -/
def State.endEntry (s : State) (k : Nat) (a : Access) (acquires : Bool) : State :=
  if acquires then { s with core := { s.core with pend := s.core.pend.set k a.acquired } } else s.dropPend k

/-- The end of a LOG.APPEND whose step on the header has given `r` (logStep): the result, the record in its place, and its
SEQ as a release store, which counts on st as the word did (R293). -/
def logRecord (a : Access) (bs : List Byte) (r : Nat × Nat × Nat) (s : State) : Except Flt State :=
  if r.1 = 2 then .error ⟨cQueue, 0, 0#64⟩
  else if r.1 = 0 then .ok { s.storeDone with core := s.storeDone.core.setReg a.unit a.rd 0#64 }
  else
    let va := BitVec.ofNat 64 r.2.2
    match checkMem s va 64 1 with
    | .error f => .error f
    | .ok (rp, rl, s) =>
      let q := { a with kind := .store, size := 8, rd := 0, data := BitVec.ofNat 64 (r.2.1 + 1), rel := true, scope := 4, pid := 0 }.withLeaf va rp rl
      let s := putHome { s.source with unit := a.unit } s (rp + 8) (pteKey rl) bs
      .ok { s with core := { s.core.setReg a.unit a.rd 1#64 with pend := s.core.pend ++ [q] } }

/-- The end of a LOG.APPEND on a header of another device, with the answer of its home. -/
def logEnd (s : State) (a : Access) (bs : List Byte) (data : List Byte) : Except Flt State :=
  let field (k : Nat) : Nat := bytesToNat ((data.drop (8 * k)).take 8)
  logRecord a bs (field 0, field 1, field 2) s

/-- The answer to a remote load, atomic or TBAR word arrives: the entry that the packet carries is performed. A TBAR.TEST
that reads 1 is an acquire at .sys (R164, R168). -/
def returnRemote (s : State) (pid : Nat) (data : List Byte) : State :=
  match s.core.pend.findIdx? (fun a => a.pid == pid) with
  | none => s
  | some k =>
    match s.core.pend[k]? with
    | none => s
    | some a =>
      let v := bytesToNat data
      match a.kind with
      | .bar op _ =>
        let s := s.endEntry k a (op == 4 && v == 1)
        drain (s.barResult a op v)
      | .pred => drain ((s.dropPend k).mapCore (fun c => { c with succPred := some v }))
      | .log bs => drain (match logEnd (s.dropPend k) a bs data with
          | .ok s => s
          | .error _ => (s.dropPend k).storeDone)
      | _ => drain ((s.endEntry k a (a.acq && a.scope == 4)).returnValue a v)

/-- Entry `k` fails after its word has issued. A TBAR word has not retired: its ring signals do not push, and the places
that they reserved are free (R169). -/
def State.failEntry (s : State) (k : Nat) (a : Access) : State :=
  let isSignal (b : Access) : Bool := b.unit == a.unit && (match b.kind with
    | .signal .. => true
    | _ => false)
  let r : BitVec 4 := a.word.extractLsb' 28 4
  let c := s.core
  let c := if !a.kind.isBar || (!sbBit r && !saBit r) then c
    else match (c.pend.drop (k + 1)).findIdx? isSignal with
      | none => c
      | some j =>
        let c := { c with pend := c.pend.eraseIdx (k + 1 + j) }
        let c := if sbBit r then c.unreserveToken (signalBefore a.unit) else c
        if saBit r then c.unreserveToken (signalAfter a.unit) else c
  { s with core := { c with pend := c.pend.eraseIdx k } }

/-- Add an access at the end of the list, raising ld or st; a TBAR word and a fence count on neither (R123, R169). -/
def State.pushAccess (s : State) (a : Access) : State :=
  let c := { s.core with pend := s.core.pend ++ [a] }
  { s with core := if a.kind.returns then { c with cntLd := c.cntLd + 1 } else if a.kind.stores then { c with cntSt := c.cntSt + 1 } else c }

/-- Some access of sequencer `u` of the core in focus is not performed yet. -/
def State.unitPending (s : State) (u : Sqr) : Bool := s.core.pend.any (fun a => a.unit == u) || s.storeInFlight u

/-- A register of sequencer `u` is the destination of an access that has not returned (R138), or of a barrier word that has
not been answered (R169, R293). -/
def State.regPending (s : State) (u : Sqr) (n : Nat) : Bool :=
  n ≠ 0 && (s.core.pend.any (fun a => a.unit == u && (a.kind.returns || a.kind.isBar || a.kind.isLog) && a.rd == n)
    || s.waiting.any (fun w => s.mine w && w.pkt.srcUnit == u && (match w.kind with
        | .bar _ rd => rd == n
        | _ => false)))

end Sys2Proof.Machine
end

