-- ==== Sys2Proof/Machine/Tile.lean ====
section
/-! DEFINITION. Tile commands: format words (R70, R71), descriptors and their checks (R187–R191), dot products in two
chains (R72–R75), and what a command commits (R201–R204). -/
namespace Sys2Proof.Machine

/-! ### Format words: R70, R71 -/

def fwAfmt (f : Word) : Nat := bits f 63 60
def fwBfmt (f : Word) : Nat := bits f 59 56
def fwAcc (f : Word) : Nat := bits f 55 54
def fwBlen (f : Word) : Nat := bits f 53 52
def fwBst (f : Word) : Nat := bits f 51 50
def fwBand (f : Word) : Bool := f.getLsbD 49
def fwSat (f : Word) : Bool := f.getLsbD 48
def fwRnd (f : Word) : Rnd := rndOf (bits f 47 46)
def fwOfmt (f : Word) : Nat := bits f 45 42
def fwTscale (f : Word) : Nat := bits f 15 0

/-- Operand classes of R71 and R72. -/
def opClass (c : Nat) : Option Nat :=
  match c with
  | 0 => some 0
  | 1 => some 1
  | 2 => some 2
  | 3 => some 2
  | 4 => some 3
  | 5 => some 3
  | 6 => some 4
  | 7 => some 5
  | _ => none

/-- A code has the Output role (R55). -/
def isOutput (c : Nat) : Bool := decide (c ≤ 9)

/-- Block length in elements (R70); 0 for none. -/
def blockLen (blen : Nat) : Nat := if blen = 0 then 0 else 4 * 2 ^ blen

/-- A format word is valid: R71. -/
def fmtValid (f : Word) : Bool :=
  let a := fwAfmt f
  (opClass a).isSome && opClass a == opClass (fwBfmt f)
    && (if a = 0 then fwAcc f == 1 else if a = 7 then fwAcc f == 2 else fwAcc f == 0)
    && (if a = 6 then fwBlen f == 1 else if a ≤ 1 then fwBlen f == 0 else true)
    && (fwBlen f == 0 || fwBst f != 3)
    && isOutput (fwOfmt f) && (fwOfmt f != 9 || fwAcc f == 2)
    && bits f 41 16 == 0

/-- Group size of the operand class: R72. -/
def groupSize (c : Nat) : Nat :=
  match opClass c with
  | some 0 => 1
  | some 1 => 1
  | some 2 => 2
  | some 3 => 4
  | some 4 => 8
  | _ => 4

/-! ### Tiles: R187, R188 -/

/-- T by the accumulator format (R187). -/
def tileT (acc : Nat) : Nat := if acc = 1 then 24 else 48
def accBytes (acc : Nat) : Nat := if acc = 1 then 8 else 4
/-- Plane size P (R187). -/
def planeBytes (acc : Nat) : Nat := tileT acc * tileT acc * accBytes acc

def accFmt (acc : Nat) : Fmt := if acc = 1 then f64 else f32

/-- Status dword: R188. -/
def statusWord (accf : Nat) (g1 par : Bool) : Nat :=
  accf * 2 ^ 62 + (if g1 then 2 ^ 61 else 0) + (if par then 2 ^ 60 else 0)

/-! ### Descriptors: R189, R190 -/

def tdBase (d : BitVec 128) : Nat := nbits d.toNat 127 96
def tdStride (d : BitVec 128) : Int := sextNat 32 (nbits d.toNat 95 64)
def tdK (d : BitVec 128) : Nat := nbits d.toNat 63 48
def tdOrgr (d : BitVec 128) : Nat := nbits d.toNat 47 32
def tdOrgc (d : BitVec 128) : Nat := nbits d.toNat 31 16
def tdRes (d : BitVec 128) : Nat := nbits d.toNat 15 0

/-- Bytes that `n` elements of a format fill. -/
def runBytes (fmt n : Nat) : Nat := (n * fmtBits fmt + 7) / 8

/-- An operand's shape: how many stored lines, and how many elements a line holds. -/
structure Shape where
  lines : Nat
  elems : Nat
  deriving DecidableEq, Repr, Inhabited

/-- A operand (T × K) or B operand (K × T) by its direction bit (R190). -/
def shapeA (t k : Nat) (dir : Bool) : Shape := if dir then ⟨k, t⟩ else ⟨t, k⟩
def shapeB (t k : Nat) (dir : Bool) : Shape := if dir then ⟨t, k⟩ else ⟨k, t⟩

/-- First and last-plus-one offset that lines of `width`-bit elements touch, relative to the space. -/
def extent (d : BitVec 128) (lines : List Nat) (elems width : Nat) : Int × Int :=
  let o : Int := bufOff (tdBase d)
  let at' : List Int := lines.map (fun (n : Nat) => tdStride d * (n : Int))
  let lo := at'.foldl min (at'.headD 0)
  let hi := at'.foldl max (at'.headD 0)
  (o + lo, o + hi + ((elems * width + 7) / 8 : Nat))

/-- The address word of a descriptor, for FADDR. -/
def tdAddr (d : BitVec 128) : Word := BitVec.ofNat 64 (tdBase d)

/-! ### Elements -/

/-- Element `n` of the line at offset `o` of a byte table. -/
def lineElem (m : Tab Byte) (o : Nat) (fmt n : Nat) : Nat :=
  let w := fmtBits fmt
  if w = 4 then
    let b := (m.get (o + n / 2)).toNat
    if n % 2 = 0 then b % 16 else b / 16
  else readLE m (o + n * (w / 8)) (w / 8)

/-- The offset of line `i` of a descriptor. -/
def lineOff (d : BitVec 128) (i : Nat) : Nat := ((bufOff (tdBase d) : Int) + tdStride d * i).toNat

/-- A matrix of element codes, line by line. -/
def readLines (m : Tab Byte) (d : BitVec 128) (fmt : Nat) (lines : List Nat) (elems : Nat) : List (List Nat) :=
  lines.map (fun i => (List.range elems).map (fun n => lineElem m (lineOff d i) fmt n))

/-- Transpose a matrix of `n` columns. -/
def transpose (n : Nat) (m : List (List Nat)) : List (List Nat) :=
  (List.range n).map (fun j => m.map (fun r => r.getD j 0))

/-- The bytes of a run of element codes (R58 packs two E2M1 codes in a byte). -/
def packElems (fmt : Nat) : List Nat → List Byte
  | [] => []
  | x :: t =>
    if fmtBits fmt = 4 then
      match t with
      | [] => [BitVec.ofNat 8 x]
      | y :: t' => BitVec.ofNat 8 (x % 16 + 16 * (y % 16)) :: packElems fmt t'
    else natToBytes (fmtBits fmt / 8) x ++ packElems fmt t

/-- A run of bytes as table entries from key `off` up, the zero bytes left out. -/
def bytesTab (off : Nat) (bs : List Byte) : Tab Byte :=
  ((List.range bs.length).zip bs).filterMap (fun p => if p.2 = 0#8 then none else some (off + p.1, p.2))

/-- Replace a run of bytes of a local buffer. -/
def Core.putRange (c : Core) (space off : Nat) (bs : List Byte) : Core :=
  c.setBuf space (Tab.splice (c.buf space) off (off + bs.length) (bytesTab off bs))

/-! ### Dot products: R72, R73, R75 -/

/-- The sum of values, added from the right. -/
def foldSum : List FVal → FVal × FlagSet
  | [] => (.fin false 0 0, 0#6)
  | [v] => (v, 0#6)
  | v :: t =>
    let (q, g) := foldSum t
    let (r, h) := FVal.add .rne v q
    (r, g ||| h)

/-- The exact sum of values, and its flags: infinities of both signs set NV whatever else the sum holds (R64, R75). -/
def exactSum (l : List FVal) : FVal × FlagSet :=
  let (v, f) := foldSum l
  (v, if l.contains (.inf false) && l.contains (.inf true) then f ||| flNV else f)

/-- The exact sum of the products of a group, and its flags. -/
def groupSum (terms : List (FVal × FVal)) : FVal × FlagSet :=
  let ps := terms.map (fun p => FVal.mul p.1 p.2)
  let (v, f) := exactSum (ps.map (·.1))
  (v, ps.foldl (fun a p => a ||| p.2) f)

/-- The value is an infinity. -/
def FVal.isInf (v : FVal) : Bool :=
  match v with
  | .inf _ => true
  | _ => false

/-- A zero block scale multiplies an infinite element of the group (R75). -/
def zeroTimesInf (terms : List (FVal × FVal)) (sa sb : FVal) : Bool :=
  (sa.isZero || sb.isZero) && terms.any (fun p => p.1.isInf || p.2.isInf)

/-- A finite sum under a zero scale contributes +0: R60 says so of an E5M2 scale of 0x00, and the model takes the same sign
under an E3M5 zero scale, whatever the sign of the sum. (DESIGN CHOICE, assumption 52.) -/
def applyScale (v : FVal) (s : FVal) : FVal × FlagSet :=
  match v, s with
  | .fin .., .fin _ 0 _ => (.fin false 0 0, 0#6)
  | v, s => FVal.mul v s

/-- The group value rounded into the accumulator format (R72); `scaled` when BLEN ≠ 0. -/
def groupValue (acc : Nat) (scaled : Bool) (terms : List (FVal × FVal)) (sa sb : FVal) : Nat × FlagSet :=
  let (v, f) := groupSum terms
  let (v, f) := if scaled then
      let (v1, f1) := applyScale v sa
      let (v2, f2) := applyScale v1 sb
      (v2, f ||| f1 ||| f2 ||| (if zeroTimesInf terms sa sb then flNV else 0#6))
    else (v, f)
  let (r, g) := if acc = 2 then cvtInt 32 v .rne else (accFmt acc).arith .rne v
  (r, f ||| g)

/-- One chain step (R73). -/
def chainAdd (acc : Nat) (sat : Bool) (x y : Nat) : Nat × FlagSet :=
  if acc = 2 then
    let t := sextNat 32 x + sextNat 32 y
    if sat && decide (t < -(2 ^ 31 : Nat)) then (2 ^ 31, flSAT)
    else if sat && decide ((2 ^ 31 - 1 : Nat) < t) then (2 ^ 31 - 1, flSAT)
    else ((t % (2 ^ 32 : Nat)).toNat, 0#6)
  else (accFmt acc).addC .rne x y

/-- An element's two chains with the parity state that all elements share. -/
structure Chains where
  even : Nat
  odd : Nat
  g1 : Bool
  par : Bool
  flags : FlagSet
  deriving DecidableEq, Repr, Inhabited

/-- One group value enters the chains (R202). -/
def Chains.add (acc : Nat) (sat : Bool) (c : Chains) (g : Nat × FlagSet) : Chains :=
  if !c.par then
    let (e, f) := chainAdd acc sat c.even g.1
    { c with even := e, par := true, flags := c.flags ||| g.2 ||| f }
  else if !c.g1 then { c with odd := g.1, par := false, g1 := true, flags := c.flags ||| g.2 }
  else
    let (o, f) := chainAdd acc sat c.odd g.1
    { c with odd := o, par := false, flags := c.flags ||| g.2 ||| f }

/-- Cut a list into runs of `n`; `fuel` bounds the runs. -/
def chunks {α : Type} (n : Nat) (l : List α) : Nat → List (List α)
  | 0 => []
  | fuel + 1 => if l.isEmpty then [] else l.take n :: chunks n (l.drop n) fuel

/-- The block-scale code of row or column `x` in block `b` (R193). -/
def scaleCode (entries : List (List Byte)) (t b x : Nat) : Nat :=
  (((entries.getD ((b * t + x) / 64) []).getD ((b * t + x) % 64) 0#8)).toNat

/-- The group values of one element: row `ra` of A, column `cb` of B, both as values in ascending k. -/
def groupsOf (f : Word) (t : Nat) (sa sb : List (List Byte)) (i j : Nat) (ra cb : List FVal) : List (Nat × FlagSet) :=
  let g := groupSize (fwAfmt f)
  let l := blockLen (fwBlen f)
  let gs := chunks g (ra.zip cb) ra.length
  ((List.range gs.length).zip gs).map (fun p =>
    if l = 0 then groupValue (fwAcc f) false p.2 (.fin false 1 0) (.fin false 1 0)
    else
      let b := p.1 * g / l
      groupValue (fwAcc f) true p.2 (scaleVal (fwBst f) (scaleCode sa t b i)) (scaleVal (fwBst f) (scaleCode sb t b j)))

/-- A plane's codes, row by row. -/
def readPlane (m : Tab Byte) (off acc : Nat) : List (List Nat) :=
  (List.range (tileT acc)).map (fun i => (List.range (tileT acc)).map (fun j =>
    readLE m (off + (i * tileT acc + j) * accBytes acc) (accBytes acc)))

/-- The bytes of a plane. -/
def planeOf (acc : Nat) (rows : List (List Nat)) : List Byte := rows.flatten.flatMap (natToBytes (accBytes acc))

/-- A tile's status dword. -/
def statusOf (c : Core) (d : BitVec 128) (acc : Nat) : Nat := c.readBuf 2 (bufOff (tdBase d) + 2 * planeBytes acc) 8

/-- Commit both planes and the status (R194). -/
def Core.putTile (c : Core) (d : BitVec 128) (acc : Nat) (even odd : List (List Nat)) (status : Nat) : Core :=
  c.putRange 2 (bufOff (tdBase d)) (planeOf acc even ++ planeOf acc odd ++ natToBytes 8 status)

def zeroPlane (acc : Nat) : List (List Nat) := List.replicate (tileT acc) (List.replicate (tileT acc) 0)

/-- The operand's bytes: a local space of the home core, or what a window answered, part by part. -/
def operandTab (c : Core) (d : BitVec 128) (window : Option (List (Nat × List Byte))) : Tab Byte :=
  match window with
  | none => c.buf (bufSpace (tdBase d))
  | some ps => ps.foldl (fun m p => Tab.splice m p.1 (p.1 + p.2.length) (bytesTab p.1 p.2)) []

/-- Lines of which each element is seen as the latch holds it, or as it is now: R196 allows either.
(DESIGN CHOICE, assumption 51.) -/
def mixLines (d : BitVec 128) (old new : List (List Nat)) : List (List Nat) :=
  ((List.range new.length).zip (old.zip new)).map (fun p =>
    ((List.range p.2.2.length).zip (p.2.1.zip p.2.2)).map (fun q => if Config.latchSees d (p.1 * 65536 + q.1) q.2.1 q.2.2 then q.2.1 else q.2.2))

/-- The latch holds operand A of an MM with KEEP set: its tag matches (R196). The answer is the bytes. -/
def OpLatch.hit (l : OpLatch) (t : Tile) (keep da : Bool) : Option (Tab Byte) :=
  match l.tag with
  | some (d, a, m) => if keep && l.gen == t.gen && d == t.descs.getD 1 0 && a == da then some m else none
  | none => none

/-- MM and MM.G (R202): the committed core and the flags. With K = 0 and Z = 0 the tile is unchanged.
(DEDUCED, assumption 19.) A KEEP use whose AFMT or accumulator is not the loading MM's reads the kept bytes in its own format
and shape: the tag holds neither. (DESIGN CHOICE, assumption 51.) -/
def commitMm (c : Core) (t : Tile) (gather da db z : Bool) (wa wb : Option (List (Nat × List Byte))) (latch : Option (Tab Byte) := none) : Core × FlagSet :=
  let f := t.fmt
  let acc := fwAcc f
  let n := tileT acc
  let dc := t.descs.getD 0 0
  let dA := t.descs.getD 1 0
  let dB := t.descs.getD 2 0
  let k := tdK dA
  let st := statusOf c dc acc
  let nb := if blockLen (fwBlen f) = 0 then 0 else k / blockLen (fwBlen f)
  let ne := (n * nb + 63) / 64
  let sa := t.scales.take ne
  let sb := t.scales.drop ne
  let shA := shapeA n k da
  let shB := shapeB n k db
  let ma := operandTab c dA wa
  let mb := operandTab c dB wb
  let la := readLines ma dA (fwAfmt f) (if gather then t.rows else List.range shA.lines) shA.elems
  let la := match latch with
    | some m => mixLines dA (readLines m dA (fwAfmt f) (List.range shA.lines) shA.elems) la
    | none => la
  let lb := readLines mb dB (fwBfmt f) (List.range shB.lines) shB.elems
  let ra := (if da then transpose n la else la).map (fun r => r.map (elemVal (fwAfmt f) false))
  let cb := (if db then lb else transpose n lb).map (fun r => r.map (elemVal (fwBfmt f) false))
  let g1 := !z && nbits st 61 61 == 1
  let par := !z && nbits st 60 60 == 1
  let ev := if z then zeroPlane acc else readPlane (c.buf 2) (bufOff (tdBase dc)) acc
  let od := if z then zeroPlane acc else readPlane (c.buf 2) (bufOff (tdBase dc) + planeBytes acc) acc
  let idx := List.range n
  let res := idx.map (fun i => idx.map (fun j =>
    (groupsOf f n sa sb i j (ra.getD i []) (cb.getD j [])).foldl (Chains.add acc (fwSat f))
      ⟨(ev.getD i []).getD j 0, (od.getD i []).getD j 0, g1, par, 0#6⟩))
  let groups := k / groupSize (fwAfmt f)
  let par' := par != (groups % 2 == 1)
  let g1' := g1 || decide (2 ≤ groups + (if par then 1 else 0))
  (if k = 0 && !z then c
   else c.putTile dc acc (res.map (fun r => r.map (·.even))) (res.map (fun r => r.map (·.odd))) (statusWord acc g1' par'),
   res.foldl (fun a r => r.foldl (fun a x => a ||| x.flags) a) 0#6)

/-- ACC.ZERO (R201). -/
def commitZero (c : Core) (t : Tile) : Core × FlagSet :=
  let acc := fwAcc t.fmt
  (c.putTile (t.descs.getD 0 0) acc (zeroPlane acc) (zeroPlane acc) (statusWord acc false false), 0#6)

/-- A value converted into the accumulator format (R203). -/
def cvtAcc (f : Word) (v : FVal) : Nat × FlagSet :=
  if fwAcc f = 2 then cvtInt 32 v (fwRnd f) else cvtFloat (accFmt (fwAcc f)) v (fwRnd f) (fwSat f)

/-- ACC.WR (R203). -/
def commitWr (c : Core) (t : Tile) : Core × FlagSet :=
  let f := t.fmt
  let acc := fwAcc f
  let n := tileT acc
  let ds := t.descs.getD 1 0
  let src := readLines (c.buf (bufSpace (tdBase ds))) ds (fwAfmt f) (List.range n) n
  let ev := src.map (fun r => r.map (fun x => cvtAcc f (elemVal (fwAfmt f) false x)))
  (c.putTile (t.descs.getD 0 0) acc (ev.map (fun r => r.map (·.1))) (zeroPlane acc) (statusWord acc false false),
   ev.foldl (fun a r => r.foldl (fun a x => a ||| x.2) a) 0#6)

/-- A BF16 of the band entry (R193). -/
def bandVal (e : List Byte) (k : Nat) : FVal := bf16.decode (bytesToNat ((e.drop (2 * k)).take 2))

/-- The finish step for one element (R74); `ba` and `bb` are the band values of its row and column. -/
def finish (f : Word) (sum : Nat) (ba bb : FVal) : Nat × FlagSet :=
  let acc := fwAcc f
  let scale (ft : Fmt) (x : FVal) : Nat × FlagSet :=
    let (bd, fb) := if fwBand f then
        let (p, f1) := FVal.mul ba bb
        let (r, f2) := ft.arith .rne p
        (ft.decode r, f1 ||| f2)
      else (.fin false 1 0, 0#6)
    let (p, f1) := FVal.mul x bd
    let (r, f2) := ft.arith .rne p
    let (q, f3) := FVal.mul (ft.decode r) (bf16.decode (fwTscale f))
    let (v, f4) := ft.arith .rne q
    let (o, f5) := cvt (fwOfmt f) (ft.decode v) (fwRnd f) (fwSat f)
    (o, fb ||| f1 ||| f2 ||| f3 ||| f4 ||| f5)
  if acc = 2 then
    if fwBand f || fwTscale f ≠ 0x3F80 then
      let (x, f0) := f32.arith .rne (.ofInt (sextNat 32 sum))
      let (o, g) := scale f32 (f32.decode x)
      (o, f0 ||| g)
    else cvt (fwOfmt f) (.ofInt (sextNat 32 sum)) (fwRnd f) (fwSat f)
  else scale (accFmt acc) ((accFmt acc).decode sum)

/-- ACC.RD (R204). Output lines that overlap are written in ascending order of the rows, so the last one stands.
(DESIGN CHOICE, assumption 58.) -/
def commitRd (c : Core) (t : Tile) : Core × FlagSet :=
  let f := t.fmt
  let acc := fwAcc f
  let n := tileT acc
  let dd := t.descs.getD 0 0
  let dc := t.descs.getD 1 0
  let off := bufOff (tdBase dc)
  let st := statusOf c dc acc
  let ev := readPlane (c.buf 2) off acc
  let od := readPlane (c.buf 2) (off + planeBytes acc) acc
  let e := t.scales.getD 0 []
  let r0 := tdOrgr dc
  let c0 := tdOrgc dc
  let idx := List.range n
  let rows := idx.map (fun i => idx.map (fun j =>
    let x := (ev.getD i []).getD j 0
    let (sum, f1) := if nbits st 61 61 == 1 then chainAdd acc (fwSat f) x ((od.getD i []).getD j 0) else (x, 0#6)
    let ba := bandVal e (if (r0 + i) / 64 = r0 / 64 then 0 else 1)
    let bb := bandVal e (if (c0 + j) / 64 = c0 / 64 then 2 else 3)
    let (o, f2) := finish f sum ba bb
    (o, f1 ||| f2)))
  let c' := (idx.zip rows).foldl (fun c p => c.putRange 1 (lineOff dd p.1) (packElems (fwOfmt f) (p.2.map (·.1)))) c
  (c', rows.foldl (fun a r => r.foldl (fun a x => a ||| x.2) a) 0#6)

/-- What a tile command commits on its home core, given the operand latch of its ME, and the latch after it (R194, R196).
(DESIGN CHOICE, assumption 51.) -/
def commitTile (c : Core) (l : OpLatch) (t : Tile) : Core × OpLatch × FlagSet :=
  let w (k : Nat) : Option (List (Nat × List Byte)) := match t.need.filter (fun n => n.1 == k) with
    | [] => none
    | ns => some (ns.filterMap (fun n => (t.got.find? (fun p => p.1 == n.2.1)).map (fun p => (n.2.2, p.2))))
  let plain (r : Core × FlagSet) : Core × OpLatch × FlagSet := (r.1, l, r.2)
  match t.cmd with
  | .mm _ _ _ _ keep z y x =>
    let d := t.descs.getD 1 0
    let latch := l.hit t (keep == 1#1) (x == 1#1)
    let (c', f) := commitMm c t false (x == 1#1) (y == 1#1) (z == 1#1) (w 0) (w 1) latch
    let size := runBytes (fwAfmt t.fmt) (tileT (fwAcc t.fmt) * tdK d)
    (c',
     if latch.isSome then l
     else if size ≤ 24576 ∧ l.gen = t.gen then { l with tag := some (d, x == 1#1, operandTab c d (w 0)) }
     else l, f)
  | .mmG _ _ _ _ _ z y =>
    let (c, f) := commitMm c t true false (y == 1#1) (z == 1#1) (w 0) (w 1)
    (c, { l with tag := none }, f)
  | .accZero .. => plain (commitZero c t)
  | .accRd .. => plain (commitRd c t)
  | .accWr .. => plain (commitWr c t)
  | _ => (c, l, 0#6)

/-- OR flags into sys.aflags (R67, R68). -/
def Core.raiseFlags (c : Core) (f : FlagSet) : Core := { c with aflags := c.aflags ||| f }

/-- The lines and elements that a tile command accesses of its operands beside the accumulator tile, A and B first. -/
def Tile.operandLines (t : Tile) : List (BitVec 128 × List Nat × Nat × Nat) :=
  let n := tileT (fwAcc t.fmt)
  let k := tdK (t.descs.getD 1 0)
  let a (sh : Shape) (rows : List Nat) := (t.descs.getD 1 0, rows, sh.elems, fmtBits (fwAfmt t.fmt))
  let b (sh : Shape) := (t.descs.getD 2 0, List.range sh.lines, sh.elems, fmtBits (fwBfmt t.fmt))
  match t.cmd with
  | .mm _ _ _ _ _ _ y x => [a (shapeA n k (x == 1#1)) (List.range (shapeA n k (x == 1#1)).lines), b (shapeB n k (y == 1#1))]
  | .mmG _ _ _ _ _ _ y => [a (shapeA n k false) t.rows, b (shapeB n k (y == 1#1))]
  | .accWr .. => [a ⟨n, n⟩ (List.range n)]
  | .accRd .. => [(t.descs.getD 0 0, List.range n, n, fmtBits (fwOfmt t.fmt))]
  | _ => []

/-- Runs of at most 256 bytes that a window read takes `n` bytes from an offset in (R354). -/
def readParts : Nat → Nat → Nat → List (Nat × Nat)
  | 0, _, _ => []
  | fuel + 1, off, n =>
    if n = 0 then [] else
      let k := min n (256 - off % 256)
      (off, k) :: readParts fuel (off + k) (n - k)

/-- The runs of a window that an operand lies in, line by line. -/
def operandParts (o : BitVec 128 × List Nat × Nat × Nat) : List (Nat × Nat) :=
  if bufSpace (tdBase o.1) < 8 then []
  else
    let n := (o.2.2.1 * o.2.2.2 + 7) / 8
    o.2.1.flatMap (fun i => readParts (n / 256 + 2) (lineOff o.1 i) n)

/-- Ask for the operands of a relocated command that lie in windows of the core in focus (R197). -/
def fetchOperands (s : State) (t : Tile) : State × Tile :=
  ((List.range t.operandLines.length).zip t.operandLines).foldl (fun acc x =>
    let w := acc.1.core.win.get (bufSpace (tdBase x.2.1) - 8)
    (operandParts x.2).foldl (fun acc p =>
      let (id, s) := sendWin { acc.1 with unit := .me } w (.winRead (winSpace w) p.1 p.2) .tile
      (s, { acc.2 with need := acc.2.need ++ [(x.1, id, p.1)] })) acc) (s, { t with need := [], got := [], failed := false, asked := true })

/-- An operand of the command lies in a window. -/
def Tile.windowed (t : Tile) : Bool := t.operandLines.any (fun o => !(operandParts o).isEmpty)

/-- Ask for the window operands of tile commands of the core in focus whose earlier commands of the same ME have committed: a
window may name a buffer that those write (R194). -/
def askTiles (s : State) : State :=
  (List.range s.core.tiles.length).foldl (fun s k =>
    match s.core.tiles[k]? with
    | none => s
    | some t =>
      if t.asked || t.failed || (s.core.tiles.take k).any (fun x => x.me == t.me) then s
      else
        let (s, t) := fetchOperands s t
        s.mapCore (fun c => { c with tiles := c.tiles.set k t })) s

/-- Scale entries that a tile command pops (R193). -/
def scalesNeeded (i : Instr) (f : Word) (k : Nat) : Nat :=
  let l := blockLen (fwBlen f)
  let mm := if l = 0 then 0 else 2 * ((tileT (fwAcc f) * (k / l) + 63) / 64)
  match i with
  | .mm .. => mm
  | .mmG .. => mm
  | .accRd .. => if fwBand f then 1 else 0
  | _ => 0

/-- Scale entries that the command lacks: a replay may hold fewer than it needs (R192). -/
def Tile.short (t : Tile) : Nat := scalesNeeded t.cmd t.fmt (tdK (t.descs.getD 1 0#128)) - t.scales.length

/-- Every operand of the command has arrived. -/
def Tile.ready (t : Tile) : Bool := !t.failed && t.asked && t.need.all (fun n => t.got.any (fun p => p.1 == n.2.1))

/-- The accumulator tile that a command reads: C of an MM or MM.G that continues a sequence, and of ACC.RD. -/
def Tile.readsTile (t : Tile) : Option (BitVec 128) :=
  match t.cmd with
  | .mm _ _ _ _ _ z _ _ => if z = 1#1 then none else t.descs[0]?
  | .mmG _ _ _ _ _ z _ => if z = 1#1 then none else t.descs[0]?
  | .accRd .. => t.descs[1]?
  | _ => none

/-- The lines of elements that a command reads: those of ACC.RD are written. -/
def Tile.readLines (t : Tile) : List (BitVec 128 × List Nat × Nat × Nat) :=
  match t.cmd with
  | .accRd .. => []
  | _ => t.operandLines

/-- F.ECC where a command reads a marked word of an operand or of its tile (R192, R199, R397): of each line its elements, and
not what a stride leaves between lines. (DEDUCED, assumption 14.) -/
def Tile.mark (c : Core) (t : Tile) : Option Flt :=
  let part (space off n : Nat) : Option Flt := if n = 0 then none else c.bufMark space off n
  match t.readLines.findSome? (fun o => o.2.1.findSome? (fun i =>
      part (bufSpace (tdBase o.1)) (lineOff o.1 i) ((o.2.2.1 * o.2.2.2 + 7) / 8))) with
  | some f => some f
  | none => t.readsTile.bind (fun d => part (bufSpace (tdBase d)) (bufOff (tdBase d)) (2 * planeBytes (fwAcc t.fmt) + 8))

/-- The tile command at place `k` faults after its acceptance and stands as the tile replay (R192, R338). -/
def Core.failTile (c : Core) (k : Nat) : Core :=
  match c.tiles[k]? with
  | none => c
  | some t =>
    let t' : Tile := { t with failed := true, need := [], got := [] }
    if c.tileReplay.isNone then { c with tiles := c.tiles.eraseIdx k, tileReplay := some t' }
    else { c with tiles := c.tiles.set k t' }

/-- The oldest tile command of the core in focus commits, and tl falls (R123, R194). Its flags are set then: R68 sets a flag
when the word whose result raises it retires, a tile command retires at its acceptance, and there is no result before this
commit. (DEDUCED, assumption 46.) -/
def commitOldest (s : State) : State :=
  match s.core.tiles with
  | [] => s
  | t :: rest =>
    if !t.ready then s
    else
      let (c, l, f) := commitTile { s.core with tiles := rest } (s.coreAt t.me).latch t
      askTiles (within t.me (fun s => s.mapCore (fun c => { c with latch := l }))
        { s with core := ({ c with cntTl := c.cntTl - 1 }).raiseFlags f })

end Sys2Proof.Machine
end

