-- ==== Sys2Proof/Machine/Save.lean ====
section
/-! DEFINITION. The save format: the fault frame (R339–R341), the register area (R342–R344, R177, R198) and the buffer
and SRF images (R250, R323), written and read back by one table of items. Sparse images list only bytes that are not
zero. -/
namespace Sys2Proof.Machine

/-! ### Views of sequencing state: R125 -/

/-- sys.qstat. -/
def Core.qstat (c : Core) : Nat :=
  c.ae.cmdq.items.length + c.me.cmdq.items.length * 2 ^ 5 + c.se.cmdq.items.length * 2 ^ 10
    + c.ve.cmdq.items.length * 2 ^ 15 + c.fmtq.items.length * 2 ^ 20 + c.rq.items.length * 2 ^ 25
    + c.ae.bq.items.length * 2 ^ 30 + c.me.bq.items.length * 2 ^ 34 + c.se.bq.items.length * 2 ^ 38
    + c.ve.bq.items.length * 2 ^ 42 + c.sclq.items.length * 2 ^ 46

/-- sys.tokens. -/
def Core.tokenWord (c : Core) : Nat :=
  ((List.range 10).map (fun i => (c.tokens.get i).toks.length * 2 ^ (6 * i))).foldl (· + ·) 0

/-- sys.outst. -/
def Core.outst (c : Core) : Nat := c.cntLd * 2 ^ 48 + c.cntSt * 2 ^ 32 + c.cntCp * 2 ^ 16 + c.cntTl

/-- A loop register as a word: R110. -/
def LoopReg.word (l : LoopReg) : Nat :=
  l.stop.toNat + l.start.toNat * 2 ^ 16 + l.count.toNat * 2 ^ 32 + (if l.le then 2 ^ 61 else 0)
    + (if l.ls then 2 ^ 62 else 0) + (if l.a then 2 ^ 63 else 0)

def LoopReg.ofWord (v : Nat) : LoopReg :=
  { a := nbits v 63 63 == 1, ls := nbits v 62 62 == 1, le := nbits v 61 61 == 1, count := BitVec.ofNat 24 (nbits v 55 32),
    start := BitVec.ofNat 16 (nbits v 31 16), stop := BitVec.ofNat 16 (nbits v 15 0) }

/-- sys.frame: R385. -/
def Core.frameWord (c : Core) : Nat := (if c.frameRun then 2 ^ 63 else 0) + c.frameCount.toNat

/-! ### Items -/

/-- One field of the register area: offset, size, its value, and how a restart reloads it. -/
structure Item where
  off : Nat
  size : Nat
  get : Core → Nat
  put : Core → Nat → Core

/-- The four engines in save order. -/
def engines : List Sqr := [.ae, .me, .se, .ve]
def engIx (u : Sqr) : Nat := match u with
  | .cc => 0 | .ae => 0 | .me => 1 | .se => 2 | .ve => 3
/-- RQ source code of an engine (R120). -/
def engCode (u : Sqr) : Nat := match u with
  | .cc => 0 | .ae => 1 | .me => 2 | .se => 3 | .ve => 4

/-- `n` equal items of `size` bytes from `off`. -/
def itemRun (off size n : Nat) (get : Nat → Core → Nat) (put : Nat → Core → Nat → Core) : List Item :=
  (List.range n).map (fun i => ⟨off + size * i, size, get i, put i⟩)

/-- x0–x31 and the registers after them (R342, R360). -/
def itemsScalar : List Item :=
  itemRun 0x400 8 32 (fun i c => (c.reg .cc i).toNat) (fun i c v => c.setReg .cc i (BitVec.ofNat 64 v))
  ++ [ ⟨0x500, 8, fun c => (c.g ||| 1#8).toNat, fun c v => { c with g := BitVec.ofNat 8 v ||| 1#8 }⟩,
       ⟨0x508, 8, fun c => c.aflags.toNat, fun c _ => c⟩,
       ⟨0x510, 8, fun c => c.hyp.toNat + c.hypDepth.toNat * 256, fun c v => { c with hyp := BitVec.ofNat 8 v, hypDepth := BitVec.ofNat 2 (v / 256) }⟩,
       ⟨0x518, 8, fun c => c.cycle.toNat, fun c v => { c with cycle := BitVec.ofNat 64 v }⟩,
       ⟨0x520, 8, fun c => c.instret.toNat, fun c v => { c with instret := BitVec.ofNat 64 v }⟩ ]
  ++ itemRun 0x528 8 8 (fun i c => (c.scratch.get i).toNat) (fun i c v => { c with scratch := c.scratch.set i (BitVec.ofNat 64 v) })
  ++ [ ⟨0x568, 8, fun c => c.logring.toNat, fun c v => { c with logring := BitVec.ofNat 64 v }⟩,
       ⟨0x570, 8, fun c => c.qrseed.toNat, fun c v => { c with qrseed := BitVec.ofNat 64 v &&& 0x1FFFFFFFFFFFF#64 }⟩,
       ⟨0x578, 8, Core.frameWord, fun c v => { c with frameRun := nbits v 63 63 == 1, frameCount := BitVec.ofNat 32 v }⟩ ]
  ++ itemRun 0x580 8 8 (fun i c => (c.win.get i).toNat) (fun i c v => { c with win := c.win.set i (BitVec.ofNat 64 v &&& 0x803FFFFFFFFFE000#64) })

/-- The register block of one engine (R342): e0–e15, loops, latches, and ctag for the SE. -/
def itemsEngine (u : Sqr) : List Item :=
  let o := 0x600 + 0x100 * engIx u
  itemRun o 8 16 (fun i c => (c.reg u i).toNat) (fun i c v => c.setReg u i (BitVec.ofNat 64 v))
  ++ itemRun (o + 0x80) 8 4 (fun i c => ((c.eng u).loops.get i).word) (fun _ c _ => c)
  ++ itemRun (o + 0xA0) 4 4
      (fun i c => let l := (c.eng u).latches.get i; l.start.toNat + l.stop.toNat * 65536)
      (fun i c v => c.mapEng u (fun e => { e with latches := e.latches.set i ⟨BitVec.ofNat 16 v, BitVec.ofNat 16 (v / 65536)⟩ }))
  ++ (if u = .se then [⟨o + 0xB0, 8, fun c => c.ctag.toNat, fun c v => { c with ctag := BitVec.ofNat 16 v }⟩] else [])

/-- Descriptors, operator descriptors and the transient ring (R342). -/
def itemsDesc : List Item :=
  itemRun 0xA00 48 8 (fun i c => (c.c.get i).toNat) (fun i c v => { c with c := c.c.set i (BitVec.ofNat 384 v) })
  ++ itemRun 0xB80 16 8 (fun i c => (c.t.get i).toNat) (fun i c v => { c with t := c.t.set i (BitVec.ofNat 128 v) })
  ++ itemRun 0xC00 16 8 (fun i c => (c.w.get i).toNat) (fun i c v => { c with w := c.w.set i (BitVec.ofNat 128 v) })
  ++ itemRun 0xC80 16 16 (fun i c => (c.d.get i).toNat) (fun i c v => { c with d := c.d.set i (BitVec.ofNat 128 v) })
  ++ itemRun 0xE00 128 16
      (fun i c => bytesToNat ((c.opd.get i).dwords.flatMap (fun d => natToBytes 8 d.toNat)))
      (fun i c v => if v = 0 ∧ (c.opd.get i).dwords.isEmpty then c else
        { c with opd := c.opd.set i { c.opd.get i with dwords := (List.range 16).map (fun k => BitVec.ofNat 64 (v / 2 ^ (64 * k))) } })
  ++ itemRun 0x1600 8 8 (fun i c => ((c.ring.getD i default).val).toNat)
      (fun i c v => { c with ring := (List.range 8).map (fun k => if k = i then { c.ring.getD k default with lo := BitVec.ofNat 32 v, hi := BitVec.ofNat 32 (v / 2 ^ 32) } else c.ring.getD k default) })
  ++ [ ⟨0x1640, 2, fun c => ((List.range 8).map (fun k => (c.ring.getD k default).ct.toNat * 4 ^ k)).foldl (· + ·) 0,
         fun c v => { c with ring := (List.range 8).map (fun k => { c.ring.getD k default with ct := BitVec.ofNat 2 (v / 4 ^ k) }) }⟩,
       ⟨0x1642, 2, fun c => ((List.range 16).map (fun k => if (c.opd.get k).loaded then 2 ^ k else 0)).foldl (· + ·) 0,
         fun c v => (List.range 16).foldl (fun c k =>
           if (v / 2 ^ k % 2 == 1) == (c.opd.get k).loaded then c
           else { c with opd := c.opd.set k { c.opd.get k with loaded := v / 2 ^ k % 2 == 1 } }) c⟩ ]

/-- A queue as its header and its entries in physical slot order (R343). -/
def Queue.image {α : Type} (q : Queue α) (depth size : Nat) (enc : α → Nat) : Nat :=
  q.head + q.tail depth * 256 + q.items.length * 65536
    + ((List.range q.items.length).zip q.items).foldl
        (fun a p => a + (enc p.2 % 256 ^ size) * 256 ^ (8 + size * ((q.head + p.1) % depth))) 0

/-- A queue from its image; none when its header is inconsistent (R343). -/
def Queue.ofImage {α : Type} (v depth size : Nat) (dec : Nat → α) : Option (Queue α) :=
  let head := v % 256
  let tail := v / 256 % 256
  let n := v / 65536 % 256
  if n > depth ∨ head ≥ depth ∨ tail ≠ (head + n) % depth then none
  else some ⟨head, (List.range n).map (fun i => dec (v / 256 ^ (8 + size * ((head + i) % depth)) % 256 ^ size))⟩

/-- A command in 32 bytes (R343). -/
def Command.image (c : Command) : Nat :=
  c.a.toNat + c.b.toNat * 2 ^ 64
    + (c.entry.toNat + (if c.reloc then 512 else 0) + c.hyp.toNat * 2 ^ 10 + c.src.toNat * 2 ^ 18) * 2 ^ 128
    + c.macroAddr.toNat * 2 ^ 192

def Command.ofImage (v : Nat) : Command :=
  let d := v / 2 ^ 128 % 2 ^ 64
  ⟨BitVec.ofNat 64 v, BitVec.ofNat 64 (v / 2 ^ 64), BitVec.ofNat 9 d, d / 512 % 2 == 1, BitVec.ofNat 57 (v / 2 ^ 192),
   BitVec.ofNat 8 (d / 2 ^ 10), BitVec.ofNat 9 (d / 2 ^ 18)⟩

/-- A queue of the core inside the save area: how it is written, and how it is read (none where R343 refuses it). -/
structure QItem where
  off : Nat
  size : Nat
  get : Core → Nat
  put : Core → Nat → Option Core

/-- The queues of R343. -/
def queueItems : List QItem :=
  (engines.map (fun u => (⟨0x1800 + 0x208 * engIx u, 520,
      fun c => (c.eng u).cmdq.image cmdqDepth 32 Command.image,
      fun c v => (Queue.ofImage v cmdqDepth 32 Command.ofImage).map (fun q => c.mapEng u (fun e => { e with cmdq := q }))⟩ : QItem)))
  ++ [ ⟨0x2020, 264, fun c => c.fmtq.image fmtqDepth 16 (fun p => p.1.toNat + p.2.toNat * 2 ^ 64),
        fun c v => (Queue.ofImage v fmtqDepth 16 (fun x => (BitVec.ofNat 64 x, BitVec.ofNat 8 (x / 2 ^ 64)))).map (fun q => { c with fmtq := q })⟩,
       ⟨0x2128, 4616, fun c => c.sclq.image sclqDepth 72 (fun e => bytesToNat (e.bytes ++ [e.hyp])),
        fun c v => (Queue.ofImage v sclqDepth 72 (fun x => (⟨natToBytes 64 x, BitVec.ofNat 8 (x / 2 ^ 512)⟩ : ScaleEntry))).map (fun q => { c with sclq := q })⟩ ]
  ++ (engines.map (fun u => (⟨0x3330 + 24 * engIx u, 24,
      fun c => (c.eng u).bq.image bqDepth 2 (fun p => (if p.1 then 1 else 0) + p.2.toNat * 256),
      fun c v => (Queue.ofImage v bqDepth 2 (fun x => (x % 2 == 1, BitVec.ofNat 8 (x / 256)))).map (fun q => c.mapEng u (fun e => { e with bq := q }))⟩ : QItem)))
  ++ [ ⟨0x3390, 264, fun c => c.rq.image rqDepth 16 (fun e => (e.val.getD 0#64).toNat + (e.src + e.hyp.toNat * 256) * 2 ^ 64),
        fun c v => (Queue.ofImage v rqDepth 16 (fun x => (⟨some (BitVec.ofNat 64 x), x / 2 ^ 64 % 8, BitVec.ofNat 8 (x / 2 ^ 72)⟩ : RqEntry))).map
          (fun q => { c with rq := q })⟩ ]
  ++ (List.range 10).map (fun i => (⟨0x3498 + 40 * i, 40,
      fun c => (c.tokens.get i).toks.length * 65536 + bytesToNat (c.tokens.get i).toks * 2 ^ 64,
      fun c v => if v / 65536 % 256 > tokenDepth then none else
        some { c with tokens := c.tokens.set i { c.tokens.get i with toks := natToBytes (v / 65536 % 256) (v / 2 ^ 64) } }⟩ : QItem))

/-- A sampling slot in 256 bytes (R344). -/
def SmpSlot.image (sl : SmpSlot) : Nat :=
  let r := sl.latest.getD default
  bytesToNat (sl.record.take 64 ++ List.replicate (64 - sl.record.length) 0#8)
    + sl.step.toNat * 2 ^ 512 + sl.state * 2 ^ 544 + sl.stop.length * 2 ^ 552
    + bytesToNat (sl.stop.flatMap (fun x => natToBytes 4 x.toNat)) * 2 ^ 576
    + r.reply.toNat * 2 ^ 1088 + r.kind * 2 ^ 1152
    + bytesToNat (r.lp.flatMap (fun x => natToBytes 4 x.toNat)) * 2 ^ 1216
    + bytesToNat (r.sl.flatMap (fun x => natToBytes 4 x.toNat)) * 2 ^ 1344

def u32s (n v : Nat) : List (BitVec 32) := (List.range n).map (fun k => BitVec.ofNat 32 (v / 2 ^ (32 * k)))

/-- Reload a sampling slot; its armed rows stay with the filter. A slot without a latest result has one when its bytes in
memory are not zero. -/
def SmpSlot.reload (sl : SmpSlot) (v : Nat) : SmpSlot :=
  { sl with
    record := natToBytes 64 v, step := BitVec.ofNat 32 (v / 2 ^ 512), state := v / 2 ^ 544 % 256,
    stop := u32s (min 16 (v / 2 ^ 552 % 256)) (v / 2 ^ 576),
    latest := if sl.latest.isNone ∧ v / 2 ^ 1088 % 2 ^ 384 = 0 then none else some { (sl.latest.getD default) with
      reply := BitVec.ofNat 64 (v / 2 ^ 1088), kind := v / 2 ^ 1152 % 256, lp := u32s 4 (v / 2 ^ 1216), sl := u32s 4 (v / 2 ^ 1344) } }

/-- A pending sampling word in 512 bytes (R344); `place` is its place in the RQ. -/
def SmpWord.image (w : SmpWord) (place : Nat) : Nat :=
  w.word.toNat + w.ra.toNat * 2 ^ 64 + w.rb.toNat * 2 ^ 128 + place * 2 ^ 192 + w.seed.toNat * 2 ^ 256
    + ((List.range w.rows.length).zip w.rows).foldl
        (fun a p => a + bytesToNat (p.2.flatMap (fun x => natToBytes 4 x.toNat)) * 2 ^ (1024 + 1024 * p.1)) 0

def SmpWord.reload (w : SmpWord) (v : Nat) : SmpWord :=
  { w with kind := v % 128, word := BitVec.ofNat 32 v, ra := BitVec.ofNat 64 (v / 2 ^ 64), rb := BitVec.ofNat 64 (v / 2 ^ 128),
           seed := BitVec.ofNat 64 (v / 2 ^ 256),
           rows := (List.range 3).map (fun i => u32s 32 (v / 2 ^ (1024 + 1024 * i))) }

def copyKindCode (k : CopyKind) : Nat :=
  match k with
  | .cpy => 0 | .cpyT => 1 | .gath => 2 | .scat => 3 | .mcast => 4 | .sclLd => 5
def copyKindOf (n : Nat) : CopyKind :=
  match n with
  | 0 => .cpy | 1 => .cpyT | 2 => .gath | 3 => .scat | 4 => .mcast | _ => .sclLd

/-- A copy-resume entry (R177). -/
def Copy.image (c : Copy) : Nat :=
  c.desc.toNat + (c.off % 2 ^ 32) * 2 ^ 384 + (c.row % 65536) * 2 ^ 420 + (if c.due then 2 ^ 436 else 0)
    + copyKindCode c.kind * 2 ^ 437 + c.hyp.toNat * 2 ^ 440 + c.time.toNat * 2 ^ 448

/-- A copy as its entry stands in memory: one that the device has listed as timed stays timed; of one that is new, the entry
tells by KIND, TIME and DUE. -/
def Copy.reload (c : Copy) (v : Nat) : Copy :=
  { c with timed := c.timed || nbits v 439 437 == 1 || (v / 2 ^ 448 != 0 && v / 2 ^ 436 % 2 == 0), desc := BitVec.ofNat 384 v, off := v / 2 ^ 384 % 2 ^ 32, row := v / 2 ^ 420 % 65536, due := v / 2 ^ 436 % 2 == 1,
           kind := copyKindOf (v / 2 ^ 437 % 8), hyp := BitVec.ofNat 8 (v / 2 ^ 440), time := BitVec.ofNat 64 (v / 2 ^ 448) }

/-- A pending special-function write (R344). -/
def VWrite.image (w : VWrite) : Nat :=
  w.addr % 2 ^ 32 + w.val.toNat * 2 ^ 32 + (w.fmt % 16 + w.rnd % 4 * 16 + (if w.sat then 64 else 0)) * 2 ^ 64 + w.left % 256 * 2 ^ 72

/-- The bytes that a binary32 value leaves in a region's format (R208). -/
def sfBytes (val fmt rnd : Nat) (sat : Bool) : List Byte × FlagSet :=
  let (x, f) := cvt fmt (f32.decode val) (rndOf rnd) sat
  (natToBytes ((fmtBits fmt + 7) / 8) x, f)

def VWrite.reload (w : VWrite) (v : Nat) : VWrite :=
  let fmt := v / 2 ^ 64 % 16
  let rnd := v / 2 ^ 68 % 4
  let sat := v / 2 ^ 70 % 2 == 1
  { w with addr := v % 2 ^ 32, val := BitVec.ofNat 32 (v / 2 ^ 32), fmt := fmt, rnd := rnd, sat := sat, left := v / 2 ^ 72 % 256,
           bytes := (sfBytes (v / 2 ^ 32 % 2 ^ 32) fmt rnd sat).1 }

/-- Major and funct3 of an access of a kind, where its word is not known. -/
def AccessKind.code (k : AccessKind) (size : Nat) (buf : Bool) : Nat × Nat :=
  let lg := if size = 1 then 0 else if size = 2 then 1 else if size = 4 then 2 else 3
  match k with
  | .load sgn => if buf then (0x16, lg) else (0x10, if size = 8 then 6 else 2 * lg + (if sgn then 0 else 1))
  | .store => if buf then (0x16, 4 + lg) else (0x11, lg)
  | .amo op _ _ => (0x12, op)
  | .red op _ => (0x13, op)
  | _ => (0, 0)

/-- The major is one of format I, with funct3 in bits 11:9 (R140, R142); the others have it in bits 2:0. -/
def funct3High (mj : Nat) : Bool := mj == 0x10 || mj == 0x16

/-- Major and funct3 of a remembered access: those of its word (R344). -/
def Access.code (a : Access) : Nat × Nat :=
  let w := a.word.toNat % 2 ^ 32
  let mj := w / 2 ^ 22 % 64
  if w = 0 then a.kind.code a.size (match a.place with | .buf .. => true | _ => false)
  else (mj, if funct3High mj then w / 2 ^ 9 % 8 else w % 8)

/-- What an access does, from its major, its funct3 and its operands. -/
def AccessKind.ofCode (mj f3 : Nat) (v c : Word) : AccessKind :=
  if mj = 0x10 then .load (f3 % 2 == 0 && f3 != 6)
  else if mj = 0x12 then .amo f3 v c
  else if mj = 0x13 then .red f3 v
  else if mj = 0x14 then (match f3 with
    | 1 => .load false
    | 3 => .load false
    | 4 => .amo 0 v c
    | 5 => .amo 1 v c
    | 6 => .amo 7 v c
    | _ => .store)
  else if mj = 0x16 ∧ f3 < 4 then .load false
  else .store

/-- An access replay entry (R344). -/
def Replay.image (r : Replay) : Nat :=
  let a := r.access
  let va := match a.place with
    | .mem va _ => va
    | .buf sp off => sp * 2 ^ 28 + off
    | .none => 0
  let (d, c) := match a.kind with
    | .amo _ v c => (v.toNat, c.toNat)
    | .red _ v => (v.toNat, 0)
    | _ => (a.data.toNat, 0)
  let order := (if a.acq then 1 else 0) + (if a.rel then 2 else 0)
  let ctl := a.code.1 + a.code.2 * 2 ^ 6 + a.size * 2 ^ 9 + a.rd % 32 * 2 ^ 13 + (if a.unit = .ae then 2 ^ 18 else 0) + order * 2 ^ 19
    + a.scope * 2 ^ 21 + (if a.size = 4 then 2 ^ 24 else 0) + (if r.replay then 2 ^ 27 else 0) + a.hyp.toNat * 2 ^ 28 + r.code * 2 ^ 36
  va + d * 2 ^ 64 + c * 2 ^ 128 + ctl * 2 ^ 192

/-- A remembered access as it stands in memory; its word stays where major and funct3 do. -/
def Replay.reload (r : Replay) (v : Nat) : Replay :=
  let ctl := v / 2 ^ 192
  let va := v % 2 ^ 64
  let d := BitVec.ofNat 64 (v / 2 ^ 64)
  let code := (ctl % 64, ctl / 2 ^ 6 % 8)
  { r with replay := ctl / 2 ^ 27 % 2 == 1, code := ctl / 2 ^ 36 % 256,
           access := { r.access with
             unit := if ctl / 2 ^ 18 % 2 = 1 then .ae else .cc, kind := AccessKind.ofCode code.1 code.2 d (BitVec.ofNat 64 (v / 2 ^ 128)),
             place := if va < 2 ^ 32 then .buf (va / 2 ^ 28) (va % 2 ^ 28) else .mem va 0, size := ctl / 2 ^ 9 % 16,
             kindSO := decide (va < 2 ^ 32), rd := ctl / 2 ^ 13 % 32, data := d, hyp := BitVec.ofNat 8 (ctl / 2 ^ 28),
             acq := ctl / 2 ^ 19 % 2 == 1, rel := ctl / 2 ^ 20 % 2 == 1, scope := ctl / 2 ^ 21 % 8,
             word := if r.access.code = code then r.access.word else BitVec.ofNat 64 (code.1 * 2 ^ 22 + code.2 * (if funct3High code.1 then 2 ^ 9 else 1)),
             promote := code.1 == 0x14 && decide (3 ≤ code.2) } }

/-- A landed carry of the inbox (R344). -/
def InboxEntry.image (e : InboxEntry) : Nat :=
  match e.packet with
  | some (.carry tag level dir elems planes fmt payload) =>
    1 + tag * 2 + level * 2 ^ 17 + (if dir then 2 ^ 22 else 0) + e.srcDev * 2 ^ 23 + e.src * 2 ^ 33 + elems * 2 ^ 42
      + planes * 2 ^ 54 + fmt * 2 ^ 57 + e.tenant * 2 ^ 60 + bytesToNat payload * 2 ^ 256
  | _ => 0

/-- An inbox entry as it stands in memory; none where it is not valid. -/
def InboxEntry.ofImage (v : Nat) : Option InboxEntry :=
  if v % 2 = 0 then none
  else
    let elems := nbits v 53 42
    let planes := nbits v 56 54
    let fmt := nbits v 58 57
    some ⟨nbits v 41 33, nbits v 32 23, nbits v 71 60, nbits v 16 1,
      some (.carry (nbits v 16 1) (nbits v 21 17) (v / 2 ^ 22 % 2 == 1) elems planes fmt
        (natToBytes (min 4096 (elems * planes * (if fmt = 0 then 8 else if fmt = 1 then 4 else 2))) (v / 2 ^ 256))), true⟩

/-- Update the i-th element of a list. -/
def modifyAt {α : Type} (l : List α) (i : Nat) (f : α → α) : List α :=
  match l, i with
  | [], _ => []
  | x :: t, 0 => f x :: t
  | x :: t, i + 1 => x :: modifyAt t i f

/-- Place of the i-th pending sampling word: the i-th reserved place of the RQ, as a physical slot (R344). -/
def Core.smpPlace (c : Core) (i : Nat) : Nat :=
  let idx := (List.range c.rq.items.length).filter (fun k => ((c.rq.items.getD k default).val).isNone)
  (c.rq.head + idx.getD i 0) % rqDepth

/-- Pending special-function writes in landing order. -/
def Core.sfWrites (c : Core) : List VWrite := c.vpend.filter (·.sf)

/-- Put a timed copy into a list in order of TIME, behind those of equal TIME (R173, R180). -/
def insertTimed (x : Copy) : List Copy → List Copy
  | [] => [x]
  | y :: t => if x.time.toNat < y.time.toNat then x :: y :: t else y :: insertTimed x t

/-- The copies in the order of the copy-resume list: those in flight, then the timed buffer in its order (R177). -/
def Core.copyList (c : Core) : List Copy :=
  c.copies.filter (fun x => !x.timed) ++ (c.copies.filter (·.timed)).foldl (fun l x => insertTimed x l) []

/-- The relocation context from offset 0x17400 (R342), where there is one: the first to be reinstated. R197 lets several
siblings pull from one issuer, and the area has a place for one context: the others stay with the core, which software
cannot see. (DESIGN CHOICE, assumption 58.) -/
def itemsReloc : List Item :=
  let ctx (c : Core) : Engine := (c.relocs.head?.getD default).eng
  let upd (c : Core) (f : Engine → Engine) : Core := { c with relocs := modifyAt c.relocs 0 (fun x => { x with eng := f x.eng }) }
  [ ⟨0x17400, 8, fun c => match (ctx c).run with | some r => r.macroAddr.toNat | none => 0,
      fun c v => upd c (fun e => { e with run := some { (e.run.getD { (default : Command) with reloc := true }) with macroAddr := BitVec.ofNat 57 v } })⟩,
    ⟨0x17408, 8, fun c => (ctx c).upc, fun c v => upd c (fun e => { e with upc := v })⟩ ]
  ++ itemRun 0x17410 8 16 (fun i c => ((ctx c).e.get i).toNat) (fun i c v => upd c (fun e => { e with e := e.e.set i (BitVec.ofNat 64 v) }))
  ++ itemRun 0x17490 8 4 (fun i c => ((ctx c).loops.get i).word) (fun i c v => upd c (fun e => { e with loops := e.loops.set i (LoopReg.ofWord v) }))
  ++ itemRun 0x174B0 16 8 (fun i c => ((c.relocs.head?.getD default).t.get i).toNat)
      (fun i c v => { c with relocs := modifyAt c.relocs 0 (fun x => { x with t := x.t.set i (BitVec.ofNat 128 v) }) })

/-- A tile replay with `n` scale entries (NSCL, R341). -/
def Tile.withScales (t : Tile) (n : Nat) : Tile := { t with scales := t.scales.take n ++ List.replicate (n - t.scales.length) [] }

/-- The tile replay with `n` scale entries from offset 0x18000 (R342), where there is one. -/
def itemsTile (n : Nat) : List Item :=
  let rp (c : Core) : Tile := c.tileReplay.getD default
  let upd (c : Core) (f : Tile → Tile) : Core := { c with tileReplay := c.tileReplay.map f }
  [ ⟨0x18000, 8, fun c => (encode (rp c).cmd).getD 0, fun c v => match candidate (v % 2 ^ 32) with
      | some (i, _) => upd c (fun t => { t with cmd := i })
      | none => c⟩,
    ⟨0x18008, 8, fun c => (rp c).fmt.toNat, fun c v => upd c (fun t => { t with fmt := BitVec.ofNat 64 v })⟩ ]
  ++ itemRun 0x18010 16 3 (fun i c => ((rp c).descs.getD i 0#128).toNat)
      (fun i c v => upd c (fun t => { t with descs := (List.range 3).map (fun k => if k = i then BitVec.ofNat 128 v else t.descs.getD k 0#128) }))
  ++ itemRun 0x18040 64 n (fun i c => bytesToNat ((rp c).scales.getD i []))
      (fun i c v => upd c (fun t => { t with scales := modifyAt t.scales i (fun _ => natToBytes 64 v) }))

/-- What the lists of the register area hold: offset, size and value of each entry. A slot of the carry inbox stands at the
entry's own place. -/
def Core.listEntries (c : Core) : List (Nat × Nat × Nat) :=
  let run {α : Type} (off size : Nat) (l : List α) (v : Nat → α → Nat) : List (Nat × Nat × Nat) :=
    ((List.range l.length).zip l).map (fun p => (off + size * p.1, size, v p.1 p.2))
  c.smp.map (fun p => (0xC000 + 256 * p.1, 256, p.2.image))
  ++ run 0x10000 512 c.smpq (fun i w => w.image (c.smpPlace i))
  ++ run 0x12000 64 c.copyList (fun _ x => x.image)
  ++ run 0x13400 16 c.sfWrites (fun _ x => x.image)
  ++ (if !c.relocs.isEmpty then itemsReloc.map (fun i => (i.off, i.size, i.get c)) else [])
  ++ run 0x17800 32 c.replays (fun _ r => r.image)
  ++ (match c.tileReplay with
      | some t => (itemsTile t.scales.length).map (fun i => (i.off, i.size, i.get c))
      | none => [])
  ++ run 0x24100 0x1020 c.inbox (fun _ e => e.image)

/-- The entries of the lists are where the register area has just been written to; no resolution has come since. -/
def Core.markListed (c : Core) : Core :=
  let slotOf (x : Copy) : Option Nat := c.copyList.findIdx? (fun y => y.seq == x.seq)
  { c with copies := c.copies.map (fun x => { x with slot := slotOf x }),
           replays := ((List.range c.replays.length).zip c.replays).map (fun p => { p.2 with slot := some p.1 }),
           inbox := c.inbox.map (fun e => { e with listed := e.packet.isSome }),
           listed := (c.copies.length, c.replays.length), log := [] }

/-- Direction table V[d][j] at 128 d + 4 j (R342). -/
def ldsImage (c : Core) : Tab Byte :=
  c.ldsTab.flatMap (fun p => bytesTab (0x4000 + 4 * p.1) (natToBytes 4 p.2.toNat))

/-- Words of `size` bytes from the bytes of an image range; only words with a byte that is not zero appear. -/
def wordsOf (img : Tab Byte) (off n size : Nat) : Tab Nat :=
  (Tab.slice img off (off + n * size) 0).foldl
    (fun t p => t.put (p.1 / size) (t.get (p.1 / size) + p.2.toNat * 256 ^ (p.1 % size))) []

/-! ### The frame: R339–R341 -/

/-- UNIT of R339. -/
def unitCode (u : FUnit) : Nat :=
  match u with
  | .seq .cc => 0 | .seq .ae => 1 | .seq .me => 2 | .seq .se => 3 | .seq .ve => 4
  | .copyEngine => 5 | .sampling => 6 | .spillEngine => 7 | .relocated => 8

/-- CAUSE of a fault: R339. -/
def causeWord (code detail unit lnum hyp : Nat) (multi rpl handled saved : Bool) : Nat :=
  code + hyp * 2 ^ 8 + lnum * 2 ^ 16 + unit * 2 ^ 32 + (if handled then 2 ^ 36 else 0) + (if rpl then 2 ^ 37 else 0)
    + (if multi then 2 ^ 38 else 0) + (if saved then 2 ^ 39 else 0) + detail % 65536 * 2 ^ 48

/-- A CAUSE word of a core: MULTI, RPL, HANDLED and SAVED are the core's (R339). -/
def Core.causeOf (c : Core) (lnum code detail unit hyp : Nat) : Nat :=
  causeWord code detail unit lnum hyp c.multi (!c.replays.isEmpty) c.handled c.saved

/-- CAUSE of a core's frame; 0 code when it saves without a fault. -/
def Core.causeNow (c : Core) (lnum : Nat) : Nat :=
  match c.primary with
  | none => c.causeOf lnum 0 0 0 0
  | some r => c.causeOf lnum r.code r.detail (unitCode r.unit) r.hyp.toNat

/-- CAUSE of the frame of the core in focus. -/
def State.cause (s : State) : Nat := s.core.causeNow s.lnum

/-- The engine fields of the frame: MACRO, UPC, ECAUSE, EADDR. A fault stops every engine that did not raise one itself, an
idle one too (R26, R337). -/
def engineFrame (s : State) (u : Sqr) : List (Nat × Nat) :=
  let c := s.core
  let e := c.eng u
  let own := c.causes.find? (fun r => r.unit == .seq u)
  let ec := match own with
    | some r => c.causeOf s.lnum r.code r.detail (engCode u) r.hyp.toNat
    | none => if c.primary.isSome then c.causeOf s.lnum 0x21 0 (engCode u) (c.hypOf u).toNat else 0
  [ ((match e.run with | some r => r.macroAddr.toNat | none => 0), 8), (e.upc % 65536 + (if e.run.isSome then 0 else 2 ^ 63), 8),
    (ec, 8), ((match own with | some r => r.addr.toNat | none => 0), 8) ]

/-- COUNTS of the lists: R341. -/
def Core.counts (c : Core) : Nat :=
  c.copies.length + c.sfWrites.length * 2 ^ 7 + c.replays.length * 2 ^ 18 + c.smpq.length * 2 ^ 25
    + (match c.tileReplay with | some t => t.scales.length * 2 ^ 30 + 2 ^ 40 | none => 0)
    + (if !c.relocs.isEmpty then 2 ^ 41 else 0)

/-- BLOCK: one byte per sequencer, the cause or 0xFF (R340). -/
def blockWord (c : Core) : Nat :=
  (((List.range 5).zip [Sqr.cc, .ae, .me, .se, .ve]).map (fun p =>
    (match c.cause.get p.1 with | some k => k | none => 0xFF) * 256 ^ p.1)).foldl (· + ·) 0

/-- The frame as values of the given sizes from offset 0 (R340). -/
def frameFields (s : State) : List (Nat × Nat) :=
  let c := s.core
  let (addr, word) := match c.primary with
    | some r => (r.addr.toNat, r.word.toNat)
    | none => (0, 0)
  [ (s.cause, 8), (addr, 8), (c.pc.toNat, 8), (word, 8), (c.frameGtc.toNat, 8), (c.outst, 8), (c.qstat, 8), (c.aflags.toNat, 8) ]
  ++ engines.flatMap (engineFrame s)
  ++ engines.flatMap (fun u => (List.range 4).map (fun i => (((c.eng u).loops.get i).word, 8)))
  ++ [ (blockWord c, 8), (c.counts, 8), (c.seprog.toNat, 8), (c.veprog.toNat, 8), (c.frontRank.toNat, 8) ]

/-- The frame's bytes, sparse. (DEDUCED, assumption 23.) -/
def frameTab (s : State) : Tab Byte := bytesTab 0 ((frameFields s).flatMap (fun p => natToBytes p.2 p.1))

/-! ### Writing -/

/-- The whole register area of the core in focus, sparse, keyed by offset (R342). -/
def areaTab (s : State) : Tab Byte :=
  let c := s.core
  let ofItem (i : Item) : Tab Byte := bytesTab i.off (natToBytes i.size (i.get c))
  frameTab s ++ itemsScalar.flatMap ofItem ++ engines.flatMap (fun u => (itemsEngine u).flatMap ofItem)
    ++ itemsDesc.flatMap ofItem ++ queueItems.flatMap (fun q => bytesTab q.off (natToBytes q.size (q.get c)))
    ++ ldsImage c ++ c.listEntries.flatMap (fun e => bytesTab e.1 (natToBytes e.2.1 e.2.2))

/-- Replace bytes `pa .. pa + n - 1` at their home by a part of a sparse image; no cached copy of their lines is left (R250).
`unit` is the UNIT that a refused write reports (R334). -/
def putHomeTab (s : State) (unit pa key n : Nat) (img : Tab Byte) (off : Nat) : State :=
  let s := s.uncache pa n
  if s.isLocal pa then s.setMem (Tab.splice s.mem pa (pa + n) (Tab.clean (Tab.slice img off (off + n) pa))) pa n
  else (List.range (n / 256 + 1)).foldl (fun s i =>
    if n ≤ 256 * i then s
    else putHome { s.source with unit := .cc, word := 0#64 } s (pa + 256 * i) key
      (readBytes img (off + 256 * i) (min 256 (n - 256 * i))) (.save unit)) s

/-- Replace `len` bytes at a virtual address by a sparse image keyed from 0, page by page (`fuel` pages), committed. A write
that meets a marked word faults (R397). -/
def putVirt (unit : Nat) (s : State) (va : Word) (img : Tab Byte) (off len : Nat) : Nat → Except Flt State
  | 0 => .ok s
  | fuel + 1 =>
    if len = 0 then .ok s
    else
      let k := min len (4096 - va.toNat % 4096)
      match checkMem s va 1 1 with
      | .error f => .error f
      | .ok (pa, leaf, s) => match s.memMark pa k with
        | some f => .error f
        | none => putVirt unit (putHomeTab s unit pa (pteKey leaf) k img off) (va + BitVec.ofNat 64 k) img (off + k) (len - k) fuel

/-- Bytes `pa .. pa + n - 1` as their home has them, as a sparse image keyed from `off`. -/
def State.homeTab (s : State) (pa n off : Nat) : Tab Byte :=
  if s.isLocal pa then Tab.slice s.mem pa (pa + n) off else Tab.clean (bytesTab off (s.homeBytes [] pa n))

/-- Read `len` bytes at a virtual address as a sparse image keyed from `off`; an uncorrectable word fails (R321). -/
def getVirt (s : State) (va : Word) (off len : Nat) : Nat → Except Flt (Tab Byte × State)
  | 0 => .ok ([], s)
  | fuel + 1 =>
    if len = 0 then .ok ([], s)
    else
      let k := min len (4096 - va.toNat % 4096)
      match blockPage s va 0 with
      | .error f => .error f
      | .ok (pa, s) =>
        match s.memMark pa k with
        | some f => .error f
        | none => match getVirt s (va + BitVec.ofNat 64 k) (off + k) (len - k) fuel with
          | .error f => .error f
          | .ok (t, s') => .ok (s'.homeTab pa k off ++ t, s')

/-- The save block of the context in focus: SAVE + SAVEIX × 0x40_0000 (R323). -/
def Core.saveBlock (c : Core) : Word :=
  match c.ctx with
  | some x => x.save + BitVec.ofNat 64 (x.saveIx * 0x400000)
  | none => 0#64

def areaOff : Nat := 0x3C8000
def areaLen : Nat := 0x38000

/-- Write the frame and the register area into the save block (R338 step 4). -/
def writeArea (s : State) : Except Flt State :=
  match putVirt 7 s (s.core.saveBlock + BitVec.ofNat 64 areaOff) (areaTab s) 0 areaLen 64 with
  | .error f => .error f
  | .ok s => .ok (s.mapCore Core.markListed)

/-- The offset of a buffer's image in the save block: WB, AB, AS (R323). -/
def imageOff (space : Nat) : Nat := match space with
  | 0 => 0
  | 1 => 0x180000
  | _ => 0x280000

/-- Write the listed buffer ranges to their image offsets (R323, R330). -/
def writeImages (s : State) : List (Nat × Nat × Nat) → Except Flt State
  | [] => .ok s
  | (sp, off, n) :: t =>
    match putVirt 5 s (s.core.saveBlock + BitVec.ofNat 64 (imageOff sp + off)) (s.core.buf sp) off n (n / 4096 + 2) with
    | .error f => .error f
    | .ok s => writeImages s t

/-- Read the listed buffer ranges back; every other byte of the buffers is zero (R330). -/
def readImages (s : State) : List (Nat × Nat × Nat) → Except Flt State
  | [] => .ok s
  | (sp, off, n) :: t =>
    match getVirt s (s.core.saveBlock + BitVec.ofNat 64 (imageOff sp + off)) off n (n / 4096 + 2) with
    | .error f => .error f
    | .ok (m, s) => readImages (s.mapCore (fun c => c.setBuf sp (Tab.splice (c.buf sp) off (off + n) m))) t

/-- The SRF save area: occupancy map, slot table and contents (R250). -/
def srfImage (c : Core) : Tab Byte :=
  let held := c.slots.filter (fun p => p.2 != .free)
  let h := held.length
  let map := (List.range 256).map (fun k => BitVec.ofNat 8 ((held.filter (fun p => p.1 / 8 == k)).foldl (fun a p => a + 2 ^ (p.1 % 8)) 0))
  let dword (p : Nat × SlotState) : Nat := match p.2 with
    | .free => 0
    | .primary => 2 ^ 62
    | .version sl hy d => 2 ^ 63 + sl * 2 ^ 48 + hy.toNat * 2 ^ 40 + d * 2 ^ 38
  let tbl := held.flatMap (fun p => natToBytes 8 (dword p))
  let data := 0x100 + (8 * h + 255) / 256 * 256
  bytesTab 0 map ++ bytesTab 0x100 tbl
    ++ ((List.range h).zip held).flatMap (fun q => Tab.slice c.srf (256 * q.2.1) (256 * q.2.1 + 256) (data + 256 * q.1))

/-- Bytes of the SRF save area that are written. -/
def srfLen (c : Core) : Nat :=
  let h := (c.slots.filter (fun p => p.2 != .free)).length
  0x100 + (8 * h + 255) / 256 * 256 + 256 * h

/-- Write the buffers and the SRF into the save block (R323, R330, R332). A fault comes with its UNIT: 5 for the buffers, 7
for what the state-spill engine writes (R347). -/
def writeStores (s : State) (ranges : List (Nat × Nat × Nat)) : Except (Nat × Flt) State :=
  match writeImages s ranges with
  | .error f => .error (5, f)
  | .ok s => match putVirt 7 s (s.core.saveBlock + 0x340000#64) (srfImage s.core) 0 (srfLen s.core) 140 with
    | .error f => .error (7, f)
    | .ok s => .ok s

/-- Write the whole save block: buffers, SRF, and the register area with the frame (R323, R330, R332). -/
def writeBlock (s : State) (ranges : List (Nat × Nat × Nat)) : Except (Nat × Flt) State :=
  match writeStores s ranges with
  | .error f => .error f
  | .ok s => match writeArea s with
    | .error f => .error (7, f)
    | .ok s => .ok s

/-- All of WB, AB and AS. -/
def allRanges : List (Nat × Nat × Nat) := [(0, 0, spaceSize 0), (1, 0, spaceSize 1), (2, 0, spaceSize 2)]

/-! ### Reading back: R346 step 1 -/

/-- Reload the items of a list from an image. -/
def reloadItems (img : Tab Byte) (c : Core) : List Item → Core
  | [] => c
  | i :: t => reloadItems img (i.put c (readLE (Tab.slice img i.off (i.off + i.size) i.off) i.off i.size)) t

/-- Reload the queues; none when a header is refused (R343). -/
def reloadQueues (img : Tab Byte) (c : Core) : List QItem → Option Core
  | [] => some c
  | q :: t => match q.put c (readLE (Tab.slice img q.off (q.off + q.size) q.off) q.off q.size) with
    | none => none
    | some c => reloadQueues img c t

/-- Counts within their maxima (R341). -/
def countsOk (v : Nat) : Bool :=
  decide (nbits v 6 0 ≤ 80 ∧ nbits v 17 7 ≤ 1024 ∧ nbits v 24 18 ≤ 64 ∧ nbits v 29 25 ≤ 16 ∧ nbits v 39 30 ≤ 768)

/-- Reload one engine's frame fields: micro-PC, idle flag, macro-address and loops (R340). -/
def reloadEngine (img : Tab Byte) (c : Core) (u : Sqr) : Core :=
  let o := 0x40 + 32 * engIx u
  let upc := readLE img (o + 8) 8
  let lo := 0xC0 + 32 * engIx u
  c.mapEng u (fun e =>
    let loops := (List.range 4).foldl (fun t i => Tab.set t i (LoopReg.ofWord (readLE img (lo + 8 * i) 8))) []
    let act (n : Nat) : Bool := (Tab.get loops n).a
    { e with
      upc := upc % 65536,
      run := if nbits upc 63 63 = 1 then none else some { (e.run.getD default) with macroAddr := BitVec.ofNat 57 (readLE img o 8) },
      ending := if nbits upc 63 63 = 1 then none else e.ending,
      loops := loops,
      loopOrder := e.loopOrder.filter act ++ (List.range 4).filter (fun n => act n && !e.loopOrder.contains n) })

/-- A list as its first `n` entries stand in memory: an entry that the device had listed is the one that stood there, left
out where that has ended since; one beyond those is new. -/
def relist {α : Type} (n listed : Nat) (own : Nat → Option α) (fresh : Nat → α) (reload : α → Nat → α) (img : Nat → Nat) : List α :=
  (List.range n).filterMap (fun i => match own i with
    | some x => some (reload x (img i))
    | none => if i < listed then none else some (reload (fresh i) (img i)))

/-- The special-function writes among the pending writes are those of a list; the others keep their places. -/
def putSf (sf : List VWrite) : List VWrite → List VWrite
  | [] => sf
  | w :: t =>
    if !w.sf then w :: putSf sf t
    else match sf with
      | [] => putSf [] t
      | x :: sf => x :: putSf sf t

/-- The carry inbox as it stands in memory; a packet that landed after the area was written stays. -/
def reloadInbox (entry : Nat → Nat) (l : List InboxEntry) : List InboxEntry :=
  (List.range 8).filterMap (fun i => match InboxEntry.ofImage (entry i), l[i]? with
    | some e, _ => some e
    | none, some o => if o.listed then none else some o
    | none, none => none)

/-- The lists of the register area, with their counts from COUNTS (R341, R342, R346). -/
def Core.reloadLists (img : Tab Byte) (n : Nat) (c : Core) : Core :=
  let word (off size i : Nat) : Nat :=
    let o := off + size * i
    readLE (Tab.slice img o (o + size) o) o size
  let smp := (List.range 64).foldl (fun t i =>
    let v := word 0xC000 256 i
    if v = 0 ∧ (c.smp.find? i).isNone then t else Tab.put t i ((c.smp.get i).reload v)) c.smp
  let words := (List.range (nbits n 29 25)).map (fun i => (c.smpq.getD i default).reload (word 0x10000 512 i))
  -- a pending sampling word has its place in the RQ reserved
  let places := (List.range (nbits n 29 25)).map (fun i => word 0x10000 512 i / 2 ^ 192 % 256)
  let rq : Queue RqEntry := { c.rq with items := ((List.range c.rq.items.length).zip c.rq.items).map (fun (p : Nat × RqEntry) =>
    if places.contains ((c.rq.head + p.1) % rqDepth) then { p.2 with val := none } else p.2) }
  let copies := relist (nbits n 6 0) c.listed.1 (fun i => List.find? (fun (x : Copy) => x.slot == some i) c.copies)
    (fun i => { (default : Copy) with seq := c.copySeq + 1 + i }) Copy.reload (word 0x12000 64)
  -- a posted write that has failed since the area was written has no place in it (R365)
  let replays := relist (nbits n 24 18) c.listed.2 (fun i => List.find? (fun (x : Replay) => x.slot == some i) c.replays) (fun _ => default)
    Replay.reload (word 0x17800 32) ++ c.replays.filter (fun x => x.slot.isNone)
  let sf := (List.range (nbits n 17 7)).map (fun i =>
    ((c.sfWrites[i]?).getD { (default : VWrite) with sf := true }).reload (word 0x13400 16 i))
  { c with smp := smp, smpq := words, rq := rq, copies := copies, copySeq := c.copySeq + nbits n 6 0, replays := replays,
           vpend := putSf sf c.vpend, inbox := reloadInbox (word 0x24100 0x1020) c.inbox,
           tileReplay := if nbits n 40 40 = 1 then some ((c.tileReplay.getD default).withScales (nbits n 39 30)) else none,
           relocs := if nbits n 41 41 = 1 then (if c.relocs.isEmpty then [default] else c.relocs) else c.relocs.tail }

/-- The core `lnum` with the register area of an image, or none when a count or a queue header is refused (R341, R343,
R346). sys.fcause and sys.faddr tell of its frame: CODE and DETAIL as they stand, and the read-only fields as the device
wrote them (R339, R340, R348). -/
def reloadCore (lnum : Nat) (img : Tab Byte) (c : Core) : Option Core :=
  let fr := Tab.slice img 0 0x400 0
  let n := readLE fr 0x148 8
  if !countsOk n then none
  else
    let cause := readLE fr 0 8
    let own := c.causeNow lnum
    let c := { c with pc := BitVec.ofNat 64 (readLE fr 0x10 8), aflags := BitVec.ofNat 6 (readLE fr 0x38 8),
                      seprog := BitVec.ofNat 64 (readLE fr 0x150 8), veprog := BitVec.ofNat 64 (readLE fr 0x158 8),
                      fcause := BitVec.ofNat 64 (cause % 256 + own / 256 % 2 ^ 40 * 256 + nbits cause 63 48 * 2 ^ 48),
                      faddr := match c.primary with | some r => r.addr | none => 0#64 }
    let c := engines.foldl (reloadEngine fr) c
    let c := reloadItems img c (itemsScalar ++ engines.flatMap itemsEngine ++ itemsDesc)
    match reloadQueues img c queueItems with
    | none => none
    | some c =>
      let c : Core := { c with ldsTab := (wordsOf img 0x4000 8192 4).map (fun p => (p.1, BitVec.ofNat 32 p.2)) }
      let c := c.reloadLists img n
      some (reloadItems img c ((if nbits n 41 41 = 1 then itemsReloc else []) ++ (if nbits n 40 40 = 1 then itemsTile (nbits n 39 30) else [])))

end Sys2Proof.Machine
end

