-- ==== Sys2Proof/Machine/Vland.lean ====
section
/-! DEFINITION. How the vector engine's writes land: ordinary writes at the end of the third step after theirs, writes
of special functions at the end of the eighth (R210, R211), and the retirement of the words that made them (R117). -/
namespace Sys2Proof.Machine

/-- Write 4 bits of the byte at an offset of a local buffer: the low nibble, or the high one (R58). -/
def Core.putNibble (c : Core) (space off : Nat) (high : Bool) (v : Byte) : Core :=
  let b := (c.buf space).get off
  c.putBytes space off [if high then (b &&& 0x0F#8) ||| (v <<< 4) else (b &&& 0xF0#8) ||| (v &&& 0x0F#8)]

/-- The write goes through a window. -/
def VWrite.windowed (w : VWrite) : Bool := decide (8 ≤ bufSpace w.addr) && !w.landed

/-- A packet of a window write waits for the allowance: the VE is blocked (R210, R362). -/
def Core.windowWaits (c : Core) : Bool := c.vpend.any (fun w => w.windowed && !w.counted)

/-- One pending write lands in its local buffer. -/
def Core.landWrite (c : Core) (w : VWrite) : Core :=
  let space := bufSpace w.addr
  let off := bufOff w.addr
  match w.nibble with
  | some high => c.putNibble space off high (w.bytes.getD 0 0#8)
  | none => c.putBytes space off w.bytes

/-- Writes that land now, in their order: those of ordinary words stand before those of special functions (R211). A
write through a window waits, with no step left, until its packet is sent. -/
def Core.landAll (c : Core) (ws : List VWrite) : Core :=
  let loc := ws.filter (fun w => !w.windowed && !w.landed)
  let c := ((loc.filter (fun w => !w.sf)) ++ loc.filter (·.sf)).foldl Core.landWrite c
  { c with vpend := (ws.filter (·.windowed)).map (fun w => { w with left := 0 }) ++ c.vpend }

/-- A vector word retires when its own writes, and the ordinary writes of earlier words, have landed (R117, R211). -/
def VRetire.ready (r : VRetire) (ws : List VWrite) : Bool :=
  !ws.any (fun w => !w.landed && (w.word == r.word || (!w.sf && decide (w.word < r.word))))

/-- Retire the vector words that are ready: their flags are set and their ring signals push (R68, R117). -/
def Core.vRetire (c : Core) : Core :=
  let done := c.vretire.filter (fun r => r.ready c.vpend)
  let c := { c with vretire := c.vretire.filter (fun r => !r.ready c.vpend) }
  done.foldl (fun c r => (c.raiseFlags r.flags).fillSignals .ve r.sb r.sa r.hyp) c

/-- The end of one step of the VE (R209–R211). (DESIGN CHOICE, assumption 10; DEDUCED, assumption 20.) -/
def Core.vStep (c : Core) : Core :=
  let ws := c.vpend.map (fun w => { w with left := w.left - 1 })
  Core.vRetire (Core.landAll { c with vpend := ws.filter (fun w => decide (0 < w.left)) } (ws.filter (fun w => w.left == 0)))

/-- Two pending writes touch a common byte. -/
def VWrite.touches (a b : VWrite) : Bool :=
  decide (a.addr < b.addr + b.bytes.length) && decide (b.addr < a.addr + a.bytes.length)

/-- An ordinary write that counts steps, has not landed, and that no special-function write of the same bytes is to land
before. -/
def VWrite.free (w : VWrite) (ws : List VWrite) : Bool :=
  !w.sf && !w.landed && decide (0 < w.left) && !ws.any (fun v => v.sf && decide (v.left ≤ w.left) && v.touches w)

/-- While the VE issues nothing the bytes of its ordinary writes still land, so that a token that waits for them can push (the
writes of R210 are those of a pipeline that goes on). No step passes: each goes on counting the steps for which it holds a
reader, and special-function writes count steps only (R209–R212). (DEDUCED, assumption 20.) -/
def Core.vDrain (c : Core) : Core :=
  Core.vRetire (Core.landAll { c with vpend := c.vpend.map (fun w => if w.free c.vpend then { w with landed := true } else w) }
    (c.vpend.filter (fun w => w.free c.vpend)))

/-- Steps pass while an ordinary write of `n` bytes from `addr` is pending: a word that reads them is held (R210). -/
def Core.holdBytes (c : Core) (addr n : Nat) : Core :=
  (List.range 4).foldl (fun c _ =>
    if c.vpend.any (fun w => !w.sf && decide (w.addr < addr + n ∧ addr < w.addr + w.bytes.length)) then c.vStep else c) c

/-- At a stop the ordinary writes land; the writes of special functions are kept (R212, R338 step 2), and so is an ordinary
write that is to land after one of them in the same bytes. (DEDUCED, assumption 20.) -/
def Core.vSettle (c : Core) : Core := c.vDrain

/-- Every pending special-function write lands (R305 step 1). -/
def Core.vLandEvery (c : Core) : Core :=
  let n := c.vpend.foldl (fun m w => max m w.left) 0
  (List.range n).foldl (fun c _ => c.vStep) c

end Sys2Proof.Machine
end

