-- ==== Sys2Proof/Machine/Rcb.lean ====
section
/-! DEFINITION. Region control blocks and task records in memory: the fields of R316 and R319, the effective values of
R317, the budgets of R318, the save-block map of R323, and the checks of R326. -/
namespace Sys2Proof.Machine

/-! ### Memory of a tenant -/

/-- Read `n` bytes of a tenant at a virtual address, page by page, committed (R133, R136); `bulk` holds what has been fetched
from other devices. -/
def readAsFrom (s : State) (bulk : List (Nat × Option (List Byte))) (tenant : Nat) (va : Word) (n : Nat) :
    Nat → Except Flt (List Byte × State)
  | 0 => .ok ([], s)
  | fuel + 1 =>
    if n = 0 then .ok ([], s)
    else if !canonical va then .error ⟨cPage, 0x40, va⟩
    else
      let k := min n (4096 - va.toNat % 4096)
      match translate s tenant va 0 with
      | .error f => .error f
      | .ok (pa, _, s) =>
        match s.memMark pa k with
        | some f => .error f
        | none => match readAsFrom s bulk tenant (va + BitVec.ofNat 64 k) (n - k) fuel with
          | .error f => .error f
          | .ok (rest, s') => .ok (s'.homeBytes bulk pa k ++ rest, s')

/-- Read an aligned block of a tenant: alignment before any page (R133). -/
def readAs (s : State) (tenant : Nat) (va : Word) (n align : Nat) : Except Flt (List Byte × State) :=
  if !canonical va then .error ⟨cPage, 0x40, va⟩
  else if va.toNat % align ≠ 0 then .error ⟨cAlign, 0, va⟩
  else readAsFrom s s.core.bulk tenant va n (n / 4096 + 2)

/-- Field of `n` bytes at offset `o` of a block. -/
def blockField (b : List Byte) (o n : Nat) : Nat := bytesToNat ((b.drop o).take n)

/-- A field of `n` bytes of a tenant's memory, 0 where it cannot be read. -/
def peekAs (s : State) (tenant : Nat) (va : Word) (n : Nat) : Nat :=
  match readAs s tenant va n 1 with
  | .error _ => 0
  | .ok (b, _) => bytesToNat b

/-- Hardware of the core in focus, as the sender of packets whose answers nobody waits for. -/
def State.hardware (s : State) (tenant : Nat) : Source := ⟨s.lnum, .cc, 0#64, tenant, 0#64⟩

/-- The record of an uncorrectable error that no core's word met: of a remote request at its home (R366), or of a write by
hardware. -/
def homeEcc (s : State) (tenant : Nat) : FaultRecord :=
  ⟨0#64, BitVec.ofNat 64 (causeWord cEcc 3 0 0 0 false false false false), 0#64, 0#64, tenant, 0#64, s.gtc⟩

/-- A write by hardware meets a marked word: the fault domain is told, and the mark is gone (R397). (DESIGN CHOICE, assumption 14.) -/
def pokedMark (s : State) (tenant pa n : Nat) : State :=
  match (if s.isLocal pa then s.memMark pa n else none) with
  | none => s
  | some f => { s with marked := s.marked.filter (fun m => m.2 != f.addr.toNat), unposted := s.unposted ++ [homeEcc s tenant] }

/-- Write the low `n` bytes of a number to a tenant's memory, at their home (R319). An unmapped place is left out. -/
def pokeAs (s : State) (tenant : Nat) (va : Word) (n v : Nat) : State :=
  match translate s tenant va 1 with
  | .error _ => s
  | .ok (pa, leaf, s) =>
    (putHome (s.hardware tenant) (pokedMark s tenant pa n) pa (pteKey leaf) (natToBytes n v)).mapCore (fun c => { c with bulk := patchBulk pa (natToBytes n v) c.bulk })

/-! ### Region control blocks: R316 -/

/-- An RCB as it stands in memory. -/
structure Rcb where
  addr : Word
  parent : Word
  tenant : Nat
  prio : Nat
  flags : Nat
  ovr : Nat
  cores : Nat
  srf : Nat
  hyps : Nat
  hbmw : Nat
  fslot : Nat
  stall : Nat
  ckw : Nat
  domain : Nat
  handler : Nat
  orphan : Nat
  spill : Nat
  spillN : Nat
  save : Nat
  image : Nat
  zero : Bool
  deriving DecidableEq, Repr, Inhabited

/-- The fields of a 256-byte block; `zero` says that its reserved bytes and bits are zero. -/
def Rcb.ofBytes (addr : Word) (b : List Byte) : Rcb :=
  let f := blockField b
  { addr := addr, parent := BitVec.ofNat 64 (f 0 8), tenant := f 8 2, prio := f 0x0A 1, flags := f 0x0B 1, ovr := f 0x0C 4,
    cores := f 0x10 2, srf := f 0x12 2, hyps := f 0x14 2, hbmw := f 0x16 2, fslot := f 0x18 2, stall := f 0x1C 4,
    ckw := f 0x20 4, domain := f 0x24 4, handler := f 0x28 8, orphan := f 0x30 8, spill := f 0x38 8, spillN := f 0x40 4,
    save := f 0x48 8, image := f 0x88 8,
    zero := f 0x1A 2 == 0 && f 0x44 4 == 0 && f 0x54 4 == 0 && f 0x90 112 == 0 && f 0x0B 1 / 4 == 0 && f 0x0C 4 / 2 ^ 13 == 0 }

/-- Field `n` of OVR governs this block's own value: every field at a root (R317). -/
def Rcb.owns (r : Rcb) (n : Nat) : Bool := r.parent == 0#64 || r.ovr / 2 ^ n % 2 == 1

/-- The fields that hold lie in the ranges of R316. -/
def Rcb.inRange (r : Rcb) : Bool :=
  let chk (n : Nat) (p : Bool) : Bool := !r.owns n || p
  r.zero && decide (1 ≤ r.tenant ∧ r.tenant ≤ 4095) && chk 0 (decide (r.prio ≤ 15)) && chk 2 (decide (1 ≤ r.cores ∧ r.cores ≤ 384))
    && chk 3 (decide (r.srf ≤ 2048)) && chk 4 (decide (r.hyps ≤ 255)) && chk 5 (decide (1 ≤ r.hbmw ∧ r.hbmw ≤ 1024))
    && chk 6 (decide (r.fslot ≤ 256)) && chk 8 (decide (1 ≤ r.ckw ∧ r.ckw ≤ 188000)) && chk 11 (r.spill % 256 == 0)
    && chk 12 (r.image % 4096 == 0) && r.save % 4096 == 0

/-- A block with the effective values that its parent hands down: R317. -/
def Rcb.under (r p : Rcb) : Rcb :=
  let cap (n own par : Nat) : Nat := if r.owns n then min own par else par
  let sel (n own par : Nat) : Nat := if r.owns n then own else par
  { r with prio := cap 0 r.prio p.prio, cores := cap 2 r.cores p.cores, srf := cap 3 r.srf p.srf, hyps := cap 4 r.hyps p.hyps,
           hbmw := cap 5 r.hbmw p.hbmw, fslot := cap 6 r.fslot p.fslot, flags := sel 1 r.flags p.flags, stall := sel 7 r.stall p.stall,
           ckw := sel 8 r.ckw p.ckw, domain := sel 9 r.domain p.domain, handler := sel 9 r.handler p.handler,
           orphan := sel 10 r.orphan p.orphan, spill := sel 11 r.spill p.spill, spillN := sel 11 r.spillN p.spillN,
           image := sel 12 r.image p.image }

/-- The blocks from `addr` up to its root with their effective values, nearest first; at most `fuel` blocks
(R317, R326). -/
def rcbChain (s : State) (tenant : Nat) (addr : Word) : Nat → Except Flt (List Rcb × State)
  | 0 => .error ⟨cQueue, 0, 0#64⟩
  | fuel + 1 =>
    match readAs s tenant addr 256 256 with
    | .error f => .error f
    | .ok (b, s) =>
      let r := Rcb.ofBytes addr b
      if !r.inRange then .error ⟨cQueue, 0, 0#64⟩
      else if r.parent = 0#64 then .ok ([r], s)
      else match rcbChain s tenant r.parent fuel with
        | .error f => .error f
        | .ok (l, s) =>
          let p := l.headD default
          if p.tenant ≠ r.tenant then .error ⟨cQueue, 0, 0#64⟩ else .ok (r.under p :: l, s)

/-! ### Task records: R319 -/

def tkState : Nat := 0x35
def tkSaveix : Nat := 0x36
def tkPred : Nat := 0x30

/-- Offset of a field of a record. -/
def at' (a : Word) (o : Nat) : Word := a + BitVec.ofNat 64 o

/-- Write STATE of a task. -/
def setTaskState (s : State) (tenant : Nat) (task : Word) (v : Nat) : State := pokeAs s tenant (at' task tkState) 1 v

/-- The context that a task of an RCB runs in, from the effective values of the RCB's chain (R317, R322). -/
def contextOf (task : Word) (l : List Rcb) : Context :=
  let r := l.headD default
  { task := task, rcb := r.addr, tenant := r.tenant, prio := r.prio, calm := r.flags % 2 == 1, keep := r.flags / 2 % 2 == 1,
    srfQuota := r.srf, stall := BitVec.ofNat 32 r.stall, ckw := r.ckw, domain := r.domain,
    handler := BitVec.ofNat 64 r.handler, orphanVec := BitVec.ofNat 64 r.orphan, spill := BitVec.ofNat 64 r.spill,
    spillN := r.spillN, save := BitVec.ofNat 64 r.save, saveIx := 0, image := BitVec.ofNat 64 r.image,
    chain := l.map (fun x => (x.addr, x.cores, x.hyps)) }

/-- The checks of R326 on the fields of a task record. -/
def enqRecord (s : State) (tenant : Nat) (own : Bool) (task : Word) (b : List Byte) : Except Flt (Context × Word × State) :=
  if blockField b tkState 1 ≠ 0 ∨ blockField b tkPred 4 ≠ 0 then .error ⟨cQueue, 0, 0#64⟩
  else match rcbChain s tenant (BitVec.ofNat 64 (blockField b 0 8)) 8 with
    | .error f => .error f
    | .ok (l, s) =>
      let r := l.headD default
      if own && r.tenant != tenant then .error ⟨cQueue, 0, 0#64⟩
      else if r.save = 0 ∨ r.image = 0 then .error ⟨cQueue, 0, 0#64⟩
      else .ok (contextOf task l, BitVec.ofNat 64 (blockField b 8 8), s)

/-- The checks of R326 on a task record for the tenant whose tables translate it; `own` asks that the RCB's tenant be
that tenant. The answer is the context that the task will run in, with the record's entry point. -/
def enqCheck (s : State) (tenant : Nat) (own : Bool) (task : Word) : Except Flt (Context × Word × State) :=
  if !canonical task then .error ⟨cPage, 0x40 + 8 * 3, task⟩
  else if task.toNat % 64 ≠ 0 then .error ⟨cAlign, 0, task⟩
  else match translate s tenant task 3 with
    | .error f => .error f
    | .ok (_, _, s) => match readAs s tenant task 64 64 with
      | .error f => .error f
      | .ok (b, s) => enqRecord s tenant own task b

/-- STATE := 1, and the task goes to the end of a die's pool (R326). -/
def enqueue (s : State) (die : Nat) (c : Context) (entry : Word) : State :=
  let s := setTaskState s c.tenant c.task 1
  { s with pools := s.pools.set die (s.pools.get die ++ [⟨c, entry, s.arrivals, none, true⟩]), arrivals := s.arrivals + 1 }

/-- The ready pool of a die holds 4,096 entries (R320). -/
def poolFull (s : State) (die : Nat) : Bool := decide (4096 ≤ (s.pools.get die).length)

/-! ### Budgets: R318, R323 -/

/-- RUN at an RCB. -/
def runAt (s : State) (tenant : Nat) (rcb : Word) : Nat := peekAs s tenant (at' rcb 0x50) 2

/-- Change RUN at the RCB and at every ancestor. -/
def addRun (s : State) (c : Context) (f : Nat → Nat) : State :=
  c.chain.foldl (fun s p => pokeAs s c.tenant (at' p.1 0x50) 2 (f (runAt s c.tenant p.1))) s

/-- HOPEN at an RCB. -/
def hopenAt (s : State) (tenant : Nat) (rcb : Word) : Nat := peekAs s tenant (at' rcb 0x52) 2

def addHopen (s : State) (c : Context) (f : Nat → Nat) : State :=
  c.chain.foldl (fun s p => pokeAs s c.tenant (at' p.1 0x52) 2 (f (hopenAt s c.tenant p.1))) s

/-- SMAP of the task's own RCB (R323). -/
def smapOf (s : State) (c : Context) : Nat := peekAs s c.tenant (at' c.rcb 0x58) 48

def setSmap (s : State) (c : Context) (v : Nat) : State := pokeAs s c.tenant (at' c.rcb 0x58) 48 v

/-- Effective CORES of the task's own RCB. -/
def Context.cores (c : Context) : Nat := match c.chain with
  | [] => 0
  | p :: _ => p.2.1

/-- The lowest free save block of the task's own RCB, below its effective CORES (R321, R323). -/
def freeBlock (s : State) (c : Context) : Option Nat :=
  let m := smapOf s c
  (List.range c.cores).find? (fun k => m / 2 ^ k % 2 == 0)

/-- Clear the SMAP bit of the task's save block. -/
def releaseBlock (s : State) (c : Context) : State :=
  let m := smapOf s c
  setSmap s c (if m / 2 ^ c.saveIx % 2 = 1 then m - 2 ^ c.saveIx else m)

/-- RUN is below the effective CORES at the RCB and at every ancestor (R318). -/
def budgetOk (s : State) (c : Context) : Bool := c.chain.all (fun p => decide (runAt s c.tenant p.1 < p.2.1))

end Sys2Proof.Machine
end

