-- ==== Sys2Proof/Machine/Ops.lean ====
section
/-! DEFINITION. Taking an exception and returning from one: a fault stops the core, settles its accepted work, writes
the frame and holds the core (R26, R338–R341); a restart brings it back (R346). All units share these operations. -/
namespace Sys2Proof.Machine

/-! ### Raising -/

/-- A fault of a sequencer of the core in focus, under its current hypothesis (R339). -/
def raisedBy (s : State) (u : Sqr) (f : Flt) : Raised :=
  ⟨.seq u, f.code, f.detail, f.addr, s.core.groupWord u, s.core.hypOf u⟩

/-- The fault of an access that has issued: the words of its own group, and its unit's current hypothesis (R339, R340). -/
def raisedOf (s : State) (a : Access) (f : Flt) : Raised :=
  ⟨.seq a.unit, f.code, f.detail, f.addr, a.word, s.core.hypOf a.unit⟩

/-- A fault of another unit. -/
def raisedByUnit (u : FUnit) (h : BitVec 8) (f : Flt) : Raised := ⟨u, f.code, f.detail, f.addr, 0#64, h⟩

/-! ### Reporting: R345 -/

/-- The record of a frame, or of an event without one, for a context. -/
def recordOf (x : Context) (frame : Word) (cause : Nat) (gtc : Word) : FaultRecord :=
  ⟨frame, BitVec.ofNat 64 cause, x.task, x.rcb, x.domain, x.handler, gtc⟩

/-- Hand a record to the IOD, which posts it when the queue has a place (R345). -/
def report (s : State) (r : FaultRecord) : State := { s with unposted := s.unposted ++ [r] }

/-- Frame address of the core in focus: the register area of its save block (R338 step 4). -/
def Core.frameAddr (c : Core) : Word := c.saveBlock + BitVec.ofNat 64 areaOff

/-! ### Collective runs of a context: R379, R380 -/

/-- The run belongs to this context, and its task is not over. -/
def CollRun.isOf (r : CollRun) (x : Context) : Bool := !r.finished && r.ctx.task == x.task && r.ctx.tenant == x.tenant

/-- A run that is over stands still; the handle of a finished task becomes empty (R379). An abort that no word has seen
by then goes to the fault domain (R380). -/
def settleRun (s : State) (r : CollRun) : List CollRun × State :=
  let r := if r.fired.isEmpty && r.queued.isNone then { r with running := false } else r
  if r.finished && !r.running then
    match r.aborted with
    | some d =>
      if r.raised then ([], s)
      else ([], report s (recordOf r.ctx 0#64 (causeWord cColl d.toNat 0 r.lnum 0 false false false false) s.gtc))
    | none => ([], s)
  else ([r], s)

/-- Change every run by `f`, and settle it. -/
def mapRuns (s : State) (f : CollRun → CollRun) : State :=
  s.colls.foldl (fun s r => let (l, s) := settleRun s (f r); { s with colls := s.colls ++ l }) { s with colls := [] }

/-- The task of a context is over: its running handles run on, and the others become empty. -/
def endRuns (s : State) (x : Context) : State := mapRuns s (fun r => if r.isOf x then { r with finished := true } else r)

/-- The handle of a member is marked aborted in a generation, with a detail, and queues no further record (R380): running or
completed, or not yet started. The first abort of a generation stands. (DEDUCED, assumption 29.) -/
def CollRun.abort (r : CollRun) (generation : Nat) (d : BitVec 16) : CollRun :=
  if (r.generation.toNat = generation ∧ r.aborted = none) ∨ (r.running = false ∧ (r.generation.toNat + 1) % 65536 = generation) then
    { r with aborted := some d, raised := false, queued := none, met := false }
  else r

/-- An abort reaches the members on some cores of this device. -/
def abortRuns (s : State) (lnums : List Nat) (tenant handle generation : Nat) (d : BitVec 16) : State :=
  mapRuns s (fun r => if lnums.contains r.lnum && r.ctx.tenant == tenant && r.handle == handle then r.abort generation d else r)

/-- A run of this device aborts, and sends the abort to every member (R369, R380). -/
def abortFrom (s : State) (r : CollRun) (cause step : Nat) : State :=
  let d := BitVec.ofNat 16 (cause + r.rank % 64 * 16 + step * 4096)
  let here (m : BitVec 32) : Bool := m.toNat % 1024 == s.dev.toNat
  let g := r.generation.toNat
  let s := abortRuns s (r.lnum :: (r.members.filter here).map (fun m => m.toNat / 1024 % 512)) r.ctx.tenant r.handle g d
  { s with aborts := s.aborts ++ (r.members.filter (fun m => !here m)).map (fun m =>
      ⟨m.toNat % 1024, m.toNat / 1024 % 512, r.ctx.tenant, r.handle, g, d⟩) }

/-- A fired record will not complete: the run is to abort, and is not over before it has. -/
def dropFired (s : State) (n : Nat) (r : CollRun) (k : Nat) : State :=
  { s with colls := s.colls.set n { r with fired := r.fired.erase k, refused := r.refused.filter (fun q => q.1 != k) } }

/-- The record fails with a cause and a step: the run aborts, and one that has aborted already goes on without it. -/
def failRecord (s : State) (n : Nat) (r : CollRun) (k cause step : Nat) : State :=
  if r.aborted.isNone then abortFrom (dropFired s n r k) r cause step else mapRuns (dropFired s n r k) id

/-! ### Ending a context -/

/-- The core in R24 state, free, with the monitors that belong to no context (R346). R25 zeroes the stores with valid check
bits and does not say whether a word that a scrub has marked is clean then: the marks stay.
(DESIGN CHOICE, assumption 15.) -/
def Core.cleared (c : Core) (last : Option Nat) : Core :=
  { Core.reset with lastTenant := last, eccCorr := c.eccCorr, eccUncorr := c.eccUncorr, marks := c.marks, upsets := c.upsets, latch := c.latch.clear }

/-- The last checkpoint of a task that is over goes (R330). -/
def dropKept (s : State) (x : Context) : State := { s with kept := s.kept.filter (fun v => v.task != x.task) }

/-- The task of the core in focus fails: STATE 5, budgets and its save block returned, the core in R24 state and free;
its successors are not enqueued (R346 FAIL, R334). -/
def failContext (s : State) : State :=
  match s.core.ctx with
  | none => s
  | some x =>
    let s := endRuns (releaseBlock (addRun (setTaskState s x.tenant x.task 5) x (· - 1)) x) x
    { dropKept s x with core := s.core.cleared (some x.tenant) }

/-- A save write fails: the fault goes to the fault domain with UNIT 7 or 5, and the task fails (R334, R347). On a core that is
being retired its last checkpoint stays: the task resumes from there (R398). -/
def failSave (s : State) (unit : Nat) (f : Flt) : State :=
  let t : State := if s.retiring.any (fun p => p.1 == s.lnum) then { failContext s with kept := s.kept } else failContext s
  match s.core.ctx with
  | none => s
  | some x => report t (recordOf x 0#64 (causeWord f.code f.detail unit s.lnum 0 false false false false) s.gtc)

/-! ### Relocated commands -/

/-- The pulled command of this core's ME stops at an instruction boundary: the ME's own state is in force again, and
the relocation context passes to the issuer (R197, R198). -/
def endPull (s : State) : State :=
  match s.core.meOwn with
  | none => s
  | some own =>
    let e := s.core.me
    let t := s.core.t
    let s := s.mapCore (fun c => { c with me := { own with cmdq := e.cmdq, bq := e.bq, imem := e.imem, rtab := e.rtab },
                                          t := c.tOwn, meOwn := none, tOwn := [], pfx := c.pfx.set 2 default,
                                          blocked := c.blocked.set 2 0, cause := c.cause.set 2 none })
    within (e.reloc.getD s.lnum) (fun s => s.mapCore (fun c => { c with relocs := c.relocs ++ [⟨e, t⟩] })) s

/-- The logical cores of the cluster of core `n`. -/
def clusterCores (n : Nat) : List Nat := (List.range 8).map (fun k => n - n % 8 + k)

/-- The siblings whose MEs run commands pulled from core `n`. -/
def pullersOf (s : State) (n : Nat) : List Nat :=
  (clusterCores n).filter (fun k => (s.coreAt k).meOwn.isSome && (s.coreAt k).me.reloc == some n)

/-- Every relocation of the core in focus, as puller or as issuer, stops (R198). -/
def stopRelocation (s : State) : State :=
  let s := endPull s
  (pullersOf s s.lnum).foldl (fun s k => within k endPull s) s

/-! ### Stopping: R338 -/

/-- The cycle of the zero copies is over (R176). -/
def Core.dropZero (c : Core) : Core := { c with cntCp := c.cntCp - c.cpZero, cpZero := 0 }

/-- Every sequencer stands at its instruction boundary: prefixes read are read again, an unfinished chain starts over,
a Front word that has not formed is withdrawn (R26, R44, R263), a division completes, a CC word under way goes on to its
end (R84), the operand latch loses its tag (R196), the flags of the nodes that a word of the SE has evaluated are raised (R249), and a frame that has begun has its first count (R390).
(DEDUCED, assumption 23.) -/
def Core.stopUnits (c : Core) : Core :=
  let c := match c.chain with
    | none => c
    | some ch => c.mapEng .ve (fun e => { e with upc := ch.start })
  let c : Core := match c.frameNext with
    | some n => { c with frameRun := true, frameCount := n, frameNext := none }
    | none => c
  { (c.dropZero.raiseFlags c.seFlags) with
    seFlags := 0#6,
    pfx := if c.underway then c.pfx.filter (fun p => p.1 == 0) else [], bulk := if c.underway then c.bulk else [],
    divs := [], chain := none, front := none, carryAsk := none, poll := [], latch := c.latch.clear }

/-- A further fault joins the causes; MULTI when another unit raised it (R338 step 3, R339). -/
def Core.addCause (c : Core) (r : Raised) : Core :=
  let other := match c.primary with
    | some p => p.unit != r.unit
    | none => false
  { c with causes := c.causes ++ [r], multi := c.multi || other }

/-- One more uncorrectable error in the SRAMs of a core (R394, R396): the count saturates. -/
def Core.countUncorr (c : Core) : Core := { c with eccUncorr := if c.eccUncorr = BitVec.allOnes 32 then c.eccUncorr else c.eccUncorr + 1 }

/-- An error in memory counts at the base die of its stack (R399). -/
def State.notePair (s : State) (pa : Nat) (uncorrectable : Bool) : State :=
  { s with pairErrors := s.pairErrors ++ [(paStack pa, Config.channelPair pa, s.gtc, uncorrectable)] }

/-- F.ECC counts in UNCORR where the word is the core's own, and its mark is gone: only the first access meets it (R396,
R397). Of a Front operation, only the rank that met it has it (R263). (DEDUCED, assumption 15.) -/
def noteEcc (s : State) (r : Raised) : State :=
  if r.code ≠ cEcc then s
  else
    let a := r.addr.toNat
    let own (m : Store × Nat) : Bool := match m.1 with
      | .wb => r.detail == 0 && a == m.2
      | .ab => r.detail == 0 && a == 2 ^ 28 + m.2
      | .as => r.detail == 0 && a == 2 * 2 ^ 28 + m.2
      | .srf => r.detail == 1
      | .imem => r.detail == 4
      | .rtab => r.detail == 4
      | .queue => r.detail == 5
      | .desc => r.detail == 5
      | _ => false
    if r.detail = 1 ∧ s.core.frontRank ≠ 0xFF#8 ∧ s.core.frontRank.toNat ≠ coreOf s.lnum then s
    else if r.detail = 2 ∨ r.detail = 3 then
      let s := if r.detail = 3 && !s.marked.any (fun m => m.2 == a) then s.notePair a true else s
      { s with marked := s.marked.filter (fun m => m.2 != a) }
    else s.mapCore (fun c => { c.countUncorr with marks := c.marks.filter (fun m => !own m) })

/-- The access replay list with one more entry; while a restart performs the list, the entry is the one that it had come to. -/
def Core.remember (c : Core) (r : Replay) : List Replay := if c.mode == .restarting then r :: c.replays else c.replays ++ [r]

/-- An access that faulted after it issued goes to the access replay list, and its fault to the causes (R338 steps 2
and 3). -/
def State.addReplay (s : State) (a : Access) (f : Flt) : State :=
  (noteEcc s (raisedOf s a f)).mapCore (fun c => Core.addCause { c with replays := c.replays ++ [⟨a, true, f.code, none⟩] } (raisedOf s a f))

/-- Entry `k` fails after it issued: an access goes to the replay list; a TBAR word, which a restart does not execute again,
only leaves its fault (R169, R338). -/
def State.failAccess (s : State) (k : Nat) (a : Access) (f : Flt) : State :=
  let s := s.failEntry k a
  drain (if a.kind.isBar then (noteEcc s (raisedOf s a f)).mapCore (·.addCause (raisedOf s a f)) else s.addReplay a f)

/-- Perform every access that may be performed; at most `fuel` of them. -/
def settlePend : Nat → State → State
  | 0, s => s
  | fuel + 1, s =>
    match (List.range s.core.pend.length).find? (fun k => s.canPerform k) with
    | none => s
    | some k =>
      match performEntry s k with
      | .ok s' => settlePend fuel s'
      | .error (a, f) => settlePend fuel (s.failAccess k a f)

/-- The fault of the oldest tile command, where it is ready and touches a marked word. -/
def State.tileFault (s : State) : Option Raised :=
  match s.core.tiles with
  | [] => none
  | t :: _ =>
    if !t.ready then none
    else (t.mark s.core).map (fun f =>
      { raisedByUnit (if t.reloc then .relocated else .seq .me) ((s.coreAt t.me).hypOf .me) f with word := t.word })

/-- The oldest tile command fails. -/
def Core.failHead (c : Core) : Core :=
  match c.tiles with
  | [] => c
  | _ :: _ => c.failTile 0

/-- The oldest tile command is a replay that lacks scale entries (R192). -/
def Core.headShort (c : Core) : Bool := match c.tiles with
  | [] => false
  | t :: _ => decide (0 < t.short)

/-- Commit the oldest tile command of a core that stops; a fault joins the causes (R338 step 3). A replay that still lacks
scale entries is kept for the next restart. -/
def commitStopping (s : State) : State :=
  if s.core.headShort then s.mapCore Core.failHead
  else match s.tileFault with
    | some r => (noteEcc s r).mapCore (fun c => Core.addCause c.failHead r)
    | none => commitOldest s

/-- Commit every tile command whose operands are there (R194). -/
def commitAll (s : State) : State := (List.range s.core.tiles.length).foldl (fun s _ => commitStopping s) s

/-- Step 2 of R338 as far as it can go now. -/
def settle (s : State) : State :=
  let s := settlePend (2 * s.core.pend.length + 2) s
  drain ((commitAll s).mapCore Core.vSettle)

/-- Nothing of steps 1 and 2 is left: no CC word is under way, no access or fence is in flight, no tile command, and no packet
of a copy's last burst (R177). -/
def Core.settled (c : Core) : Bool :=
  !c.underway && !c.pend.any (fun a => a.kind.isAccess || a.kind == .fence) && c.tiles.all (·.failed)
    && c.copies.all (fun x => x.waiting == 0 && x.fetch == 0)

/-- The remembered accesses stand at the head of the accesses again (R346 step 3). -/
def Core.requeue (c : Core) : Core :=
  { c with pend := ((c.replays.filter (·.replay)).map (fun r => { r.access with pid := 0 })) ++ c.pend, replays := [] }

/-- The core runs again: no fault stands, no sequencer is blocked, and the first group of each is exempt from R387
(R388). A tile replay that had been accepted stands first among the tile commands again (R346 step 4); one that had not
is taken with its recorded words when the ME comes to it (R192). -/
def Core.running (c : Core) : Core :=
  { c with mode := .running, log := [], frontRank := 0xFF#8, primary := none, causes := [], multi := false, handled := false, saved := false, answered := false,
           blocked := [], cause := [], exempt := (List.range 5).map (fun i => (i, true)), latch := c.latch.clear,
           tiles := ((c.tileReplay.filter (·.failed)).toList ++ c.tiles).map (fun t => if t.failed then { t with gen := c.latch.clear.gen } else t),
           tileReplay := c.tileReplay.filter (fun t => !t.failed) }

/-- The operands of tile commands that failed are asked for again. -/
def refetchTiles (s : State) : State :=
  let ts := s.core.tiles
  ts.foldl (fun s t =>
    let (s, t) := if t.failed then fetchOperands s t else (s, t)
    s.mapCore (fun c => { c with tiles := c.tiles ++ [t] })) (s.mapCore (fun c => { c with tiles := [] }))

/-- Save writes of the context on the core in focus, to another device, that are not acknowledged. -/
def State.saveOut (s : State) : Bool := s.waiting.any (fun w => s.mine w && (match w.kind with
  | .save _ => true
  | _ => false))

/-- F.ORPHAN with a nonzero orphan vector: the CC resumes there with x31 at the frame; an orphaned CC stands under the
parent of the topmost refuted hypothesis above it (R305 step 4). -/
def resumeOrphan (s : State) (x : Context) (r : Raised) : State :=
  let c := s.core.requeue.running
  let c := (c.setReg .cc 31 c.frameAddr)
  let c := { c with pc := x.orphanVec }
  match r.unit, s.core.orphan with
  | .seq .cc, some o =>
    let d := if o.parent = 0#8 then 0 else (s.hyps.get o.parent.toNat).depth
    refetchTiles { s with core := { c with orphan := none, hyp := o.parent, hypDepth := BitVec.ofNat 2 d } }
  | _, _ => refetchTiles { s with core := c }

/-- Step 5 of R338: the core is held, and the frame reported. -/
def holdCore (s : State) : State :=
  match s.core.ctx, s.core.primary with
  | some x, some r =>
    if r.code = cOrphan ∧ x.orphanVec ≠ 0#64 then resumeOrphan s x r
    else
      let s := if r.code = cOrphan ∧ r.unit = .seq .cc then s.mapCore (fun c => { c with orphan := none }) else s
      let s := s.mapCore (fun c => { c with mode := .held, answered := false })
      report s (recordOf x s.core.frameAddr s.cause s.core.frameGtc)
  | _, _ => s

/-- Steps 4 and 5 of R338: write the frame and the register area, then hold the core; where the save block lies on another
device, once those writes are acknowledged. (DEDUCED, assumption 12.) -/
def finishStop (s : State) : State :=
  match s.core.ctx, s.core.primary with
  | some _, some _ =>
    match writeArea s with
    | .error f => failSave s 7 f
    | .ok s => if s.saveOut then s.mapCore (fun c => { c with parking := some .frame }) else holdCore s
  | _, _ => s

/-- A stopping core settles what has become possible, and finishes when nothing is left. -/
def resettle (s : State) : State :=
  match s.core.mode, s.core.parking with
  | .stopping, some .frame => if s.saveOut then s else holdCore (s.mapCore (fun c => { c with parking := none }))
  | .stopping, _ =>
    let s := settle s
    if s.core.settled then finishStop s else s
  | _, _ => s

/-- The sequencer has been blocked for more cycles than the stall limit of its context, which is not 0 (R127). -/
def State.stallDue (s : State) (u : Sqr) : Bool :=
  match s.core.ctx with
  | none => false
  | some x => s.core.mode == .running && x.stall != 0#32 && decide (x.stall.toNat < s.core.blocked.get (sqIx u))

/-- F.STALL of a sequencer, with the cause that blocks it (R126). -/
def State.stallOf (s : State) (u : Sqr) : Raised := raisedBy s u ⟨cStall, (s.core.cause.get (sqIx u)).getD 0, 0#64⟩

/-- The sequencers, in ring order. -/
def ringOrder : List Sqr := [.cc, .ae, .me, .se, .ve]

/-- The unit comes before the sequencer in ring order. -/
def unitPrecedes (f : FUnit) (u : Sqr) : Bool := match f with
  | .seq v => decide (sqIx v < sqIx u)
  | _ => false

/-- A fault, and the stalls of other sequencers that are due in the same cycle, in ring order (R127, R338 step 3). -/
def State.sameCycle (s : State) (r : Raised) : List Raised :=
  let stalls := (ringOrder.filter (fun u => s.stallDue u && r.unit != .seq u && !(u == .me && s.core.meOwn.isSome)))
  (stalls.filter (fun u => !unitPrecedes r.unit u)).map s.stallOf ++ r :: (stalls.filter (fun u => unitPrecedes r.unit u)).map s.stallOf

/-- Step 1 of R338 for the faults of one cycle, the first of them the primary one, and what follows of itself. -/
def stopFor (s : State) (rs : List Raised) : State :=
  resettle (stopRelocation (s.mapCore (fun c =>
    rs.foldl Core.addCause { c.stopUnits with mode := .stopping, primary := rs.head?, causes := [], multi := false, frameGtc := s.gtc })))

/-- A fault of the core in focus (R338). While the core already stops, the fault joins the causes; while it is held or
its context is elsewhere, the fault waits for the restart (R365). (DEDUCED, assumption 12.) -/
def takeFault (s : State) (r : Raised) : State :=
  let s := noteEcc s r
  match s.core.mode with
  | .running => stopFor s (s.sameCycle r)
  | .restarting => stopFor s (s.sameCycle r)
  | .stopping => if s.core.parking.isSome then s.mapCore (fun c => { c with heldFaults := c.heldFaults ++ [r] }) else s.mapCore (fun c => c.addCause r)
  | .halted => s
  | _ => s.mapCore (fun c => { c with heldFaults := c.heldFaults ++ [r] })

/-- Faults of one unit in one cycle. -/
def takeFaults (s : State) : List Raised → State
  | [] => s
  | [r] => takeFault s r
  | r :: t => if s.core.mode == .running then stopFor ((r :: t).foldl noteEcc s) (s.sameCycle r ++ t) else (r :: t).foldl takeFault s

/-- Take a fault of sequencer `u`: an engine that runs a pulled command faults at its issuer, as the relocated command
(R198). (DEDUCED, assumption 12.) -/
def raiseAt (s : State) (u : Sqr) (r : Raised) : State :=
  if u == .me && s.core.meOwn.isSome then
    within (s.core.me.reloc.getD s.lnum) (fun s => takeFault s { r with unit := FUnit.relocated }) s
  else takeFault s r

/-- A fault of sequencer `u` at its present group. (DEDUCED, assumption 12.) -/
def faultOf (s : State) (u : Sqr) (f : Flt) : State := raiseAt s u (raisedBy s u f)

/-! ### Restarting: R346 -/

/-- Step 3 of R346: the remembered accesses are translated anew and performed in order, up to the first that goes to another
device: that one joins the accesses of its unit, and the later ones wait for it. The answer holds the accesses that are left, and
the fault of the first of them. -/
def performReplays (s : State) : List Replay → State × List Replay × Option (Replay × Flt)
  | [] => (s, [], none)
  | r :: t =>
    let a := { r.access with pid := 0 }
    let checked : Except Flt (Access × State) := match a.place with
      | .mem va _ =>
        match checkMem s (BitVec.ofNat 64 va) a.size (match a.kind with | .load _ => 0 | .store => 1 | _ => 3) with
        | .error f => .error f
        | .ok (pa, leaf, s) => .ok (a.withLeaf (BitVec.ofNat 64 va) pa leaf, s)
      | _ => .ok (a, s)
    match checked with
    | .error f => (s, r :: t, some (r, f))
    | .ok (a, s) =>
      if s.isRemote a then (s.mapCore (fun c => { c with pend := c.pend ++ [a] }), t, none)
      else match performLocal s a with
        | .error f => (s, r :: t, some (r, f))
        | .ok s => performReplays s t

/-- Faults that waited for the context are raised at its first CC boundary (R365). -/
def raiseHeld (s : State) : State :=
  match s.core.heldFaults with
  | [] => s
  | r :: t => t.foldl takeFault (takeFault (s.mapCore (fun c => { c with heldFaults := [] })) r)

/-- The restart is over: the sequencers issue, and what waited for the context is raised. -/
def finishRestart (s : State) : State := raiseHeld (refetchTiles (s.mapCore (fun c => { c with mode := .running })))

/-- No access of the CC or of the AE of the core in focus is outstanding. -/
def State.replaysDone (s : State) : Bool := !s.unitPending .cc && !s.unitPending .ae

/-- The restart goes on: the next replays, in program order, one after another where they go to another device; then its end.
A fault writes a new frame. An access that the list keeps only to report it is not performed (R344); one that no frame has
reported yet stays for the frame to come. -/
def restartOn (s : State) : State :=
  if s.core.mode != .restarting || !s.replaysDone then s
  else
    let kept := s.core.replays.filter (fun r => !r.replay && r.slot.isNone)
    let (s, rest, bad) := performReplays s (s.core.replays.filter (·.replay))
    let s := s.mapCore (fun c => { c with replays := rest ++ kept })
    match bad with
    | some (r, f) => takeFault s (raisedOf s r.access f)
    | none => if s.replaysDone then finishRestart s else s

/-- Steps 3 to 5 of R346, before which no sequencer issues and COUNT does not rise (R386). -/
def restartSteps (s : State) : State := restartOn (s.mapCore (fun c => { c.running with mode := .restarting }))

/-- Step 1 of R346: reload the register area from the save block; F.QUEUE where R341 or R343 refuses it. -/
def reloadArea (s : State) : Except Flt State :=
  match getVirt s s.core.frameAddr 0 areaLen 64 with
  | .error f => .error f
  | .ok (img, s) =>
    match reloadCore s.lnum img s.core with
    | none => .error ⟨cQueue, 0, 0#64⟩
    | some c => .ok { s with core := c }

end Sys2Proof.Machine
end

