-- ==== Sys2Proof/Machine/CopyEng.lean ====
section
/-! DEFINITION. The copy engine: descriptors (R170, R171), rows and sectors (R172), bursts (R174), execution faults
(R176), discards (R178), window copies (R179), multicast shares (R184) and scale groups (R185). -/
namespace Sys2Proof.Machine

/-! ### Descriptors: R170 -/

def cdField (d : BitVec 384) (hi lo : Nat) : Nat := d.toNat / 2 ^ lo % 2 ^ (hi + 1 - lo)
def cdSrc (d : BitVec 384) : Word := BitVec.ofNat 64 (cdField d 383 320)
def cdDst (d : BitVec 384) : Word := BitVec.ofNat 64 (cdField d 319 256)
def cdBar (d : BitVec 384) : Word := BitVec.ofNat 64 (cdField d 255 192)
def cdAux (d : BitVec 384) : Word := BitVec.ofNat 64 (cdField d 191 128)
def cdRows (d : BitVec 384) : Nat := cdField d 127 112
def cdRes (d : BitVec 384) : Nat := cdField d 111 98
def cdEsz (d : BitVec 384) : Nat := 2 ^ cdField d 97 96
def cdLen (d : BitVec 384) : Nat := cdField d 95 64
def cdSstr (d : BitVec 384) : Int := sextNat 32 (cdField d 63 32)
def cdDstr (d : BitVec 384) : Int := sextNat 32 (cdField d 31 0)

/-- An address field names a buffer (R171). -/
def isBufAddr (a : Word) : Bool := bits a 63 32 == 0

/-- Address of row `r` with a stride: modulo 2^64; for a buffer address it must stay within 32 bits (R171). -/
def rowAddr (base : Word) (stride : Int) (r : Nat) : Option Word :=
  let a := base + wordOfInt (stride * (r : Int))
  if isBufAddr base && !isBufAddr a then none else some a

/-- The index element of row `r` (R183). -/
def indexOf (c : Core) (d : BitVec 384) (r : Nat) : Nat := c.readBuf 1 (bufOff (cdAux d).toNat + 4 * r) 4

/-- Source and destination of row `r` with its index element (R171). -/
def copyRowSrc (k : CopyKind) (d : BitVec 384) (idx r : Nat) : Option Word :=
  rowAddr (cdSrc d) (cdSstr d) (if k = .gath then idx else r)
def copyRowDst (k : CopyKind) (d : BitVec 384) (idx r : Nat) : Option Word :=
  rowAddr (cdDst d) (cdDstr d) (if k = .scat then idx else r)

/-! ### Barriers of a copy: R172 -/

/-- Count `n` sectors on the barrier that a copy of the core in focus names in its own AB or in memory; a barrier in
the memory of another device counts at its home. -/
def countOn (s : State) (bar : Word) (n : Nat) : Except Flt State :=
  if bar = 0#64 ∨ n = 0 then .ok s
  else if isBufAddr bar then
    if bufSpace bar.toNat = 1 then .ok (countSectors s (.ab (bufOff bar.toNat)) n) else .ok s
  else match translate s s.core.tenant bar 3 with
    | .error f => .error f
    | .ok (pa, leaf, s) =>
      if s.isLocal pa then .ok (countSectors s (.mem pa leaf) n)
      else .ok (send s (paDev pa) 0 (pteKey leaf) (.memBar pa 5 (BitVec.ofNat 64 n)) .count).2

/-- Count sectors, leaving them out where the barrier can no longer be reached. -/
def countOrSkip (s : State) (bar : Word) (n : Nat) : State :=
  match countOn s bar n with
  | .ok s => s
  | .error _ => s

/-- Sectors that row `r` still has from `off` on. -/
def rowSectors (dst : Word) (off len : Nat) : Nat := sectorsOf (dst.toNat % 2 ^ 40 + off) (len - off)

/-! ### Multicast shares: R184 -/

def mcastMask (d : BitVec 384) : Nat := cdField d 135 128

/-- The logical cores that a multicast of the core in focus names. -/
def mcastCores (s : State) (d : BitVec 384) : List Nat :=
  ((List.range 8).filter (fun k => mcastMask d / 2 ^ k % 2 == 1)).map (fun k => s.lnum - s.lnum % 8 + k)

/-- Deliver one piece to one share; a share whose core holds no context of the tenant is dropped from here on, with one
F.REMOTE record at the issuer's fault domain. The tenant and context are the issuer's. -/
def deliverShare (x : Context) (bar : Word) (space off : Nat) (bs : List Byte) (write : Bool) (cp : Copy) (s : State) (n : Nat) :
    Copy × State :=
  if cp.drops.contains n then (cp, s)
  else if !(s.coreAt n).resident x.tenant then
    ({ cp with drops := n :: cp.drops },
     report s (recordOf x 0#64 (causeWord cRemote 5 5 s.lnum cp.hyp.toNat false false false false) s.gtc))
  else
    (cp, within n (fun s =>
      let s := if write then { s with core := s.core.putBytes space off bs } else s
      countOrSkip s bar (sectorsOf off bs.length)) s)

/-- Deliver one piece to every share. -/
def deliverShares (x : Context) (bar : Word) (space off : Nat) (bs : List Byte) (write : Bool) (cp : Copy) (s : State) :
    List Nat → Copy × State
  | [] => (cp, s)
  | n :: t =>
    let (cp, s) := deliverShare x bar space off bs write cp s n
    deliverShares x bar space off bs write cp s t

/-! ### Moving one piece -/

/-- Lines of another device's memory that the die holds dirty, or is writing back, are to leave it before a copy reads or
writes their bytes at the home: the state with what can be written back now sent, or none where nothing is held (R163, R175). -/
def State.clearLines (s : State) (pa n : Nat) : Option State :=
  let p (q : Nat) : Bool := decide (pa / 128 ≤ q / 128 ∧ q / 128 ≤ (pa + n - 1) / 128)
  match s.cleaning [s.die] p with
  | .clean => none
  | _ => some (writeBackAt s.die p s)

/-- The first `n` bytes of the source of a piece: those read already and, from one buffer or one page, further ones, a
memory source under the copy's hypothesis; none while some are missing, because a remote read is outstanding or because
the rest lies on the next page, whose part is another access (R136, R171). -/
def sourceBytes (s : State) (cp : Copy) (src : Word) (n : Nat) : Except Flt (Option (List Byte) × Copy × State) :=
  let got := cp.got.getD []
  let a := src + BitVec.ofNat 64 got.length
  let m := n - got.length
  let part (bs : List Byte) (s : State) : Except Flt (Option (List Byte) × Copy × State) :=
    if n ≤ (got ++ bs).length then .ok (some ((got ++ bs).take n), { cp with got := none }, s)
    else .ok (none, { cp with got := some (got ++ bs) }, s)
  let ask (r : Nat × State) : Except Flt (Option (List Byte) × Copy × State) := .ok (none, { cp with fetch := r.1 }, r.2)
  if m = 0 then part [] s
  else if isBufAddr (cdSrc cp.desc) then
    let space := bufSpace a.toNat
    let off := bufOff a.toNat
    if !(space == 1 || space == 2 || decide (8 ≤ space)) then .error ⟨cBufacc, 0x12, a⟩
    else if 8 ≤ space then
      match checkWin s.core (space - 8) off m 1 0#8 a with
      | .error f => .error f
      | .ok () =>
        let w := s.core.win.get (space - 8)
        ask (sendWin { s with unit := .ae } w (.winRead (winSpace w) off m) (.copyRead cp.seq))
    else if off + m > spaceSize space then .error ⟨cBufacc, 0x13, a⟩
    else match s.core.bufMark space off m with
      | some f => .error f
      | none => part (s.core.bufBytes space off m) s
  else if !canonical a then .error ⟨cPage, 0x40, a⟩
  else
    let k := min m (4096 - a.toNat % 4096)
    match translate s s.core.tenant a 0 with
    | .error f => .error f
    | .ok (pa, leaf, s) =>
      if s.isLocal pa then
        match s.memMark pa k with
        | some f => .error f
        | none => part (readH s cp.hyp.toNat pa k) (touchVers s cp.hyp.toNat pa k)
      else
        let here := (List.range k).filterMap (fun i => s.cachedAt (pa + i))
        if pteRmc leaf && here.length == k then part here s
        else match (if pteRmc leaf then s.clearLines pa k else none) with
          | some s => .ok (none, cp, s)
          | none => ask (send { s with unit := .ae } (paDev pa) 0 (pteKey leaf) (.memRead pa k) (.copyRead cp.seq))

/-- Write one piece at a destination in memory (R178, R299); none where a remote line has to leave the die first. -/
def pieceToMem (s : State) (cp : Copy) (dst : Word) (bs : List Byte) : Except Flt (Option Copy × State) :=
  if !canonical dst then .error ⟨cPage, 0x40 + 8, dst⟩
  else match translate s s.core.tenant dst 1 with
    | .error f => .error f
    | .ok (pa, leaf, s) =>
      if cp.hyp ≠ 0#8 ∧ (pteKind leaf = 0 ∨ !s.isLocal pa) then .error ⟨cHypso, 0, dst⟩
      else if s.isLocal pa then
        match writeH s cp.hyp.toNat pa bs with
        | .error f => .error f
        | .ok s => match countOn s (cdBar cp.desc) (sectorsOf pa bs.length) with
          | .error f => .error f
          | .ok s => .ok (some cp, s)
      else match (if pteRmc leaf then s.clearLines pa bs.length else none) with
        | some s => .ok (none, s)
        | none =>
          let (_, s) := send { s with unit := .ae } (paDev pa) 0 (pteKey leaf) (.memWrite pa bs) (.copy none cp.seq cp.row cp.off)
          .ok (some { cp with waiting := cp.waiting + 1 }, s)

/-- Write one piece at a buffer destination: a local buffer, or one packet through a window (R171, R362, R172). -/
def pieceToBuf (s : State) (cp : Copy) (dst : Word) (bs : List Byte) : Except Flt (Option Copy × State) :=
  let space := bufSpace dst.toNat
  let off := bufOff dst.toNat
  if !(space == 0 || space == 1 || decide (8 ≤ space)) then .error ⟨cBufacc, 0x12, dst⟩
  else if 8 ≤ space then
    match checkWin s.core (space - 8) off bs.length 1 cp.hyp dst with
    | .error f => .error f
    | .ok () =>
      let w := s.core.win.get (space - 8)
      let bar := cdBar cp.desc
      let rb := if bar ≠ 0#64 ∧ isBufAddr bar ∧ bufSpace bar.toNat = space then some (bufOff bar.toNat) else none
      let (_, s) := sendWin { s with unit := .ae, core := s.core.addOut (space - 8) } w (.winWrite (winSpace w) off bs rb)
        (.copy (some (space - 8)) cp.seq cp.row cp.off)
      .ok (some { cp with waiting := cp.waiting + 1 }, s)
  else if off + bs.length > spaceSize space then .error ⟨cBufacc, 0x13, dst⟩
  else match countOn { s with core := s.core.putBytes space off bs } (cdBar cp.desc) (sectorsOf off bs.length) with
    | .error f => .error f
    | .ok s => .ok (some cp, s)

/-- Write one piece: whether it goes to a buffer or to memory is said by the field DST, not by the row (R171). -/
def pieceTo (s : State) (cp : Copy) (dst : Word) (bs : List Byte) : Except Flt (Option Copy × State) :=
  let space := bufSpace dst.toNat
  let off := bufOff dst.toNat
  if cp.kind = .mcast then
    match s.core.ctx with
    | none => .ok (some cp, s)
    | some x =>
      if 1 < space then .error ⟨cBufacc, 0x12, dst⟩
      else if off + bs.length > spaceSize space then .error ⟨cBufacc, 0x13, dst⟩
      else
        let (cp, s) := deliverShares x (cdBar cp.desc) space off bs true cp s (mcastCores s cp.desc)
        .ok (some cp, s)
  else if isBufAddr (cdDst cp.desc) then pieceToBuf s cp dst bs
  else pieceToMem s cp dst bs

/-- Move one piece of `n` bytes: the copy and whether it has moved. -/
def movePiece (s : State) (cp : Copy) (src dst : Word) (n : Nat) : Except Flt (Bool × Copy × State) :=
  match sourceBytes s cp src n with
  | .error f => .error f
  | .ok (none, cp, s) => .ok (false, cp, s)
  | .ok (some bs, cp, s) => match pieceTo s cp dst bs with
    | .error f => .error f
    | .ok (none, s) => .ok (false, { cp with got := some bs }, s)
    | .ok (some cp, s) => .ok (true, cp, s)

/-! ### Bursts: R174 -/

/-- Length of the next piece within its row: one destination sector, or one 256-byte block where the piece becomes a packet
through a window (R172, R362). -/
def pieceLen (dst : Word) (win : Bool) (left : Nat) : Nat :=
  let m := if win then 256 else 32
  min left (m - dst.toNat % m)

/-- The destination is a window. -/
def Copy.packets (cp : Copy) : Bool :=
  let d := cdDst cp.desc
  isBufAddr d && decide (8 ≤ bufSpace d.toNat)

/-- A packet through the destination window keeps within its allowance (R362). -/
def Copy.winFree (c : Core) (cp : Copy) : Bool := !cp.packets || c.winRoom (bufSpace (cdDst cp.desc).toNat - 8)

/-- The copy after `n` bytes of its row. -/
def Copy.advance (cp : Copy) (n : Nat) : Copy :=
  if cp.off + n ≥ cdLen cp.desc then { cp with row := cp.row + 1, off := 0, idx := none }
  else { cp with off := cp.off + n }

/-- Every row has been moved. -/
def Copy.moved (cp : Copy) : Bool := decide (cdRows cp.desc ≤ cp.row)

/-- The next bytes have been performed already, by a packet that was acknowledged after an earlier one failed: how many. -/
def Copy.ackedNext (cp : Copy) : Option Nat := (cp.acked.find? (fun x => x.1 == cp.row && x.2.1 == cp.off)).map (·.2.2)

/-- How a burst ended. -/
inductive BurstEnd where
  | done (cp : Copy) (s : State)
  | fault (cp : Copy) (s : State) (f : Flt)

/-- Pieces of one burst: at most `budget` bytes, inside one row and inside one page of source and destination. A piece whose
source a page boundary cuts is read by two bursts and written by the second. Of a packet that would fault, the
sectors before the faulting one are moved on their own (R176). -/
def burstPieces (s : State) (cp : Copy) (budget : Nat) : Nat → BurstEnd
  | 0 => .done cp s
  | fuel + 1 =>
    if cp.moved then .done cp s
    else
      let idx := cp.idx.getD (if cp.kind = .gath ∨ cp.kind = .scat then indexOf s.core cp.desc cp.row else 0)
      let mark := if (cp.kind = .gath ∨ cp.kind = .scat) ∧ cp.idx = none then
        s.core.bufMark 1 (bufOff (cdAux cp.desc).toNat + 4 * cp.row) 4 else none
      let cp := { cp with idx := some idx }
      let sb := isBufAddr (cdSrc cp.desc)
      let db := isBufAddr (cdDst cp.desc)
      match mark, cp.ackedNext, copyRowSrc cp.kind cp.desc idx cp.row, copyRowDst cp.kind cp.desc idx cp.row with
      | some f, _, _, _ => .fault { cp with idx := none } s f
      | none, some n, _, _ => burstPieces s (cp.advance n) (budget - n) fuel
      | none, none, some rs, some rd =>
        let src := rs + BitVec.ofNat 64 cp.off
        let dst := rd + BitVec.ofNat 64 cp.off
        let win := db && decide (8 ≤ bufSpace dst.toNat)
        let n := pieceLen dst win (cdLen cp.desc - cp.off)
        let m := pieceLen dst false (cdLen cp.desc - cp.off)
        if budget < n || (win && !s.core.winRoom (bufSpace dst.toNat - 8)) then .done cp s
        else
          let (n, r) := match movePiece s cp src dst n with
            | .error f => if m < n then (m, movePiece s cp src dst m) else (n, .error f)
            | r => (n, r)
          match r with
          | .error f => .fault { cp with got := none } s f
          | .ok (false, cp, s) => .done cp s
          | .ok (true, cp, s) =>
            let cp := cp.advance n
            if cp.off = 0 || (!sb && (src.toNat + n) % 4096 = 0) || (!db && (dst.toNat + n) % 4096 = 0) then .done cp s
            else burstPieces s cp (budget - n) fuel
      | none, none, none, _ => .fault cp s ⟨cBufacc, 0x13, cdSrc cp.desc⟩
      | none, none, _, none => .fault cp s ⟨cBufacc, 0x13, cdDst cp.desc⟩

/-- Replace or drop a copy of the list. -/
def Core.putCopy (c : Core) (cp : Copy) : Core :=
  { c with copies := c.copies.map (fun x => if x.seq == cp.seq then cp else x) }
def Core.endCopy (c : Core) (seq : Nat) : Core :=
  { c with copies := c.copies.filter (fun x => x.seq != seq), cntCp := c.cntCp - 1 }

/-- A copy whose rows have all moved and whose packets are all acknowledged completes, and cp falls (R123). -/
def Core.settleCopy (c : Core) (cp : Copy) : Core := if cp.moved && cp.waiting = 0 then c.endCopy cp.seq else c.putCopy cp

/-- The copy waits for nothing outside the engine: for no source bytes, no allowance of its window (R179) and no place in the
SCLQ (R185). -/
def Copy.runnable (c : Core) (cp : Copy) : Bool :=
  !cp.moved && cp.fetch == 0 && cp.winFree c && (cp.kind != .sclLd || decide (c.sclq.items.length < sclqDepth))

/-- A timed copy is due (R173). -/
def Copy.isDue (gtc : Word) (cp : Copy) : Bool := cp.due || decide (cp.time.toNat ≤ gtc.toNat)

/-- The first by TIME, and by acceptance among equals. -/
def earliestTimed (l : List Copy) : Option Copy :=
  l.foldl (fun acc c => match acc with
    | none => some c
    | some b => if c.time.toNat < b.time.toNat || (c.time == b.time && decide (c.seq < b.seq)) then some c else some b) none

/-- The number of the gate that holds a copy until the earlier accesses of the AE have been performed (R175). -/
def copyGate (seq : Nat) : Nat := 16 + seq

/-- A copy starts when the accesses of the AE that precede it have been performed (R175). -/
def Copy.mayStart (c : Core) (cp : Copy) : Bool := !c.pend.any (fun a => a.kind == .gate (copyGate cp.seq))

/-- The copy has had a burst. -/
def Copy.begun (cp : Copy) : Bool := cp.row != 0 || cp.off != 0 || cp.fetch != 0 || cp.got.isSome

/-- The due timed copy whose burst comes next: the one that has begun, to its last burst, else the first in order (R174). -/
def dueCopy (gtc : Word) (c : Core) : Option Copy :=
  let due := c.copies.filter (fun x => x.timed && x.isDue gtc && !x.moved)
  match due.find? Copy.begun with
  | some x => some x
  | none => earliestTimed due

/-- The copy whose burst, or whose scale group, comes next (R174, R185): the due timed copy in order; else the untimed copies in
turn, from the one after the last that had a burst. -/
def nextCopy (gtc : Word) (c : Core) : Option Copy :=
  match dueCopy gtc c with
  | some x => if x.runnable c && x.mayStart c then some x else none
  | none =>
    let un := c.copies.filter (fun x => !x.timed && x.runnable c && x.mayStart c)
    match un.find? (fun x => decide (c.copyTurn < x.seq)) with
    | some x => some x
    | none => un.head?

/-- The turn among the untimed copies after a burst (R174). -/
def Core.turnAfter (c : Core) (cp : Copy) : Core := if cp.timed then c else { c with copyTurn := cp.seq }

/-- The copy has begun. -/
def Copy.start (cp : Copy) : Copy := { cp with due := true }

/-- The copy engine's next copy, where its kind is that of the event. -/
def State.served (s : State) (scale : Bool) : Option Copy :=
  if s.core.mode != .running then none
  else (nextCopy s.gtc s.core).filter (fun cp => (cp.kind == .sclLd) == scale)

/-- The current hypothesis of a unit (R297): a copy's is that of its issuing command (R178). -/
def State.unitHyp (s : State) (u : FUnit) : BitVec 8 := match u with
  | .seq v => s.core.hypOf v
  | .copyEngine => ((nextCopy s.gtc s.core).map (·.hyp)).getD 0#8
  | .relocated => s.core.hypOf .me
  | _ => 0#8

/-- One burst of the core in focus (R174–R176, R178, R184). -/
def copyBurst (s : State) : State :=
  match s.served false with
  | none => s
  | some cp =>
    match burstPieces s cp.start 4096 4096 with
    | .done cp s => { s with core := (s.core.settleCopy cp).turnAfter cp }
    | .fault cp s f => takeFault { s with core := s.core.putCopy cp } (raisedByUnit .copyEngine cp.hyp f)

/-! ### Scale groups: R185, R193 -/

/-- Push the next 64-byte group of a scale load. -/
def scalePush (s : State) : State :=
  match s.served true with
  | none => s
  | some cp =>
    let cp := cp.start
    let fault (s : State) (f : Flt) : State :=
      takeFault { s with core := s.core.putCopy { cp with got := none } } (raisedByUnit .copyEngine cp.hyp f)
    match rowAddr (cdSrc cp.desc) (cdSstr cp.desc) cp.row with
    | none => fault s ⟨cBufacc, 0x13, cdSrc cp.desc⟩
    | some src =>
      match sourceBytes s cp src 64 with
      | .error f => fault s f
      | .ok (none, cp, s) => { s with core := (s.core.putCopy cp).turnAfter cp }
      | .ok (some bs, cp, s) =>
        { s with core := ({ s.core with sclq := s.core.sclq.push ⟨bs, cp.hyp⟩ }.settleCopy { cp with row := cp.row + 1 }).turnAfter cp }

/-! ### Discards: R178 -/

/-- Count the sectors of the rows of a discarded copy from `r`, `off` on; `fuel` rows. The row in progress keeps its index
element, and a multicast the shares that it has dropped. -/
def discardRows (s : State) (cp : Copy) (r off : Nat) : Nat → State
  | 0 => s
  | fuel + 1 =>
    if cdRows cp.desc ≤ r then s
    else
      let idx := cp.idx.getD (if cp.kind = .scat then indexOf s.core cp.desc r else 0)
      let (cp, s) : Copy × State := match copyRowDst cp.kind cp.desc idx r with
        | none => (cp, s)
        | some d =>
          if cp.kind = .mcast then
            match s.core.ctx with
            | none => (cp, s)
            | some x => deliverShares x (cdBar cp.desc) (bufSpace d.toNat) (bufOff d.toNat + off)
                (List.replicate (cdLen cp.desc - off) 0#8) false cp s (mcastCores s cp.desc)
          else (cp, countOrSkip s (cdBar cp.desc) (rowSectors d off (cdLen cp.desc)))
      discardRows s { cp with idx := none } (r + 1) 0 fuel

/-- A copy of the core in focus completes as a discard. -/
def discardCopy (s : State) (cp : Copy) : State :=
  let s := if cp.kind = .sclLd then s else discardRows s cp cp.row cp.off (cdRows cp.desc)
  { s with core := s.core.endCopy cp.seq }

/-- The answer of the source read of a copy has come. -/
def copyGot (s : State) (seq : Nat) (data : List Byte) : State :=
  s.mapCore (fun c => { c with copies := c.copies.map (fun x =>
    if x.seq == seq then { x with got := some (x.got.getD [] ++ data), fetch := 0 } else x) })

/-- Destination bytes of a copy's packet, and the sectors that its acknowledgement counts: those of a barrier outside the
window (R172). -/
def copyPacket (p : Packet) : Nat × Nat :=
  match p.req with
  | .winWrite _ off data none => (data.length, sectorsOf off data.length)
  | .winWrite _ _ data _ => (data.length, 0)
  | .memWrite pa data => (data.length, sectorsOf pa data.length)
  | _ => (0, 0)

/-- A packet of a copy, from a row and offset, has been acknowledged. -/
def Copy.acknowledge (cp : Copy) (row off n : Nat) : Copy :=
  let ahead := decide (cp.row < row) || (row == cp.row && decide (cp.off ≤ off))
  { cp with waiting := cp.waiting - 1,
            acked := if cp.waiting ≤ 1 && !ahead then cp.acked.filter (fun x => decide (cp.row < x.1) || (x.1 == cp.row && decide (cp.off ≤ x.2.1)))
              else (row, off, n) :: cp.acked }

/-- A packet of a copy has been acknowledged: its sectors count on a barrier outside the window, and the copy may
complete (R172, R179). -/
def copyAck (s : State) (seq row off : Nat) (p : Packet) : State :=
  match s.core.copies.find? (fun x => x.seq == seq) with
  | none => s
  | some cp =>
    let s := countOrSkip s (cdBar cp.desc) (copyPacket p).2
    { s with core := s.core.settleCopy (cp.acknowledge row off (copyPacket p).1) }

/-- A packet of a copy failed: the copy stands again at the sectors that it carried (R176). -/
def copyFailed (s : State) (seq row off : Nat) : State :=
  match s.core.copies.find? (fun x => x.seq == seq) with
  | none => s
  | some cp =>
    let back := decide (row < cp.row) || (row == cp.row && decide (off < cp.off))
    { s with core := s.core.putCopy { cp with waiting := cp.waiting - 1, row := if back then row else cp.row,
                                              off := if back then off else cp.off, idx := if back then none else cp.idx,
                                              fetch := 0, got := none } }

end Sys2Proof.Machine
end

