-- ==== Sys2Proof/Machine/HypRefs.lean ====
section
/-! DEFINITION. What a confirmation and a refutation do to everything that refers to a hypothesis (R229, R303–R307):
versions, SRF versions, sequencers, queues, tokens, copies, saved contexts, and the identifiers themselves. -/
namespace Sys2Proof.Machine

/-! ### SRF slots: R226–R229 -/

/-- Copy 256 bytes from slot `i` to slot `j`. -/
def Core.copySlot (c : Core) (i j : Nat) : Core :=
  { c with srf := Tab.splice c.srf (256 * j) (256 * j + 256) (Tab.slice c.srf (256 * i) (256 * i + 256) (256 * j)) }

/-- The slot of the version of `slot` under `h`. -/
def Core.srfVer (c : Core) (slot : Nat) (h : BitVec 8) : Option Nat :=
  (List.find? (fun p => match p.2 with
    | .version sl hy _ => sl == slot && hy == h
    | _ => false) c.slots).map (·.1)

/-- Merge one version slot of `h` into its parent `p` (R229). -/
def Core.mergeSlot (c : Core) (p : BitVec 8) (i slot depth : Nat) : Core :=
  if p = 0#8 then { c.copySlot i slot with slots := (c.copySlot i slot).slots.erase i }
  else match c.srfVer slot p with
    | some j => { c.copySlot i j with slots := (c.copySlot i j).slots.erase i }
    | none => { c with slots := c.slots.put i (.version slot p (depth - 1)) }

/-- SRF versions of a confirmed hypothesis merge; those of its descendants, `below`, lose one of depth (R229). -/
def Core.srfConfirm (c : Core) (h p : BitVec 8) (below : List (BitVec 8)) : Core :=
  let c := c.slots.foldl (fun c q => match q.2 with
    | .version sl hy d => if hy = h then c.mergeSlot p q.1 sl d else c
    | _ => c) c
  { c with slots := c.slots.map (fun q => match q.2 with
      | .version sl hy d => if below.contains hy then (q.1, .version sl hy (d - 1)) else q
      | _ => q) }

/-- SRF versions of a refuted subtree are freed (R229). -/
def Core.srfRefute (c : Core) (hs : List (BitVec 8)) : Core :=
  { c with slots := c.slots.filter (fun q => match q.2 with
      | .version _ hy _ => !hs.contains hy
      | _ => true) }

/-! ### References of a core: R303, R304 -/

/-- Rename hypotheses in an engine. -/
def Engine.mapHyp (f : BitVec 8 → BitVec 8) (e : Engine) : Engine :=
  { e with run := e.run.map (fun r => { r with hyp := f r.hyp }),
           cmdq := { e.cmdq with items := e.cmdq.items.map (fun r => { r with hyp := f r.hyp }) },
           bq := { e.bq with items := e.bq.items.map (fun b => (b.1, f b.2)) } }

/-- Rename hypotheses in everything that a core holds (R303). -/
def Core.mapHyp (f : BitVec 8 → BitVec 8) (c : Core) : Core :=
  { c with
    hyp := f c.hyp, ae := c.ae.mapHyp f, me := c.me.mapHyp f, se := c.se.mapHyp f, ve := c.ve.mapHyp f,
    meOwn := c.meOwn.map (Engine.mapHyp f), relocs := c.relocs.map (fun x => { x with eng := x.eng.mapHyp f }),
    tokens := c.tokens.map (fun p => (p.1, { p.2 with toks := p.2.toks.map f })),
    fmtq := { c.fmtq with items := c.fmtq.items.map (fun p => (p.1, f p.2)) },
    sclq := { c.sclq with items := c.sclq.items.map (fun e => { e with hyp := f e.hyp }) },
    rq := { c.rq with items := c.rq.items.map (fun e => { e with hyp := f e.hyp }) },
    pend := c.pend.map (fun a => { a with hyp := f a.hyp }),
    vretire := c.vretire.map (fun r => { r with hyp := f r.hyp }),
    copies := c.copies.map (fun x => { x with hyp := f x.hyp }),
    replays := c.replays.map (fun r => { r with access := { r.access with hyp := f r.access.hyp } }) }

/-- A later resolution moves what an orphan's mark names: a confirmed parent gives way to its own parent, and a refuted
one is the new topmost (R303, R305). -/
def Orphan.confirm (h p : BitVec 8) (o : Orphan) : Orphan := { o with parent := if o.parent = h then p else o.parent }

def Orphan.refute (top par : BitVec 8) (hs : List (BitVec 8)) (o : Orphan) : Orphan :=
  if hs.contains o.parent then { o with top := top, parent := par } else o

/-- Act on every orphan's mark of a core. -/
def Core.mapOrphans (f : Orphan → Orphan) (c : Core) : Core :=
  engines.foldl (fun c u => c.mapEng u (fun e => { e with orphan := e.orphan.map f })) { c with orphan := c.orphan.map f }

/-- The references of one core at a confirmation of `h` into `p`; `d` is the depth of a hypothesis after it. -/
def Core.confirmRefs (c : Core) (h p : BitVec 8) (d : BitVec 8 → Nat) : Core :=
  let c := (c.mapHyp (fun x => if x = h then p else x)).mapOrphans (Orphan.confirm h p)
  { c with hypDepth := BitVec.ofNat 2 (if c.hyp = 0#8 then 0 else d c.hyp) }

/-- A confirmation of `h` into `p` in one core. -/
def Core.confirm (c : Core) (h p : BitVec 8) (below : List (BitVec 8)) (d : BitVec 8 → Nat) : Core :=
  (c.srfConfirm h p below).confirmRefs h p d

/-- A held core remembers a resolution: its register area in memory was written before it. -/
def Core.logged (c : Core) (r : Resolution) : Core := if c.mode == .held then { c with log := c.log ++ [r] } else c

/-- The hypothesis of an engine: that of its running command (R297). -/
def Engine.hypNow (e : Engine) : BitVec 8 := match e.run with
  | some r => r.hyp
  | none => 0#8

/-- An engine abandons its command and becomes idle (R305 step 1). -/
def Engine.abandon (e : Engine) (top par : BitVec 8) : Engine :=
  { e with run := none, ending := none, orphan := some ⟨top, par, e.hypNow⟩, loopOrder := [],
           loops := (List.range 4).foldl (fun t i => Tab.set t i { Tab.get t i with a := false }) e.loops }

/-- The engine's command lies in the subtree. -/
def Engine.orphaned (e : Engine) (hs : List (BitVec 8)) : Bool := match e.run with
  | some r => hs.contains r.hyp
  | none => false

/-- An orphaned engine of the core stops. On a held core it stands at its boundary already, and abandons its command when the
restart applies the refutation to what it has read back. -/
def Core.orphanEngine (c : Core) (u : Sqr) (top par : BitVec 8) (hs : List (BitVec 8)) : Core :=
  if c.mode != .held && (c.eng u).orphaned hs then
    let c := if u = .ve then { c.vLandEvery with chain := none, veprog := 0#64 } else c
    let c := if u = .se then { c with front := none, carryAsk := none, seprog := 0#64, seFlags := 0#6 } else c
    let c := if u = .me then { c with tileReplay := c.tileReplay.filter (·.failed) } else c
    { c.mapEng u (fun e => e.abandon top par) with
      pfx := c.pfx.set (sqIx u) default, blocked := c.blocked.set (sqIx u) 0, cause := c.cause.set (sqIx u) none }
  else c

/-- Queue entries and tokens that carry a hypothesis of the subtree leave their queues, and a signal that has not
pushed yet gives its place back (R304, R305 step 2). -/
def Core.dropCarried (c : Core) (hs : List (BitVec 8)) : Core :=
  let ok (h : BitVec 8) : Bool := !hs.contains h
  let q (e : Engine) : Engine := { e with cmdq := e.cmdq.keep (fun r => ok r.hyp), bq := e.bq.keep (fun b => ok b.2) }
  let c := c.pend.foldl (fun c a => match a.kind with
    | .signal sb sa =>
      if ok a.hyp then c
      else
        let c := if sb then c.unreserveToken (signalBefore a.unit) else c
        if sa then c.unreserveToken (signalAfter a.unit) else c
    | _ => c) c
  let c := c.vretire.foldl (fun c r =>
    if ok r.hyp then c
    else
      let c := if r.sb then c.unreserveToken (signalBefore .ve) else c
      if r.sa then c.unreserveToken (signalAfter .ve) else c) c
  { c with
    vretire := c.vretire.map (fun r => if ok r.hyp then r else { r with sb := false, sa := false, gate := false }),
    ae := q c.ae, me := q c.me, se := q c.se, ve := q c.ve,
    pend := c.pend.filter (fun a => match a.kind with
      | .signal .. => ok a.hyp
      | .gate _ => ok a.hyp
      | _ => true),
    tokens := c.tokens.map (fun p => (p.1, { p.2 with toks := p.2.toks.filter ok })),
    fmtq := c.fmtq.keep (fun p => ok p.2), sclq := c.sclq.keep (fun e => ok e.hyp), rq := c.rq.keep (fun e => ok e.hyp) }

/-- Tagged writes of the subtree that are not performed, remembered ones too, are discarded, and complete for st
(R304). -/
def dropTagged (s : State) (hs : List (BitVec 8)) : State :=
  let armed (va pa : Nat) : Bool := s.armedAt pa || (match translate s s.core.tenant (BitVec.ofNat 64 va) 1 with
    | .ok (pa, _, _) => s.armedAt pa
    | .error _ => false)
  let tagged (a : Access) : Bool := hs.contains a.hyp && (match a.kind, a.place with
    | .store, .mem va pa => !armed va pa
    | _, _ => false)
  let lost (r : Replay) : Bool := r.replay && tagged r.access
  let n := (s.core.pend.filter tagged).length + (s.core.replays.filter lost).length
  s.mapCore (fun c => { c with pend := c.pend.filter (fun a => !tagged a), replays := c.replays.filter (fun r => !lost r), cntSt := c.cntSt - n })

/-- A pulled command of the subtree is abandoned: the puller's own ME is in force again, and the issuer's ME is the orphan
(R198, R305). -/
def dropPull (top par : BitVec 8) (hs : List (BitVec 8)) (s : State) : State :=
  if s.core.meOwn.isSome && s.core.me.orphaned hs then
    let issuer := s.core.me.reloc.getD s.lnum
    let o : Orphan := ⟨top, par, s.core.me.hypNow⟩
    within issuer (fun s => s.mapCore (fun c => { c with relocs := c.relocs.dropLast, me := { c.me with orphan := some o } })) (endPull s)
  else s

/-- A relocation context of the subtree that waits at its issuer is abandoned; that of a held core at the restart. -/
def Core.dropReloc (c : Core) (top par : BitVec 8) (hs : List (BitVec 8)) : Core :=
  match (if c.mode == .held then none else c.relocs.find? (fun x => x.eng.orphaned hs)) with
  | some x => { c with relocs := c.relocs.filter (fun x => !x.eng.orphaned hs), me := { c.me with orphan := some ⟨top, par, x.eng.hypNow⟩ } }
  | none => c

/-- The CC is an orphan when its own hypothesis lies in the subtree. -/
def Core.orphanCc (c : Core) (top par : BitVec 8) (hs : List (BitVec 8)) : Core :=
  { c with orphan := if hs.contains c.hyp then some ⟨top, par, c.hyp⟩ else c.orphan }

/-- Queue pointers of a core after a refutation: token places, copies, writes, orphans (R304, R305). -/
def refuteCore (top par : BitVec 8) (hs : List (BitVec 8)) (s : State) : State :=
  let s := s.mapCore (Core.mapOrphans (Orphan.refute top par hs))
  let s := dropPull top par hs s
  let s := (s.core.copies.filter (fun x => hs.contains x.hyp)).foldl discardCopy s
  let s := dropTagged s hs
  let s := s.mapCore (fun c => engines.foldl (fun c u => c.orphanEngine u top par hs) ((c.dropCarried hs).srfRefute hs))
  let s := s.mapCore (fun c =>
    let c := c.dropReloc top par hs
    if c.ctx.isSome then c.orphanCc top par hs else c)
  drain s

/-- A refutation in a saved context (R307): the context keeps its references until it resumes; then its entries and tokens
go, its copies complete as discards and its sequencers become orphans. -/
def Core.refuteSaved (c : Core) (top par : BitVec 8) (hs : List (BitVec 8)) : Core := c.mapOrphans (Orphan.refute top par hs)

/-! ### References: R306 -/

def Engine.refers (h : BitVec 8) (e : Engine) : Bool :=
  (match e.run with | some r => r.hyp == h | none => false) || e.cmdq.items.any (fun r => r.hyp == h) || e.bq.items.any (fun b => b.2 == h)

/-- Something in the core refers to the hypothesis. -/
def Core.refers (h : BitVec 8) (c : Core) : Bool :=
  c.hyp == h || engines.any (fun u => (c.eng u).refers h)
    || (match c.meOwn with | some e => e.refers h | none => false) || c.relocs.any (fun x => x.eng.refers h)
    || c.tokens.any (fun p => p.2.toks.contains h) || c.fmtq.items.any (fun p => p.2 == h) || c.sclq.items.any (fun e => e.hyp == h)
    || c.rq.items.any (fun e => e.hyp == h) || c.pend.any (fun a => a.hyp == h) || c.vretire.any (fun r => r.hyp == h)
    || c.copies.any (fun x => x.hyp == h) || c.replays.any (fun r => r.access.hyp == h)

def State.refers (s : State) (h : BitVec 8) : Bool :=
  (s.core.ctx.isSome && s.core.refers h) || s.others.any (fun p => p.2.ctx.isSome && p.2.refers h) || (s.saves ++ s.kept).any (fun x => x.core.refers h)

/-- An identifier becomes free, and HOPEN falls at the RCBs where it counted (R306, R318). -/
def freeHyp (s : State) (h : Nat) : State :=
  let e := s.hyps.get h
  let s := e.chain.foldl (fun s a => pokeAs s e.tenant (at' a 0x52) 2 (hopenAt s e.tenant a - 1)) s
  { s with hyps := s.hyps.erase h }

/-! ### The table -/

/-- The identifiers below `h`, nearest first: three levels at most (R296). -/
def hypBelow (s : State) (h : BitVec 8) : List (BitVec 8) :=
  let kids (l : List (BitVec 8)) : List (BitVec 8) :=
    (s.hyps.filter (fun p => p.2.state != 0 && l.contains p.2.parent)).map (fun p => BitVec.ofNat 8 p.1)
  let a := kids [h]
  let b := kids a
  a ++ b ++ kids b

/-- Act on every core of the device, one after another. -/
def onAllCores (f : State → State) (s : State) : State :=
  (s.others.map (·.1)).foldl (fun s n => within n f s) (f s)

/-- A version gives up its place. -/
def takeVer (s : State) (v : Version) : State := dropVer (freeSpill s v) v

/-- The runs of the bytes that a mask holds in one aligned dword of a line: first byte and length. -/
def maskRuns (mask d : Nat) : List (Nat × Nat) :=
  (List.range 8).foldr (fun i l =>
    if mask / 2 ^ (8 * d + i) % 2 = 0 then l
    else match l with
      | (k, n) :: t => if k = 8 * d + i + 1 then (8 * d + i, n + 1) :: t else (8 * d + i, 1) :: (k, n) :: t
      | [] => [(8 * d + i, 1)]) []

/-- The bytes of a version become committed bytes, one write for each run of them in a dword: no element is torn (R137, R303). -/
def commitVer (s : State) (v : Version) : State :=
  ((List.range 16).flatMap (maskRuns v.mask)).foldl (fun s r =>
    s.writePhys (v.line * 128 + r.1) ((List.range r.2).map (fun i => v.data.get (r.1 + i)))) s

/-- Merge one version of `h` into `p` (R303): into the committed bytes, into the version of `p`, or as that version. Where its
place in L2 would need a spill into a full area, it keeps the spill entry that it has. -/
def mergeVer (s : State) (p : BitVec 8) (v : Version) : State :=
  let s := takeVer s v
  let at_ (i : Nat) : Bool := v.mask / 2 ^ i % 2 == 1
  let used (s : State) : State := { s with verAge := s.verAge + 1 }
  if p = 0#8 then commitVer s v
  else match findVer s v.line p.toNat with
    | some w =>
      let w := (List.range 128).foldl (fun (w : Version) i => if at_ i then { w with mask := w.mask ||| 2 ^ i, data := w.data.set i (v.data.get i) } else w) w
      used (mirrorSpill (setVer s { w with age := s.verAge }) w)
    | none =>
      match makeRoom s v.line with
      | .ok s => used (setVer s { v with hyp := p, spilled := none, age := s.verAge })
      | .error _ => used (mirrorSpill (setVer s { v with hyp := p, age := s.verAge }) { v with hyp := p })

/-- Confirm the open hypothesis `h` in one step (R303). -/
def confirmHyp (s : State) (h : BitVec 8) : State :=
  let p := (s.hyps.get h.toNat).parent
  let below := hypBelow s h
  let s := (s.versNow.filter (fun v => v.hyp == h)).foldl (fun s v => mergeVer s p v) s
  let s := freeHyp s h.toNat
  let s := { s with hyps := s.hyps.map (fun q =>
    let q := (q.1, { q.2 with up := if q.2.up = h then p else q.2.up })
    if below.contains (BitVec.ofNat 8 q.1) then
      (q.1, { q.2 with depth := q.2.depth - 1, parent := if q.2.parent = h then p else q.2.parent }) else q) }
  let d (x : BitVec 8) : Nat := (s.hyps.get x.toNat).depth
  let r : Resolution := .ok h p below
  let s := onAllCores (fun s => s.mapCore (fun c => (c.confirm h p below d).logged r)) s
  let saved (x : SavedContext) : SavedContext := { x with core := x.core.confirm h p below d, log := x.log ++ [r] }
  { s with saves := s.saves.map saved, kept := s.kept.map saved }

/-- A table entry after a refutation of `hs` under `top`, whose parent is `par`: a refuted one drains, and one that drains
already below the subtree has a new topmost (R304, R305). -/
def Hyp.refuted (e : Hyp) (now : Bool) (top par : BitVec 8) (hs : List (BitVec 8)) : Hyp :=
  if now then { e with state := 2, top := top, up := par }
  else if e.state = 2 ∧ hs.contains e.up then { e with top := top, up := par }
  else e

/-- Refute the open hypothesis `h` with its open descendants in one step (R304). -/
def refuteHyp (s : State) (h : BitVec 8) : State :=
  let hs := h :: (hypBelow s h).filter (fun g => (s.hyps.get g.toNat).state == 1)
  let par := (s.hyps.get h.toNat).parent
  let s : State := (s.versNow.filter (fun v => hs.contains v.hyp)).foldl takeVer s
  let r : Resolution := .no h par hs
  let s : State := onAllCores (fun s => (refuteCore h par hs s).mapCore (fun c => c.logged r)) s
  let saved (x : SavedContext) : SavedContext := { x with core := x.core.refuteSaved h par hs, log := x.log ++ [r] }
  let s : State := { s with saves := s.saves.map saved, kept := s.kept.map saved }
  let s : State := { s with hyps := s.hyps.map (fun q => (q.1, q.2.refuted (hs.contains (BitVec.ofNat 8 q.1)) h par hs)) }
  hs.foldl (fun s g => if s.refers g then s else freeHyp s g.toNat) s

/-- A resolution that happened while the context of the core in focus was saved, applied to what its restart has read
back (R251, R307). -/
def applyResolution (s : State) (r : Resolution) : State :=
  match r with
  | .ok h p below => s.mapCore (fun c => c.confirm h p below (fun x => (s.hyps.get x.toNat).depth))
  | .no top par hs => refuteCore top par hs s

/-- A resolution that happened while the core in focus was held, applied to the register area that its restart has read
back; the SRF has stayed in place (R303, R304). -/
def applyArea (s : State) (r : Resolution) : State :=
  match r with
  | .ok h p _ => s.mapCore (fun c => c.confirmRefs h p (fun x => (s.hyps.get x.toNat).depth))
  | .no top par hs => refuteCore top par hs s

/-- A restart in place (R346): a fault of step 1 writes a new frame before any sequencer issues (R341). -/
def restartInPlace (s : State) : State :=
  match reloadArea s with
  | .ok s => restartSteps (s.core.log.foldl applyArea (s.mapCore (fun c => { c with mode := .restarting })))
  | .error f => takeFault (s.mapCore Core.running) (raisedBy s .cc f)

/-- Some sequencer of the core is an orphan (R305 step 3). -/
def Core.orphanPending (c : Core) : Bool := c.orphan.isSome || engines.any (fun u => (c.eng u).orphan.isSome)

/-- The orphan that F.ORPHAN reports: the CC, or the first engine that is one. -/
def Core.orphanOf (c : Core) : Option (Sqr × Orphan) :=
  [Sqr.cc, .ae, .me, .se, .ve].findSome? (fun u => ((if u = .cc then c.orphan else (c.eng u).orphan).map (fun o => (u, o))))

/-- The engines' marks go when F.ORPHAN is taken; that of an orphaned CC goes when its frame is written. -/
def Core.clearOrphans (c : Core) : Core := engines.foldl (fun c u => c.mapEng u (fun e => { e with orphan := none })) c

/-- F.ORPHAN at the CC's boundary (R305 step 3). DETAIL is the topmost refuted hypothesis above the orphan (R337). -/
def takeOrphan (s : State) : State :=
  match s.core.mode, s.core.orphanOf, s.core.underway with
  | .running, some (u, o), false =>
    takeFault (s.mapCore Core.clearOrphans)
      { raisedByUnit (.seq u) o.hyp ⟨cOrphan, o.top.toNat, 0#64⟩ with word := s.core.groupWord .cc }
  | _, _, _ => s

end Sys2Proof.Machine
end

