-- ==== Sys2Proof/Machine/Pool.lean ====
section
/-! DEFINITION. Ready pools: dispatch of fresh and of saved tasks (R25, R27, R321–R323, R424), saves (R330, R332, R347)
and the choice of a pre-emption victim (R331). -/
namespace Sys2Proof.Machine

/-! ### Free cores -/

/-- Dispatch may use the core: the cluster does not hold it for CRIT (R395), it is bound to a slot, and it is not being retired
(R398). -/
def State.coreUsable (s : State) (n : Nat) : Bool :=
  let c := s.clusters.get (clusterIx n)
  !c.critHold && !c.unavailable.contains n && !s.retiring.any (fun p => p.1 == n)

/-- A core is free when no task runs on it and it is not held (R321). -/
def State.coreFree (s : State) (n : Nat) : Bool := (s.coreAt n).mode == .halted && s.coreUsable n

/-- Logical cores of a die, lowest first. -/
def dieCores (die : Nat) : List Nat := (List.range 96).map (fun k => 96 * die + k)

/-- An entry that the pool may dispatch now, but for its core (R318, R321, R347). A saved task keeps its count and its
save block. -/
def State.entryEligible (s : State) (p : PoolEntry) : Bool :=
  p.eligible && (p.bound.isSome || (budgetOk s p.ctx && (freeBlock s p.ctx).isSome))

/-- The core that an entry would take: its own, or the lowest free one of the die. -/
def State.entryCore (s : State) (die : Nat) (p : PoolEntry) : Option Nat :=
  match p.bound with
  | some n => if s.coreFree n then some n else none
  | none => (dieCores die).find? (fun n => s.coreFree n)

/-- The entry of highest priority, and of earliest arrival among those. -/
def bestEntry (l : List PoolEntry) : Option PoolEntry :=
  l.foldl (fun acc p => match acc with
    | none => some p
    | some b => if b.ctx.prio < p.ctx.prio || (b.ctx.prio == p.ctx.prio && decide (p.arrival < b.arrival)) then some p else some b) none

/-- The pick of R321. -/
def State.pickEntry (s : State) (die : Nat) : Option PoolEntry :=
  bestEntry ((s.pools.get die).filter (fun p => s.entryEligible p && (s.entryCore die p).isSome))

def dropEntry (s : State) (die : Nat) (p : PoolEntry) : State :=
  { s with pools := s.pools.set die ((s.pools.get die).filter (fun q => q.arrival != p.arrival)) }

/-! ### State at dispatch -/

/-- Engine state of a fresh task on a core that its tenant used before (R424). The table clears the A bits of the loop
registers and keeps the latches; of the LS and LE bits it says nothing: they stay. (DESIGN CHOICE, assumption 51.) -/
def Engine.fresh (e : Engine) : Engine :=
  let quiet : Tab LoopReg := (List.range 4).foldl (fun t i => Tab.set t i { Tab.get t i with a := false }) e.loops
  { e with upc := 0, loops := quiet, loopOrder := [], run := none, ending := none, reloc := none, orphan := none, cmdq := default, bq := default }

/-- The core for a fresh task of the same tenant as its previous context: R424. The table does not name sys.fcause and
sys.faddr: they become 0, as for a context that has resumed from no frame (R348). (DESIGN CHOICE, assumption 51.) -/
def Core.freshSame (c : Core) : Core :=
  { Core.cleared c c.lastTenant with
    x := c.x, g := c.g, ae := c.ae.fresh, me := c.me.fresh, se := c.se.fresh, ve := c.ve.fresh,
    c := c.c, t := c.t, w := c.w, d := c.d, opd := c.opd, ring := c.ring, wb := c.wb, ab := c.ab, as := c.as,
    ldsTab := c.ldsTab, qrseed := c.qrseed, scratch := c.scratch, rtbase := c.rtbase, logring := c.logring, win := c.win }

/-- The core for a fresh task: R24 state when the tenant changes (R25), else R424. -/
def Core.freshFor (c : Core) (tenant : Nat) : Core :=
  if c.lastTenant = some tenant then c.freshSame else c.cleared c.lastTenant

/-- The image is on the core already (R321). -/
def Core.hasImage (c : Core) (x : Context) : Bool := c.rtbase == x.image && c.lastTenant == some x.tenant

/-- Words of 4 bytes of an image range. -/
def words32 (img : Tab Byte) (off n : Nat) : Tab (BitVec 32) := (wordsOf img off n 4).map (fun p => (p.1, BitVec.ofNat 32 p.2))

/-- Load the routine tables and instruction memories from the image of the context (R316, R321). -/
def loadImage (s : State) (x : Context) : Except Flt State :=
  match getVirt s x.image 0 270336 67 with
  | .error f => .error f
  | .ok (img, s) =>
    let load (c : Core) (u : Sqr) : Core := c.mapEng u (fun e =>
      { e with rtab := words32 img (67584 * engIx u) 512, imem := words32 img (67584 * engIx u + 2048) 16384 })
    .ok (s.mapCore (fun c => engines.foldl load { c with rtbase := x.image }))

/-- An image read fails (F.PAGE, F.PROT or F.ECC): the task is not started and becomes failed, with a record of frame address 0 (R321). -/
def imageFail (s : State) (x : Context) (f : Flt) : State :=
  let s := releaseBlock (addRun (setTaskState s x.tenant x.task 5) x (· - 1)) x
  report (noteEcc s (raisedByUnit (.seq .cc) 0#8 f)) (recordOf x 0#64 (causeWord f.code f.detail 0 s.lnum 0 false false false false) s.gtc)

/-- Start a fresh task on the core in focus (R27, R321, R322). -/
def startFresh (s : State) (p : PoolEntry) : State :=
  match freeBlock s p.ctx with
  | none => s
  | some k =>
    let x := { p.ctx with saveIx := k }
    let old := s.core
    let s := setTaskState s x.tenant x.task 2
    let s := pokeAs s x.tenant (at' x.task tkSaveix) 2 k
    let s := setSmap s x (smapOf s x + 2 ^ k)
    let s := addRun s x (· + 1)
    let s := { s with core := { old.freshFor x.tenant with ctx := some x } }
    match (if old.hasImage x then .ok s else loadImage s x) with
    | .error f => imageFail { s with core := old } x f
    | .ok s =>
      let c := (s.core.setReg .cc 1 x.task).setReg .cc 2 x.rcb
      { s with core := { c with pc := p.entry, mode := .running, lastTenant := some x.tenant } }

/-! ### Restoring: R251, R323, R346 -/

/-- A part of the save block, by its offset. -/
def readImage (s : State) (imgOff size : Nat) : Except Flt (Tab Byte × State) :=
  getVirt s (s.core.saveBlock + BitVec.ofNat 64 imgOff) 0 size (size / 4096 + 2)

/-- The SRF save area read back: primaries into their own slots, versions into free slots in ascending order, though
R251 allows any (R250, R251). (DESIGN CHOICE, assumption 60.) -/
def restoreSrf (img : Tab Byte) (c : Core) : Core :=
  let held := (List.range 2048).filter (fun k => (Tab.get img (k / 8)).toNat / 2 ^ (k % 8) % 2 == 1)
  let h := held.length
  let data := 0x100 + (8 * h + 255) / 256 * 256
  let c := { c with srf := [], slots := [] }
  let put (c : Core) (slot i : Nat) (st : SlotState) : Core :=
    { c with slots := c.slots.put slot st,
             srf := Tab.splice c.srf (256 * slot) (256 * slot + 256) (Tab.slice img (data + 256 * i) (data + 256 * i + 256) (256 * slot)) }
  let word (i : Nat) : Nat := readLE img (0x100 + 8 * i) 8
  let ps := (List.range h).zip held
  let c := ps.foldl (fun c p => if nbits (word p.1) 63 62 = 1 then put c p.2 p.1 .primary else c) c
  ps.foldl (fun c p =>
    let v := word p.1
    if nbits v 63 62 = 2 then
      match (List.range 2048).find? (fun k => (c.slots.get k) == SlotState.free) with
      | none => c
      | some k => put c k p.1 (.version (nbits v 58 48) (BitVec.ofNat 8 (nbits v 47 40)) (nbits v 39 38))
    else c) c

/-- A saved context on the core in focus again (R333, R346): its image, its buffers, the register area as it stands in
memory, the SRF, the resolutions since its save, and the restart steps. A fault of the reading writes a new frame.
(DEDUCED, assumption 44.) -/
def resumeSaved (s : State) (p : PoolEntry) : State :=
  match s.saves.find? (fun v => v.task == p.ctx.task && v.lnum == s.lnum) with
  | none => s
  | some v =>
    let old := s.core
    let s := setTaskState s p.ctx.tenant p.ctx.task 2
    let s := { s with saves := s.saves.filter (fun w => !(w.task == v.task && w.lnum == v.lnum)) }
    let imem (c : Core) (d : Core) (u : Sqr) : Core := d.mapEng u (fun e => { e with imem := (c.eng u).imem, rtab := (c.eng u).rtab })
    let s := { s with core := { engines.foldl (imem old) v.core with
      ctx := some p.ctx, mode := .restarting, rtbase := old.rtbase, lastTenant := some p.ctx.tenant, preempt := none, wb := [], ab := [], as := [], icache := old.icache,
      eccCorr := old.eccCorr, eccUncorr := old.eccUncorr, marks := old.marks, upsets := old.upsets } }
    match (if old.hasImage p.ctx then .ok s else loadImage s p.ctx) with
    | .error f => imageFail { s with core := { old with ctx := none } } p.ctx f
    | .ok s =>
      let all : Except Flt State :=
        match readImages s v.ranges with
        | .error f => .error f
        | .ok s => match reloadArea s with
          | .error f => .error f
          | .ok s => match readImage s 0x340000 0x88000 with
            | .error f => .error f
            | .ok (srf, s) => .ok ((s.core.log.foldl applyArea s).mapCore (restoreSrf srf))
      match all with
      | .error f => takeFault (s.mapCore Core.running) (raisedBy s .cc f)
      | .ok s => restartSteps (v.log.foldl applyResolution s)

/-- Dispatch the pick of a die (R321). The first dispatch fixes sys.coreid.DEV and the time base (R355, R401). -/
def dispatch (s : State) (die : Nat) : State :=
  match s.pickEntry die with
  | none => s
  | some p =>
    match s.entryCore die p with
    | none => s
    | some n =>
      let s := dropEntry s die p
      let s := { s with dispatched := true, arrivals := s.arrivals + 1, dispatches := s.dispatches.set n (s.arrivals + 1) }
      within n (fun s => if p.bound.isSome then resumeSaved s p else startFresh s p) s

/-! ### Saving: R330, R332, R347 -/

/-- STATE 3, the task in the pool bound to this core as its newest entry, the core free (R330, R332). The references
and the state of the context live on in its saved form. -/
def parkContext (s : State) (x : Context) (ranges : List (Nat × Nat × Nat)) (answered : Bool) : State :=
  let s := setTaskState s x.tenant x.task 3
  let die := dieOf s.lnum
  { s with
    pools := s.pools.set die (s.pools.get die ++ [⟨x, 0#64, s.arrivals, some s.lnum, answered⟩]), arrivals := s.arrivals + 1,
    saves := s.saves ++ [⟨x.task, s.lnum, { s.core with preempt := none, parking := none }, [], ranges⟩],
    core := { s.core with mode := .halted, parking := none, ctx := none, lastTenant := some x.tenant, preempt := none, slots := [], smp := [], smpq := [],
                          primary := none, causes := [], heldFaults := [], copies := [], vpend := [], vretire := [], pend := [] } }

/-- Park the context once the last write of its save is performed: at once, or when the writes to another device are acknowledged
(R332). -/
def parkSaved (s : State) (x : Context) (ranges : List (Nat × Nat × Nat)) (eligible : Bool) : State :=
  if s.saveOut then s.mapCore (fun c => { c with mode := .saving, parking := some (.context ranges eligible) })
  else parkContext s x ranges eligible

/-- Write the listed ranges, the SRF and the register area, and park the context (R330, R332). A context with an
unanswered frame is not eligible, and its frame's CAUSE gets SAVED (R347). A failed write fails the task (R334). -/
def saveContext (s : State) (ranges : List (Nat × Nat × Nat)) : State :=
  match s.core.ctx with
  | none => s
  | some x =>
    let framed := s.core.primary.isSome
    let s := (endPull s).mapCore (fun c => { c with saved := framed })
    match writeBlock s ranges with
    | .error (u, f) => failSave s u f
    | .ok s => parkSaved s x ranges (!framed || s.core.answered)

/-- A forced save stops the core and settles its work (R332 steps 1 to 4); the writes follow when all has settled. -/
def beginSquall (s : State) : State :=
  let s := stopRelocation (s.mapCore (fun c => { c.stopUnits with mode := .saving, causes := [] }))
  settle s

/-- Every carry that was granted a credit has landed (R263). -/
def Core.inboxLanded (c : Core) : Bool := !c.inbox.any (fun e => e.packet.isNone)

/-- The save may write: nothing is in flight, and every carry that was granted a credit has landed (R263, R332). -/
def Core.saveReady (c : Core) : Bool := c.settled && c.inboxLanded

/-- An access that faulted while a Squall settled: its frame is written first, and the Squall saves it (R334). -/
def adoptFault (s : State) : State :=
  match s.core.primary, s.core.causes, s.core.ctx with
  | none, r :: _, some x =>
    let s := s.mapCore (fun c => { c with primary := some r, frameGtc := s.gtc, saved := true, answered := false })
    report s (recordOf x s.core.frameAddr s.cause s.gtc)
  | _, _, _ => s

/-- The writes of a Squall (R332 steps 5 and 6), and the end of a save whose writes have been performed.
(DEDUCED, assumption 44.) -/
def finishSquall (s : State) : State :=
  match s.core.mode, s.core.parking, s.core.ctx with
  | .saving, some (.context ranges e), some x => parkSaved s x ranges e
  | .saving, none, _ => if s.core.saveReady then saveContext (adoptFault s) allRanges else s
  | _, _, _ => s

/-- Carries that landed after the register area was written go into their entries there (R263, R347). -/
def saveInbox (s : State) : Except Flt State :=
  match ((List.range 8).zip s.core.inbox).foldl (fun (acc : Except Flt State) p =>
    if p.2.listed || p.2.packet.isNone then acc
    else acc.bind (fun s => putVirt 7 s (s.core.frameAddr + BitVec.ofNat 64 (0x24100 + 0x1020 * p.1)) (bytesTab 0 (natToBytes 0x1020 p.2.image)) 0 0x1020 3))
    (.ok s) with
  | .error f => .error f
  | .ok s => .ok (s.mapCore (fun c => { c with inbox := c.inbox.map (fun e => { e with listed := e.packet.isSome }) }))

/-- Squall of a held context (R347): the buffers and the SRF are written around the register area already written, and
SAVED is set in its CAUSE. While a credited carry has not landed, the request stands (R263). -/
def squallHeld (s : State) : State :=
  match s.core.mode, s.core.ctx with
  | .held, some x =>
    if !s.core.inboxLanded then s.mapCore (fun c => { c with preempt := some (c.preempt.getD s.gtc) })
    else match writeStores s allRanges with
      | .error (u, f) => failSave s u f
      | .ok s =>
        let c := peekAs s x.tenant s.core.frameAddr 8
        let s := if c / 2 ^ 39 % 2 = 1 then s else pokeAs s x.tenant s.core.frameAddr 8 (c + 2 ^ 39)
        match saveInbox (s.mapCore (fun c => { c with saved := true })) with
        | .error f => failSave s 7 f
        | .ok s => parkSaved s x allRanges s.core.answered
  | _, _ => s

/-! ### Pre-emption: R331 -/

/-- The running task on a core of the die with the lowest priority; the latest dispatched among equals. -/
def State.victim (s : State) (die : Nat) (prio : Nat) : Option Nat :=
  let run := (dieCores die).filter (fun n => ((s.coreAt n).mode == .running || (s.coreAt n).mode == .held || (s.coreAt n).mode == .restarting)
    && (match (s.coreAt n).ctx with | some x => decide (x.prio < prio) | none => false))
  let pr (n : Nat) : Nat := match (s.coreAt n).ctx with
    | some x => x.prio
    | none => 0
  run.foldl (fun acc n => match acc with
    | none => some n
    | some m => if pr n < pr m || (pr n == pr m && decide (s.dispatches.get m < s.dispatches.get n)) then some n else some m) none

/-- The core that an entry without a free core asks to give up its task, where no request stands for it already (R331). -/
def State.asks (s : State) (die : Nat) (p : PoolEntry) : Option Nat :=
  let v : Option Nat := match p.bound with
    | none => s.victim die p.ctx.prio
    | some n => match (s.coreAt n).ctx with
      | some x => if x.prio < p.ctx.prio then some n else none
      | none => none
  v.filter (fun n => (s.coreAt n).preempt.isNone)

/-- The core that the pool asks to give up its task, or none: the best entry first, and of several bound entries each asks its own
core (R331). -/
def State.poolVictim (s : State) (die : Nat) : Option Nat :=
  (bestEntry ((s.pools.get die).filter (fun p => s.entryEligible p && (s.entryCore die p).isNone && (s.asks die p).isSome))).bind (s.asks die)

/-- Request pre-emption of the task on a core: one request stands at a time, with deadline sys.gtc + CKW; a held core
is saved at once (R331, R347). (DEDUCED, assumption 50.) -/
def requestPreempt (s : State) : State :=
  match s.core.ctx with
  | none => s
  | some x =>
    if s.core.mode == .held then squallHeld s
    else if s.core.preempt.isSome then s
    else s.mapCore (fun c => { c with preempt := some (s.gtc + BitVec.ofNat 64 x.ckw) })

/-- A standing request has passed its deadline. -/
def State.preemptDue (s : State) : Bool := match s.core.preempt with
  | some d => decide (d.toNat ≤ s.gtc.toNat)
  | none => false

end Sys2Proof.Machine
end

