-- ==== Sys2Proof/Machine/Flags.lean ====
section
/-! DEFINITION. The arithmetic flags, sys.aflags (R67, R68): NX, UF, OF, NV, SAT and VR in bits 0 to 5. A word sets
flags when it retires, in its own core; only a SYSW, by writing ones, clears them. -/
namespace Sys2Proof.Machine

/-- Set flags in the core in focus (R67). -/
def State.raiseFlags (s : State) (f : FlagSet) : State := { s with core := s.core.raiseFlags f }

/-- Clear the flags at which a written value holds ones (R67, R102: write one to clear). -/
def State.clearFlags (s : State) (v : Word) : State := { s with core := { s.core with aflags := s.core.aflags &&& ~~~(v.setWidth 6) } }

/-- The flags as sys.aflags shows them. -/
def State.flagsWord (s : State) : Word := s.core.aflags.setWidth 64

end Sys2Proof.Machine
end

