-- ==== Sys2Proof/Machine/Operands.lean ====
section
/-! DEFINITION. How every instruction word issues and retires: stream and field checks (R48), Calm stamps (R387, R388),
register interlocks (R83, R138), ring waits and signals (R115, R117), guards (R39), hardware loops (R112), blocked
cycles (R126, R127), and the immediates that EXT.I widens (R47). -/
namespace Sys2Proof.Machine

/-! ### Operand forms -/

/-- The prefixes of the group that the acting sequencer reads. -/
def State.pfx (s : State) : Prefixes := s.core.pfx.get (sqIx s.unit)

/-- A signed immediate of `n` bits, with the 21 bits of an EXT.I above it (R47). -/
def State.immS (s : State) {n : Nat} (b : BitVec n) : Int :=
  match s.pfx.extI with
  | none => sextNat n b.toNat
  | some h => sextNat (n + 21) (h.toNat * 2 ^ n + b.toNat)

/-- An unsigned immediate of `n` bits, with the 21 bits of an EXT.I above it (R47). -/
def State.immU (s : State) {n : Nat} (b : BitVec n) : Nat :=
  match s.pfx.extI with
  | none => b.toNat
  | some h => h.toNat * 2 ^ n + b.toNat

/-- The value of a register field of the acting sequencer. -/
def State.r5 (s : State) {n : Nat} (f : BitVec n) : Word := s.reg f.toNat

/-- Write a register field of the acting sequencer. -/
def State.w5 (s : State) {n : Nat} (f : BitVec n) (v : Word) : State := s.setReg f.toNat v

/-- Address of the group's first word, of its base word, and of the word after it: the micro-PC of an engine, the PC of
the CC (R44). -/
def State.groupAddr (s : State) : Nat := match s.unit with
  | .cc => s.core.pc.toNat
  | u => (s.core.eng u).upc
def State.baseAddr (s : State) : Nat := s.groupAddr + 4 * s.pfx.count
def State.nextAddr (s : State) : Nat := s.baseAddr + 4

/-! ### Outcomes of a word -/

/-- Where control goes when a word retires: on, or to `t` where no loop ends at the word (R111, R112); to an address;
or nowhere because the sequencer has become idle or stands at the word until it retires. -/
inductive Ctl where
  | next
  | to (t : Nat)
  | jump (t : Nat)
  | ended
  | pending
  deriving DecidableEq, Repr

/-- What a word that is ready does: it issues; or it is blocked by a cause of R126, which may leave a mark; or it
faults and has not issued, having taken what it took; or it has issued and faults before it retires; or it retires and
then stops the core, or a unit beside the CC raises faults as it retires; or it keeps the CC, or the SE, busy and goes on in the next cycle (R249, R423); or its group waits, in
blocked cycles, for its own earlier accesses or for an answer to what it has asked of another device; or it has done
everything itself. -/
inductive WordResult where
  | ok (s : State) (k : Ctl)
  | blocked (mark : State → State) (cause : Nat)
  | fault (f : Flt)
  | spent (mark : State → State) (f : Flt)
  | late (s : State) (f : Flt)
  | trapped (s : State) (f : Flt)
  | raises (s : State) (rs : List Raised)
  | busy (mark : State → State)
  | waits (mark : State → State)
  | done (s : State)

/-- A word that only advances. -/
def WordResult.next (s : State) : WordResult := .ok s .next

/-- A word whose operation may fault before it issues. -/
def WordResult.ofExcept (r : Except Flt State) : WordResult :=
  match r with
  | .ok s => .ok s .next
  | .error f => .fault f

/-! ### Issue conditions -/

/-- The acting sequencer is the CC, with a word under way: it completes before the core stops (R84, R423). -/
def State.midWord (s : State) : Bool := s.unit == .cc && s.core.underway && (s.core.mode == .running || s.core.mode == .stopping)

/-- The acting sequencer may issue: its core runs, and an engine runs a routine that has not ended. -/
def State.active (s : State) : Bool :=
  s.midWord || (s.core.mode == .running && (s.unit == .cc || ((s.core.eng s.unit).run.isSome && (s.core.eng s.unit).ending.isNone)))

/-- The checks of R48 on a word that has been read: streams (steps 3 and 5), then fields and EXT (step 6). -/
def decodeCheck (i : Instr) (u : Sqr) (p : Prefixes) : Option Flt :=
  match encode i with
  | none => none
  | some w =>
    if !majorIn (majorOf w) u then some ⟨cStream, 3, 0#64⟩
    else if !functIn w u then some ⟨cStream, 5, 0#64⟩
    else if !(i.wf && streamFieldsOk i u && extOk i p && !p.bad) then some ⟨cIllegal, 6, 0#64⟩
    else none

/-- Words that a relocatable command may not hold (R198). -/
def relocForbids (i : Instr) : Bool :=
  i.ring != 0#4 || (match i with
    | .bqBr .. => true
    | .bqBrn .. => true
    | .rqEnq .. => true
    | .waitc .. => true
    | .tbarInit .. => true
    | .tbarArrive .. => true
    | .tbarExpect .. => true
    | .tbarWait .. => true
    | .tbarTest .. => true
    | _ => false)

/-- The acting ME runs a relocatable command, pulled or its issuer's own: its operands A and B may lie in windows either way (R130, R191,
R197). (DESIGN CHOICE, assumption 60.) -/
def State.inReloc (s : State) : Bool :=
  s.unit == .me && (match s.core.me.run with | some r => r.reloc | none => false)

/-- VDEFER and VCH.END, which stand only inside a chain (R222, R224). -/
def isDefer (i : Instr) : Bool := match i with
  | .vdefer .. => true
  | _ => false
def isChainEnd (i : Instr) : Bool := match i with
  | .vchEnd _ => true
  | _ => false

/-- What chains forbid: inside one, any word but a slot without ring bits or VCH.END, and a ninth slot; outside, VDEFER and
VCH.END (R222, R224). -/
def chainFault (i : Instr) (s : State) : Option Flt :=
  if s.unit ≠ .ve then none
  else
    let w := (encode i).getD 0
    let slot := decide (0x28 ≤ majorOf w ∧ majorOf w ≤ 0x2B)
    match s.core.chain with
    | some ch =>
      if isChainEnd i || ((slot || isDefer i) && i.ring == 0#4 && decide (ch.slots.length < 8)) then none
      else some ⟨cIllegal, 12, 0#64⟩
    | none =>
      if isDefer i || isChainEnd i then some ⟨cIllegal, 12, 0#64⟩ else none

/-- Places of the queue and descriptor storage of a core that a word reads, as offsets in the register area with their lengths
(R342, R343): the descriptors that it names, and the head of the queue that it takes from. -/
def storageReads (i : Instr) (u : Sqr) (c : Core) : List (Store × Nat × Nat) :=
  let w := (encode i).getD 0
  let mj := majorOf w
  let fn := w / 2 ^ 18 % 16
  let at' (off size n lo : Nat) : Store × Nat × Nat := (.desc, off + size * (w / 2 ^ lo % n), size)
  let cd := at' 0xA00 48 8
  let td := at' 0xB80 16 8
  let wd := at' 0xC00 16 8
  let vd := at' 0xC80 16 16
  let od := at' 0xE00 128 16
  let iff (b : Bool) (l : List (Store × Nat × Nat)) : List (Store × Nat × Nat) := if b then l else []
  let fmt := iff (!c.fmtq.items.isEmpty) [(.queue, 0x2028 + 16 * c.fmtq.head, 16)]
  let eng := match u with | .ae => 0 | .me => 1 | .se => 2 | .ve => 3 | .cc => 0
  match i with
  | .rqDeq .. => iff (!c.rq.items.isEmpty) [(.queue, 0x3398 + 16 * c.rq.head, 16)]
  | .bqBr .. => iff (!(c.eng u).bq.items.isEmpty) [(.queue, 0x3338 + 24 * eng + 2 * (c.eng u).bq.head, 2)]
  | .bqBrn .. => iff (!(c.eng u).bq.items.isEmpty) [(.queue, 0x3338 + 24 * eng + 2 * (c.eng u).bq.head, 2)]
  | _ =>
    if 0x20 ≤ mj ∧ mj ≤ 0x23 then [cd 14]
    else if mj = 0x24 then [td 14, td 10, td 6] ++ fmt
    else if mj = 0x25 then [td 14] ++ iff (fn != 0) [td 10] ++ fmt
    else if mj = 0x28 ∨ mj = 0x29 ∨ mj = 0x2A ∨ mj = 0x2B then
      [vd 14] ++ iff (!w.testBit 5) [vd 10] ++ iff (!w.testBit 4 && (mj < 0x2A || (mj == 0x2A && fn < 3))) [vd 6]
    else if mj = 0x2C then [vd 14, vd 10]
    else if mj = 0x2D then iff (fn != 1) [vd 14]
    else if mj = 0x2F then [vd 14]
    else if mj = 0x30 then [wd 14] ++ iff (fn == 2 || fn == 3) [wd 10]
    else if mj = 0x32 then [wd 14, od 6] ++ iff (fn != 0 || w.testBit 1) [wd 10]
    else if mj = 0x33 then [wd 14, od 6]
    else if mj = 0x34 then [wd 14] ++ iff (w.testBit 4) [od 0]
    else if mj = 0x35 then [wd 14, wd 10, od 6] ++ iff (w.testBit 3) [wd 0]
    else []

/-- F.ECC where a word reads a marked place of that storage (R337, R397). -/
def storageFault (i : Instr) (s : State) : Option Flt :=
  if s.core.marks.isEmpty then none
  else if (storageReads i s.unit s.core).any (fun p => (s.core.markHit p.1 p.2.1 p.2.2).isSome) then some ⟨cEcc, 5, 0#64⟩ else none

/-- The faults that a word meets before anything of it is taken. (DEDUCED, assumptions 15, 18 and 21.) -/
def earlyFault (i : Instr) (s : State) : Option Flt :=
  match decodeCheck i s.unit s.pfx with
  | some f => some f
  | none => if s.inReloc && relocForbids i then some ⟨cQueue, 0, 0#64⟩ else (chainFault i s).or (storageFault i s)

/-- How a stamp decides in this cycle (R387): no stamp applies, the group waits, it must be ready now, or it has
overrun. -/
inductive StampState where
  | free | wait | now | overrun
  deriving DecidableEq, Repr

/-- The stamp of the acting sequencer's group, outside Calm mode without effect (R46), and not on the first group after
a restart that has missed its count (R388). (DESIGN CHOICE, assumption 10.) -/
def stampState (s : State) : StampState :=
  match s.pfx.stamp with
  | none => .free
  | some c =>
    if s.midWord || s.pfx.met then .free
    else
    let count := s.core.frameCount.toNat
    if !s.core.calm then .free
    else if s.core.exempt.get (sqIx s.unit) && decide (c.toNat ≤ count) then .free
    else if !s.core.frameRun then .overrun
    else if count < c.toNat then .wait
    else if count = c.toNat then .now
    else .overrun

/-- A register that the word names waits for its value (R83, R138, R169). -/
def State.interlocked (s : State) (i : Instr) : Bool := i.regs.any (fun n => s.regPending s.unit n)

/-- The word waits for a result of its sequencer, because it names the register, or is a word of major 0x07 beside a
division in progress (R83). Such a wait is no blocked cycle (R126). R83 speaks of a source; a word waits for its destination register too.
(DESIGN CHOICE, assumption 60.) -/
def State.dividing (s : State) (i : Instr) : Bool :=
  (s.core.divs.get (sqIx s.unit)).any (fun d =>
    d.left != 0 && ((d.division && (encode i).any (fun w => majorOf w == 7)) || (d.rd != 0 && i.regs.contains d.rd)))

/-- A result that later groups of sequencer `u` wait `n` cycles for (R83). -/
def Core.latency (c : Core) (u : Sqr) (n rd : Nat) (division : Bool) : Core :=
  { c with divs := c.divs.set (sqIx u) (⟨n, rd, division⟩ :: c.divs.get (sqIx u)) }

/-- The guard of a format G or B word lets it execute (R39); every other word executes. -/
def State.guarded (s : State) (i : Instr) : Bool :=
  match i.guardField with
  | none => true
  | some (g, n) => s.core.guardTrue g n

/-- Why the word cannot issue before its own conditions are looked at: an interlock, a window write of the VE that waits
for its allowance, a ring wait, a ring signal. -/
def issueBlock (i : Instr) (s : State) : Option Nat :=
  if s.interlocked i || (s.unit == .ve && s.core.windowWaits) then some 8
  else if !s.core.waitsReady s.unit i.ring then some 0
  else if !s.core.signalsReady s.unit i.ring then some 1
  else none

/-- The words that run node by node and go on from a recorded place (R249). -/
def isSeWord (i : Instr) : Bool := match i with
  | .srfLd .. => true
  | .srfSt .. => true
  | .srfZero .. => true
  | .scan .. => true
  | .scanSw .. => true
  | .scanRed .. => true
  | .scanApply .. => true
  | .scanApplyFirst .. => true
  | _ => false

/-- The word of the SE has issued and goes on from the place that SEPROG records (R249, R340). -/
def State.resumes (s : State) (i : Instr) : Bool := s.unit == .se && s.core.seprog.getLsbD 39 && isSeWord i

/-! ### Retirement -/

/-- The loop rule of R112 for a base word at `a` of an engine: the loops that end there are decided from the most
recently entered. -/
def loopsAt (e : Engine) (a : Nat) : List Nat → Engine × Option Nat
  | [] => (e, none)
  | n :: t =>
    let l := e.loops.get n
    if l.stop.toNat ≠ a then loopsAt e a t
    else if l.count = 0#24 then
      loopsAt { e with loops := e.loops.set n { l with a := false }, loopOrder := e.loopOrder.filter (· != n) } a t
    else ({ e with loops := e.loops.set n { l with count := l.count - 1 } }, some l.start.toNat)

/-- An engine after a base word at `a` that transfers no control, and whose own next word is at `t` (R112). -/
def Engine.advance (e : Engine) (a t : Nat) : Engine :=
  let (e, back) := loopsAt e a e.loopOrder
  { e with upc := back.getD t }

/-- Control after a word with base address `a` of sequencer `u`. -/
def Core.advance (c : Core) (u : Sqr) (a : Nat) (k : Ctl) : Core :=
  match k, u with
  | .next, .cc => { c with pc := BitVec.ofNat 64 (a + 4) }
  | .next, u => c.mapEng u (fun e => e.advance a (a + 4))
  | .to t, .cc => { c with pc := BitVec.ofNat 64 t }
  | .to t, u => c.mapEng u (fun e => e.advance a t)
  | .jump t, .cc => { c with pc := BitVec.ofNat 64 t }
  | .jump t, u => c.mapEng u (fun e => { e with upc := t })
  | _, _ => c

/-- The sequencer has issued its group: its prefixes are used, it is not blocked, and its restart exemption is over. -/
def Core.issued (c : Core) (u : Sqr) : Core :=
  { c with pfx := c.pfx.set (sqIx u) default, blocked := c.blocked.set (sqIx u) 0, cause := c.cause.set (sqIx u) none,
           exempt := c.exempt.set (sqIx u) false, poll := c.poll.set (sqIx u) none, bulk := if u = .cc then [] else c.bulk,
           underway := c.underway && u != .cc,
           instret := if u = .cc then c.instret + 1 else c.instret }

/-- The access-list entry that holds a word's ring signals until its sequencer's earlier accesses are performed. -/
def signalEntry (u : Sqr) (r : BitVec 4) (h : BitVec 8) : Access :=
  { unit := u, kind := .signal (sbBit r) (saBit r), place := .none, size := 0, rd := 0, data := 0#64, hyp := h,
    kindSO := false, kindUO := false, acq := false, rel := false, scope := 0, rmc := false, pid := 0, word := 0#64 }

/-- A queue entry that the acting sequencer has just pushed may be popped when its earlier accesses are performed, the
earlier writes of the VE among them: the push is a release at .core scope (R120, R152). -/
def State.pushGate (s : State) (q : Nat) : State :=
  let r : VRetire := ⟨s.core.vword, false, false, s.core.hypOf .ve, 0#6, true⟩
  if s.unit = .ve then (if r.ready s.core.vpend then s else s.mapCore (fun c => { c with vretire := c.vretire ++ [r] }))
  else if s.unitPending s.unit then
    s.mapCore (fun c => { c with pend := c.pend ++ [{ signalEntry s.unit 0#4 (c.hypOf s.unit) with kind := .gate q }] })
  else s

/-- The oldest of `n` entries that sequencer `u` has in queue `q` may not be popped yet. -/
def Core.gated (c : Core) (u : Sqr) (q n : Nat) : Bool :=
  decide (n ≤ (c.pend.filter (fun a => a.unit == u && a.kind == .gate q)).length
    + (if u = .ve then (c.vretire.filter (·.gate)).length else 0))

/-- The ring signals of a word that has issued: pushed at once when nothing of its sequencer is outstanding, else when
that has been performed (R115, R117); in the VE when its writes have landed (R211). -/
def giveRing (i : Instr) (u : Sqr) (h : BitVec 8) (s : State) : State :=
  let r := i.ring
  if !sbBit r && !saBit r then s
  else if u = .ve && !(VRetire.ready ⟨s.core.vword, false, false, h, 0#6, false⟩ s.core.vpend) then
    { s with core := { s.core.reserveSignals u r with vretire := s.core.vretire ++ [⟨s.core.vword, sbBit r, saBit r, h, 0#6, false⟩] } }
  else if s.unitPending u then
    { s with core := { s.core.reserveSignals u r with pend := s.core.pend ++ [signalEntry u r h] } }
  else { s with core := s.core.giveSignals u r h }

/-- HYP.OK, which may rename the hypothesis that it runs under. -/
def isHypOk (i : Instr) : Bool := match i with
  | .hypOk .. => true
  | _ => false

/-- The word acquires for its sequencer: an acquire, a fence, an observation, a pop or a counter wait (R147, R152). -/
def acquires (i : Instr) (p : Prefixes) : Bool :=
  (match p.extM with
    | some (_, _, o, _) => o.getLsbD 0
    | none => false) || (match i with
    | .fence .. => true
    | .ldAcq .. => true
    | .ldAcqPromote .. => true
    | .tbarWait .. => true
    | .tbarTest .. => true
    | .rqDeq .. => true
    | .waitc .. => true
    | .engFence .. => true
    | .collWait .. => true
    | .hypNo .. => true
    | .smpCfg .. => true
    | _ => false)

/-- A FENCE, which is at .core scope or wider (R155), or a word that orders the CC's accesses as FENCE.dev does (R291, R304). -/
def isFence (i : Instr) : Bool := match i with
  | .fence .. => true
  | .hypNo .. => true
  | .smpCfg .. => true
  | _ => false

/-- The instruction cache of the CC after a word (R85): a taken branch drops every word after a FENCE, and after another
acquire those that this CC has not stored to. -/
def ICache.after (c : ICache) (acq fence : Bool) (k : Ctl) : ICache :=
  let c := { c with fenced := c.fenced || fence, acquired := c.acquired || acq }
  match k with
  | .jump _ =>
    if c.fenced then ⟨[], [], false, false, true⟩
    else if c.acquired then { c with words := c.words.filter (fun w => c.own.contains w.1), acquired := false, held := true }
    else c
  | _ => c

/-- The effect of a CC word on what the CC fetches. A word whose guard is false has still taken its ring waits (R39, R117). -/
def noteFetch (i : Instr) (before : State) (k : Ctl) (c : Core) : Core :=
  if before.unit ≠ .cc then c
  else
    let waits := wbBit i.ring || waBit i.ring
    let runs := before.guarded i
    { c with icache := c.icache.after (waits || (runs && acquires i before.pfx)) (runs && isFence i) k }

/-- A word retires, or, where its ring signals must wait, has issued (R115, R117). `s` is the state after its effect,
`before` the state in which it issued, whose hypothesis its tokens carry; those of HYP.OK carry it as the confirmation
leaves it (R303, R305). -/
def retire (i : Instr) (before : State) (k : Ctl) (s : State) : State :=
  let u := before.unit
  let s := match k with
    | .pending => s
    | _ => giveRing i u (if isHypOk i then s.core.hypOf u else before.core.hypOf u) s
  { s with core := noteFetch i before k ((s.core.issued u).advance u before.baseAddr k) }

/-- One blocked cycle of the acting sequencer (R126, R127). A VE that is blocked lets its ordinary writes land. -/
def noteBlocked (s : State) (cause : Nat) : State :=
  let k := sqIx s.unit
  let c := { s.core with blocked := s.core.blocked.set k (s.core.blocked.get k + 1), cause := s.core.cause.set k (some cause) }
  { s with core := if s.unit = .ve then c.vDrain else c }

/-- The ring waits of a word have been taken; a VE word gets its number. -/
def takeRing (i : Instr) (s : State) : State :=
  let c := s.core.takeWaits s.unit i.ring
  { s with core := if s.unit = .ve then { c with vword := c.vword + 1 } else c }

/-- A group that is stamped for this cycle and not ready faults (R387); any other is blocked. -/
def blockOrStamp (s : State) (mark : State → State) (cause : Nat) : State :=
  if stampState s = .now then faultOf s s.unit ⟨cStamp, 0, 0#64⟩ else noteBlocked (mark s) cause

/-- One step of the VE after a word that is no region word (R209). -/
def stepAfter (u : Sqr) (s : State) : State := if u = .ve then { s with core := s.core.vStep } else s

/-- The word of the acting sequencer is no longer under way. -/
def leaveWord (s : State) : State := if s.unit = .cc then s.mapCore (fun c => { c with underway := false }) else s

/-- A group at its stamp count whose own memory work keeps it has met its stamp: no cause of R126 and no interlock holds for
it at that count (R387). -/
def metStamp (s : State) : State :=
  if stampState s = .now then s.mapCore (fun c => { c with pfx := c.pfx.set (sqIx s.unit) { s.pfx with met := true } }) else s

/-- A cycle of a word that has issued and is under way: a word of the SE (R249), or one of the CC, whose cycle is no blocked one
(R423). The ring waits of the CC are taken, and its prefixes go, when the word completes: until then it may
still fault as a word that has not issued. (DESIGN CHOICE, assumption 18.) -/
def stayUnderway (s : State) : State :=
  let u := s.unit
  if u = .cc ∧ s.core.underway = true then s
  else (metStamp s).mapCore (fun c =>
    { c with underway := c.underway || u == .cc, blocked := c.blocked.set (sqIx u) 0, cause := c.cause.set (sqIx u) none })

/-- Finish a word with what it did. (DEDUCED, assumption 16.) -/
def finishWord (i : Instr) (s : State) (r : WordResult) : State :=
  match r with
  | .ok t k => retire i s k t
  | .blocked mark cause => blockOrStamp (leaveWord s) mark cause
  | .fault f => faultOf (leaveWord s) s.unit f
  | .spent mark f => faultOf (mark (leaveWord s)) s.unit f
  | .late t f =>
    let c := { (t.core.issued s.unit).advance s.unit s.baseAddr .next with instret := t.core.instret }
    raiseAt { t with core := c } s.unit (raisedBy s s.unit f)
  | .trapped t f => raiseAt (retire i s .next t) s.unit (raisedBy s s.unit f)
  | .raises t rs => takeFaults (retire i s .next t) rs
  | .busy mark => stayUnderway (mark s)
  | .waits mark => noteBlocked (mark (metStamp (leaveWord s))) 8
  | .done t => t

/-- The effect of a word whose guard may be false: then it only advances, which is a step of a VE (R39, R209). -/
def guardedBody (i : Instr) (body : State → WordResult) (s : State) : WordResult :=
  if s.guarded i then body (takeRing i s) else .ok (stepAfter s.unit (takeRing i s)) .next

/-- Issue a word: `pre` are faults that stand before its ring waits, `body` what it does once it may issue. -/
def issueWith (pre : State → Option Flt) (i : Instr) (body : State → WordResult) (s : State) : State :=
  if !s.active then s
  else if s.midWord then resettle (finishWord i s (guardedBody i body s))
  else if s.resumes i then finishWord i s (body s)
  else match earlyFault i s with
    | some f => faultOf s s.unit f
    | none =>
      match stampState s with
      | .wait => s
      | .overrun => faultOf s s.unit ⟨cStamp, 0, 0#64⟩
      | st =>
        if s.dividing i then (if st = .now then faultOf s s.unit ⟨cStamp, 0, 0#64⟩ else s)
        else match pre s with
        | some f => if s.interlocked i then blockOrStamp s id 8 else faultOf s s.unit f
        | none =>
          match issueBlock i s with
          | some cause => blockOrStamp s id cause
          | none => finishWord i s (guardedBody i body s)

/-- Issue a word with no check of its own before its ring waits; in the VE it takes one step. (DEDUCED, assumption 18.) -/
def issue (i : Instr) (body : State → WordResult) (s : State) : State :=
  issueWith (fun _ => none) i (fun s => match body s with
    | .ok t k => .ok (stepAfter s.unit t) k
    | r => r) s

/-- The word will issue in this state: the conditions of R48, R115, R126, R138 and R387 that do not depend on its own
operation. -/
def State.ready (s : State) (i : Instr) : Bool :=
  s.active && !s.midWord && (earlyFault i s).isNone && (stampState s == .free || stampState s == .now) && !s.dividing i && (issueBlock i s).isNone && !s.resumes i

end Sys2Proof.Machine
end

