-- ==== Sys2Proof/Machine/Fetch.lean ====
section
/-! DEFINITION. Fetching an instruction word (R33, R85) and reading a group (R44, R48). -/
namespace Sys2Proof.Machine

/-- What a fetch gives: a word, nothing yet, or a fault. -/
inductive Fetched where
  | word (w : BitVec 32) (s : State)
  | wait (s : State)
  | fault (f : Flt)

/-- The words of the 64-byte line of a local address, as memory has them now (R85). -/
def fillLine (s : State) (pa : Nat) (c : ICache) : ICache :=
  let base := pa / 64 * 16
  { c with words := (List.range 16).foldl (fun t k => Tab.put t (base + k) (BitVec.ofNat 32 (s.readPhys (4 * (base + k)) 4))) c.words,
           own := c.own.filter (fun w => w / 16 != pa / 64) }

/-- The instruction cache without the wait of a branch. -/
def State.setICache (s : State) (c : ICache) : State := s.mapCore (fun k => { k with icache := { c with held := false } })

/-- A branch has been taken after a fence or an acquire that is not performed yet: what it makes visible is not there (R85). -/
def State.fetchHeld (s : State) : Bool :=
  s.core.icache.held && s.core.pend.any (fun a => a.unit == .cc && (a.kind == .fence || a.acq))

/-- The cached word that a fetch returns: one that memory has too, or, by the implementation's choice, an older one (R85).
(DESIGN CHOICE, assumption 54.) -/
def cachedWord (s : State) (pa : Nat) (now : Option (BitVec 32)) : Option (BitVec 32) :=
  match Tab.find? s.core.icache.words (pa / 4) with
  | none => none
  | some w => if some w = now then some w else if Config.fetchKept s.core.instret.toNat (pa / 4) then some w else none

/-- A word of the CC stream at `pc + 4 × (prefixes read)`; a fault names the group's first word (R85). -/
def fetchCc (s : State) : Fetched :=
  let a := s.core.pc + BitVec.ofNat 64 (4 * s.pfx.count)
  if !canonical a then .fault ⟨cPage, 0x40 + 8 * 2, s.core.pc⟩
  else if a.toNat % 4 ≠ 0 then .fault ⟨cAlign, 0, s.core.pc⟩
  else if s.fetchHeld then .wait s
  else match translate s s.core.tenant a 2 with
    | .error f => .fault { f with addr := s.core.pc }
    | .ok (pa, leaf, s) =>
      let now := if s.isLocal pa then some (BitVec.ofNat 32 (s.readPhys pa 4)) else none
      match cachedWord s pa now with
      | some w => .word w (s.setICache s.core.icache)
      | none =>
      if s.isLocal pa then
        match s.memMark pa 4 with
        | some f => .fault f
        | none => .word (BitVec.ofNat 32 (s.readPhys pa 4)) (s.setICache (fillLine s pa s.core.icache))
      else match s.core.fetching with
        | some (q, r) =>
          if q = pa then
            match r with
            | some w =>
              let c := s.core.icache
              .word w ((s.setICache { c with words := Tab.put c.words (pa / 4) w }).mapCore (fun c => { c with fetching := none }))
            | none => .wait s
          else .wait (s.mapCore (fun c => { c with fetching := none }))
        | none =>
          .wait (send (s.mapCore (fun c => { c with fetching := some (pa, none) })) (paDev pa) 0 (pteKey leaf) (.memRead pa 4) .fetch).2

/-- A word of an engine's instruction memory; past its end F.ILLEGAL, detail 9 (R33). (DEDUCED, assumption 14.) -/
def fetchEngine (s : State) (u : Sqr) : Fetched :=
  let a := (s.core.eng u).upc + 4 * s.pfx.count
  if 0x10000 ≤ a then .fault ⟨cIllegal, 9, 0#64⟩
  else if (s.core.markHit .imem (engIx u * 0x10000 + a) 4).isSome then .fault ⟨cEcc, 4, 0#64⟩
  else .word ((s.core.eng u).imem.get (a / 4)) s

/-- The next word of the acting sequencer. -/
def fetch (s : State) : Fetched := match s.unit with
  | .cc => fetchCc s
  | u => fetchEngine s u

/-- The fault of a word that does not decode (R48). -/
def decodeFault (e : DecodeError) : Flt :=
  match e with
  | .step n => if n = 3 ∨ n = 5 then ⟨cStream, n, 0#64⟩ else ⟨cIllegal, n, 0#64⟩

/-- Remember the word that is being decided, for the frame (R340). -/
def noteWord (s : State) (w : BitVec 32) : State :=
  { s with core := { s.core with curWord := s.core.curWord.set (sqIx s.unit) w } }

end Sys2Proof.Machine
end

