-- ==== Sys2Proof/Machine/Alu.lean ====
section
/-! DEFINITION. Integer instructions (R87–R92): register and immediate arithmetic, shifts, multiply and divide, moves and
address arithmetic. No word of this file sets a flag or faults after decode (R79). -/
namespace Sys2Proof.Machine

/-- A word that writes one register with a value of the state in which it issues. -/
def setsReg (i : Instr) (d : BitVec 5) (v : State → Word) (s : State) : Host.Outcome State Fault Refusal :=
  .next (issue i (fun s => .next (s.w5 d (v s))) s)

/-- A 32-bit result, sign-extended (R87). -/
def sext32 (v : Word) : Word := wordOfInt (sextNat 32 v.toNat)

/-- Leading zero bits of a word; 64 for zero (R87). -/
def leadingZeros (v : Word) : Nat := if v = 0#64 then 64 else 63 - Nat.log2 v.toNat

/-- Trailing zero bits from bit `n` up to bit 63. -/
def trailingFrom (v : Word) : Nat → Nat → Nat
  | 0, _ => 0
  | fuel + 1, n => if v.getLsbD n then 0 else 1 + trailingFrom v fuel (n + 1)

/-- Trailing zero bits of a word; 64 for zero (R87). -/
def trailingZeros (v : Word) : Nat := trailingFrom v 64 0

/-- One bits of a word (R87). -/
def oneBits (v : Word) : Nat := (List.range 64).countP (fun n => v.getLsbD n)

/-- A signed value clamped to 64 bits (R87). -/
def clampWord (v : Int) : Word := wordOfInt (min (2 ^ 63 - 1 : Nat) (max (-(2 ^ 63 : Nat)) v))

/-- A word that is 1 or 0. -/
def bitWord (b : Bool) : Word := if b then 1#64 else 0#64

/-- The amount of a shift by a register: bits 5:0 (R89). -/
def shiftAmount (v : Word) : Nat := v.toNat % 64
/-- The amount of an immediate shift: its low five bits and its high bit (R50, R89). -/
def shiftImm (n : BitVec 5) (h : BitVec 1) : Nat := h.toNat * 32 + n.toNat

def mulHigh (a b : Int) : Word := wordOfInt (a * b / (2 ^ 64 : Nat))

/-- DIV.i64: truncated, −1 for a zero divisor, −2^63 for the overflow (R90). -/
def divSigned (a b : Word) : Word := if b = 0#64 then BitVec.allOnes 64 else wordOfInt (Int.tdiv a.toInt b.toInt)
/-- REM.i64: the sign of the dividend, the dividend for a zero divisor (R90). -/
def remSigned (a b : Word) : Word := if b = 0#64 then a else wordOfInt (Int.tmod a.toInt b.toInt)
/-- DIV.n64 (R90). -/
def divUnsigned (a b : Word) : Word := if b = 0#64 then BitVec.allOnes 64 else BitVec.ofNat 64 (a.toNat / b.toNat)
/-- REM.n64 (R90). -/
def remUnsigned (a b : Word) : Word := if b = 0#64 then a else BitVec.ofNat 64 (a.toNat % b.toNat)

/-- A division or remainder: its sequencer has a division in progress for 34 cycles (R83). -/
def divides (i : Instr) (d : BitVec 5) (v : State → Word) (s : State) : Host.Outcome State Fault Refusal :=
  .next (issue i (fun s => .next ((s.w5 d (v s)).mapCore (fun c => c.latency s.unit 34 d.toNat true))) s)

/-- A product: a group that names its register waits 3 cycles from its issue (R83). -/
def multiplies (i : Instr) (d : BitVec 5) (v : State → Word) (s : State) : Host.Outcome State Fault Refusal :=
  .next (issue i (fun s => .next ((s.w5 d (v s)).mapCore (fun c => c.latency s.unit 3 d.toNat false))) s)

/-! ### Register arithmetic: R87 -/

/-- R87 ADD -/
def execAdd (r : BitVec 4) (d a b : BitVec 5) (s : State) : Host.Outcome State Fault Refusal :=
  setsReg (.add r d a b) d (fun s => s.r5 a + s.r5 b) s

/-- R87 SUB -/
def execSub (r : BitVec 4) (d a b : BitVec 5) (s : State) : Host.Outcome State Fault Refusal :=
  setsReg (.sub r d a b) d (fun s => s.r5 a - s.r5 b) s

/-- R87 AND -/
def execAnd (r : BitVec 4) (d a b : BitVec 5) (s : State) : Host.Outcome State Fault Refusal :=
  setsReg (.and r d a b) d (fun s => s.r5 a &&& s.r5 b) s

/-- R87 OR -/
def execOr (r : BitVec 4) (d a b : BitVec 5) (s : State) : Host.Outcome State Fault Refusal :=
  setsReg (.or r d a b) d (fun s => s.r5 a ||| s.r5 b) s

/-- R87 XOR -/
def execXor (r : BitVec 4) (d a b : BitVec 5) (s : State) : Host.Outcome State Fault Refusal :=
  setsReg (.xor r d a b) d (fun s => s.r5 a ^^^ s.r5 b) s

/-- R87 ANDN -/
def execAndn (r : BitVec 4) (d a b : BitVec 5) (s : State) : Host.Outcome State Fault Refusal :=
  setsReg (.andn r d a b) d (fun s => s.r5 a &&& ~~~(s.r5 b)) s

/-- R87 MIN.i64 -/
def execMinI64 (r : BitVec 4) (d a b : BitVec 5) (s : State) : Host.Outcome State Fault Refusal :=
  setsReg (.minI64 r d a b) d (fun s => if (s.r5 a).slt (s.r5 b) then s.r5 a else s.r5 b) s

/-- R87 MAX.i64 -/
def execMaxI64 (r : BitVec 4) (d a b : BitVec 5) (s : State) : Host.Outcome State Fault Refusal :=
  setsReg (.maxI64 r d a b) d (fun s => if (s.r5 a).slt (s.r5 b) then s.r5 b else s.r5 a) s

/-- R87 MIN.n64 -/
def execMinN64 (r : BitVec 4) (d a b : BitVec 5) (s : State) : Host.Outcome State Fault Refusal :=
  setsReg (.minN64 r d a b) d (fun s => if (s.r5 a).ult (s.r5 b) then s.r5 a else s.r5 b) s

/-- R87 MAX.n64 -/
def execMaxN64 (r : BitVec 4) (d a b : BitVec 5) (s : State) : Host.Outcome State Fault Refusal :=
  setsReg (.maxN64 r d a b) d (fun s => if (s.r5 a).ult (s.r5 b) then s.r5 b else s.r5 a) s

/-- R87 ADD.i32 -/
def execAddI32 (r : BitVec 4) (d a b : BitVec 5) (s : State) : Host.Outcome State Fault Refusal :=
  setsReg (.addI32 r d a b) d (fun s => sext32 (s.r5 a + s.r5 b)) s

/-- R87 SUB.i32 -/
def execSubI32 (r : BitVec 4) (d a b : BitVec 5) (s : State) : Host.Outcome State Fault Refusal :=
  setsReg (.subI32 r d a b) d (fun s => sext32 (s.r5 a - s.r5 b)) s

/-- R87 CLZ -/
def execClz (r : BitVec 4) (d a : BitVec 5) (s : State) : Host.Outcome State Fault Refusal :=
  setsReg (.clz r d a) d (fun s => BitVec.ofNat 64 (leadingZeros (s.r5 a))) s

/-- R87 CTZ -/
def execCtz (r : BitVec 4) (d a : BitVec 5) (s : State) : Host.Outcome State Fault Refusal :=
  setsReg (.ctz r d a) d (fun s => BitVec.ofNat 64 (trailingZeros (s.r5 a))) s

/-- R87 POPC -/
def execPopc (r : BitVec 4) (d a : BitVec 5) (s : State) : Host.Outcome State Fault Refusal :=
  setsReg (.popc r d a) d (fun s => BitVec.ofNat 64 (oneBits (s.r5 a))) s

/-- R87 ADDS.i64 -/
def execAddsI64 (r : BitVec 4) (d a b : BitVec 5) (s : State) : Host.Outcome State Fault Refusal :=
  setsReg (.addsI64 r d a b) d (fun s => clampWord ((s.r5 a).toInt + (s.r5 b).toInt)) s

/-! ### Immediate arithmetic: R88 -/

/-- R88 ADDI -/
def execAddi (r : BitVec 4) (d a : BitVec 5) (i : BitVec 9) (s : State) : Host.Outcome State Fault Refusal :=
  setsReg (.addi r d a i) d (fun s => s.r5 a + wordOfInt (s.immS i)) s

/-- R88 ANDI -/
def execAndi (r : BitVec 4) (d a : BitVec 5) (i : BitVec 9) (s : State) : Host.Outcome State Fault Refusal :=
  setsReg (.andi r d a i) d (fun s => s.r5 a &&& wordOfInt (s.immS i)) s

/-- R88 ORI -/
def execOri (r : BitVec 4) (d a : BitVec 5) (i : BitVec 9) (s : State) : Host.Outcome State Fault Refusal :=
  setsReg (.ori r d a i) d (fun s => s.r5 a ||| wordOfInt (s.immS i)) s

/-- R88 XORI -/
def execXori (r : BitVec 4) (d a : BitVec 5) (i : BitVec 9) (s : State) : Host.Outcome State Fault Refusal :=
  setsReg (.xori r d a i) d (fun s => s.r5 a ^^^ wordOfInt (s.immS i)) s

/-- R88 SLTI -/
def execSlti (r : BitVec 4) (d a : BitVec 5) (i : BitVec 9) (s : State) : Host.Outcome State Fault Refusal :=
  setsReg (.slti r d a i) d (fun s => bitWord ((s.r5 a).slt (wordOfInt (s.immS i)))) s

/-- R88 SLTIU -/
def execSltiu (r : BitVec 4) (d a : BitVec 5) (i : BitVec 9) (s : State) : Host.Outcome State Fault Refusal :=
  setsReg (.sltiu r d a i) d (fun s => bitWord ((s.r5 a).ult (wordOfInt (s.immS i)))) s

/-! ### Shifts: R89 -/

/-- R89 SLL -/
def execSll (r : BitVec 4) (d a b : BitVec 5) (s : State) : Host.Outcome State Fault Refusal :=
  setsReg (.sll r d a b) d (fun s => s.r5 a <<< (shiftAmount (s.r5 b))) s

/-- R89 SRL -/
def execSrl (r : BitVec 4) (d a b : BitVec 5) (s : State) : Host.Outcome State Fault Refusal :=
  setsReg (.srl r d a b) d (fun s => s.r5 a >>> (shiftAmount (s.r5 b))) s

/-- R89 SRA -/
def execSra (r : BitVec 4) (d a b : BitVec 5) (s : State) : Host.Outcome State Fault Refusal :=
  setsReg (.sra r d a b) d (fun s => (s.r5 a).sshiftRight (shiftAmount (s.r5 b))) s

/-- R89 ROR -/
def execRor (r : BitVec 4) (d a b : BitVec 5) (s : State) : Host.Outcome State Fault Refusal :=
  setsReg (.ror r d a b) d (fun s => (s.r5 a).rotateRight (shiftAmount (s.r5 b))) s

/-- R89 SLLI -/
def execSlli (r : BitVec 4) (d a n : BitVec 5) (h : BitVec 1) (s : State) : Host.Outcome State Fault Refusal :=
  setsReg (.slli r d a n h) d (fun s => s.r5 a <<< (shiftImm n h)) s

/-- R89 SRLI -/
def execSrli (r : BitVec 4) (d a n : BitVec 5) (h : BitVec 1) (s : State) : Host.Outcome State Fault Refusal :=
  setsReg (.srli r d a n h) d (fun s => s.r5 a >>> (shiftImm n h)) s

/-- R89 SRAI -/
def execSrai (r : BitVec 4) (d a n : BitVec 5) (h : BitVec 1) (s : State) : Host.Outcome State Fault Refusal :=
  setsReg (.srai r d a n h) d (fun s => (s.r5 a).sshiftRight (shiftImm n h)) s

/-- R89 RORI -/
def execRori (r : BitVec 4) (d a n : BitVec 5) (h : BitVec 1) (s : State) : Host.Outcome State Fault Refusal :=
  setsReg (.rori r d a n h) d (fun s => (s.r5 a).rotateRight (shiftImm n h)) s

/-! ### Multiply and divide: R90 -/

/-- R90 MUL -/
def execMul (r : BitVec 4) (d a b : BitVec 5) (s : State) : Host.Outcome State Fault Refusal :=
  multiplies (.mul r d a b) d (fun s => s.r5 a * s.r5 b) s

/-- R90 MULH.i64 -/
def execMulhI64 (r : BitVec 4) (d a b : BitVec 5) (s : State) : Host.Outcome State Fault Refusal :=
  multiplies (.mulhI64 r d a b) d (fun s => mulHigh (s.r5 a).toInt (s.r5 b).toInt) s

/-- R90 MULH.n64 -/
def execMulhN64 (r : BitVec 4) (d a b : BitVec 5) (s : State) : Host.Outcome State Fault Refusal :=
  multiplies (.mulhN64 r d a b) d (fun s => mulHigh (s.r5 a).toNat (s.r5 b).toNat) s

/-- R90 DIV.i64 -/
def execDivI64 (r : BitVec 4) (d a b : BitVec 5) (s : State) : Host.Outcome State Fault Refusal :=
  divides (.divI64 r d a b) d (fun s => divSigned (s.r5 a) (s.r5 b)) s

/-- R90 DIV.n64 -/
def execDivN64 (r : BitVec 4) (d a b : BitVec 5) (s : State) : Host.Outcome State Fault Refusal :=
  divides (.divN64 r d a b) d (fun s => divUnsigned (s.r5 a) (s.r5 b)) s

/-- R90 REM.i64 -/
def execRemI64 (r : BitVec 4) (d a b : BitVec 5) (s : State) : Host.Outcome State Fault Refusal :=
  divides (.remI64 r d a b) d (fun s => remSigned (s.r5 a) (s.r5 b)) s

/-- R90 REM.n64 -/
def execRemN64 (r : BitVec 4) (d a b : BitVec 5) (s : State) : Host.Outcome State Fault Refusal :=
  divides (.remN64 r d a b) d (fun s => remUnsigned (s.r5 a) (s.r5 b)) s

/-! ### Moves and addresses: R91, R92 -/

/-- R91 MOVI -/
def execMovi (r : BitVec 4) (d : BitVec 5) (i : BitVec 16) (s : State) : Host.Outcome State Fault Refusal :=
  setsReg (.movi r d i) d (fun s => wordOfInt (s.immS i)) s

/-- R91 LIH: it reads its own destination -/
def execLih (r : BitVec 4) (d : BitVec 5) (i : BitVec 16) (s : State) : Host.Outcome State Fault Refusal :=
  setsReg (.lih r d i) d (fun s => (s.r5 d <<< 16) ||| i.setWidth 64) s

/-- R92 LEA.1: it reads its own destination -/
def execLea1 (r : BitVec 4) (d a : BitVec 5) (i : BitVec 9) (s : State) : Host.Outcome State Fault Refusal :=
  setsReg (.lea1 r d a i) d (fun s => s.r5 d + s.r5 a * 1#64 + wordOfInt (s.immS i)) s

/-- R92 LEA.2: it reads its own destination -/
def execLea2 (r : BitVec 4) (d a : BitVec 5) (i : BitVec 9) (s : State) : Host.Outcome State Fault Refusal :=
  setsReg (.lea2 r d a i) d (fun s => s.r5 d + s.r5 a * 2#64 + wordOfInt (s.immS i)) s

/-- R92 LEA.4: it reads its own destination -/
def execLea4 (r : BitVec 4) (d a : BitVec 5) (i : BitVec 9) (s : State) : Host.Outcome State Fault Refusal :=
  setsReg (.lea4 r d a i) d (fun s => s.r5 d + s.r5 a * 4#64 + wordOfInt (s.immS i)) s

/-- R92 LEA.8: it reads its own destination -/
def execLea8 (r : BitVec 4) (d a : BitVec 5) (i : BitVec 9) (s : State) : Host.Outcome State Fault Refusal :=
  setsReg (.lea8 r d a i) d (fun s => s.r5 d + s.r5 a * 8#64 + wordOfInt (s.immS i)) s

end Sys2Proof.Machine
end

