-- ==== Sys2Proof/Machine/Blocks.lean ====
section
/-! DEFINITION. Blocks of memory that a CC word reads whole (R275, R281, R391): where a block lies in another device's
memory its bytes are fetched first, one packet for each part within an aligned run of 256 bytes (R354, R362), and the word runs when
all are there. -/
namespace Sys2Proof.Machine

/-- The parts of a block that lie within one aligned run of 256 bytes. -/
def pageParts : Nat → Word → Nat → List (Word × Nat)
  | 0, _, _ => []
  | fuel + 1, va, n =>
    if n = 0 then []
    else
      let k := min n (256 - va.toNat % 256)
      (va, k) :: pageParts fuel (va + BitVec.ofNat 64 k) (n - k)

/-- The parts of a list that lie on other devices, up to the first that R133 refuses: physical address, length, key index. -/
def partsAway (s : State) : List (Word × Nat) → List (Nat × Nat × Nat)
  | [] => []
  | p :: t =>
    if !canonical p.1 then []
    else match translate s s.core.tenant p.1 0 with
      | .error _ => []
      | .ok (pa, leaf, _) => if s.isLocal pa then partsAway s t else (pa, p.2, pteKey leaf) :: partsAway s t

/-- The parts of blocks that lie on other devices, as far as the word reaches them (R133). -/
def remoteParts (s : State) (bs : List (Word × Nat)) : List (Nat × Nat × Nat) :=
  partsAway s (bs.flatMap (fun b => pageParts (b.2 / 256 + 2) b.1 b.2))

/-- Ask for a part, unless it is there or asked for. Dirty bytes that the die holds of it are written back first: the word sees
its core's earlier stores (R135, R148). -/
def askPart (s : State) (p : Nat × Nat × Nat) : State :=
  let within (q : Nat) : Bool := decide (p.1 ≤ q ∧ q < p.1 + p.2.1)
  if s.core.bulk.any (fun b => b.1 == p.1 && (match b.2 with
    | none => true
    | some d => decide (p.2.1 ≤ d.length))) then s
  else match s.cleaning [s.die] within with
    | .send => writeBackDies [s.die] within s
    | .wait => s
    | .clean =>
      let s := s.mapCore (fun c => { c with bulk := c.bulk.filter (fun b => b.1 != p.1) ++ [(p.1, none)] })
      (send s (paDev p.1) 0 p.2.2 (.memRead p.1 p.2.1) .bulk).2

/-- Ask for the parts that are not there and not asked for. -/
def askParts (ps : List (Nat × Nat × Nat)) (s : State) : State := ps.foldl askPart s

/-- The parts of blocks on other devices that have not come. -/
def unfetched (s : State) (bs : List (Word × Nat)) : List (Nat × Nat × Nat) :=
  (remoteParts s bs).filter (fun p => !s.core.bulk.any (fun b => b.1 == p.1 && (match b.2 with
    | none => false
    | some d => decide (p.2.1 ≤ d.length))))

/-- The bytes that have come, laid over memory at their own physical addresses. -/
def overlayBulk (s : State) : State :=
  { s with mem := s.core.bulk.foldl (fun m b => writeBytes m b.1 (b.2.getD [])) s.mem }

/-- Memory without bytes of other devices. -/
def dropOverlay (s : State) : State := { s with mem := s.mem.filter (fun p => s.isLocal p.1) }

/-- Nothing fetched is kept. -/
def dropBulk (s : State) : State := { dropOverlay s with core := { s.core with bulk := [] } }

/-- A word's result without the overlay. -/
def WordResult.dropBulk (r : WordResult) : WordResult :=
  match r with
  | .ok s k => .ok (Machine.dropBulk s) k
  | .late s f => .late (Machine.dropBulk s) f
  | .done s => .done (Machine.dropBulk s)
  | .trapped s f => .trapped (Machine.dropBulk s) f
  | .raises s rs => .raises (Machine.dropBulk s) rs
  | .spent mark f => .spent (fun s => Machine.dropBulk (mark s)) f
  | r => r

/-- How a word waits for bytes of another device: it keeps the CC busy, or its cycles are blocked ones (R423). -/
inductive Await where
  | busy | blocked
  deriving DecidableEq, Repr

/-- The cycle of such a wait. -/
def Await.cycle (w : Await) (mark : State → State) : WordResult :=
  match w with
  | .busy => .busy mark
  | .blocked => .waits mark

/-- Run a word that reads these blocks; a word that is then blocked has read them (R329). -/
def withBlocks (w : Await) (bs : List (Word × Nat)) (body : State → WordResult) (s : State) : WordResult :=
  match remoteParts s bs with
  | [] => body s
  | _ =>
    match unfetched s bs with
    | [] => match body (overlayBulk s) with
      | .spent mark f => .spent (fun s => Machine.dropBulk (mark (overlayBulk s))) f
      | .busy mark => .busy (fun s => Machine.dropBulk (mark (overlayBulk s)))
      | .waits mark => .waits (fun s => dropOverlay (mark (overlayBulk s)))
      | .blocked mark cause => .blocked (fun s => dropOverlay (mark (overlayBulk s))) cause
      | r => r.dropBulk
    | ps => w.cycle (askParts ps)

end Sys2Proof.Machine
end

