-- ==== Sys2Proof/Machine/Guard.lean ====
section
/-! DEFINITION. Compares, guard logic, select (R93–R95), branches and jumps (R96–R98). -/
namespace Sys2Proof.Machine

/-- A word that writes one guard (R80). -/
def setsGuard (i : Instr) (d : BitVec 5) (v : State → Bool) (s : State) : Host.Outcome State Fault Refusal :=
  .next (issue i (fun s => .next (s.mapCore (fun c => c.setGuard d.toNat (v s)))) s)

/-- The guard that a field names. -/
def State.gd (s : State) (n : BitVec 5) : Bool := s.core.guard n.toNat

/-! ### Compares: R93 -/

/-- R93 -/
def execCmpEq (r : BitVec 4) (d a b : BitVec 5) (s : State) : Host.Outcome State Fault Refusal :=
  setsGuard (.cmpEq r d a b) d (fun s => s.r5 a == s.r5 b) s

/-- R93 -/
def execCmpNe (r : BitVec 4) (d a b : BitVec 5) (s : State) : Host.Outcome State Fault Refusal :=
  setsGuard (.cmpNe r d a b) d (fun s => s.r5 a != s.r5 b) s

/-- R93 -/
def execCmpLtI64 (r : BitVec 4) (d a b : BitVec 5) (s : State) : Host.Outcome State Fault Refusal :=
  setsGuard (.cmpLtI64 r d a b) d (fun s => (s.r5 a).slt (s.r5 b)) s

/-- R93 -/
def execCmpGeI64 (r : BitVec 4) (d a b : BitVec 5) (s : State) : Host.Outcome State Fault Refusal :=
  setsGuard (.cmpGeI64 r d a b) d (fun s => !(s.r5 a).slt (s.r5 b)) s

/-- R93 -/
def execCmpLtN64 (r : BitVec 4) (d a b : BitVec 5) (s : State) : Host.Outcome State Fault Refusal :=
  setsGuard (.cmpLtN64 r d a b) d (fun s => (s.r5 a).ult (s.r5 b)) s

/-- R93 -/
def execCmpGeN64 (r : BitVec 4) (d a b : BitVec 5) (s : State) : Host.Outcome State Fault Refusal :=
  setsGuard (.cmpGeN64 r d a b) d (fun s => !(s.r5 a).ult (s.r5 b)) s

/-- R93 -/
def execTst (r : BitVec 4) (d a b : BitVec 5) (s : State) : Host.Outcome State Fault Refusal :=
  setsGuard (.tst r d a b) d (fun s => (s.r5 a &&& s.r5 b) != 0#64) s

/-! ### Guard logic: R94 -/

/-- R94 GAND -/
def execGand (r : BitVec 4) (d a b : BitVec 5) (s : State) : Host.Outcome State Fault Refusal :=
  setsGuard (.gand r d a b) d (fun s => s.gd a && s.gd b) s

/-- R94 GOR -/
def execGor (r : BitVec 4) (d a b : BitVec 5) (s : State) : Host.Outcome State Fault Refusal :=
  setsGuard (.gor r d a b) d (fun s => s.gd a || s.gd b) s

/-- R94 GXOR -/
def execGxor (r : BitVec 4) (d a b : BitVec 5) (s : State) : Host.Outcome State Fault Refusal :=
  setsGuard (.gxor r d a b) d (fun s => s.gd a != s.gd b) s

/-- R94 GANDN -/
def execGandn (r : BitVec 4) (d a b : BitVec 5) (s : State) : Host.Outcome State Fault Refusal :=
  setsGuard (.gandn r d a b) d (fun s => s.gd a && !s.gd b) s

/-- R94 GMOV -/
def execGmov (r : BitVec 4) (d a : BitVec 5) (s : State) : Host.Outcome State Fault Refusal :=
  setsGuard (.gmov r d a) d (fun s => s.gd a) s

/-- R94 GNOT -/
def execGnot (r : BitVec 4) (d a : BitVec 5) (s : State) : Host.Outcome State Fault Refusal :=
  setsGuard (.gnot r d a) d (fun s => !s.gd a) s

/-- R94 GSET -/
def execGset (r : BitVec 4) (d : BitVec 5) (s : State) : Host.Outcome State Fault Refusal :=
  setsGuard (.gset r d) d (fun _ => true) s

/-- R94 GCLR -/
def execGclr (r : BitVec 4) (d : BitVec 5) (s : State) : Host.Outcome State Fault Refusal :=
  setsGuard (.gclr r d) d (fun _ => false) s

/-- R95: a guarded register move. -/
def execSel (r : BitVec 4) (g : BitVec 3) (n : BitVec 1) (d a : BitVec 5) (s : State) : Host.Outcome State Fault Refusal :=
  setsReg (.sel r g n d a) d (fun s => s.r5 a) s

/-! ### Branches and jumps: R96–R98 -/

/-- A target some words from the address of the present word, modulo 2^64. -/
def State.wordsOff (s : State) (k : Int) : Nat := (BitVec.ofNat 64 s.baseAddr + wordOfInt (4 * k)).toNat

/-- The address of the word after the group, as a link. -/
def State.link (s : State) : Word := BitVec.ofNat 64 s.nextAddr

/-- R96: a taken branch goes to the BR word's address plus its offset in words. -/
def execBr (r : BitVec 4) (g : BitVec 3) (n : BitVec 1) (o : BitVec 18) (s : State) : Host.Outcome State Fault Refusal :=
  .next (issue (.br r g n o) (fun s => .ok s (.jump (s.wordsOff (s.immS o)))) s)

/-- R97 -/
def execJal (r : BitVec 4) (d : BitVec 5) (i : BitVec 17) (s : State) : Host.Outcome State Fault Refusal :=
  .next (issue (.jal r d i) (fun s => .ok (s.w5 d s.link) (.jump (s.wordsOff (s.immS i)))) s)

/-- R98: the target is read before the link is written; a misaligned or non-canonical target faults and writes
nothing. (DEDUCED, assumption 14.) -/
def execJr (r : BitVec 4) (d a : BitVec 5) (s : State) : Host.Outcome State Fault Refusal :=
  .next (issue (.jr r d a) (fun s =>
    let t := s.r5 a
    if t.toNat % 4 ≠ 0 then .fault ⟨cAlign, 0, t⟩
    else if !canonical t then .fault ⟨cPage, 0x40 + 8 * 2, t⟩
    else .ok (s.w5 d s.link) (.jump t.toNat)) s)

end Sys2Proof.Machine
end

