-- ==== Sys2Proof/Machine/System.lean ====
section
/-! DEFINITION. NOP, TRAP, the prefixes (R45–R47), and the system registers (R80–R82, R125, R267, R282, R298, R348,
R360, R385, R394) with SYSR and SYSW (R99–R102). -/
namespace Sys2Proof.Machine

/-! ### Prefixes and NOP -/

/-- A prefix word joins the group that its sequencer reads (R44, R45). -/
def joinGroup (w : BitVec 32) (f : Prefixes → Prefixes) (s : State) : State :=
  let p := f s.pfx
  s.mapCore (fun c => { c with pfx := c.pfx.set (sqIx s.unit) { p with count := p.count + 1, lastWord := w } })

/-- A malformed EXT joins its group: its step 6 comes after steps 1 to 5 of the base word (R48). -/
def joinBad (w : BitVec 32) (s : State) : State := joinGroup w (fun p => { p with extI := some 0, bad := true }) s

/-- A prefix word is read; one out of order faults (R48 step 1). -/
def readPrefix (i : Instr) (f : Prefixes → Prefixes) (s : State) : State :=
  if !s.active || s.midWord then s
  else match encode i with
    | none => s
    | some w =>
      if !prefixOk s.pfx w then faultOf s s.unit ⟨cIllegal, 1, 0#64⟩
      else if !i.wf then joinBad (BitVec.ofNat 32 w) s
      else match earlyFault i s with
        | some e => faultOf s s.unit e
        | none => joinGroup (BitVec.ofNat 32 w) f s

/-- R46: STAMP. -/
def execStamp (c : BitVec 22) (s : State) : Host.Outcome State Fault Refusal :=
  .next (readPrefix (.stamp c) (fun p => { p with stamp := some c }) s)

/-- R47: EXT.I. -/
def execExtI (h : BitVec 21) (s : State) : Host.Outcome State Fault Refusal :=
  .next (readPrefix (.extI h) (fun p => { p with extI := some h }) s)

/-- R47: EXT.M. -/
def execExtM (p : BitVec 1) (sc : BitVec 3) (o w : BitVec 2) (s : State) : Host.Outcome State Fault Refusal :=
  .next (readPrefix (.extM p sc o w) (fun q => { q with extM := some (p, sc, o, w) }) s)

/-- R99: only its ring bits act. -/
def execNop (r : BitVec 4) (s : State) : Host.Outcome State Fault Refusal := .next (issue (.nop r) .next s)

/-- R100: TRAP retires, and then stops the core with its code. -/
def execTrap (r : BitVec 4) (c : BitVec 10) (s : State) : Host.Outcome State Fault Refusal :=
  .next (issue (.trap r c) (fun s => .trapped s ⟨cTrap, c.toNat, 0#64⟩) s)

/-! ### System registers: R81 -/

/-- sys.thermN: R394. -/
def thermWord (c : Cluster) (n : Nat) : Nat :=
  ((c.temp.getD n 0#16).toNat) + (if c.hot.getD n false then 2 ^ 16 else 0) + (if c.crit.getD n false then 2 ^ 17 else 0)

/-- sys.ptroot: the tenant and bits 51:13 of its level-4 table (R348). -/
def State.ptroot (s : State) : Word :=
  BitVec.ofNat 64 (s.core.tenant * 2 ^ 52 + bits (s.roots.get s.core.tenant) 51 13 * 2 ^ 13)

/-- sys.smpact: bit s is 1 when slot s is active (R282). -/
def Core.smpact (c : Core) : Nat :=
  ((List.range 64).map (fun k => if (c.smp.get k).state = 1 then 2 ^ k else 0)).foldl (· + ·) 0

/-- The value of a system register, zero-extended; none for an unassigned number (R82). -/
def State.sysreg (s : State) (n : Nat) : Option Word :=
  let c := s.core
  let cl := s.clusters.get (clusterIx s.lnum)
  let nat (v : Nat) : Option Word := some (BitVec.ofNat 64 v)
  if n = 0x000 then some s.coreid
  else if n = 0x001 then some s.gtc
  else if n = 0x002 then some c.cycle
  else if n = 0x003 then some c.instret
  else if n = 0x004 then some ((c.g ||| 1#8).setWidth 64)
  else if n = 0x005 then some s.flagsWord
  else if n = 0x006 then some c.task
  else if n = 0x007 then some (match c.ctx with | some x => x.rcb | none => 0#64)
  else if n = 0x008 then nat (c.hyp.toNat + c.hypDepth.toNat * 256)
  else if n = 0x009 then nat c.frameWord
  else if 0x010 ≤ n ∧ n ≤ 0x017 then some (c.scratch.get (n - 0x010))
  else if n = 0x020 then nat c.qstat
  else if n = 0x021 then nat c.tokenWord
  else if n = 0x022 then nat c.outst
  else if n = 0x023 then some c.rtbase
  else if n = 0x024 then some (match c.ctx with | some x => x.stall.setWidth 64 | none => 0#64)
  else if n = 0x040 then some c.qrseed
  else if n = 0x050 then nat c.smpact
  else if n = 0x051 then some c.logring
  else if 0x060 ≤ n ∧ n ≤ 0x067 then some (c.win.get (n - 0x060))
  else if 0x068 ≤ n ∧ n ≤ 0x06F then nat (c.out (n - 0x068) % 256)
  else if n = 0x080 then some c.fcause
  else if n = 0x081 then some c.faddr
  else if n = 0x082 then some s.ptroot
  else if n = 0x083 then some c.saveBlock
  else if 0x100 ≤ n ∧ n ≤ 0x103 then nat (thermWord cl (n - 0x100))
  else if n = 0x104 then nat (cl.droopEvents.toNat * 2 ^ 32 + cl.minMv.toNat)
  else if n = 0x105 then nat cl.freq.toNat
  else if n = 0x106 then nat (c.eccUncorr.toNat * 2 ^ 32 + c.eccCorr.toNat)
  else none

/-- Writable bits of a window register (R360). -/
def winMask : Word := 0x803FFFFFFFFFE000#64

/-- Write a system register field by field; read-only registers and fields keep their values (R82, R102). -/
def Core.setSysreg (c : Core) (n : Nat) (v : Word) : Core :=
  if n = 0x004 then { c with g := (v.setWidth 8) ||| 1#8 }
  else if n = 0x005 then { c with aflags := c.aflags &&& ~~~(v.setWidth 6) }
  else if 0x010 ≤ n ∧ n ≤ 0x017 then { c with scratch := c.scratch.set (n - 0x010) v }
  else if n = 0x051 then { c with logring := v }
  else if 0x060 ≤ n ∧ n ≤ 0x067 then { c with win := c.win.set (n - 0x060) (v &&& winMask) }
  else c

/-- F.ILLEGAL, detail 8: the number of an access is not assigned (R82). -/
def unassigned (n : BitVec 10) (s : State) : Option Flt :=
  if (s.sysreg n.toNat).isNone then some ⟨cIllegal, 8, 0#64⟩ else none

/-- A word whose own check stands before its ring waits; in the VE it takes one step. -/
def issuePre (pre : State → Option Flt) (i : Instr) (body : State → State) (s : State) : State :=
  issueWith pre i (fun s => .next (stepAfter s.unit (body s))) s

/-- R101 -/
def execSysr (r : BitVec 4) (d : BitVec 5) (n : BitVec 10) (s : State) : Host.Outcome State Fault Refusal :=
  .next (issuePre (unassigned n) (.sysr r d n)
    (fun s => (s.w5 d ((s.sysreg n.toNat).getD 0#64)).mapCore (fun c => c.latency s.unit 2 d.toNat false)) s)

/-- R102 -/
def execSysw (r : BitVec 4) (n : BitVec 10) (b : BitVec 5) (s : State) : Host.Outcome State Fault Refusal :=
  .next (issuePre (unassigned n) (.sysw r n b) (fun s => s.mapCore (fun c => c.setSysreg n.toNat (s.r5 b))) s)

end Sys2Proof.Machine
end

