-- ==== Sys2Proof/Machine/Seq.lean ====
section
/-! DEFINITION. Sequencing words: commands, routines, loops, queues, counters (R103–R124), and the take of a command by
an idle engine (R106) or by a sibling ME (R197). -/
namespace Sys2Proof.Machine

/-- The engine that a code 0–3 names (R105, R118). -/
def engOf (n : Nat) : Sqr := match n with
  | 0 => .ae
  | 1 => .me
  | 2 => .se
  | _ => .ve

/-! ### Commands: R105, R106 -/

/-- Push a command, or stall while the queue holds 16 (R105). -/
def pushCommand (u : Sqr) (reloc : Bool) (a b : BitVec 5) (n : BitVec 9) (s : State) : WordResult :=
  if cmdqDepth ≤ (s.core.eng u).cmdq.items.length then .blocked id 2
  else
    let c : Command := ⟨s.r5 a, s.r5 b, n, reloc, BitVec.ofNat 57 s.groupAddr, s.core.hyp, BitVec.ofNat 9 s.lnum⟩
    .next ((s.mapCore (fun k => k.mapEng u (fun e => { e with cmdq := e.cmdq.push c }))).pushGate (engIx u))

/-- R105: ENG.CMD. (DEDUCED, assumption 17.) -/
def execEngCmd (r : BitVec 4) (e : BitVec 2) (a b : BitVec 5) (n : BitVec 9) (s : State) : Host.Outcome State Fault Refusal :=
  .next (issue (.engCmd r e a b n) (pushCommand (engOf e.toNat) false a b n) s)

/-- R105: ENG.CMD.RELOC. -/
def execEngCmdReloc (r : BitVec 4) (a b : BitVec 5) (n : BitVec 9) (s : State) : Host.Outcome State Fault Refusal :=
  .next (issue (.engCmdReloc r a b n) (pushCommand .me true a b n) s)

/-- Start the routine of a command on engine `u` of the core in focus: e1 and e2 take A and B, and an entry with V = 0
faults; its frame has the macro-address in MACRO and ENTRY in WORD (R103, R106). (DEDUCED, assumption 13.) -/
def startRoutine (s : State) (u : Sqr) (c : Command) : State :=
  let s := s.mapCore (fun k => ((k.mapEng u (fun e => { e with run := some c })).setReg u 1 c.a).setReg u 2 c.b)
  let r := (s.core.eng u).rtab.get c.entry.toNat
  if r.getLsbD 31 then s.mapCore (fun k => k.mapEng u (fun e => { e with upc := r.toNat / 4 % 2 ^ 14 * 4 }))
  else raiseAt s u { raisedByUnit (.seq u) c.hyp ⟨cIllegal, 7, 0#64⟩ with word := c.entry.setWidth 64 }

/-- An engine takes its oldest command (R106); a relocation context that came back runs before the ME's queue
(R198). -/
def takeCommand (s : State) (u : Sqr) : State :=
  let e := s.core.eng u
  if s.core.mode != .running || e.run.isSome then s
  else match (if u = .me then s.core.relocs.head? else none) with
    | some x =>
      s.mapCore (fun k => { k with me := { x.eng with cmdq := e.cmdq, bq := e.bq, imem := e.imem, rtab := e.rtab, reloc := none },
                                   tOwn := k.t, t := x.t, relocs := k.relocs.tail,
                                   meOwn := some e })
    | none => match e.cmdq.items with
      | [] => s
      | c :: _ =>
        if s.core.gated .cc (engIx u) e.cmdq.items.length then s
        else if (s.core.markHit .queue (0x1808 + 0x208 * engIx u + 32 * e.cmdq.head) 32).isSome then takeFault s (raisedBy s u ⟨cEcc, 5, 0#64⟩)
        else if (s.core.markHit .rtab (2048 * engIx u + 4 * c.entry.toNat) 4).isSome then takeFault s (raisedBy s u ⟨cEcc, 4, 0#64⟩)
        else startRoutine (s.mapCore (fun k => k.mapEng u (fun e => { e with cmdq := e.cmdq.pop cmdqDepth }))) u c

/-- R106: an idle engine takes the oldest command of its queue. (DEDUCED, assumption 13.) -/
def execEngineCommandTake (lnum : Nat) (u : Sqr) (s : State) : Host.Outcome State Fault Refusal :=
  .next (within lnum (fun s => takeCommand { s with unit := u } u) s)

/-! ### Relocated commands: R197 -/

/-- A sibling may pull for the issuer: an idle ME with an empty queue, under the same tenant and image. -/
def canPull (s : State) (issuer n : Nat) : Bool :=
  let c := s.coreAt n
  let i := s.coreAt issuer
  n != issuer && c.mode == .running && c.me.run.isNone && c.me.cmdq.items.isEmpty && c.relocs.isEmpty
    && c.rtbase == i.rtbase && (match c.ctx, i.ctx with
      | some x, some y => x.tenant == y.tenant
      | _, _ => false)

/-- The lowest core of the cluster that may pull. -/
def pullCandidate (s : State) (issuer : Nat) : Option Nat :=
  (clusterCores issuer).find? (fun n => canPull s issuer n)

/-- The issuer's oldest ME command, when it may be pulled. -/
def pullable (s : State) (issuer : Nat) : Option Command :=
  let i := s.coreAt issuer
  match i.me.cmdq.items with
  | [] => none
  | c :: _ =>
    if i.mode == .running && i.me.run.isSome && c.reloc && !i.gated .cc 1 i.me.cmdq.items.length
    then some c else none

/-- R197: the puller runs the command in a relocation context of its own; its own ME state is set aside. -/
def execRelocCommandPull (issuer : Nat) (s : State) : Host.Outcome State Fault Refusal :=
  .next (match pullable s issuer, pullCandidate s issuer with
    | some c, some n =>
      let s := within issuer (fun s => s.mapCore (fun k => { k with me := { k.me with cmdq := k.me.cmdq.pop cmdqDepth } })) s
      within n (fun s =>
        let own := s.core.me
        let s := s.mapCore (fun k => { k with
          meOwn := some own, tOwn := k.t, t := [], latch := k.latch.clear,
          me := { (default : Engine) with cmdq := own.cmdq, bq := own.bq, imem := own.imem, rtab := own.rtab, reloc := some issuer } })
        startRoutine { s with unit := .me } .me c) s
    | _, _ => s)

/-! ### The end of a routine: R107 -/

/-- The engine is idle again; every loop is inactive, the latches stay (R107). -/
def Engine.ended (e : Engine) : Engine :=
  { e with run := none, ending := none, loopOrder := [],
           loops := (List.range 4).foldl (fun t i => Tab.set t i { Tab.get t i with a := false }) e.loops }

/-- The end of the running routine. At the end of a pulled command the puller's own ME state is in force again (R197,
R198). -/
def endRoutine (s : State) : State :=
  match s.unit, s.core.meOwn with
  | .me, some own =>
    s.mapCore (fun k => { k with me := { own with cmdq := k.me.cmdq, bq := k.me.bq, imem := k.me.imem, rtab := k.me.rtab },
                                 t := k.tOwn, meOwn := none, tOwn := [] })
  | u, _ => s.mapCore (fun k => k.mapEng u Engine.ended)

/-- R107: ENDR. In the VE it stays until every pending write has landed (R211); its step is one of those that they
count. -/
def execEndr (r : BitVec 4) (s : State) : Host.Outcome State Fault Refusal :=
  .next (issueWith (fun _ => none) (.endr r) (fun s =>
    let t := stepAfter s.unit s
    if s.unit = .ve ∧ !t.core.vpend.isEmpty then
      .ok (t.mapCore (fun k => (k.reserveSignals .ve r).mapEng .ve (fun e => { e with ending := some r.toNat }))) .pending
    else .ok (endRoutine t) .ended) s)

/-- The VE's ENDR retires (R107): the engine becomes idle and its ring signals push. -/
def retireEndr (s : State) : State :=
  match s.core.ve.ending with
  | none => s
  | some r =>
    let i : Instr := .endr (BitVec.ofNat 4 r)
    let h := s.core.hypOf .ve
    let c := if sbBit i.ring then s.core.unreserveToken (signalBefore .ve) else s.core
    let c := if saBit i.ring then c.unreserveToken (signalAfter .ve) else c
    (giveRing i .ve h { s with core := c }).mapCore (fun k => k.mapEng .ve Engine.ended)

/-! ### Command and loop state: R109, R114 -/

/-- An item of ARG, zero-extended (R109). -/
def argItem (s : State) (i : Nat) : Word :=
  let e := s.core.eng s.unit
  let c := e.run.getD default
  let l := e.loops.get (i % 4)
  if i = 0 then c.entry.setWidth 64
  else if i = 1 then c.macroAddr.setWidth 64
  else if i = 2 then c.hyp.setWidth 64
  else if i = 3 then c.src.setWidth 64
  else if i < 8 then l.count.setWidth 64
  else if i < 12 then l.start.setWidth 64
  else l.stop.setWidth 64

/-- R109: the read form. -/
def execArg (r : BitVec 4) (d : BitVec 5) (i : BitVec 4) (s : State) : Host.Outcome State Fault Refusal :=
  setsReg (.arg r d i) d (fun s => argItem s i.toNat) s

/-- A write to an item applied by R114. -/
def Engine.writeItem (e : Engine) (i : Nat) (v : Word) : Engine :=
  let n := i % 4
  let l := e.loops.get n
  if i < 8 then { e with loops := e.loops.set n { l with count := v.setWidth 24 } }
  else if i < 12 then { e with loops := e.loops.set n { l with ls := true }, latches := e.latches.set n { e.latches.get n with start := v.setWidth 16 } }
  else { e with loops := e.loops.set n { l with le := true }, latches := e.latches.set n { e.latches.get n with stop := v.setWidth 16 } }

/-- R109: the write form; a value out of range faults and writes nothing. -/
def execArgWrite (r : BitVec 4) (d : BitVec 5) (i : BitVec 4) (b : BitVec 5) (s : State) : Host.Outcome State Fault Refusal :=
  .next (issue (.argWrite r d i b) (fun s =>
    let n := i.toNat
    let v := s.r5 b
    if (n < 8 ∧ 0xFFFFFF < v.toNat) ∨ (8 ≤ n ∧ (0xFFFC < v.toNat ∨ v.toNat % 4 ≠ 0)) then .fault ⟨cLoop, 0, 0#64⟩
    else
      let old := argItem s n
      .next ((s.mapCore (fun k => k.mapEng s.unit (fun e => e.writeItem n v))).w5 d old)) s)

/-! ### Loops: R111 -/

/-- What a LOOP word would enter: trip count, start and end of its body, and the word after it. -/
structure LoopPlan where
  trips : Nat
  start : Nat
  stop : Nat
  skip : Nat

/-- The plan of a LOOP, with the latches in force (R111). -/
def loopPlan (s : State) (n : Nat) (trips : Nat) (len : Nat) : LoopPlan :=
  let e := s.core.eng s.unit
  let l := e.loops.get n
  let st := s.baseAddr + 4
  let en := st + 4 * len
  { trips := trips, start := if l.ls then (e.latches.get n).start.toNat else st,
    stop := if l.le then (e.latches.get n).stop.toNat else en, skip := en + 4 }

/-- The body overlaps an active loop's body without lying inside it (R111). -/
def badOverlap (e : Engine) (a b : Nat) : Bool :=
  (List.range 4).any (fun k =>
    let l := e.loops.get k
    l.a && decide (a ≤ l.stop.toNat ∧ l.start.toNat ≤ b) && !decide (l.start.toNat ≤ a ∧ b ≤ l.stop.toNat))

/-- The checks of LOOP, made before its ring waits are taken (R111). -/
def loopFault (s : State) (n : Nat) (p : LoopPlan) : Option Flt :=
  let e := s.core.eng s.unit
  if decide (0xFFFFFF < p.trips) || (e.loops.get n).a || decide (p.stop < p.start) || decide (0xFFFC < p.stop)
      || decide (0x10000 < p.skip) || badOverlap e p.start p.stop
  then some ⟨cLoop, 0, 0#64⟩ else none

/-- Enter the loop, or skip its body; the latches are used either way (R111). -/
def enterLoop (s : State) (n : Nat) (p : LoopPlan) : WordResult :=
  let l := (s.core.eng s.unit).loops.get n
  if p.trips = 0 then
    .ok (s.mapCore (fun k => k.mapEng s.unit (fun e => { e with loops := e.loops.set n { l with ls := false, le := false } }))) (.to p.skip)
  else
    let l' : LoopReg := ⟨true, false, false, BitVec.ofNat 24 (p.trips - 1), BitVec.ofNat 16 p.start, BitVec.ofNat 16 p.stop⟩
    .ok (s.mapCore (fun k => k.mapEng s.unit (fun e => { e with loops := e.loops.set n l', loopOrder := n :: e.loopOrder.filter (· != n) })))
      (.to p.start)

/-- A LOOP word with its trip count and length. -/
def loopWord (i : Instr) (n : BitVec 2) (trips : State → Nat) (l : BitVec 7) (s : State) : State :=
  let plan (s : State) : LoopPlan := loopPlan s n.toNat (trips s) (s.immU l)
  issueWith (fun s => loopFault s n.toNat (plan s)) i (fun s =>
    match enterLoop s n.toNat (plan s) with
    | .ok t k => .ok (stepAfter s.unit t) k
    | r => r) s

/-- R111: an immediate trip count. -/
def execLoopImm (r : BitVec 4) (n : BitVec 2) (c : BitVec 12) (l : BitVec 7) (s : State) : Host.Outcome State Fault Refusal :=
  .next (loopWord (.loopImm r n c l) n (fun _ => c.toNat) l s)

/-- R111: a register trip count. -/
def execLoopReg (r : BitVec 4) (n : BitVec 2) (c : BitVec 5) (l : BitVec 7) (s : State) : Host.Outcome State Fault Refusal :=
  .next (loopWord (.loopReg r n c l) n (fun s => (s.r5 c).toNat) l s)

/-! ### Queues: R118–R120 -/

/-- R118: BQ.ENQ. (DEDUCED, assumption 17.) -/
def execBqEnq (r : BitVec 4) (e a : BitVec 5) (s : State) : Host.Outcome State Fault Refusal :=
  .next (issue (.bqEnq r e a) (fun s =>
    let u := engOf e.toNat
    if bqDepth ≤ (s.core.eng u).bq.items.length then .blocked id 4
    else .next ((s.mapCore (fun k => k.mapEng u (fun e => { e with bq := e.bq.push (s.r5 a != 0#64, k.hyp) }))).pushGate (4 + engIx u))) s)

/-- A taken branch clears the A bit of every active loop that its target leaves (R113). -/
def Engine.leaveLoops (e : Engine) (t : Nat) : Engine :=
  let out (n : Nat) : Bool := let l := e.loops.get n; l.a && !decide (l.start.toNat ≤ t ∧ t ≤ l.stop.toNat)
  { e with loops := (List.range 4).foldl (fun m n => if out n then Tab.set m n { Tab.get m n with a := false } else m) e.loops,
           loopOrder := e.loopOrder.filter (fun n => !out n) }

/-- BQ.BR and BQ.BRN: branch when the popped outcome is `on` (R118). -/
def bqBranch (on : Bool) (o : BitVec 15) (s : State) : WordResult :=
  let t : Int := s.baseAddr + 4 * s.immS o
  let e := s.core.eng s.unit
  if t < 0 ∨ 0xFFFC < t then .fault ⟨cIllegal, 10, 0#64⟩
  else match e.bq.items with
    | [] => .blocked id 4
    | (b, _) :: _ =>
      if s.core.gated .cc (4 + engIx s.unit) e.bq.items.length then .blocked id 4
      else
        let s := s.mapCore (fun k => k.mapEng s.unit (fun e => { e with bq := e.bq.pop bqDepth }))
        if b = on then .ok (s.mapCore (fun k => k.mapEng s.unit (fun e => e.leaveLoops t.toNat))) (.jump t.toNat)
        else .next s

/-- R118: BQ.BR. -/
def execBqBr (r : BitVec 4) (o : BitVec 15) (s : State) : Host.Outcome State Fault Refusal :=
  .next (issue (.bqBr r o) (bqBranch true o) s)

/-- R118: BQ.BRN. -/
def execBqBrn (r : BitVec 4) (o : BitVec 15) (s : State) : Host.Outcome State Fault Refusal :=
  .next (issue (.bqBrn r o) (bqBranch false o) s)

/-- R119: FMT.ENQ. (DEDUCED, assumption 17.) -/
def execFmtEnq (r : BitVec 4) (a : BitVec 5) (s : State) : Host.Outcome State Fault Refusal :=
  .next (issue (.fmtEnq r a) (fun s =>
    if fmtqDepth ≤ s.core.fmtq.items.length then .blocked id 3
    else .next ((s.mapCore (fun k => { k with fmtq := k.fmtq.push (s.r5 a, k.hyp) })).pushGate 8)) s)

/-- R120: RQ.ENQ, a release at .core scope. (DEDUCED, assumption 17.) -/
def execRqEnq (r : BitVec 4) (a : BitVec 5) (s : State) : Host.Outcome State Fault Refusal :=
  .next (issue (.rqEnq r a) (fun s =>
    if rqDepth ≤ s.core.rq.items.length then .blocked id 5
    else .next ((s.mapCore (fun k => { k with rq := k.rq.push ⟨some (s.r5 a), engCode s.unit, s.hyp⟩ })).pushGate 9)) s)

/-- The sequencer of a source code of the RQ (R120). -/
def codeEng (n : Nat) : Sqr := match n with
  | 1 => .ae
  | 2 => .me
  | 3 => .se
  | 4 => .ve
  | _ => .cc

/-- R120: RQ.DEQ waits for an entry, and for a reserved place to be filled. -/
def execRqDeq (r : BitVec 4) (d x : BitVec 5) (s : State) : Host.Outcome State Fault Refusal :=
  .next (issue (.rqDeq r d x) (fun s =>
    match s.core.rq.items with
    | [] => .blocked id 5
    | e :: _ =>
      match e.val with
      | none => .blocked id 5
      | some v =>
        if e.src ≠ 0 ∧ s.core.gated (codeEng e.src) 9 (s.core.rq.items.filter (fun y => y.src == e.src)).length then .blocked id 5
        else .next (((s.mapCore (fun k => { k with rq := k.rq.pop rqDepth })).w5 d v).w5 x (BitVec.ofNat 64 e.src))) s)

/-! ### ENG.FENCE, ENG.BUSY and WAITC: R121–R124 -/

/-- An operation that engine `u` of the core in focus issued is incomplete (R121). -/
def State.opsPending (s : State) (u : Sqr) : Bool :=
  s.core.pend.any (fun a => a.unit == u) || s.waiting.any (fun w => s.mine w && w.pkt.srcUnit == u)
    || (match u with
      | .ae => !s.core.copies.isEmpty
      | .me => !s.core.tiles.isEmpty || !(pullersOf s s.lnum).isEmpty || !s.core.relocs.isEmpty
      | .se => s.core.front.isSome
      | .ve => s.core.vpend.any (fun w => !w.landed)
      | .cc => false)

/-- The engine runs no routine of its own core (R106, R197). -/
def Core.engIdle (c : Core) (u : Sqr) : Bool := (c.eng u).run.isNone || (u == .me && c.meOwn.isSome && c.me.reloc.isSome)

/-- An engine is busy: R122. -/
def State.engBusy (s : State) (u : Sqr) : Bool :=
  !(s.core.eng u).cmdq.items.isEmpty || !s.core.engIdle u || s.opsPending u

/-- R121 -/
def execEngFence (r : BitVec 4) (m : BitVec 5) (s : State) : Host.Outcome State Fault Refusal :=
  .next (issue (.engFence r m) (fun s =>
    if engines.any (fun u => m.getLsbD (engIx u) && s.engBusy u) then .blocked id 7 else .next s) s)

/-- R122 -/
def execEngBusy (r : BitVec 4) (d : BitVec 5) (s : State) : Host.Outcome State Fault Refusal :=
  setsReg (.engBusy r d) d (fun s => BitVec.ofNat 64
    ((engines.map (fun u => if s.engBusy u then 2 ^ engIx u else 0)).foldl (· + ·) 0)) s

/-- A counter is at or below its limit; 15 sets none (R124). -/
def within15 (lim cnt : Nat) : Bool := lim == 15 || decide (cnt ≤ lim)

/-- R124 -/
def execWaitc (r a b c d : BitVec 4) (s : State) : Host.Outcome State Fault Refusal :=
  .next (issue (.waitc r a b c d) (fun s =>
    let k := s.core
    if within15 a.toNat k.cntLd && within15 b.toNat k.cntSt && within15 c.toNat k.cntCp && within15 d.toNat k.cntTl
    then .next s else .blocked id 6) s)

end Sys2Proof.Machine
end

