-- ==== Sys2Proof/Machine/Memory.lean ====
section
/-! DEFINITION. Loads, stores, buffer accesses (R139–R142), atomics and reductions (R143–R145), fences and the acquire and
release forms (R154–R158), and the events at which an access is performed (R117, R123, R135). -/
namespace Sys2Proof.Machine

/-! ### Building an access -/

/-- An access of the acting sequencer that is nowhere yet. -/
def State.access (s : State) (kind : AccessKind) (size rd : Nat) (data : Word) : Access :=
  { unit := s.unit, kind := kind, place := .none, size := size, rd := rd, data := data, hyp := s.hyp, kindSO := false,
    kindUO := false, acq := false, rel := false, scope := 0, rmc := false, pid := 0, word := s.core.groupWord s.unit,
    upto := s.packetId }

/-- Remote-memory stores of sequencer `u` that count against its 64: sent and not acknowledged, or still to be sent
(R362). -/
def State.storesOut (s : State) (u : Sqr) : Nat :=
  s.remoteStores u + (s.core.pend.filter (fun a => a.unit == u && a.kind.stores && s.isRemote a)).length

/-- The counter of an access, or its 64 remote stores, leave no room (R123, R362). -/
def State.noRoom (s : State) (a : Access) : Bool :=
  if a.kind.returns then decide (counterMax ≤ s.core.cntLd)
  else decide (counterMax ≤ s.core.cntSt) || (s.isRemote a && decide (64 ≤ s.storesOut a.unit))

/-- An access that is a tagged store under a refuted hypothesis: it completes without effect (R304, R305). -/
def State.tagRefuted (s : State) (a : Access) : Bool :=
  (s.hyps.get a.hyp.toNat).state == 2 && a.hyp != 0#8 && (match a.kind, a.place with
    | .store, .mem _ pa => !s.armedAt pa
    | _, _ => false)

/-- Issue an access to memory at `va`: the checks of R133 for access kind `acc`, then the hypothesis rule `so` (R299: 0
none, 1 the rule of stores, 2 the rule of atomics), then the counter. -/
def memWord (va : Word) (acc : AccKind) (so : Nat) (a : Access) (s : State) : WordResult :=
  match checkMem s va a.size acc with
  | .error f => .fault f
  | .ok (pa, leaf, s) =>
    let a := a.withLeaf va pa leaf
    if s.hyp ≠ 0#8 ∧ (so = 2 ∨ (so = 1 ∧ (a.kindSO ∨ !s.isLocal pa))) then .fault ⟨cHypso, 0, va⟩
    else if s.noRoom a then .blocked id 8
    else if s.tagRefuted a then .next s
    else .next (s.pushAccess a)

/-! ### Loads and stores: R140, R141 -/

/-- A load of `size` bytes. -/
def loadWord (i : Instr) (sgn : Bool) (size : Nat) (d a : BitVec 5) (imm : BitVec 9) (s : State) : Host.Outcome State Fault Refusal :=
  .next (issue i (fun s => memWord (s.r5 a + wordOfInt (s.immS imm * size)) 0 0 (s.access (.load sgn) size d.toNat 0#64) s) s)

/-- R140: LD.i8 -/
def execLdI8 (r : BitVec 4) (d a : BitVec 5) (i : BitVec 9) (s : State) : Host.Outcome State Fault Refusal := loadWord (.ldI8 r d a i) true 1 d a i s
/-- R140: LD.n8 -/
def execLdN8 (r : BitVec 4) (d a : BitVec 5) (i : BitVec 9) (s : State) : Host.Outcome State Fault Refusal := loadWord (.ldN8 r d a i) false 1 d a i s
/-- R140: LD.i16 -/
def execLdI16 (r : BitVec 4) (d a : BitVec 5) (i : BitVec 9) (s : State) : Host.Outcome State Fault Refusal := loadWord (.ldI16 r d a i) true 2 d a i s
/-- R140: LD.n16 -/
def execLdN16 (r : BitVec 4) (d a : BitVec 5) (i : BitVec 9) (s : State) : Host.Outcome State Fault Refusal := loadWord (.ldN16 r d a i) false 2 d a i s
/-- R140: LD.i32 -/
def execLdI32 (r : BitVec 4) (d a : BitVec 5) (i : BitVec 9) (s : State) : Host.Outcome State Fault Refusal := loadWord (.ldI32 r d a i) true 4 d a i s
/-- R140: LD.n32 -/
def execLdN32 (r : BitVec 4) (d a : BitVec 5) (i : BitVec 9) (s : State) : Host.Outcome State Fault Refusal := loadWord (.ldN32 r d a i) false 4 d a i s
/-- R140: LD.n64 -/
def execLdN64 (r : BitVec 4) (d a : BitVec 5) (i : BitVec 9) (s : State) : Host.Outcome State Fault Refusal := loadWord (.ldN64 r d a i) false 8 d a i s

/-- A guarded store of the low `size` bytes of rb (R141). -/
def storeWord (i : Instr) (size : Nat) (o a b : BitVec 5) (s : State) : Host.Outcome State Fault Refusal :=
  .next (issue i (fun s => memWord (s.r5 a + wordOfInt (s.immS o * size)) 1 1 (s.access .store size 0 (s.r5 b)) s) s)

/-- R141: ST.n8 -/
def execStN8 (r : BitVec 4) (g : BitVec 3) (n : BitVec 1) (o a b : BitVec 5) (s : State) : Host.Outcome State Fault Refusal := storeWord (.stN8 r g n o a b) 1 o a b s
/-- R141: ST.n16 -/
def execStN16 (r : BitVec 4) (g : BitVec 3) (n : BitVec 1) (o a b : BitVec 5) (s : State) : Host.Outcome State Fault Refusal := storeWord (.stN16 r g n o a b) 2 o a b s
/-- R141: ST.n32 -/
def execStN32 (r : BitVec 4) (g : BitVec 3) (n : BitVec 1) (o a b : BitVec 5) (s : State) : Host.Outcome State Fault Refusal := storeWord (.stN32 r g n o a b) 4 o a b s
/-- R141: ST.n64 -/
def execStN64 (r : BitVec 4) (g : BitVec 3) (n : BitVec 1) (o a b : BitVec 5) (s : State) : Host.Outcome State Fault Refusal := storeWord (.stN64 r g n o a b) 8 o a b s

/-! ### Local buffers and windows: R142 -/

/-- An access of the acting sequencer that every later access of it waits for stands before its next one (R149, R155). -/
def State.ordered (s : State) : Bool :=
  s.core.pend.any (fun a => a.unit == s.unit && (a.kind == .fence || a.acq))

/-- The access to a buffer place: buffers are performed in program order (R132). -/
def Access.inBuf (a : Access) (space off : Nat) (data : Word) : Access :=
  { a with place := .buf space off, kindSO := true, data := data }

/-- A buffer access of the acting sequencer is not performed and not sent. -/
def State.bufPending (s : State) : Bool := s.core.pend.any (fun a => a.unit == s.unit && a.pid == 0 && (match a.place with
  | .buf .. => true
  | _ => false))

/-- A posted write of one packet through window `k` (R142, R362): it waits for the window's allowance, for an earlier
fence or acquire, and for the earlier buffer accesses of its sequencer (R132). -/
def postWindow (s : State) (k off : Nat) (bs : List Byte) : WordResult :=
  if !s.core.winRoom k || s.ordered || s.bufPending || decide (counterMax ≤ s.core.cntSt) then .blocked id 8
  else
    let w := s.core.win.get k
    .next (sendWin (s.mapCore (fun c => { c.addOut k with cntSt := c.cntSt + 1 })) w (.winWrite (winSpace w) off bs none) (.window k true)).2

/-- A buffer load of `size` bytes, zero-extended. -/
def bufLoad (i : Instr) (size : Nat) (d a : BitVec 5) (imm : BitVec 9) (s : State) : Host.Outcome State Fault Refusal :=
  .next (issue i (fun s =>
    let b := s.r5 a + wordOfInt (s.immS imm * size)
    match checkBuf s.core s.unit b size size false s.hyp with
    | .error f => .fault f
    | .ok () =>
      let space := bufSpace b.toNat
      let x := (s.access (.load false) size d.toNat 0#64).inBuf space (bufOff b.toNat) (if 8 ≤ space then s.core.win.get (space - 8) else 0#64)
      if s.noRoom x then .blocked id 8 else .next (s.pushAccess x)) s)

/-- A buffer store of the low `size` bytes of the register in the rd field. -/
def bufStore (i : Instr) (size : Nat) (d a : BitVec 5) (imm : BitVec 9) (s : State) : Host.Outcome State Fault Refusal :=
  .next (issue i (fun s =>
    let b := s.r5 a + wordOfInt (s.immS imm * size)
    match checkBuf s.core s.unit b size size true s.hyp with
    | .error f => .fault f
    | .ok () =>
      let space := bufSpace b.toNat
      if 8 ≤ space then postWindow s (space - 8) (bufOff b.toNat) (natToBytes size (s.r5 d).toNat)
      else
        let x := (s.access .store size 0 0#64).inBuf space (bufOff b.toNat) (s.r5 d)
        if s.noRoom x then .blocked id 8 else .next (s.pushAccess x)) s)

/-- R142: BLD.n8 -/
def execBldN8 (r : BitVec 4) (d a : BitVec 5) (i : BitVec 9) (s : State) : Host.Outcome State Fault Refusal := bufLoad (.bldN8 r d a i) 1 d a i s
/-- R142: BLD.n16 -/
def execBldN16 (r : BitVec 4) (d a : BitVec 5) (i : BitVec 9) (s : State) : Host.Outcome State Fault Refusal := bufLoad (.bldN16 r d a i) 2 d a i s
/-- R142: BLD.n32 -/
def execBldN32 (r : BitVec 4) (d a : BitVec 5) (i : BitVec 9) (s : State) : Host.Outcome State Fault Refusal := bufLoad (.bldN32 r d a i) 4 d a i s
/-- R142: BLD.n64 -/
def execBldN64 (r : BitVec 4) (d a : BitVec 5) (i : BitVec 9) (s : State) : Host.Outcome State Fault Refusal := bufLoad (.bldN64 r d a i) 8 d a i s
/-- R142: BST.n8 -/
def execBstN8 (r : BitVec 4) (d a : BitVec 5) (i : BitVec 9) (s : State) : Host.Outcome State Fault Refusal := bufStore (.bstN8 r d a i) 1 d a i s
/-- R142: BST.n16 -/
def execBstN16 (r : BitVec 4) (d a : BitVec 5) (i : BitVec 9) (s : State) : Host.Outcome State Fault Refusal := bufStore (.bstN16 r d a i) 2 d a i s
/-- R142: BST.n32 -/
def execBstN32 (r : BitVec 4) (d a : BitVec 5) (i : BitVec 9) (s : State) : Host.Outcome State Fault Refusal := bufStore (.bstN32 r d a i) 4 d a i s
/-- R142: BST.n64 -/
def execBstN64 (r : BitVec 4) (d a : BitVec 5) (i : BitVec 9) (s : State) : Host.Outcome State Fault Refusal := bufStore (.bstN64 r d a i) 8 d a i s

/-! ### Atomics and reductions: R143–R145 -/

/-- Order, scope and width of an atomic or ordering word from its EXT.M (R47, R145): acquire, release, scope, bytes.
Without EXT.M it is relaxed, at .dev, of 8 bytes. -/
def State.extM (s : State) : Bool × Bool × Nat × Nat :=
  match s.pfx.extM with
  | none => (false, false, 3, 8)
  | some (sp, sc, o, w) => (o.getLsbD 0, o.getLsbD 1, if sp = 1#1 then sc.toNat else 3, if w = 1#2 then 4 else 8)

/-- F.CALM for a word that Calm mode forbids whatever its guard (R143, R144, R383). -/
def calmFault (s : State) : Option Flt := if s.core.calm then some ⟨cCalm, 0, 0#64⟩ else none

/-- An atomic of function `op` (R143): sources are read at issue, the old value returns; `pro` is a PROMOTE form (R158). -/
def amoWord (pro : Bool) (i : Instr) (op : Nat) (d a b : BitVec 5) (s : State) : Host.Outcome State Fault Refusal :=
  .next (issueWith calmFault i (fun s =>
    let (acq, rel, sc, w) := s.extM
    let x := { s.access (.amo op (s.r5 b) (s.r5 d)) w d.toNat 0#64 with acq := acq, rel := rel, scope := sc, promote := pro }
    memWord (s.r5 a) 3 2 x s) s)

/-- R143: AMO.SWAP -/
def execAmoSwap (r : BitVec 4) (g : BitVec 3) (n : BitVec 1) (d a b : BitVec 5) (s : State) : Host.Outcome State Fault Refusal := amoWord false (.amoSwap r g n d a b) 0 d a b s
/-- R143: AMO.ADD -/
def execAmoAdd (r : BitVec 4) (g : BitVec 3) (n : BitVec 1) (d a b : BitVec 5) (s : State) : Host.Outcome State Fault Refusal := amoWord false (.amoAdd r g n d a b) 1 d a b s
/-- R143: AMO.AND -/
def execAmoAnd (r : BitVec 4) (g : BitVec 3) (n : BitVec 1) (d a b : BitVec 5) (s : State) : Host.Outcome State Fault Refusal := amoWord false (.amoAnd r g n d a b) 2 d a b s
/-- R143: AMO.OR -/
def execAmoOr (r : BitVec 4) (g : BitVec 3) (n : BitVec 1) (d a b : BitVec 5) (s : State) : Host.Outcome State Fault Refusal := amoWord false (.amoOr r g n d a b) 3 d a b s
/-- R143: AMO.XOR -/
def execAmoXor (r : BitVec 4) (g : BitVec 3) (n : BitVec 1) (d a b : BitVec 5) (s : State) : Host.Outcome State Fault Refusal := amoWord false (.amoXor r g n d a b) 4 d a b s
/-- R143: AMO.MAX -/
def execAmoMax (r : BitVec 4) (g : BitVec 3) (n : BitVec 1) (d a b : BitVec 5) (s : State) : Host.Outcome State Fault Refusal := amoWord false (.amoMax r g n d a b) 5 d a b s
/-- R143: AMO.MIN -/
def execAmoMin (r : BitVec 4) (g : BitVec 3) (n : BitVec 1) (d a b : BitVec 5) (s : State) : Host.Outcome State Fault Refusal := amoWord false (.amoMin r g n d a b) 6 d a b s
/-- R143: AMO.CAS, with the old value of rd as its comparand. -/
def execAmoCas (r : BitVec 4) (g : BitVec 3) (n : BitVec 1) (d a b : BitVec 5) (s : State) : Host.Outcome State Fault Refusal := amoWord false (.amoCas r g n d a b) 7 d a b s

/-- A reduction of function `op` (R144); the two floating forms have their own size and fault in Calm mode. -/
def redWord (i : Instr) (op : Nat) (a b : BitVec 5) (s : State) : Host.Outcome State Fault Refusal :=
  .next (issueWith (fun s => if 6 ≤ op then calmFault s else none) i (fun s =>
    let (acq, rel, sc, w) := s.extM
    let size := if op = 6 then 4 else if op = 7 then 8 else w
    let x := { s.access (.red op (s.r5 b)) size 0 0#64 with acq := acq, rel := rel, scope := sc }
    memWord (s.r5 a) 3 2 x s) s)

/-- R144: RED.ADD -/
def execRedAdd (r : BitVec 4) (g : BitVec 3) (n : BitVec 1) (a b : BitVec 5) (s : State) : Host.Outcome State Fault Refusal := redWord (.redAdd r g n a b) 0 a b s
/-- R144: RED.AND -/
def execRedAnd (r : BitVec 4) (g : BitVec 3) (n : BitVec 1) (a b : BitVec 5) (s : State) : Host.Outcome State Fault Refusal := redWord (.redAnd r g n a b) 1 a b s
/-- R144: RED.OR -/
def execRedOr (r : BitVec 4) (g : BitVec 3) (n : BitVec 1) (a b : BitVec 5) (s : State) : Host.Outcome State Fault Refusal := redWord (.redOr r g n a b) 2 a b s
/-- R144: RED.XOR -/
def execRedXor (r : BitVec 4) (g : BitVec 3) (n : BitVec 1) (a b : BitVec 5) (s : State) : Host.Outcome State Fault Refusal := redWord (.redXor r g n a b) 3 a b s
/-- R144: RED.MAX -/
def execRedMax (r : BitVec 4) (g : BitVec 3) (n : BitVec 1) (a b : BitVec 5) (s : State) : Host.Outcome State Fault Refusal := redWord (.redMax r g n a b) 4 a b s
/-- R144: RED.MIN -/
def execRedMin (r : BitVec 4) (g : BitVec 3) (n : BitVec 1) (a b : BitVec 5) (s : State) : Host.Outcome State Fault Refusal := redWord (.redMin r g n a b) 5 a b s
/-- R144: RED.FADD.f32 -/
def execRedFaddF32 (r : BitVec 4) (g : BitVec 3) (n : BitVec 1) (a b : BitVec 5) (s : State) : Host.Outcome State Fault Refusal := redWord (.redFaddF32 r g n a b) 6 a b s
/-- R144: RED.FADD.f64 -/
def execRedFaddF64 (r : BitVec 4) (g : BitVec 3) (n : BitVec 1) (a b : BitVec 5) (s : State) : Host.Outcome State Fault Refusal := redWord (.redFaddF64 r g n a b) 7 a b s

/-! ### Fences, acquires and releases: R155–R158 -/

/-- R155: the fence stands in the list of accesses until its earlier ones are performed at its scope. -/
def execFence (r : BitVec 4) (sc : BitVec 3) (s : State) : Host.Outcome State Fault Refusal :=
  .next (issue (.fence r sc) (fun s =>
    let f := { s.access .fence 0 0 0#64 with acq := true, rel := true, scope := sc.toNat }
    .next (drain (s.mapCore (fun c => { c with pend := c.pend ++ [f] })))) s)

/-- An acquiring load (R156); `pro` is the PROMOTE form, which widens the release that it reads from (R151). -/
def acqWord (pro : Bool) (i : Instr) (d a : BitVec 5) (sc : BitVec 3) (s : State) : Host.Outcome State Fault Refusal :=
  .next (issue i (fun s =>
    let (_, _, _, w) := s.extM
    memWord (s.r5 a) 0 0 { s.access (.load false) w d.toNat 0#64 with acq := true, scope := sc.toNat, promote := pro } s) s)

/-- R156: LD.ACQ -/
def execLdAcq (r : BitVec 4) (d a : BitVec 5) (sc : BitVec 3) (s : State) : Host.Outcome State Fault Refusal := acqWord false (.ldAcq r d a sc) d a sc s
/-- R156: LD.ACQ.PROMOTE -/
def execLdAcqPromote (r : BitVec 4) (d a : BitVec 5) (sc : BitVec 3) (s : State) : Host.Outcome State Fault Refusal := acqWord true (.ldAcqPromote r d a sc) d a sc s

/-- R157: ST.REL, a store that is a release at its scope. -/
def execStRel (r : BitVec 4) (g : BitVec 3) (n : BitVec 1) (sc : BitVec 3) (a b : BitVec 5) (s : State) : Host.Outcome State Fault Refusal :=
  .next (issue (.stRel r g n sc a b) (fun s =>
    let (_, _, _, w) := s.extM
    memWord (s.r5 a) 1 1 { s.access .store w 0 (s.r5 b) with rel := true, scope := sc.toNat } s) s)

/-- R158: AMO.SWAP.PROMOTE -/
def execAmoSwapPromote (r : BitVec 4) (g : BitVec 3) (n : BitVec 1) (d a b : BitVec 5) (s : State) : Host.Outcome State Fault Refusal := amoWord true (.amoSwapPromote r g n d a b) 0 d a b s
/-- R158: AMO.ADD.PROMOTE -/
def execAmoAddPromote (r : BitVec 4) (g : BitVec 3) (n : BitVec 1) (d a b : BitVec 5) (s : State) : Host.Outcome State Fault Refusal := amoWord true (.amoAddPromote r g n d a b) 1 d a b s
/-- R158: AMO.CAS.PROMOTE -/
def execAmoCasPromote (r : BitVec 4) (g : BitVec 3) (n : BitVec 1) (d a b : BitVec 5) (s : State) : Host.Outcome State Fault Refusal := amoWord true (.amoCasPromote r g n d a b) 7 d a b s

/-! ### Performing an access -/

/-- Perform entry `k` of the core in focus when it may be; a fault then goes to the replay list and stops the core
(R338). -/
def performNow (s : State) (k : Nat) : State :=
  if !s.canPerform k then s
  else match performEntry s k with
    | .ok s => resettle s
    | .error (a, f) =>
      let s := drain (s.failEntry k a)
      takeFault (if a.kind.isBar then s else s.mapCore (fun c => { c with replays := c.remember ⟨a, true, f.code, none⟩ })) (raisedOf s a f)

/-- R123: the value of a load or an atomic is written, and ld falls. (DEDUCED, assumption 47.) -/
def execLoadValueReturn (lnum k : Nat) (s : State) : Host.Outcome State Fault Refusal :=
  .next (within lnum (fun s => match s.core.pend[k]? with
    | some a => if a.kind.returns then performNow s k else s
    | none => s) s)

/-- R117: a store, a reduction or a buffer store is performed at .core scope, and st falls.
(DEDUCED, assumptions 46 and 47.) -/
def execStorePerformed (lnum k : Nat) (s : State) : Host.Outcome State Fault Refusal :=
  .next (within lnum (fun s => match s.core.pend[k]? with
    | some a => if a.kind.isAccess && !a.kind.returns then performNow s k else s
    | none => s) s)

end Sys2Proof.Machine
end

