-- ==== Sys2Proof/Machine/Tbar.lean ====
section
/-! DEFINITION. Transaction-barrier words (R166–R169). An arrival, expectation or initialisation is a release: it waits
until the sequencer's earlier accesses are performed, and then updates the barrier in one step. -/
namespace Sys2Proof.Machine

/-- Perform what may be performed of one sequencer's accesses. -/
def flushUnit (u : Sqr) : Nat → State → State
  | 0, s => s
  | fuel + 1, s =>
    match (List.range s.core.pend.length).find? (fun k => s.canPerform k && (match s.core.pend[k]? with | some a => a.unit == u | none => false)) with
    | none => s
    | some k => match performEntry s k with
      | .ok t => flushUnit u fuel t
      | .error _ => s

/-- Ordinary vector writes of the VE are still to land (R211). -/
def Core.ordinaryPending (c : Core) : Bool := c.vpend.any (fun w => !w.sf && !w.landed)

/-- Everything that an arrival through a window carries has been performed, and acknowledged as R162 says. -/
def State.released (s : State) : Bool :=
  !s.unitPending s.unit && (s.unit != .ve || !s.core.ordinaryPending) && s.dieClean && !s.hasPosted

/-- The barrier lies outside this device. -/
def BarPlace.remote (p : BarPlace) (s : State) : Bool := match p with
  | .ab _ => false
  | .mem pa _ => !s.isLocal pa
  | .win .. => true

/-- A TBAR word of the acting sequencer on the barrier at `a`, as an entry of the list of accesses: an update is a release, at
.core, .dev or .sys (R168), and an observation an acquire, whose write-backs at .sys follow when it observes (R164). -/
def State.barEntry (s : State) (p : BarPlace) (a : Word) (op rd : Nat) (v : Word) : Access :=
  let x := s.access (.bar op v) 16 rd 0#64
  let x := match p with
    | .mem pa leaf => x.withLeaf a pa leaf
    | .ab off => { x with place := .buf 1 off, kindSO := true }
    | .win .. => x
  { x with acq := decide (3 ≤ op), rel := decide (op ≤ 2),
           scope := if 3 ≤ op then 0 else match p with
             | .ab _ => 0
             | _ => if p.remote s then 4 else 3 }

/-- An update of the CC counts in sys.instret when it is applied, and not when its word issues (R81, R169). -/
def State.uncounted (s : State) : State := if s.unit = .cc then s.mapCore (fun c => { c with instret := c.instret - 1 }) else s

/-- The word has issued: it is performed at once when nothing holds it up. -/
def issueBar (x : Access) (s : State) : State :=
  let t := s.pushAccess x
  if t.canPerform s.core.pend.length then (match performEntry t s.core.pend.length with
    | .ok t => t
    | .error _ => t) else t

/-- An update (INIT 0, ARRIVE 1, EXPECT 2) of the barrier at `a`: applied at its home, with the old phase to rd. It waits in
the list of accesses for what it releases; through a window it waits to be accepted. Where the update faults with F.QUEUE, the
word has issued (R169). (DEDUCED, assumption 16.) -/
def barUpdate (op : Nat) (rd : Nat) (a v : Word) (s : State) : WordResult :=
  match barPlace s s.unit a (op == 1) with
  | .error f => .fault f
  | .ok (p, s) =>
    let s := flushUnit s.unit (2 * s.core.pend.length + 1) s
    match p with
    | .win k off =>
      if !s.released then .blocked writeBack 8
      else if !s.core.winRoom k then .blocked id 8
      else .next (sendWin (s.mapCore (fun c => c.addOut k)) (s.core.win.get k) (.arrive off v.toNat) (.bar (some k) rd)).2
    | p =>
      let x := s.barEntry p a op rd v
      if s.unit = .ve ∧ s.core.ordinaryPending = true then .blocked id 8
      else if s.unitPending s.unit || p.remote s || !s.sysReady x || s.mustSend x then .next (issueBar x s).uncounted
      else match performLocal s x with
        | .ok s => .next s.uncounted
        | .error f => if f.code = cQueue then .late s f else .fault f

/-- R169: TBAR.INIT. -/
def execTbarInit (r : BitVec 4) (a b : BitVec 5) (s : State) : Host.Outcome State Fault Refusal :=
  .next (issue (.tbarInit r a b) (fun s => barUpdate 0 0 (s.r5 a) (s.r5 b) s) s)

/-- R169: TBAR.ARRIVE; an rb field of 0 is one arrival. (DEDUCED, assumption 16.) -/
def execTbarArrive (r : BitVec 4) (d a b : BitVec 5) (s : State) : Host.Outcome State Fault Refusal :=
  .next (issue (.tbarArrive r d a b) (fun s => barUpdate 1 d.toNat (s.r5 a) (if b = 0#5 then 1#64 else s.r5 b) s) s)

/-- R169: TBAR.EXPECT. -/
def execTbarExpect (r : BitVec 4) (d a b : BitVec 5) (s : State) : Host.Outcome State Fault Refusal :=
  .next (issue (.tbarExpect r d a b) (fun s => barUpdate 2 d.toNat (s.r5 a) (s.r5 b) s) s)

/-- A TBAR.WAIT or TBAR.TEST reads its barrier after the accesses of its sequencer that are to be performed before it (R132,
R134, R135, R149, R155). -/
def State.barHeld (s : State) (x : Access) : Bool := s.core.pend.any (fun b => b.unit == x.unit && mustPrecede b x)

/-- The state in which a TBAR.WAIT or TBAR.TEST looks at its barrier: in the VE the ordinary writes of the barrier's bytes have
landed (R210), in the CC and the AE what can be performed has been. -/
def readyToObserve (x : Access) (s : State) : State :=
  match x.place with
  | .buf _ off => if s.unit = .ve then s.mapCore (fun c => c.holdBytes (2 ^ 28 + off) 16) else flushUnit s.unit (2 * s.core.pend.length + 1) s
  | _ => flushUnit s.unit (2 * s.core.pend.length + 1) s

/-- Ask the home of a barrier on another device for its phase, unless that has been asked (R166); dirty bytes that the die
holds of the barrier are written back first (R148). -/
def sendPoll (pa key : Nat) (s : State) : State :=
  let line (q : Nat) : Bool := q / 128 == pa / 128
  if s.waiting.any (fun w => s.mine w && w.pkt.srcUnit == s.unit && w.kind == .poll && w.pkt.req == .memBar pa 3 0#64) then s
  else match s.cleaning [s.die] line with
    | .send => writeBackDies [s.die] line s
    | .wait => s
    | .clean => (send s (paDev pa) 0 key (.memBar pa 3 0#64) .poll).2

/-- A TBAR.WAIT has observed a phase of a barrier of another device, an acquire at .sys: the die's remote lines are written
back and dropped, and later accesses wait for that (R164). Of the barriers that R164 calls reached at .sys the model takes
those in another device's memory (R168), not the core's own AB where others arrive through windows.
(DESIGN CHOICE, assumption 57.) -/
def observe (s : State) : State := drain (s.pushAccess (s.access .fence 0 0 0#64).acquired)

/-- What a TBAR.WAIT finds in the poll of a barrier on another device. A stamped one asks at its count at the latest, and what
it asked then decides whether its group was ready (R387). -/
def pollWait (x : Access) (pa want : Nat) (s : State) : WordResult :=
  let again (s : State) : State := sendPoll pa x.key (s.mapCore (fun c => { c with poll := c.poll.set (sqIx s.unit) none }))
  match s.core.poll.get (sqIx s.unit) with
  | none => .waits (sendPoll pa x.key)
  | some n =>
    if n / 32 ≠ pa then .waits again
    else if 16 ≤ n % 32 then .fault ⟨cQueue, 0, match x.place with
      | .mem va _ => BitVec.ofNat 64 va
      | _ => 0#64⟩
    else if n % 32 = want then (if s.pfx.met then .fault ⟨cStamp, 0, 0#64⟩ else .blocked again 8)
    else .next (observe s)

/-- R169: TBAR.WAIT is blocked while the phase is the awaited one. -/
def execTbarWait (r : BitVec 4) (a b : BitVec 5) (s : State) : Host.Outcome State Fault Refusal :=
  .next (issue (.tbarWait r a b) (fun s =>
    match barPlace s s.unit (s.r5 a) false with
    | .error f => .fault f
    | .ok (p, s) =>
      let want := (s.r5 b).toNat % 16
      let x := s.barEntry p (s.r5 a) 3 0 (s.r5 b)
      let s := readyToObserve x s
      if s.barHeld x then .waits id
      else match p, p.remote s with
      | .mem pa _, true => pollWait x pa want s
      | _, _ =>
        match s.accessMark x with
        | some f => .fault f
        | none =>
          let y := readBar s p
          if y.ovf then .fault ⟨cQueue, 0, s.r5 a⟩ else if y.phase = want then .blocked id 8 else .next s) s)

/-- R169: TBAR.TEST writes 1 when the barrier has left the awaited phase. On a barrier of another device it has issued, and
later accesses wait for its value. (DEDUCED, assumption 16.) -/
def execTbarTest (r : BitVec 4) (d a b : BitVec 5) (s : State) : Host.Outcome State Fault Refusal :=
  .next (issue (.tbarTest r d a b) (fun s =>
    match barPlace s s.unit (s.r5 a) false with
    | .error f => .fault f
    | .ok (p, s) =>
      let x := s.barEntry p (s.r5 a) 4 d.toNat (s.r5 b)
      let s := readyToObserve x s
      if p.remote s then .next (issueBar x s)
      else if s.barHeld x then .waits id
      else match performLocal s x with
        | .ok s => .next s
        | .error f => .fault f) s)

end Sys2Proof.Machine
end

