-- ==== Sys2Proof/Machine/Copies.lean ====
section
/-! DEFINITION. Copy words: acceptance (R176, R180), the forms (R181–R186), and the events of the copy engine (R173, R174,
R185). -/
namespace Sys2Proof.Machine

/-! ### Acceptance: R176 -/

/-- A buffer address of the local space `n`. -/
def inSpaceOf (a : Word) (n : Nat) : Bool := isBufAddr a && bufSpace a.toNat == n
/-- A window address. -/
def isWinAddr (a : Word) : Bool := isBufAddr a && decide (8 ≤ bufSpace a.toNat)

/-- R171: the permitted source of a form. -/
def srcAllowed (k : CopyKind) (a : Word) : Bool :=
  !isBufAddr a || (k != .mcast && (inSpaceOf a 1 || inSpaceOf a 2 || isWinAddr a))

/-- R171: the permitted destination of a form. -/
def dstAllowed (k : CopyKind) (a : Word) : Bool :=
  if k = .sclLd then true
  else if k = .mcast then inSpaceOf a 0 || inSpaceOf a 1
  else !isBufAddr a || inSpaceOf a 0 || inSpaceOf a 1 || isWinAddr a

/-- R171: the permitted barrier of a form. -/
def barAllowed (c : Core) (k : CopyKind) (dst bar : Word) : Bool :=
  bar == 0#64 || inSpaceOf bar 1
    || (k != .mcast && (!isBufAddr bar
      || (isWinAddr bar && isWinAddr dst && bufSpace bar.toNat == bufSpace dst.toNat && winSpace (c.win.get (bufSpace bar.toNat - 8)) == 1)))

/-- Item 2: fields and spaces. -/
def copyFields (c : Core) (k : CopyKind) (d : BitVec 384) : Option Flt :=
  let bad (detail : Nat) (a : Word) : Option Flt := some ⟨cBufacc, 0x60 + detail, a⟩
  let aux := cdAux d
  if cdRes d ≠ 0 then bad 1 0#64
  else if k = .mcast ∧ bits aux 63 8 ≠ 0 then bad 1 aux
  else if k = .sclLd ∧ (cdLen d ≠ 64 ∨ cdDst d ≠ 0#64 ∨ cdDstr d ≠ 0 ∨ cdBar d ≠ 0#64) then bad 1 0#64
  else if !srcAllowed k (cdSrc d) then bad 2 (cdSrc d)
  else if !dstAllowed k (cdDst d) then bad 2 (cdDst d)
  else if !barAllowed c k (cdDst d) (cdBar d) then bad 2 (cdBar d)
  else if cdBar d ≠ 0#64 ∧ isBufAddr (cdBar d) ∧ bufOff (cdBar d).toNat + 16 > spaceSize 1 then bad 3 (cdBar d)
  else if k = .gath ∨ k = .scat then
    if !inSpaceOf aux 1 then bad 2 aux
    else if bufOff aux.toNat + 4 * cdRows d > spaceSize 1 then bad 3 aux
    else none
  else none

/-- Item 3: alignment to the element size, of the barrier to 16 and of the index vector to 4. -/
def copyAlign (k : CopyKind) (d : BitVec 384) : Option Flt :=
  let e := cdEsz d
  let off (a : Word) : Option Flt := some ⟨cAlign, 0, a⟩
  if (cdSrc d).toNat % e ≠ 0 then off (cdSrc d)
  else if (cdDst d).toNat % e ≠ 0 then off (cdDst d)
  else if cdLen d % e ≠ 0 ∨ cdSstr d % e ≠ 0 ∨ cdDstr d % e ≠ 0 then off 0#64
  else if (cdBar d).toNat % 16 ≠ 0 then off (cdBar d)
  else if (k = .gath ∨ k = .scat) ∧ (cdAux d).toNat % 4 ≠ 0 then off (cdAux d)
  else none

/-- A copy that moves nothing (R176). -/
def isZeroCopy (k : CopyKind) (d : BitVec 384) : Bool :=
  cdRows d == 0 || cdLen d == 0 || (k == .mcast && mcastMask d == 0)

/-- Items 2 to 5 of R176; the state has a virtual barrier's page translated. (DEDUCED, assumption 45.) -/
def copyChecks (s : State) (k : CopyKind) (d : BitVec 384) : Except Flt State :=
  match copyFields s.core k d with
  | some f => .error f
  | none => match copyAlign k d with
    | some f => .error f
    | none =>
      if s.hyp ≠ 0#8 ∧ (isWinAddr (cdDst d) ∨ isWinAddr (cdBar d)) then
        .error ⟨cHypso, 0, if isWinAddr (cdDst d) then cdDst d else cdBar d⟩
      else if isBufAddr (cdBar d) then .ok s
      else match checkMem s (cdBar d) 1 3 with
        | .error f => .error f
        | .ok (_, _, s) => .ok s

/-! ### The forms: R180 -/

/-- A copy as it is accepted. -/
def newCopy (s : State) (k : CopyKind) (d : BitVec 384) (timed : Bool) (time : Word) : Copy :=
  { time := time, timed := timed, hyp := s.hyp, kind := k, due := !timed || decide (time.toNat ≤ s.gtc.toNat), row := 0, off := 0,
    desc := d, seq := s.core.copySeq + 1, drops := [], waiting := 0, idx := none, fetch := 0, got := none,
    slot := none }

/-- Put a copy into the engine and raise cp; accesses of the AE that are not performed hold it (R175). -/
def acceptCopy (s : State) (cp : Copy) : State :=
  (s.mapCore (fun c => { c with copies := c.copies ++ [cp], copySeq := cp.seq, cntCp := c.cntCp + 1 })).pushGate (copyGate cp.seq)

/-- A zero copy: cp rises for one cycle (R176, R180). -/
def zeroCopy (s : State) : State := s.mapCore (fun c => { c with cntCp := c.cntCp + 1, cpZero := c.cpZero + 1 })

/-- An untimed copy (R180): 16 in flight stall it. -/
def untimedCopy (k : CopyKind) (c : BitVec 4) (s : State) : WordResult :=
  let d := s.core.c.get c.toNat
  if s.core.calm then .fault ⟨cCalm, 0, 0#64⟩
  else if isZeroCopy k d then (if counterMax ≤ s.core.cntCp then .blocked id 8 else .next (zeroCopy s))
  else match copyChecks s k d with
    | .error f => .fault f
    | .ok s =>
      if Config.copiesInFlight ≤ (s.core.copies.filter (fun x => !x.timed)).length ∨ counterMax ≤ s.core.cntCp then .blocked id 8
      else .next (acceptCopy s (newCopy s k d false 0#64))

/-- A timed copy (R180): refused when the buffer is full; its status register says whether it was accepted. -/
def timedCopy (k : CopyKind) (c d t : BitVec 4) (s : State) : WordResult :=
  let desc := s.core.c.get c.toNat
  let time := s.r5 t
  if isZeroCopy k desc then (if counterMax ≤ s.core.cntCp then .blocked id 8 else .next ((zeroCopy s).w5 d 1#64))
  else match copyChecks s k desc with
    | .error f => .fault f
    | .ok s =>
      if Config.timedPlaces ≤ (s.core.copies.filter (·.timed)).length then .next (s.w5 d 0#64)
      else if counterMax ≤ s.core.cntCp then .blocked id 8
      else .next ((acceptCopy s (newCopy s k desc true time)).w5 d 1#64)

/-- R182: CPY. -/
def execCpy (r c : BitVec 4) (s : State) : Host.Outcome State Fault Refusal := .next (issue (.cpy r c) (untimedCopy .cpy c) s)
/-- R182: CPY.T. -/
def execCpyT (r c d t : BitVec 4) (s : State) : Host.Outcome State Fault Refusal := .next (issue (.cpyT r c d t) (timedCopy .cpyT c d t) s)
/-- R183: GATH. -/
def execGath (r c : BitVec 4) (s : State) : Host.Outcome State Fault Refusal := .next (issue (.gath r c) (untimedCopy .gath c) s)
/-- R183: GATH.T. -/
def execGathT (r c d t : BitVec 4) (s : State) : Host.Outcome State Fault Refusal := .next (issue (.gathT r c d t) (timedCopy .gath c d t) s)
/-- R183: SCAT. -/
def execScat (r c : BitVec 4) (s : State) : Host.Outcome State Fault Refusal := .next (issue (.scat r c) (untimedCopy .scat c) s)
/-- R183: SCAT.T. -/
def execScatT (r c d t : BitVec 4) (s : State) : Host.Outcome State Fault Refusal := .next (issue (.scatT r c d t) (timedCopy .scat c d t) s)
/-- R184: MCAST. -/
def execMcast (r c : BitVec 4) (s : State) : Host.Outcome State Fault Refusal := .next (issue (.mcast r c) (untimedCopy .mcast c) s)
/-- R184: MCAST.T. -/
def execMcastT (r c d t : BitVec 4) (s : State) : Host.Outcome State Fault Refusal := .next (issue (.mcastT r c d t) (timedCopy .mcast c d t) s)
/-- R185: SCL.LD. -/
def execSclLd (r c : BitVec 4) (s : State) : Host.Outcome State Fault Refusal := .next (issue (.sclLd r c) (untimedCopy .sclLd c) s)
/-- R185: SCL.LD.T. -/
def execSclLdT (r c d t : BitVec 4) (s : State) : Host.Outcome State Fault Refusal := .next (issue (.sclLdT r c d t) (timedCopy .sclLd c d t) s)

/-- R186: a prefetch has an effect on timing only. -/
def execPref (r c : BitVec 4) (s : State) : Host.Outcome State Fault Refusal := .next (issue (.pref r c) (fun s => .next s) s)

/-- A descriptor with one field replaced (R170, R181). -/
def cdWith (d : BitVec 384) (f : Nat) (v : Word) : BitVec 384 :=
  let lo := 320 - 64 * f
  let keep := d &&& ~~~((BitVec.ofNat 384 (2 ^ 64 - 1)) <<< lo)
  keep ||| ((v.setWidth 384) <<< lo)

/-- R181: CD.SET. -/
def execCdSet (r c x : BitVec 4) (f : BitVec 6) (s : State) : Host.Outcome State Fault Refusal :=
  .next (issue (.cdSet r c x f) (fun s =>
    .next (s.mapCore (fun k => { k with c := k.c.set c.toNat (cdWith (k.c.get c.toNat) f.toNat (s.r5 x)) }))) s)

/-! ### The engine -/

/-- R173: timed copies whose TIME has come are due. -/
def execTimedCopyDue (lnum : Nat) (s : State) : Host.Outcome State Fault Refusal :=
  .next (within lnum (fun s => s.mapCore (fun c =>
    { c with copies := c.copies.map (fun x => if x.timed && x.isDue s.gtc then { x with due := true } else x) })) s)

/-- R174: one burst. -/
def execCopyBurst (lnum : Nat) (s : State) : Host.Outcome State Fault Refusal := .next (within lnum copyBurst s)

/-- R185: one scale group. -/
def execScaleGroupPush (lnum : Nat) (s : State) : Host.Outcome State Fault Refusal := .next (within lnum scalePush s)

end Sys2Proof.Machine
end

