-- ==== Sys2Proof/Machine/Matrix.lean ====
section
/-! DEFINITION. Matrix words: the acceptance of a tile command (R191–R194, R198, R425), the words (R199–R204), and the
commit of the oldest command. -/
namespace Sys2Proof.Machine

/-! ### Operands of a tile command: R190, R191 -/

/-- A descriptor that a tile command names, with what it must satisfy: its permitted spaces (a window too where
`window`), the lines and the elements of each line that are touched, the element width in bits, the alignment, whether
STRIDE counts, and whether K is read from it. -/
structure TileOperand where
  d : BitVec 128
  spaces : List Nat
  window : Bool
  lines : List Nat
  elems : Nat
  width : Nat
  align : Nat
  strided : Bool
  readsK : Bool
  deriving DecidableEq, Repr, Inhabited

/-- C: all 2P + 8 bytes of a tile in AS, at a multiple of 256. -/
def operandC (d : BitVec 128) (acc : Nat) : TileOperand :=
  ⟨d, [2], false, [0], 2 * planeBytes acc + 8, 8, 256, false, false⟩

/-- Lines of elements of format `fmt`. -/
def operandLines (d : BitVec 128) (spaces : List Nat) (window : Bool) (lines : List Nat) (elems fmt : Nat) (k : Bool) : TileOperand :=
  ⟨d, spaces, window, lines, elems, fmtBits fmt, max 1 (fmtBits fmt / 8), true, k⟩

/-- R191 step 1. -/
def TileOperand.fieldFault (o : TileOperand) : Option Flt :=
  if tdRes o.d ≠ 0 ∨ (o.readsK ∧ 4096 < tdK o.d) then some ⟨cBufacc, 0x21, tdAddr o.d⟩ else none

/-- R191 step 2. -/
def TileOperand.spaceFault (o : TileOperand) : Option Flt :=
  let sp := bufSpace (tdBase o.d)
  if o.spaces.contains sp || (o.window && decide (8 ≤ sp)) then none else some ⟨cBufacc, 0x22, tdAddr o.d⟩

/-- R191 step 3; for a window the checks of R361. -/
def TileOperand.rangeFault (c : Core) (o : TileOperand) : Option Flt :=
  if o.lines.isEmpty ∨ o.elems = 0 then none
  else
    let sp := bufSpace (tdBase o.d)
    let (lo, hi) := extent o.d o.lines o.elems o.width
    if 8 ≤ sp then
      if lo < 0 then some ⟨cBufacc, 0x52, tdAddr o.d⟩
      else match checkWin c (sp - 8) lo.toNat (hi - lo).toNat 1 0#8 (tdAddr o.d) with
        | .error f => some f
        | .ok () => none
    else if lo < 0 ∨ (spaceSize sp : Int) < hi then some ⟨cBufacc, 0x23, tdAddr o.d⟩
    else none

/-- R191 step 4. -/
def TileOperand.alignFault (o : TileOperand) : Option Flt :=
  if tdBase o.d % o.align ≠ 0 ∨ (o.strided ∧ tdStride o.d % (o.align : Int) ≠ 0) then some ⟨cAlign, 0, tdAddr o.d⟩ else none

/-- The tile commands of the ME of core `me`, whose latch is `l`, have committed in order: what a later command of that ME
sees (R194). -/
def Core.afterTiles (c : Core) (l : OpLatch) (me : Nat) : Core :=
  ((c.tiles.filter (fun t => t.me == me)).foldl (fun p t => let (c, l, _) := commitTile p.1 p.2 t; (c, l)) (c, l)).1

/-! ### Acceptance: R425 -/

/-- The descriptors that a tile command names: C or D, then A or the source or C of ACC.RD, then B. -/
def tileDescs (i : Instr) (t : Tab (BitVec 128)) : List (BitVec 128) :=
  match i with
  | .mm _ c a b _ _ _ _ => [t.get c.toNat, t.get a.toNat, t.get b.toNat]
  | .mmG _ c a b _ _ _ => [t.get c.toNat, t.get a.toNat, t.get b.toNat]
  | .accZero _ c => [t.get c.toNat]
  | .accRd _ d c => [t.get d.toNat, t.get c.toNat]
  | .accWr _ c s => [t.get c.toNat, t.get s.toNat]
  | _ => []

/-- The index vector of MM.G. -/
def tileIndex (i : Instr) (t : Tab (BitVec 128)) : Option (BitVec 128) :=
  match i with
  | .mmG _ _ _ _ x _ _ => some (t.get x.toNat)
  | _ => none

/-- The operands in the order in which R425 checks them. -/
def tileOperands (i : Instr) (f : Word) (reloc : Bool) (ds : List (BitVec 128)) (rows : List Nat) : List TileOperand :=
  let d (n : Nat) : BitVec 128 := ds.getD n 0#128
  let n := tileT (fwAcc f)
  let k := tdK (d 1)
  let mm (x y : Bool) (ra : List Nat) : List TileOperand :=
    [operandC (d 0) (fwAcc f), operandLines (d 1) [0, 1] reloc ra (shapeA n k x).elems (fwAfmt f) true,
     operandLines (d 2) [0, 1] reloc (List.range (shapeB n k y).lines) (shapeB n k y).elems (fwBfmt f) false]
  match i with
  | .mm _ _ _ _ _ _ y x => mm (x == 1#1) (y == 1#1) (List.range (shapeA n k (x == 1#1)).lines)
  | .mmG _ _ _ _ _ _ y => mm false (y == 1#1) rows
  | .accZero .. => [operandC (d 0) (fwAcc f)]
  | .accRd .. => [operandLines (d 0) [1] false (List.range n) n (fwOfmt f) false, operandC (d 1) (fwAcc f)]
  | .accWr .. => [operandC (d 0) (fwAcc f), operandLines (d 1) [0, 1] false (List.range n) n (fwAfmt f) false]
  | _ => []

/-- Item 3: the index vector of MM.G lies in AB, and its elements are the rows of A: `c` as the command finds it, `after` as
the earlier commands of its ME leave it. A marked word faults when it is read (R397). -/
def indexRows (c after : Core) (x : BitVec 128) (t : Nat) : Except Flt (List Nat) :=
  let off := bufOff (tdBase x)
  if bufSpace (tdBase x) ≠ 1 then .error ⟨cBufacc, 0x82, tdAddr x⟩
  else if tdBase x % 4 ≠ 0 then .error ⟨cAlign, 0, tdAddr x⟩
  else if spaceSize 1 < off + 4 * t then .error ⟨cBufacc, 0x83, tdAddr x⟩
  else match c.bufMark 1 off (4 * t) with
    | some f => .error f
    | none => .ok ((List.range t).map (fun n => after.readBuf 1 (off + 4 * n) 4))

/-- Item 5: K is a multiple of the group size and of the block length, and even for E2M1, whose group is 8. -/
def kFault (i : Instr) (f : Word) (k : Nat) : Option Flt :=
  let bad := k % groupSize (fwAfmt f) ≠ 0 ∨ (blockLen (fwBlen f) ≠ 0 ∧ k % blockLen (fwBlen f) ≠ 0)
  match i with
  | .mm .. => if bad then some ⟨cFmtq, 3, 0#64⟩ else none
  | .mmG .. => if bad then some ⟨cFmtq, 3, 0#64⟩ else none
  | _ => none

/-- The tile whose ACCF the word's ACC must equal: C of an MM that continues a sequence, and of ACC.RD (item 6). -/
def continues (i : Instr) (ds : List (BitVec 128)) : Option (BitVec 128) :=
  match i with
  | .mm _ _ _ _ _ z _ _ => if z = 1#1 then none else ds[0]?
  | .mmG _ _ _ _ _ z _ => if z = 1#1 then none else ds[0]?
  | .accRd .. => ds[1]?
  | _ => none

/-- Item 6. -/
def accFault (after : Core) (i : Instr) (f : Word) (ds : List (BitVec 128)) : Option Flt :=
  match continues i ds with
  | none => none
  | some d =>
    if nbits (statusOf after d (fwAcc f)) 63 62 = fwAcc f then none else some ⟨cFmtq, 2, 0#64⟩

/-- Items 1 (but for the pop) to 6 of R425, on the core whose buffers the command works on, as it is and as the earlier
commands of the ME leave it: the gathered rows. -/
def tileChecks (c after : Core) (i : Instr) (f : Word) (reloc : Bool) (t : Tab (BitVec 128)) : Except Flt (List Nat) :=
  let ds := tileDescs i t
  if !fmtValid f || (reloc && (fwBlen f != 0 || fwBand f)) then .error ⟨cFmtq, 1, 0#64⟩
  else
    let ops := tileOperands i f reloc ds []
    match ops.findSome? TileOperand.fieldFault with
    | some e => .error e
    | none => match ops.findSome? TileOperand.spaceFault with
      | some e => .error e
      | none =>
        let rows : Except Flt (List Nat) := match tileIndex i t with
          | none => .ok []
          | some x => indexRows c after x (tileT (fwAcc f))
        match rows with
        | .error e => .error e
        | .ok rows =>
          let ops := tileOperands i f reloc ds rows
          match ops.findSome? (TileOperand.rangeFault c) with
          | some e => .error e
          | none => match ops.findSome? TileOperand.alignFault with
            | some e => .error e
            | none => match kFault i f (tdK (ds.getD 1 0#128)) with
              | some e => .error e
              | none => match accFault after i f ds with
                | some e => .error e
                | none => .ok rows

/-- An SCL.LD of the core is outstanding (R185). -/
def Core.sclOutstanding (c : Core) : Bool := c.copies.any (fun x => x.kind == .sclLd)

/-- Tile commands that the ME of the core in focus has in flight, on its own core and on those that it pulled from
(R194). -/
def State.tilesInFlight (s : State) : Nat :=
  ((clusterCores s.lnum).map (fun n => ((s.coreAt n).tiles.filter (fun t => t.me == s.lnum)).length)).foldl (· + ·) 0

/-- An MM.G whose index words an earlier command of its ME may still write has to wait for that command's operands: it reads
its index after them (R194, R425). The wait is on the fabric and stands with the other waits of the ME.
(DEDUCED, assumption 58.) -/
def State.indexWaits (s : State) (i : Instr) (hc : Core) : Bool :=
  (tileIndex i s.core.t).isSome && hc.tiles.any (fun t => t.me == s.lnum && !t.ready)

/-- The core whose buffers the ME's present command names: its own, or the issuer of the command that it pulled
(R197). -/
def State.tileHome (s : State) : Nat :=
  if s.core.meOwn.isSome then s.core.me.reloc.getD s.lnum else s.lnum

/-- The format word of the next tile command and what taking it does: e2 at the start of a relocatable command, the
word that an earlier attempt recorded, or the head of FMTQ (R192, R198). -/
def tileWord (s : State) : Option (Word × (State → State)) :=
  if s.inReloc then (s.core.me.run.map (fun r => (r.b, id)))
  else match s.core.tileReplay with
    | some t => some (t.fmt, id)
    | none => match s.core.fmtq.items with
      | [] => none
      | (w, _) :: _ => some (w, fun s => s.mapCore (fun c => { c with fmtq := c.fmtq.pop fmtqDepth }))

/-- A command that has not been accepted, as the frame records it (R192). -/
def recordTile (s : State) (i : Instr) (f : Word) (scales : List (List Byte)) : Tile :=
  { cmd := i, fmt := f, descs := tileDescs i s.core.t, rows := [], scales := scales, me := s.lnum, reloc := s.inReloc,
    need := [], got := [], failed := false, gen := s.core.latch.gen, word := s.core.groupWord .me }

/-- A tile command joins those of its home core: tl rises, and operands in windows are asked for once the earlier commands of
its ME have committed (R194). (DEDUCED, assumption 19.) -/
def acceptTile (s : State) (home : Nat) (t : Tile) : State :=
  within home (fun s => askTiles (s.mapCore (fun c =>
    { c with tiles := c.tiles ++ [{ t with asked := !t.windowed }], cntTl := c.cntTl + 1 }))) s

/-- Acceptance of a tile command (R425): room first, then its format word, its checks and its scale entries. What it has
popped stays popped when it faults or waits. -/
def tileCommand (i : Instr) (s : State) : WordResult :=
  let home := s.tileHome
  let hc := s.coreAt home
  if 4 ≤ s.tilesInFlight ∨ counterMax ≤ hc.cntTl ∨ s.indexWaits i hc then .blocked id 8
  else if !s.inReloc && s.core.tileReplay.isNone && !s.core.fmtq.items.isEmpty && s.core.gated .cc 8 s.core.fmtq.items.length then
    .blocked id 8
  else match tileWord s with
    | none => .fault ⟨cFmtq, 0, 0#64⟩
    | some (f, take) =>
      let old := match s.core.tileReplay with
        | some t => if s.inReloc then [] else t.scales
        | none => []
      let keep (scales : List (List Byte)) (s : State) : State :=
        if s.inReloc then s else (take s).mapCore (fun c => { c with tileReplay := some (recordTile s i f scales) })
      match tileChecks hc (hc.afterTiles s.core.latch s.lnum) i f s.inReloc s.core.t with
      | .error e => .spent (keep old) e
      | .ok rows =>
        let need := scalesNeeded i f (tdK ((tileDescs i s.core.t).getD 1 0#128))
        let more := need - old.length
        let popped := (s.core.sclq.items.take more).map (·.bytes)
        let pops (s : State) : State :=
          s.mapCore (fun c => { c with sclq := (List.range popped.length).foldl (fun q _ => q.pop sclqDepth) c.sclq })
        let scales := old ++ popped
        if popped.length < more then
          if s.core.sclOutstanding then .blocked (fun s => pops (keep scales s)) 9
          else .spent (fun s => pops (keep scales s)) ⟨cQimb, 0, 0#64⟩
        else
          let t := { recordTile s i f (scales.take need) with rows := rows }
          let s := pops (take s)
          let s := if s.inReloc then s else s.mapCore (fun c => { c with tileReplay := none })
          .next (acceptTile s home t)

/-! ### The words: R200–R204 -/

/-- R202: MM. -/
def execMm (r c a b : BitVec 4) (k z y x : BitVec 1) (s : State) : Host.Outcome State Fault Refusal :=
  .next (issue (.mm r c a b k z y x) (tileCommand (.mm r c a b k z y x)) s)

/-- R202: MM.G. -/
def execMmG (r c a b : BitVec 4) (i : BitVec 3) (z y : BitVec 1) (s : State) : Host.Outcome State Fault Refusal :=
  .next (issue (.mmG r c a b i z y) (tileCommand (.mmG r c a b i z y)) s)

/-- R201: ACC.ZERO. -/
def execAccZero (r c : BitVec 4) (s : State) : Host.Outcome State Fault Refusal :=
  .next (issue (.accZero r c) (tileCommand (.accZero r c)) s)

/-- R204: ACC.RD. -/
def execAccRd (r d c : BitVec 4) (s : State) : Host.Outcome State Fault Refusal :=
  .next (issue (.accRd r d c) (tileCommand (.accRd r d c)) s)

/-- R203: ACC.WR. -/
def execAccWr (r c t : BitVec 4) (s : State) : Host.Outcome State Fault Refusal :=
  .next (issue (.accWr r c t) (tileCommand (.accWr r c t)) s)

/-- R200: TD.SET. -/
def execTdSet (r t a b : BitVec 4) (s : State) : Host.Outcome State Fault Refusal :=
  .next (issue (.tdSet r t a b) (fun s =>
    .next (s.mapCore (fun c => { c with t := c.t.set t.toNat (s.r5 a ++ s.r5 b) }))) s)

/-! ### Commits: R194 -/

/-- A replay that lacks scale entries takes the next one as at its acceptance (R192, R193): it waits while an SCL.LD is
outstanding, and faults with F.QIMB where none is. -/
def popForReplay (s : State) (t : Tile) : State :=
  match s.core.sclq.items with
  | e :: _ => s.mapCore (fun c => { c with sclq := c.sclq.pop sclqDepth, tiles := c.tiles.set 0 { t with scales := t.scales ++ [e.bytes] } })
  | [] =>
    if s.core.sclOutstanding then s
    else takeFault (s.mapCore Core.failHead) { raisedByUnit (.seq .me) ((s.coreAt t.me).hypOf .me) ⟨cQimb, 0, 0#64⟩ with word := t.word }

/-- The oldest tile command of the core in focus commits, or faults with F.ECC and commits nothing. -/
def commitNext (s : State) : State :=
  match s.core.tiles.head?.filter (fun t => !t.failed && decide (0 < t.short)) with
  | some t => if s.core.mode == .running then popForReplay s t else s
  | none => match s.tileFault with
    | some r => takeFault (s.mapCore Core.failHead) r
    | none => resettle (commitOldest s)

/-- R194: the oldest tile command of the core commits. -/
def execTileCommit (lnum : Nat) (s : State) : Host.Outcome State Fault Refusal := .next (within lnum commitNext s)

end Sys2Proof.Machine
end

