-- ==== Sys2Proof/Machine/Region.lean ====
section
/-! DEFINITION. Regions of the vector engine: descriptors (R205, R206), their checks (R207), how elements are read into
and written from a computation type (R208), pending writes and holds (R209–R211), and posted window writes (R362). -/
namespace Sys2Proof.Machine

/-! ### Descriptors: R205, R206 -/

/-- A region descriptor's fields. -/
structure Region where
  base : Nat
  stride : Int
  count : Nat
  fmt : Nat
  rnd : Nat
  sat : Bool
  u : Bool
  res : Nat
  deriving DecidableEq, Repr, Inhabited

def regionOf (d : BitVec 128) : Region :=
  let n := d.toNat
  ⟨nbits n 127 96, sextNat 16 (nbits n 95 80), nbits n 79 64, nbits n 63 60, nbits n 59 58, nbits n 57 57 == 1, nbits n 56 56 == 1, nbits n 55 0⟩

def Region.addr (r : Region) : Word := BitVec.ofNat 64 r.base
def Region.space (r : Region) : Nat := bufSpace r.base
def Region.off (r : Region) : Nat := bufOff r.base
/-- Element size in bytes; 1 for a nibble. -/
def Region.size (r : Region) : Nat := max 1 (fmtBits r.fmt / 8)
/-- An integer format. -/
def intFmt (f : Nat) : Bool := f == 7 || f == 9

/-- The element that serves index `i`: a broadcast region has one (R206). -/
def Region.at (r : Region) (i : Nat) : Nat := if r.count = 1 then 0 else i

/-- Offset of the byte of element `i` in the region's space, and for a nibble whether it is the high one. -/
def Region.place (r : Region) (i : Nat) : Nat × Option Bool :=
  let i := r.at i
  if fmtBits r.fmt = 4 then (r.off + i / 2, some (i % 2 == 1))
  else (((r.off : Int) + i * r.stride * r.size).toNat, none)

/-- The first and the last-plus-one offset of `n` elements. -/
def Region.extent (r : Region) (n : Nat) : Int × Int :=
  let last : Int := ((n - 1 : Nat) : Int)
  if fmtBits r.fmt = 4 then (r.off, (r.off : Int) + last / 2 + 1)
  else
    let far := last * r.stride * r.size
    ((r.off : Int) + min 0 far, (r.off : Int) + max 0 far + r.size)

/-! ### Checks: R207 -/

/-- The steps of R207 for one region. `dst` for a destination, `reads` where it is read into computation type `ct`, `n`
the element count that it must have unless it is 1. (DEDUCED, assumption 21.) -/
def checkRegion (c : Core) (r : Region) (dst reads : Bool) (ct n : Nat) (hyp : BitVec 8) : Option Flt :=
  let bad (step : Nat) : Option Flt := some ⟨cBufacc, 0x30 + step, r.addr⟩
  if r.res ≠ 0 ∨ (r.u ∧ !intFmt r.fmt) ∨ 9 < r.fmt ∨ (dst ∧ !isOutput r.fmt) then bad 1
  else if reads ∧ 2 ≤ ct ∧ !intFmt r.fmt then bad 2
  else if (if dst then r.space ≠ 1 ∧ r.space ≠ 2 ∧ (r.space < 8 ∨ reads) else 2 < r.space) then bad 3
  else if r.count ≠ n ∧ r.count ≠ 1 then bad 4
  else
    let (lo, hi) := r.extent r.count
    let range : Option Flt :=
      if 8 ≤ r.space then
        if lo < 0 then some ⟨cBufacc, 0x52, r.addr⟩
        else match checkWin c (r.space - 8) lo.toNat (hi - lo).toNat 1 0#8 r.addr with
          | .error f => some f
          | .ok () => none
      else if lo < 0 ∨ (spaceSize r.space : Int) < hi then bad 5 else none
    match range with
    | some f => some f
    | none =>
      if r.base % r.size ≠ 0 ∨ (fmtBits r.fmt = 4 ∧ r.stride ≠ 1) then some ⟨cAlign, 0, r.addr⟩
      else if dst ∧ 8 ≤ r.space ∧ hyp ≠ 0#8 then some ⟨cHypso, 0, r.addr⟩
      else c.bufMark r.space lo.toNat (hi - lo).toNat

/-- The region allows full rate (R209). -/
def Region.full (r : Region) : Bool := r.count ≤ 1 || (r.base % 256 == 0 && r.stride == 1)

/-- Elements per step for a word or chain over these regions (R209). -/
def rateOf (rs : List Region) (f64ct : Bool) : Nat :=
  if !rs.all Region.full then 8 else if f64ct || rs.any (fun r => fmtBits r.fmt == 64) then 32 else 64

/-! ### Reads -/

/-- The pending writes that a read in a step `s` steps from now sees, in the order in which they stand: every ordinary
write before it in program order, and the special-function writes that have landed by then (R210, R211). -/
def seenWrites (ws : List VWrite) (s : Nat) : List VWrite :=
  let l := ws.filter (fun w => !w.windowed && !w.landed && (!w.sf || decide (w.left ≤ s)))
  let n := l.foldl (fun m w => max m w.left) 0
  (List.range (n + 1)).flatMap (fun k => l.filter (fun w => w.left == k && !w.sf) ++ l.filter (fun w => w.left == k && w.sf))

/-- A buffer as a read of `len` bytes at `off` in a step `s` steps from now sees it. -/
def Core.seenBuf (c : Core) (space off len s : Nat) : Tab Byte :=
  match c.vpend.filter (fun w => bufSpace w.addr == space && decide (bufOff w.addr < off + len ∧ off < bufOff w.addr + w.bytes.length)) with
  | [] => c.buf space
  | ws => ((seenWrites ws s).foldl Core.landWrite c).buf space

/-- The code of element `i` in a byte table. -/
def Region.code (r : Region) (m : Tab Byte) (i : Nat) : Nat :=
  match r.place i with
  | (o, some high) => let b := (m.get o).toNat; if high then b / 16 else b % 16
  | (o, none) => readLE m o r.size

/-- The code of element `i` as a read in a step `s` steps from now sees it. -/
def Region.seen (r : Region) (c : Core) (s i : Nat) : Nat := r.code (c.seenBuf r.space (r.place i).1 r.size s) i

/-- An IEEE NaN code with its significand widened, and every other code as the exact value in `g` (R208). -/
def widen (f g : Fmt) (code : Nat) (v : FVal) : Nat :=
  match v with
  | .nan true =>
    let neg := code / f.signBit % 2 == 1
    g.infCode neg + code % 2 ^ f.mb * 2 ^ (g.mb - f.mb)
  | v => (g.arith .rne v).1

/-- The float format of a computation type. -/
def ctFmt (ct : Nat) : Fmt := if ct = 1 then f64 else f32

/-- A code of format `fmt` read into a computation type: a code of its float format, or 32 bits (R208). -/
def readCt (ct fmt : Nat) (u : Bool) (code : Nat) : Nat × FlagSet :=
  if 2 ≤ ct then (((if u then ((code % 2 ^ fmtBits fmt : Nat) : Int) else sextNat (fmtBits fmt) code) % (2 ^ 32 : Nat)).toNat, 0#6)
  else match fmtOf fmt with
    | none => (ctFmt ct).arith .rne (elemVal fmt u code)
    | some f =>
      if f = ctFmt ct then (code, 0#6)
      else if f = f64 then
        let v := f.decode code
        let (x, fl) := f32.arith .rne v
        (x, fl ||| nvOf v)
      else (widen f (ctFmt ct) code (f.decode code), 0#6)

/-- The exact value of a computation type's code. -/
def ctVal (ct code : Nat) : FVal :=
  if ct = 2 then .ofInt (sextNat 32 code) else if ct = 3 then .ofInt (code % 2 ^ 32 : Nat) else (ctFmt ct).decode code

/-! ### Writes: R208 -/

/-- The code that an exact integer leaves in an integer format under an integer computation type. -/
def intOut (r : Region) (v : Int) : Nat × FlagSet :=
  let w := fmtBits r.fmt
  let lo : Int := if r.u then 0 else -(2 ^ (w - 1) : Nat)
  let hi : Int := if r.u then (2 ^ w - 1 : Nat) else (2 ^ (w - 1) - 1 : Nat)
  let x := if r.sat then max lo (min hi v) else v
  ((x % (2 ^ w : Nat)).toNat, if r.sat && x != v then flSAT else 0#6)

/-- The code that a value leaves in a region's format by a conversion; U has no part in it (R208). -/
def Region.out (r : Region) (v : FVal) : Nat × FlagSet := cvt r.fmt v (rndOf r.rnd) r.sat

/-- The code that a result in `ct` leaves in a region. -/
def Region.outCt (r : Region) (ct code : Nat) : Nat × FlagSet :=
  if 2 ≤ ct ∧ intFmt r.fmt then intOut r (if ct = 2 then sextNat 32 code else (code % 2 ^ 32 : Nat))
  else r.out (ctVal ct code)

/-- A pending write of element `i`; `left` steps from now it lands. `val` is a special function's binary32 value. -/
def Region.write (r : Region) (c : Core) (i left : Nat) (sf : Bool) (val code : Nat) : VWrite :=
  let (o, nib) := r.place i
  { addr := r.space * 2 ^ 28 + o, nibble := nib, bytes := natToBytes r.size code, left := left, sf := sf, val := BitVec.ofNat 32 val,
    fmt := r.fmt, rnd := r.rnd, sat := r.sat, word := c.vword, win := if 8 ≤ r.space then c.win.get (r.space - 8) else 0#64, counted := false }

/-- Two writes of one word go out in one packet: they lie in one 256-byte block of one window (R362). -/
def VWrite.together (a b : VWrite) : Bool := a.windowed && a.word == b.word && a.addr / 256 == b.addr / 256

/-- Packets of window writes that do not count in OUT yet begin to count, in order, while there is room (R362). -/
def countPackets : Nat → Core → Core
  | 0, c => c
  | fuel + 1, c =>
    match c.vpend.find? (fun w => w.windowed && !w.counted) with
    | none => c
    | some w =>
      let k := bufSpace w.addr - 8
      if !c.winRoom k then c
      else countPackets fuel { c.addOut k with vpend := c.vpend.map (fun v => if v.together w then { v with counted := true } else v) }

/-- Add writes at the end; the writes of one packet leave together, when the last of them is there. A packet counts in OUT
from here on, where the window has room (R362). -/
def Core.pushWrites (c : Core) (ws : List VWrite) : Core :=
  let ws := ws.map (fun w => { w with group := if w.group = 0#64 then c.groupWord .ve else w.group })
  if !ws.any (·.windowed) then { c with vpend := c.vpend ++ ws }
  else
    let late (v : VWrite) : VWrite := if v.windowed && ws.any (fun w => w.together v) then { v with left := ws.foldl (fun m w => if w.together v then max m w.left else m) v.left } else v
    let counted (w : VWrite) : VWrite := { w with counted := c.vpend.any (fun v => v.together w && v.counted) }
    countPackets ws.length { c with vpend := c.vpend.map late ++ ws.map (fun w => late (counted w)) }

/-- The region lies in a window whose allowance has no room for a packet (R362). -/
def Region.noRoom (r : Region) (c : Core) : Bool := decide (8 ≤ r.space) && r.count != 0 && !c.winRoom (r.space - 8)

/-- The bytes, with their masks, of a write through a window. -/
def VWrite.pieces (w : VWrite) : List (Nat × Nat × Byte) :=
  let o := bufOff w.addr
  match w.nibble with
  | some high => [(o, if high then 0xF0 else 0x0F, if high then w.bytes.getD 0 0#8 <<< 4 else w.bytes.getD 0 0#8)]
  | none => ((List.range w.bytes.length).zip w.bytes).map (fun p => (o + p.1, 0xFF, p.2))

/-- A window write is complete and waits for its packet. -/
def Core.windowDue (c : Core) : Option VWrite := c.vpend.find? (fun w => w.windowed && w.left == 0)

/-- Send the packets of complete window writes that count in OUT, in order; `fuel` packets. -/
def sendVector : Nat → State → State
  | 0, s => s
  | fuel + 1, s =>
    match s.core.windowDue with
    | none => s
    | some w =>
      if !w.counted then s
      else
        let k := bufSpace w.addr - 8
        let mine := s.core.vpend.filter (fun v => v.left == 0 && v.together w)
        let s := s.mapCore (fun c => { c with vpend := c.vpend.filter (fun v => !(v.left == 0 && v.together w)) })
        sendVector fuel ((sendFor { s.source with unit := .ve, word := w.group } s (winDev w.win) (winLnum w.win) (winKey w.win) (.winBytes (winSpace w.win) (mine.flatMap VWrite.pieces))
          (.window k false)).2.mapCore Core.vRetire)

/-- Send what window writes can be sent. (DEDUCED, assumption 20.) -/
def vSend (s : State) : State :=
  if !s.core.vpend.any (·.windowed) then s
  else
    let s := s.mapCore (countPackets s.core.vpend.length)
    sendVector s.core.vpend.length s

/-! ### Holds: R210 -/

/-- Some element of `cnt` elements of `size` bytes, `st` bytes apart from `base` on, shares a byte with `[a, a + len)`. -/
def runTouches (base st : Int) (cnt size : Nat) (a len : Int) : Bool :=
  if cnt = 0 then false
  else
    let lo := if st < 0 then base + st * ((cnt : Int) - 1) else base
    let d := if st < 0 then -st else st
    if d = 0 then decide (lo < a + len ∧ a < lo + size)
    else
      let first := max 0 ((a - size - lo) / d + 1)
      let last := min ((cnt : Int) - 1) (-((lo - (a + len)) / d) - 1)
      decide (first ≤ last)

/-- A read of the region's first `n` elements overlaps a pending ordinary write. -/
def Region.overlaps (r : Region) (n : Nat) (w : VWrite) : Bool :=
  !w.sf && !w.windowed && bufSpace w.addr == r.space
    && (let cnt := min r.count n
        let a : Int := bufOff w.addr
        if fmtBits r.fmt = 4 then runTouches r.off 1 ((cnt + 1) / 2) 1 a w.bytes.length
        else runTouches r.off (r.stride * r.size) cnt r.size a w.bytes.length)

/-- Steps pass while a read of these regions overlaps a pending ordinary write; at most `fuel`. -/
def holdFor (rs : List Region) (n : Nat) : Nat → Core → Core
  | 0, c => c
  | fuel + 1, c => if c.vpend.any (fun w => rs.any (fun r => r.overlaps n w)) then holdFor rs n fuel c.vStep else c

end Sys2Proof.Machine
end

