-- ==== Sys2Proof/Machine/Special.lean ====
section
/-! DEFINITION. The special functions of R218 and R219, correctly rounded into binary32: each is computed in fixed
point with 320 bits of fraction, far beyond the nearest approach of any of them to a rounding boundary at a binary32
input, and the result carries one more bit that marks it inexact. Exact results are recognised first. -/
namespace Sys2Proof.Machine

/-- Bits of fraction of the working fixed point. -/
def fxBits : Nat := 320
def fxOne : Nat := 2 ^ fxBits

/-- Σ t^k / k!, added while `fuel` lasts; `term` is the k-th term. -/
def expSeries (t : Nat) (k term acc : Nat) : Nat → Nat
  | 0 => acc
  | fuel + 1 => if term = 0 then acc else expSeries t (k + 1) (term * t / fxOne / (k + 1)) (acc + term) fuel

/-- e^t in fixed point, for 0 ≤ t < 1. -/
def fxExp (t : Nat) : Nat := expSeries t 0 fxOne 0 120

/-- Σ z^(2k+1) / (2k+1), each power smaller by z²; alternating signs when `alt`. -/
def oddSeries (alt : Bool) (z2 : Nat) (k pw : Nat) (acc : Int) : Nat → Int
  | 0 => acc
  | fuel + 1 =>
    if pw = 0 then acc
    else
      let term : Int := (pw / (2 * k + 1) : Nat)
      oddSeries alt z2 (k + 1) (pw * z2 / fxOne) (if alt && k % 2 == 1 then acc - term else acc + term) fuel

/-- ln 2 = 2 artanh (1/3). -/
def fxLn2 : Nat := 2 * (oddSeries false (fxOne / 9) 0 (fxOne / 3) 0 120).toNat

/-- arctan (1/n). -/
def fxAtanInv (n : Nat) : Int := oddSeries true (fxOne / (n * n)) 0 (fxOne / n) 0 160

/-- π = 16 arctan (1/5) − 4 arctan (1/239). -/
def fxPi : Nat := (16 * fxAtanInv 5 - 4 * fxAtanInv 239).toNat

/-- A fixed-point magnitude that is not exact: one more bit, set. -/
def fxInexact (neg : Bool) (v : Nat) : FVal := .fin neg (2 * v + 1) (-(fxBits : Int) - 1)

/-- m × 2^e in fixed point, truncated. -/
def fxOf (m : Nat) (e : Int) : Nat := if 0 ≤ e + fxBits then m * 2 ^ (e + fxBits).toNat else m / 2 ^ (-(e + fxBits)).toNat

/-- A value just below m × 2^e in magnitude, nearer to it than any rounding boundary of binary32. -/
def justBelow (neg : Bool) (m : Nat) (e : Int) : FVal := .fin neg (m * 2 ^ 64 - 1) (e - 64)

/-- 2^a for a finite a (R218): exact for an integer; far out of range, a value of the same rounding. -/
def exp2Fin (neg : Bool) (m : Nat) (e : Int) : FVal :=
  if m = 0 then .fin false 1 0
  else if (Nat.log2 m : Int) + e ≥ 9 then .fin false 1 (if neg then -512 else 512)
  else
    let v := fxOf m e
    let n : Int := if neg then -((v + fxOne - 1) / fxOne : Nat) else (v / fxOne : Nat)
    let f : Int := (if neg then -(v : Int) else v) - n * fxOne
    if f = 0 then .fin false 1 n
    else .fin false (2 * fxExp (f.toNat * fxLn2 / fxOne) + 1) (n - fxBits - 1)

/-- log2 a for a finite a > 0 (R218). -/
def log2Fin (m : Nat) (e : Int) : FVal :=
  let l := Nat.log2 m
  let n : Int := l + e
  if m = 2 ^ l then .ofInt n
  else
    let d := 2 ^ l
    let z := (m - d) * fxOne / (m + d)
    let ln := 2 * (oddSeries false (z * z / fxOne) 0 z 0 120).toNat
    let t : Int := n * fxOne + (ln * fxOne / fxLn2 : Nat)
    fxInexact (decide (t < 0)) t.natAbs

/-- 1 / √a for a finite a > 0 (R218). -/
def rsqFin (m : Nat) (e : Int) : FVal :=
  let m1 := if e % 2 = 0 then m else 2 * m
  let e1 := if e % 2 = 0 then e else e - 1
  let n := 2 ^ (2 * guardBits) / m1
  let r := isqrt n (guardBits + 1) 0
  .fin false (2 * r + (if r * r * m1 = 2 ^ (2 * guardBits) then 0 else 1)) (-(e1 / 2) - guardBits - 1)

/-- The alternating Taylor series of cos (k = 0, term 1) and sin (k = 1, term t): each term times t² / ((k+1)(k+2)). -/
def trigSeries (t2 : Nat) (k term : Nat) (plus : Bool) (acc : Int) : Nat → Int
  | 0 => acc
  | fuel + 1 =>
    if term = 0 then acc
    else trigSeries t2 (k + 2) (term * t2 / fxOne / ((k + 1) * (k + 2))) (!plus)
      (if plus then acc + term else acc - term) fuel

/-- sin a, or cos a when `cosine`, for a finite a with |a| < 2^20: the argument is reduced by multiples of π/2 (R219). -/
def trigFin (cosine neg : Bool) (m : Nat) (e : Int) : FVal :=
  if m = 0 then (if cosine then .fin false 1 0 else .fin neg 0 0)
  else if !cosine && decide ((Nat.log2 m : Int) + e < -40) then justBelow neg m e
  else
    let v := fxOf m e
    let half := fxPi / 2
    let q := v / half + (if cosine then 1 else 0)
    let t := v % half
    let t2 := t * t / fxOne
    let r : Int := if q % 2 = 0 then trigSeries t2 1 t true 0 120 else trigSeries t2 0 fxOne true 0 120
    fxInexact (decide (q % 4 ≥ 2) != (neg && !cosine)) r.natAbs

/-- tanh a for a finite a ≠ 0 (R218), by (1 − w) / (1 + w) with w = e^(−2|a|). -/
def tanhFin (neg : Bool) (m : Nat) (e : Int) : FVal :=
  let l := (Nat.log2 m : Int) + e
  if l < -40 then justBelow neg m e
  else if l ≥ 6 then justBelow neg 1 0
  else
    let y := 2 * fxOf m e
    let k := y / fxLn2
    let w := fxOne * fxOne / fxExp (y % fxLn2) / 2 ^ k
    fxInexact neg ((fxOne - w) * fxOne / (fxOne + w))

/-- The special functions, by funct4 of major 0x2B. -/
inductive SpFn where
  | exp2 | log2 | rcp | rsq | sqrt | sin | cos | tanh
  deriving DecidableEq, Repr, Inhabited

/-- The exact or marked value of a special function at a value that is no NaN, with its flags: R218, R219. -/
def SpFn.value (fn : SpFn) (a : FVal) : FVal × FlagSet :=
  match fn, a with
  | _, .nan s => (.nan false, if s then flNV else 0#6)
  | .exp2, .inf neg => (if neg then .fin false 0 0 else .inf false, 0#6)
  | .exp2, .fin neg m e => (exp2Fin neg m e, 0#6)
  | .log2, .inf neg => if neg then (.nan false, flNV) else (.inf false, 0#6)
  | .log2, .fin neg m e =>
    if m = 0 then (.inf true, 0#6) else if neg then (.nan false, flNV) else (log2Fin m e, 0#6)
  | .rcp, v => FVal.div (.fin false 1 0) v
  | .rsq, .inf neg => if neg then (.nan false, flNV) else (.fin false 0 0, 0#6)
  | .rsq, .fin neg m e =>
    if m = 0 then (.inf neg, 0#6) else if neg then (.nan false, flNV) else (rsqFin m e, 0#6)
  | .sqrt, v => FVal.sqrt v
  | .sin, .inf _ => (.nan false, flVR)
  | .cos, .inf _ => (.nan false, flVR)
  | .sin, .fin neg m e =>
    if m ≠ 0 ∧ (Nat.log2 m : Int) + e ≥ 20 then (.nan false, flVR) else (trigFin false neg m e, 0#6)
  | .cos, .fin neg m e =>
    if m ≠ 0 ∧ (Nat.log2 m : Int) + e ≥ 20 then (.nan false, flVR) else (trigFin true neg m e, 0#6)
  | .tanh, .inf neg => (.fin neg 1 0, 0#6)
  | .tanh, .fin neg m e => if m = 0 then (.fin neg 0 0, 0#6) else (tanhFin neg m e, 0#6)

/-- A special function of a binary32 code, correctly rounded into binary32 (R218). -/
def SpFn.apply (fn : SpFn) (code : Nat) : Nat × FlagSet :=
  let (v, fl) := fn.value (f32.decode code)
  let (r, fr) := f32.arith .rne v
  (r, fl ||| fr)

end Sys2Proof.Machine
end

