-- ==== Sys2Proof/Machine/Vector.lean ====
section
/-! DEFINITION. Element operations, special functions, reductions and chains (R205–R225), and the landing of
special-function writes (R211). -/
namespace Sys2Proof.Machine

/-! ### Element operations: R215–R219 -/

/-- What a slot word computes for one element. The two-source, three-source and compare words carry their funct4. -/
inductive VKind where
  | two (f : Nat)
  | three (f : Nat)
  | cmp (f : Nat)
  | cvt | not | abs | neg | mov
  | sf (fn : SpFn)
  | defer (q : Region) (k path : Nat)
  deriving DecidableEq, Repr

/-- A source: a region or ring entry ~k. -/
inductive VSrc where
  | region (r : Region)
  | ring (k : Nat)
  deriving DecidableEq, Repr

/-- A slot word with its descriptors as read at issue (R205). `w` is its word, for a fault frame. -/
structure VSlot where
  kind : VKind
  ct : Nat
  nd : Bool
  d : Region
  srcs : List VSrc
  w : BitVec 32
  deriving DecidableEq, Repr

def signed32 (ct v : Nat) : Int := if ct = 2 then sextNat 32 v else (v % 2 ^ 32 : Nat)
def mod32 (v : Int) : Nat := (v % (2 ^ 32 : Nat)).toNat

/-- Two-source operations on integers (R215). -/
def twoInt (f ct a b : Nat) : Nat :=
  let x := signed32 ct a
  let y := signed32 ct b
  match f with
  | 0 => mod32 (x + y)
  | 1 => mod32 (x - y)
  | 2 => mod32 (x * y)
  | 3 => if y = 0 then 2 ^ 32 - 1 else mod32 (Int.tdiv x y)
  | 4 => mod32 (min x y)
  | 5 => mod32 (max x y)
  | 6 => mod32 x &&& mod32 y
  | 7 => mod32 x ||| mod32 y
  | 8 => mod32 x ^^^ mod32 y
  | 9 => mod32 (x * (2 ^ (b % 32) : Nat))
  | _ => mod32 (x / (2 ^ (b % 32) : Nat))

/-- Two-source operations on floats (R215). -/
def twoFloat (f : Nat) (g : Fmt) (a b : Nat) : Nat × FlagSet :=
  match f with
  | 0 => g.addC .rne a b
  | 1 => g.subC .rne a b
  | 2 => g.mulC .rne a b
  | 3 => g.divC .rne a b
  | 4 => g.minC a b
  | _ => g.maxC a b

/-- Three-source operations on integers; c is the old destination element (R216). -/
def threeInt (f ct a b c : Nat) : Nat :=
  let x := signed32 ct a
  let y := signed32 ct b
  let z := signed32 ct c
  match f with
  | 0 => mod32 (x * y + z)
  | 1 => mod32 (x * y - z)
  | 2 => mod32 (z - x * y)
  | 3 => if c % 2 ^ 32 ≠ 0 then a else b
  | _ => mod32 (min (max z x) y)

/-- Three-source operations on floats (R216). VSEL is exact: a signalling NaN in its condition or in a source sets no NV, though R63 and
R67 speak of operands. (DESIGN CHOICE, assumption 60.) -/
def threeFloat (f : Nat) (g : Fmt) (a b c : Nat) : Nat × FlagSet :=
  let fma (x z : FVal) : Nat × FlagSet :=
    let (v, fl) := FVal.fma .rne x (g.decode b) z
    let (r, fr) := g.arith .rne v
    (r, fl ||| fr)
  match f with
  | 0 => fma (g.decode a) (g.decode c)
  | 1 => fma (g.decode a) (g.decode c).neg
  | 2 => fma (g.decode a).neg (g.decode c)
  | 3 => (if (g.decode c).isZero then b else a, 0#6)
  | _ =>
    let (m, f1) := g.maxC c a
    let (r, f2) := g.minC m b
    (r, f1 ||| f2)

/-- 1 in a computation type. -/
def ctOne (ct : Nat) : Nat := if 2 ≤ ct then 1 else ((ctFmt ct).arith .rne (.fin false 1 0)).1

/-- Compares (R217); a signalling NaN sets NV (R63, R65). -/
def cmpCt (f ct a b : Nat) : Nat × FlagSet :=
  let res (lt eq : Bool) : Nat := if (match f with | 0 => eq | 1 => lt | _ => lt || eq) then ctOne ct else 0
  if 2 ≤ ct then (res (decide (signed32 ct a < signed32 ct b)) (decide (signed32 ct a = signed32 ct b)), 0#6)
  else
    let x := (ctFmt ct).decode a
    let y := (ctFmt ct).decode b
    (res (x.ltNum y) (x.eqNum y), nvOf x ||| nvOf y)

/-- |a| and −a of a float code; a NaN gives the default NaN (R217). -/
def signOp (g : Fmt) (clear : Bool) (a : Nat) : Nat × FlagSet :=
  match g.decode a with
  | .nan s => (g.dnan, if s then flNV else 0#6)
  | _ => (if clear ∨ a / g.signBit % 2 = 1 then a % g.signBit else a + g.signBit, 0#6)

/-- The result of a slot on operands in its computation type (R215–R218). -/
def VKind.result (k : VKind) (ct : Nat) (v : List Nat) : Nat × FlagSet :=
  let a := v.getD 0 0
  let b := v.getD 1 0
  let c := v.getD 2 0
  match k with
  | .two f => if 2 ≤ ct then (twoInt f ct a b, 0#6) else twoFloat f (ctFmt ct) a b
  | .three f => if 2 ≤ ct then (threeInt f ct a b c, 0#6) else threeFloat f (ctFmt ct) a b c
  | .cmp f => cmpCt f ct a b
  | .not => (mod32 (-(signed32 ct a) - 1), 0#6)
  | .abs => if ct = 2 then (mod32 (signed32 ct a).natAbs, 0#6) else if ct = 3 then (a, 0#6) else signOp (ctFmt ct) true a
  | .neg => if 2 ≤ ct then (mod32 (-(signed32 ct a)), 0#6) else signOp (ctFmt ct) false a
  | .sf fn => fn.apply a
  | _ => (a, 0#6)

/-! ### Slots -/

/-- A source field: a descriptor, or a ring entry under RA or RB (R213). -/
def srcOf (t : Tab (BitVec 128)) (ring : BitVec 1) (f : BitVec 4) : VSrc :=
  if ring = 1#1 then .ring (f.toNat + 1) else .region (regionOf (t.get f.toNat))

/-- The two-source words of majors 0x28 and 0x2A, the three-source and the one-source words, by their fields. -/
def slotTwo (t : Tab (BitVec 128)) (w : Nat) (k : VKind) (d a b : BitVec 4) (x y z : BitVec 1) (ct : BitVec 3) : VSlot :=
  ⟨k, ct.toNat, z == 1#1, regionOf (t.get d.toNat), [srcOf t x a, srcOf t y b], BitVec.ofNat 32 w⟩
def slotOne (t : Tab (BitVec 128)) (w : Nat) (k : VKind) (d a : BitVec 4) (x z : BitVec 1) (ct : BitVec 3) : VSlot :=
  ⟨k, ct.toNat, z == 1#1, regionOf (t.get d.toNat), [srcOf t x a], BitVec.ofNat 32 w⟩

/-- The slot that a word of majors 0x28 to 0x2B, or VDEFER, is under descriptors `t`. -/
def slotOf (i : Instr) (t : Tab (BitVec 128)) : Option VSlot :=
  let w := (encode i).getD 0
  match i with
  | .vadd _ d a b x y z c => some (slotTwo t w (.two 0) d a b x y z c)
  | .vsub _ d a b x y z c => some (slotTwo t w (.two 1) d a b x y z c)
  | .vmul _ d a b x y z c => some (slotTwo t w (.two 2) d a b x y z c)
  | .vdiv _ d a b x y z c => some (slotTwo t w (.two 3) d a b x y z c)
  | .vmin _ d a b x y z c => some (slotTwo t w (.two 4) d a b x y z c)
  | .vmax _ d a b x y z c => some (slotTwo t w (.two 5) d a b x y z c)
  | .vand _ d a b x y z c => some (slotTwo t w (.two 6) d a b x y z c)
  | .vor _ d a b x y z c => some (slotTwo t w (.two 7) d a b x y z c)
  | .vxor _ d a b x y z c => some (slotTwo t w (.two 8) d a b x y z c)
  | .vshl _ d a b x y z c => some (slotTwo t w (.two 9) d a b x y z c)
  | .vshr _ d a b x y z c => some (slotTwo t w (.two 10) d a b x y z c)
  | .vfma _ d a b x y c => some (slotTwo t w (.three 0) d a b x y 0#1 c)
  | .vfms _ d a b x y c => some (slotTwo t w (.three 1) d a b x y 0#1 c)
  | .vfnma _ d a b x y c => some (slotTwo t w (.three 2) d a b x y 0#1 c)
  | .vsel _ d a b x y c => some (slotTwo t w (.three 3) d a b x y 0#1 c)
  | .vclamp _ d a b x y c => some (slotTwo t w (.three 4) d a b x y 0#1 c)
  | .vcmpEq _ d a b x y z c => some (slotTwo t w (.cmp 0) d a b x y z c)
  | .vcmpLt _ d a b x y z c => some (slotTwo t w (.cmp 1) d a b x y z c)
  | .vcmpLe _ d a b x y z c => some (slotTwo t w (.cmp 2) d a b x y z c)
  | .vcvt _ d a x => some (slotOne t w .cvt d a x 0#1 0#3)
  | .vnot _ d a x z c => some (slotOne t w .not d a x z c)
  | .vabs _ d a x z c => some (slotOne t w .abs d a x z c)
  | .vneg _ d a x z c => some (slotOne t w .neg d a x z c)
  | .vmov _ d a x z c => some (slotOne t w .mov d a x z c)
  | .vexp2 _ d a x z => some (slotOne t w (.sf .exp2) d a x z 0#3)
  | .vlog2 _ d a x z => some (slotOne t w (.sf .log2) d a x z 0#3)
  | .vrcp _ d a x z => some (slotOne t w (.sf .rcp) d a x z 0#3)
  | .vrsq _ d a x z => some (slotOne t w (.sf .rsq) d a x z 0#3)
  | .vsqrt _ d a x z => some (slotOne t w (.sf .sqrt) d a x z 0#3)
  | .vsin _ d a x z => some (slotOne t w (.sf .sin) d a x z 0#3)
  | .vcos _ d a x z => some (slotOne t w (.sf .cos) d a x z 0#3)
  | .vtanh _ d a x z => some (slotOne t w (.sf .tanh) d a x z 0#3)
  | .vdefer _ q k p => some ⟨.defer (regionOf (t.get q.toNat)) (k.toNat + 1) p.toNat, 0, true, default, [], BitVec.ofNat 32 w⟩
  | _ => none

/-- The old destination element is a third source (R216). -/
def VKind.readsDest (k : VKind) : Bool := match k with
  | .three _ => true
  | _ => false
def VKind.isSf (k : VKind) : Bool := match k with
  | .sf _ => true
  | _ => false
def VKind.isDefer (k : VKind) : Bool := match k with
  | .defer .. => true
  | _ => false

/-- The source regions of a slot, and every region that it touches. -/
def VSlot.sources (sl : VSlot) : List Region := sl.srcs.filterMap (fun s => match s with
  | .region r => some r
  | .ring _ => none)
def VSlot.regions (sl : VSlot) : List Region := (if sl.nd then [] else [sl.d]) ++ sl.sources
/-- The regions that it reads (R210). -/
def VSlot.reads (sl : VSlot) : List Region := (if sl.kind.readsDest then [sl.d] else []) ++ sl.sources

/-- R207 for a slot whose element count is `n`; a drain chain (`n` none) asks nothing of the counts (R225). -/
def VSlot.check (sl : VSlot) (c : Core) (n : Option Nat) (hyp : BitVec 8) : Option Flt :=
  let one (r : Region) (dst reads : Bool) : Option Flt := checkRegion c r dst reads sl.ct (n.getD r.count) hyp
  match (if sl.nd then none else one sl.d true sl.kind.readsDest) with
  | some f => some f
  | none => sl.sources.findSome? (fun r => one r false (sl.kind != .cvt))

/-- The value of ring entry ~k under a computation type; none between the float and the integer class (R221). -/
def ringCt (ct : Nat) (e : RingEntry) : Option (Nat × FlagSet) :=
  if decide (2 ≤ ct) != decide (2 ≤ e.ct.toNat) then none
  else if e.ct = 0#2 then some (readCt ct 1 false e.lo.toNat)
  else if e.ct = 1#2 then some (readCt ct 0 false e.val.toNat)
  else some (readCt ct 9 (e.ct == 3#2) e.lo.toNat)

/-- What one element of a slot gives: the result in its computation type, the code for the destination, the flags. -/
structure Elem where
  code : Nat
  out : Nat
  flags : FlagSet
  deriving DecidableEq, Repr

/-- A source element in the slot's computation type. -/
def VSrc.read (src : VSrc) (ct : Nat) (get : Region → Nat) (ring : List RingEntry) : Except Flt (Nat × FlagSet) :=
  match src with
  | .region r => .ok (readCt ct r.fmt r.u (get r))
  | .ring k => match ringCt ct (ring.getD (k - 1) default) with
    | some v => .ok v
    | none => .error ⟨cIllegal, 13, 0#64⟩

/-- A source element exactly, for VCVT (R217). -/
def VSrc.exact (src : VSrc) (get : Region → Nat) (ring : List RingEntry) : FVal :=
  match src with
  | .region r => elemVal r.fmt r.u (get r)
  | .ring k =>
    let e := ring.getD (k - 1) default
    ctVal e.ct.toNat (if e.ct = 1#2 then e.val.toNat else e.lo.toNat)

/-- Read a list of sources in order. -/
def readSrcs (ct : Nat) (get : Region → Nat) (ring : List RingEntry) : List VSrc → Except Flt (List Nat × FlagSet)
  | [] => .ok ([], 0#6)
  | s :: t => match s.read ct get ring with
    | .error f => .error f
    | .ok (v, fl) => match readSrcs ct get ring t with
      | .error f => .error f
      | .ok (vs, fs) => .ok (v :: vs, fl ||| fs)

/-- One element of a slot (R208, R215–R218). VCVT converts once, and its result enters the ring as the destination
element read into its computation type. -/
def VSlot.eval (sl : VSlot) (get : Region → Nat) (ring : List RingEntry) : Except Flt Elem :=
  if sl.kind = .cvt then
    let (o, fl) := sl.d.out ((sl.srcs.headD (.ring 1)).exact get ring)
    .ok ⟨(readCt 0 sl.d.fmt false o).1, o, fl⟩
  else
    match readSrcs sl.ct get ring (sl.srcs ++ (if sl.kind.readsDest then [.region sl.d] else [])) with
    | .error f => .error f
    | .ok (vs, fl) =>
      let (r, fr) := sl.kind.result sl.ct vs
      if sl.nd then .ok ⟨r, 0, fl ||| fr⟩
      else
        let (o, fo) := sl.d.outCt sl.ct r
        .ok ⟨r, o, fl ||| fr ||| fo⟩

/-- The pending write of an element: an ordinary one lands at the end of the third step after its own, a special
function's at the end of the eighth (R210, R211); `s` is its step, counted from now. -/
def VSlot.write (sl : VSlot) (c : Core) (s i : Nat) (e : Elem) : VWrite :=
  { sl.d.write c i ((if sl.kind.isSf then 9 else 4) + s) sl.kind.isSf e.code e.out with group := BitVec.ofNat 64 sl.w.toNat }

/-! ### Words outside chains -/

/-- Flags are set when the word retires (R68). -/
def Core.flagsAtRetire (c : Core) (hyp : BitVec 8) (fl : FlagSet) : Core :=
  let r : VRetire := ⟨c.vword, false, false, hyp, fl, false⟩
  if fl = 0#6 then c else if r.ready c.vpend then c.raiseFlags fl else { c with vretire := c.vretire ++ [r] }

/-- A vector word has run: its flags stand until it retires, and its window writes go out. -/
def vDone (s : State) (c : Core) (fl : FlagSet) : State := vSend { s with core := c.flagsAtRetire s.hyp fl }

/-- The elements from `i` on of one step. -/
def stepElems (sl : VSlot) (c : Core) (i n : Nat) : List VWrite × FlagSet :=
  ((List.range n).map (i + ·)).foldl (fun (acc : List VWrite × FlagSet) i =>
    match sl.eval (fun r => r.code (c.buf r.space) i) [] with
    | .error _ => acc
    | .ok e => (acc.1 ++ [sl.write c 0 i e], acc.2 ||| e.flags)) ([], 0#6)

/-- The steps of an element-wise word of `n` elements, `e` to a step (R209–R211). (DEDUCED, assumption 20.) -/
def wordSteps (sl : VSlot) (n e : Nat) : Nat → Nat → Core → FlagSet → Core × FlagSet
  | 0, _, c, fl => (c, fl)
  | fuel + 1, i, c, fl =>
    let (ws, f) := stepElems sl c i (min e (n - i))
    wordSteps sl n e fuel (i + e) (c.pushWrites ws).vStep (fl ||| f)

/-- The number of steps of `n` elements. -/
def stepsOf (n e : Nat) : Nat := max 1 ((n + e - 1) / e)

/-- An element-wise word outside a chain. -/
def elementWord (sl : VSlot) (s : State) : WordResult :=
  let n := sl.d.count
  if n = 0 then .next (stepAfter s.unit s)
  else match sl.check s.core (some n) s.hyp with
    | some f => .fault f
    | none =>
      let s1 := vSend s
      if sl.d.noRoom s1.core then .blocked vSend 8
      else
        let c := holdFor sl.reads n 16 s1.core
        let e := rateOf sl.regions (sl.ct == 1)
        let (c, fl) := wordSteps sl n e (stepsOf n e) 0 c 0#6
        .next (vDone s1 c fl)

/-- A word of majors 0x28 to 0x2B, or VDEFER: a slot joins the chain that is open; outside one the word runs, and RA, RB or
ND faults as it issues (R213). -/
def slotWord (i : Instr) (s : State) : Host.Outcome State Fault Refusal :=
  .next (issueWith (fun _ => none) i (fun s =>
    match s.core.chain with
    | some ch => .next (s.mapCore (fun c => { c with chain := some { ch with slots := ch.slots ++ [i] } }))
    | none =>
      if (encode i).getD 0 / 8 % 8 ≠ 0 then .fault ⟨cIllegal, 11, 0#64⟩
      else match slotOf i s.core.d with
        | some sl => elementWord sl s
        | none => .next s) s)

/-! ### The words: R215–R218, R224 -/

/-- R215: VADD. -/
def execVadd (r d a b : BitVec 4) (x y z : BitVec 1) (t : BitVec 3) (s : State) : Host.Outcome State Fault Refusal := slotWord (.vadd r d a b x y z t) s
/-- R215: VSUB. -/
def execVsub (r d a b : BitVec 4) (x y z : BitVec 1) (t : BitVec 3) (s : State) : Host.Outcome State Fault Refusal := slotWord (.vsub r d a b x y z t) s
/-- R215: VMUL. -/
def execVmul (r d a b : BitVec 4) (x y z : BitVec 1) (t : BitVec 3) (s : State) : Host.Outcome State Fault Refusal := slotWord (.vmul r d a b x y z t) s
/-- R215: VDIV. -/
def execVdiv (r d a b : BitVec 4) (x y z : BitVec 1) (t : BitVec 3) (s : State) : Host.Outcome State Fault Refusal := slotWord (.vdiv r d a b x y z t) s
/-- R215: VMIN. -/
def execVmin (r d a b : BitVec 4) (x y z : BitVec 1) (t : BitVec 3) (s : State) : Host.Outcome State Fault Refusal := slotWord (.vmin r d a b x y z t) s
/-- R215: VMAX. -/
def execVmax (r d a b : BitVec 4) (x y z : BitVec 1) (t : BitVec 3) (s : State) : Host.Outcome State Fault Refusal := slotWord (.vmax r d a b x y z t) s
/-- R215: VAND. -/
def execVand (r d a b : BitVec 4) (x y z : BitVec 1) (t : BitVec 3) (s : State) : Host.Outcome State Fault Refusal := slotWord (.vand r d a b x y z t) s
/-- R215: VOR. -/
def execVor (r d a b : BitVec 4) (x y z : BitVec 1) (t : BitVec 3) (s : State) : Host.Outcome State Fault Refusal := slotWord (.vor r d a b x y z t) s
/-- R215: VXOR. -/
def execVxor (r d a b : BitVec 4) (x y z : BitVec 1) (t : BitVec 3) (s : State) : Host.Outcome State Fault Refusal := slotWord (.vxor r d a b x y z t) s
/-- R215: VSHL. -/
def execVshl (r d a b : BitVec 4) (x y z : BitVec 1) (t : BitVec 3) (s : State) : Host.Outcome State Fault Refusal := slotWord (.vshl r d a b x y z t) s
/-- R215: VSHR. -/
def execVshr (r d a b : BitVec 4) (x y z : BitVec 1) (t : BitVec 3) (s : State) : Host.Outcome State Fault Refusal := slotWord (.vshr r d a b x y z t) s
/-- R216: VFMA. -/
def execVfma (r d a b : BitVec 4) (x y : BitVec 1) (t : BitVec 3) (s : State) : Host.Outcome State Fault Refusal := slotWord (.vfma r d a b x y t) s
/-- R216: VFMS. -/
def execVfms (r d a b : BitVec 4) (x y : BitVec 1) (t : BitVec 3) (s : State) : Host.Outcome State Fault Refusal := slotWord (.vfms r d a b x y t) s
/-- R216: VFNMA. -/
def execVfnma (r d a b : BitVec 4) (x y : BitVec 1) (t : BitVec 3) (s : State) : Host.Outcome State Fault Refusal := slotWord (.vfnma r d a b x y t) s
/-- R216: VSEL. -/
def execVsel (r d a b : BitVec 4) (x y : BitVec 1) (t : BitVec 3) (s : State) : Host.Outcome State Fault Refusal := slotWord (.vsel r d a b x y t) s
/-- R216: VCLAMP. -/
def execVclamp (r d a b : BitVec 4) (x y : BitVec 1) (t : BitVec 3) (s : State) : Host.Outcome State Fault Refusal := slotWord (.vclamp r d a b x y t) s
/-- R217: VCMP.EQ. -/
def execVcmpEq (r d a b : BitVec 4) (x y z : BitVec 1) (t : BitVec 3) (s : State) : Host.Outcome State Fault Refusal := slotWord (.vcmpEq r d a b x y z t) s
/-- R217: VCMP.LT. -/
def execVcmpLt (r d a b : BitVec 4) (x y z : BitVec 1) (t : BitVec 3) (s : State) : Host.Outcome State Fault Refusal := slotWord (.vcmpLt r d a b x y z t) s
/-- R217: VCMP.LE. -/
def execVcmpLe (r d a b : BitVec 4) (x y z : BitVec 1) (t : BitVec 3) (s : State) : Host.Outcome State Fault Refusal := slotWord (.vcmpLe r d a b x y z t) s
/-- R217: VCVT. -/
def execVcvt (r d a : BitVec 4) (x : BitVec 1) (s : State) : Host.Outcome State Fault Refusal := slotWord (.vcvt r d a x) s
/-- R217: VNOT. -/
def execVnot (r d a : BitVec 4) (x z : BitVec 1) (t : BitVec 3) (s : State) : Host.Outcome State Fault Refusal := slotWord (.vnot r d a x z t) s
/-- R217: VABS. -/
def execVabs (r d a : BitVec 4) (x z : BitVec 1) (t : BitVec 3) (s : State) : Host.Outcome State Fault Refusal := slotWord (.vabs r d a x z t) s
/-- R217: VNEG. -/
def execVneg (r d a : BitVec 4) (x z : BitVec 1) (t : BitVec 3) (s : State) : Host.Outcome State Fault Refusal := slotWord (.vneg r d a x z t) s
/-- R217: VMOV. -/
def execVmov (r d a : BitVec 4) (x z : BitVec 1) (t : BitVec 3) (s : State) : Host.Outcome State Fault Refusal := slotWord (.vmov r d a x z t) s
/-- R218: VEXP2. (DEDUCED, assumption 49.) -/
def execVexp2 (r d a : BitVec 4) (x z : BitVec 1) (s : State) : Host.Outcome State Fault Refusal := slotWord (.vexp2 r d a x z) s
/-- R218: VLOG2. -/
def execVlog2 (r d a : BitVec 4) (x z : BitVec 1) (s : State) : Host.Outcome State Fault Refusal := slotWord (.vlog2 r d a x z) s
/-- R218: VRCP. -/
def execVrcp (r d a : BitVec 4) (x z : BitVec 1) (s : State) : Host.Outcome State Fault Refusal := slotWord (.vrcp r d a x z) s
/-- R218: VRSQ. -/
def execVrsq (r d a : BitVec 4) (x z : BitVec 1) (s : State) : Host.Outcome State Fault Refusal := slotWord (.vrsq r d a x z) s
/-- R218: VSQRT. -/
def execVsqrt (r d a : BitVec 4) (x z : BitVec 1) (s : State) : Host.Outcome State Fault Refusal := slotWord (.vsqrt r d a x z) s
/-- R219: VSIN. (DEDUCED, assumption 49.) -/
def execVsin (r d a : BitVec 4) (x z : BitVec 1) (s : State) : Host.Outcome State Fault Refusal := slotWord (.vsin r d a x z) s
/-- R219: VCOS. -/
def execVcos (r d a : BitVec 4) (x z : BitVec 1) (s : State) : Host.Outcome State Fault Refusal := slotWord (.vcos r d a x z) s
/-- R218: VTANH. -/
def execVtanh (r d a : BitVec 4) (x z : BitVec 1) (s : State) : Host.Outcome State Fault Refusal := slotWord (.vtanh r d a x z) s
/-- R224: VDEFER. -/
def execVdefer (r q : BitVec 4) (k : BitVec 3) (p : BitVec 4) (s : State) : Host.Outcome State Fault Refusal := slotWord (.vdefer r q k p) s

/-- R214: RGN.SET. -/
def execRgnSet (r d a b : BitVec 4) (s : State) : Host.Outcome State Fault Refusal :=
  .next (issue (.rgnSet r d a b) (fun s =>
    .next (s.mapCore (fun c => { c with d := c.d.set d.toNat (s.r5 a ++ s.r5 b) }))) s)

/-! ### Reductions: R220, R76 -/

/-- A node of the VRARGMAX tree: (value, index) pairs (R220). -/
def argNode (ct : Nat) (x y : Nat × Nat) : (Nat × Nat) × FlagSet :=
  if 2 ≤ ct then (if signed32 ct x.1 < signed32 ct y.1 then y else x, 0#6)
  else
    let a := (ctFmt ct).decode x.1
    let b := (ctFmt ct).decode y.1
    (if !a.isNaN && (b.isNaN || a.ltTotal b) then y else x, 0#6)

/-- A node of the other trees. -/
def reduceNode (f ct x y : Nat) : Nat × FlagSet :=
  if 2 ≤ ct then
    (match f with
      | 1 => mod32 (max (signed32 ct x) (signed32 ct y))
      | 2 => mod32 (min (signed32 ct x) (signed32 ct y))
      | _ => mod32 (signed32 ct x + signed32 ct y), 0#6)
  else match f with
    | 1 => (ctFmt ct).maxC x y
    | 2 => (ctFmt ct).minC x y
    | _ => (ctFmt ct).addC .rne x y

/-- A leaf: the element, its square for VRSUMSQ; VRARGMAX notes a signalling NaN (R63). -/
def leafOf (f ct v : Nat) : Nat × FlagSet :=
  if f = 3 then (if 2 ≤ ct then (mod32 (signed32 ct v * signed32 ct v), 0#6) else (ctFmt ct).mulC .rne v v)
  else if f = 4 ∧ ct < 2 then (v, nvOf ((ctFmt ct).decode v))
  else (v, 0#6)

/-- The code that a reduction writes (R208, R220). -/
def reduceOut (f ct : Nat) (d : Region) (leaves : List Nat) : Nat × FlagSet :=
  if f = 4 then
    let (r, _) := treeReduce (argNode ct) (· ||| ·) 17 (leaves.zip (List.range leaves.length)) 0#6
    let i := (r.getD (0, 0)).2
    if 2 ≤ ct ∧ intFmt d.fmt then intOut d i else d.out (.ofInt i)
  else
    let (r, fl) := treeReduce (reduceNode f ct) (· ||| ·) 17 leaves 0#6
    let (o, fo) := d.outCt ct (r.getD 0)
    (o, fl ||| fo)

/-- The reading steps: leaves and their flags. -/
def leafSteps (f ct : Nat) (a : Region) (n e : Nat) : Nat → Nat → Core → List Nat → FlagSet → Core × List Nat × FlagSet
  | 0, _, c, ls, fl => (c, ls, fl)
  | fuel + 1, i, c, ls, fl =>
    let new := ((List.range (min e (n - i))).map (i + ·)).map (fun i =>
      let (v, f1) := readCt ct a.fmt a.u (a.code (c.buf a.space) i)
      let (l, f2) := leafOf f ct v
      (l, f1 ||| f2))
    leafSteps f ct a n e fuel (i + e) c.vStep (ls ++ new.map (·.1)) (new.foldl (fun x p => x ||| p.2) fl)

/-- A reduction: `n` leaves, then six steps, in the last of which the result is written (R209, R220). -/
def reduceWord (i : Instr) (f : Nat) (d a : BitVec 4) (ct : BitVec 3) (s : State) : Host.Outcome State Fault Refusal :=
  .next (issueWith (fun _ => none) i (fun s =>
    let ct := ct.toNat
    let rd := regionOf (s.core.d.get d.toNat)
    let ra := regionOf (s.core.d.get a.toNat)
    let n := ra.count
    if n = 0 ∨ rd.count = 0 then .next (stepAfter s.unit s)
    else
      let bad := match checkRegion s.core rd true false ct 1 s.hyp with
        | some x => some x
        | none => checkRegion s.core ra false true ct n s.hyp
      match bad with
      | some x => .fault x
      | none =>
        let s1 := vSend s
        if rd.noRoom s1.core then .blocked vSend 8
        else
          let c := holdFor [ra] n 16 s1.core
          let e := rateOf [rd, ra] (ct == 1)
          let (c, ls, fl) := leafSteps f ct ra n e (stepsOf n e) 0 c [] 0#6
          let (o, fo) := reduceOut f ct rd ls
          let c := (List.range 5).foldl (fun c _ => c.vStep) c
          let c := (c.pushWrites [rd.write c 0 4 false 0 o]).vStep
          .next (vDone s1 c (fl ||| fo))) s)

/-- R220: VRSUM. -/
def execVrsum (r d a : BitVec 4) (t : BitVec 3) (s : State) : Host.Outcome State Fault Refusal := reduceWord (.vrsum r d a t) 0 d a t s
/-- R220: VRMAX. -/
def execVrmax (r d a : BitVec 4) (t : BitVec 3) (s : State) : Host.Outcome State Fault Refusal := reduceWord (.vrmax r d a t) 1 d a t s
/-- R220: VRMIN. -/
def execVrmin (r d a : BitVec 4) (t : BitVec 3) (s : State) : Host.Outcome State Fault Refusal := reduceWord (.vrmin r d a t) 2 d a t s
/-- R220: VRSUMSQ. -/
def execVrsumsq (r d a : BitVec 4) (t : BitVec 3) (s : State) : Host.Outcome State Fault Refusal := reduceWord (.vrsumsq r d a t) 3 d a t s
/-- R220: VRARGMAX. -/
def execVrargmax (r d a : BitVec 4) (t : BitVec 3) (s : State) : Host.Outcome State Fault Refusal := reduceWord (.vrargmax r d a t) 4 d a t s

end Sys2Proof.Machine
end

