-- ==== Sys2Proof/Machine/Chain.lean ====
section
/-! DEFINITION. Fused chains and deferral queues (R221–R225), and the empty steps in which an ENDR of the VE waits for
pending writes (R211). A chain is one instruction: VCH.BEGIN or VDRAIN opens it, its slots are collected, and VCH.END
checks and runs it. -/
namespace Sys2Proof.Machine

/-! ### The ring: R221 -/

/-- The eight entries of a ring. -/
def ringOf (l : List RingEntry) : List RingEntry := (List.range 8).map (fun k => l.getD k default)

/-- A result enters as ~1. The upper half of an entry that holds a 32-bit result is left open.
(DESIGN CHOICE, assumption 4.) -/
def pushRing (l : List RingEntry) (ct code n : Nat) : List RingEntry :=
  let lo := BitVec.ofNat 32 code
  ringOf (⟨lo, if ct = 1 then BitVec.ofNat 32 (code / 2 ^ 32) else Config.ringHigh n lo, BitVec.ofNat 2 ct⟩ :: l)

/-- ~k is true: nonzero, or for a float entry not ±0 (R224). -/
def RingEntry.holds (e : RingEntry) : Bool :=
  if 2 ≤ e.ct.toNat then e.lo != 0#32 else !(ctVal e.ct.toNat (if e.ct = 1#2 then e.val.toNat else e.lo.toNat)).isZero

/-! ### Deferral queues: R223 -/

/-- The checks on a queue's descriptor: in AB, inside it, at a multiple of 16. -/
def queueFault (q : Region) : Option Flt :=
  if q.space ≠ 1 then some ⟨cBufacc, 0x33, q.addr⟩
  else if spaceSize 1 < q.off + 16 + 72 * q.count then some ⟨cBufacc, 0x35, q.addr⟩
  else if q.base % 16 ≠ 0 then some ⟨cAlign, 0, q.addr⟩
  else none

/-- The queue's bytes as a region, for holds. -/
def queueRegion (q : Region) : Region := { q with fmt := 7, stride := 1, count := 16 + 72 * q.count, rnd := 0, sat := false, u := false, res := 0 }

def entryOff (q : Region) (j : Nat) : Nat := q.off + 16 + 72 * j

/-- A number in the AB as a read in a step `s` steps from now sees it. -/
def Core.seenAb (c : Core) (off len s : Nat) : Nat := readLE (c.seenBuf 1 off len s) off len

/-- A pending ordinary write to the AB, `s` steps from now. -/
def abWrite (c : Core) (off len s v : Nat) : VWrite :=
  { (default : VWrite) with addr := 2 ^ 28 + off, bytes := natToBytes len v, left := 4 + s, word := c.vword }

/-- The low dword of an entry. -/
def entryWord (ring : List RingEntry) (i path : Nat) : Nat :=
  i % 2 ^ 32 + path % 16 * 2 ^ 32 + ((List.range 8).map (fun k => (ring.getD k default).ct.toNat * 4 ^ k)).foldl (· + ·) 0 * 2 ^ 40

/-- VDEFER on element `i` in a step `s` steps from now. -/
def deferElem (c : Core) (q : Region) (k path i s : Nat) (ring : List RingEntry) : Except Flt Core :=
  if !(ring.getD (k - 1) default).holds then .ok c
  else match c.bufMark 1 q.off 16 with
  | some f => .error f
  | none =>
    let cnt := c.seenAb q.off 4 s
    if cnt = q.count then .error ⟨cQueue, 0, q.addr⟩
    else
      let o := entryOff q cnt
      .ok (c.pushWrites ([abWrite c o 8 s (entryWord ring i path)]
        ++ (List.range 8).map (fun j => abWrite c (o + 8 + 8 * j) 8 s (ring.getD j default).val.toNat)
        ++ [abWrite c q.off 16 s (cnt + 1)]))

/-! ### Elements of a chain -/

/-- An element of a chain: the index of its regions and its pre-chain entries. -/
structure ChainElem where
  ix : Nat
  pre : List RingEntry

/-- An index of a drained entry lies outside a region (R225). -/
def VSlot.outside (sl : VSlot) (i : Nat) : Option Flt :=
  sl.regions.findSome? (fun r => if r.count ≠ 1 ∧ r.count ≤ i then some ⟨cBufacc, 0x34, r.addr⟩ else none)

/-- A fault of a slot, with the slot's word. -/
abbrev SlotFault := Flt × BitVec 32

/-- The slots of one element in order; each comes with its step, counted from now. `n` is the place of the next result. A slot that
pushes nothing has no place in the ring: ~k is the k-th last entry that was pushed (R221). (DESIGN CHOICE, assumption 60.) -/
def elemSlots (drain : Bool) (i n : Nat) : List (VSlot × Nat) → Core → List RingEntry → FlagSet → Except SlotFault (Core × List RingEntry × FlagSet)
  | [], c, ring, fl => .ok (c, ring, fl)
  | (sl, s) :: t, c, ring, fl =>
    match sl.kind with
    | .defer q k path => match deferElem c q k path i s ring with
      | .error f => .error (f, sl.w)
      | .ok c => elemSlots drain i (n + 1) t c ring fl
    | _ =>
      match (if drain then sl.outside i else none) with
      | some f => .error (f, sl.w)
      | none => match sl.eval (fun r => r.seen c s i) ring with
        | .error f => .error (f, sl.w)
        | .ok e =>
          let c := if sl.nd then c else c.pushWrites [sl.write c s i e]
          elemSlots drain i (n + 1) t c (pushRing ring sl.ct e.code n) (fl ||| e.flags)

/-- Steps of `cnt` elements of a block in each slot, at rate `e`. -/
def slotSteps (cnt e : Nat) : Nat := (cnt + e - 1) / e

/-- The step of each slot for position `p` in a block of `cnt` elements, counted from the block's start. -/
def slotOffsets (cnt p : Nat) : List (VSlot × Nat) → Nat → List (VSlot × Nat)
  | [], _ => []
  | (sl, e) :: t, o => (sl, o + p / e) :: slotOffsets cnt p t (o + slotSteps cnt e)

/-- How far a chain came: elements done, the core, the ring of the last element, the flags; and a fault. -/
structure ChainRun where
  done : Nat
  core : Core
  ring : List RingEntry
  flags : FlagSet
  fault : Option SlotFault
  /-- Where the chain begins in its instruction memory. -/
  start : Nat
  /-- The checks have passed: the chain has begun, and a fault is one of its execution (R222). -/
  began : Bool := false

/-- The elements of one block (R222). An element that faults leaves no effect. -/
def blockElems (drain : Bool) (slots : List (VSlot × Nat)) (cnt : Nat) : List ChainElem → Nat → ChainRun → ChainRun
  | [], _, r => r
  | e :: t, p, r =>
    match elemSlots drain e.ix ((r.start * 65536 + r.done) * 16) (slotOffsets cnt p slots 0) r.core e.pre r.flags with
    | .error f => { r with fault := some f }
    | .ok (c, ring, fl) => blockElems drain slots cnt t (p + 1) { r with done := r.done + 1, core := c, ring := ring, flags := fl }

/-- Blocks of `b` elements, each with the steps of its slots; a block that stops at an element has had the steps of the
elements before it (R212). -/
def chainBlocks (drain : Bool) (slots : List (VSlot × Nat)) (b : Nat) : List (List ChainElem) → ChainRun → ChainRun
  | [], r => r
  | es :: t, r =>
    let old := r.done
    let r := blockElems drain slots es.length es 0 r
    let n := (slots.map (fun p => slotSteps (r.done - old) p.2)).foldl (· + ·) 0
    let r := { r with core := (List.range n).foldl (fun c _ => c.vStep) r.core }
    if r.fault.isSome then r else chainBlocks drain slots b t r

/-! ### Running a chain: R222, R225 -/

/-- The entries of a queue whose path matches: their places, indexes and pre-chain values (R225). Of a CNT above COUNT the first COUNT
are entries. (DESIGN CHOICE, assumption 60.) -/
def drainEntries (c : Core) (q : Region) (path : Nat) : List (Nat × ChainElem) :=
  (List.range (min q.count (c.seenAb q.off 4 0))).filterMap (fun j =>
    let o := entryOff q j
    let w := c.seenAb o 8 0
    if nbits w 35 32 ≠ path then none
    else some (j, ⟨nbits w 31 0, (List.range 8).map (fun k =>
      let v := c.seenAb (o + 8 + 8 * k) 8 0
      ⟨BitVec.ofNat 32 v, BitVec.ofNat 32 (v / 2 ^ 32), BitVec.ofNat 2 (w / 2 ^ (40 + 2 * k))⟩)⟩))

/-- Take the drained entries out: the rest move down in order, and CNT falls (R225). -/
def removeEntries (c : Core) (q : Region) (gone : List Nat) : Core :=
  let cnt := min q.count (c.seenAb q.off 4 0)
  let stay := (List.range cnt).filter (fun j => !gone.contains j)
  let ws := ((List.range stay.length).zip stay).filterMap (fun p =>
    if p.1 = p.2 then none else some (abWrite c (entryOff q p.1) 72 0 (c.seenAb (entryOff q p.2) 72 0)))
  c.pushWrites (ws ++ [abWrite c q.off 16 0 stay.length])

/-- VEPROG: the element that a chain has reached (R340). -/
def progOf (v : Word) : Nat := if v.getLsbD 16 then bits v 15 0 else 0

/-- What a chain does: the core after it, or where and why it stopped. `none` for the regions' checks. -/
def chainRun (s : State) (ch : Chain) : ChainRun :=
  let c := vSend s |>.core
  let slots := ch.slots.filterMap (fun i => slotOf i c.d)
  let start : ChainRun := ⟨0, c, c.ring, 0#6, none, ch.start, false⟩
  let deferFault (sl : VSlot) : Option Flt := match sl.kind with
    | .defer q _ _ => queueFault q
    | _ => none
  let check (n : Option Nat) : Option SlotFault :=
    slots.findSome? (fun sl => (if sl.kind.isDefer then deferFault sl else sl.check c n s.hyp).map (fun f => (f, sl.w)))
  let queues := slots.filterMap (fun sl => match sl.kind with
    | .defer q _ _ => some (queueRegion q)
    | _ => none)
  let reads := slots.flatMap VSlot.reads
  match ch.head with
  | .vchBegin _ d =>
    let n := (regionOf (c.d.get d.toNat)).count
    if n = 0 then start
    else match check (some n) with
      | some f => { start with fault := some f }
      | none =>
        let c := holdFor queues 65536 16 (holdFor reads n 16 c)
        let e := rateOf (slots.flatMap VSlot.regions) (slots.any (fun sl => sl.ct == 1))
        let p := progOf c.veprog
        let els := ((List.range (n - p)).map (fun k => (⟨p + k, ringOf c.ring⟩ : ChainElem)))
        chainBlocks false (slots.map (fun sl => (sl, e))) e (chunks e els (n + 1)) ⟨p, c, ringOf c.ring, 0#6, none, ch.start, true⟩
  | .vdrain _ qd path =>
    let q := regionOf (c.d.get qd.toNat)
    match (queueFault q).or (c.bufMark 1 q.off (16 + 72 * min q.count (c.seenAb q.off 4 0))) with
    | some f => { start with fault := some (f, BitVec.ofNat 32 ((encode ch.head).getD 0)) }
    | none =>
      let c := holdFor (queueRegion q :: queues) 65536 16 c
      let es := drainEntries c q path.toNat
      if es.isEmpty then { start with core := c }
      else match check none with
        | some f => { start with fault := some f }
        | none =>
          let c := holdFor reads 65536 16 c
          let p := progOf c.veprog
          let rated := slots.map (fun sl => (sl, if sl.regions.isEmpty then 64 else 8))
          let r := chainBlocks true rated 64 (chunks 64 ((es.drop p).map (·.2)) (es.length + 1)) ⟨p, c, ringOf c.ring, 0#6, none, ch.start, true⟩
          if r.fault.isSome then r else { r with core := removeEntries r.core q (es.map (·.1)) }
  | _ => start

/-- The ring bits of the word that opened a chain. -/
def Chain.waits (ch : Chain) : BitVec 4 := ch.head.ring

/-- The chain's end: the waits of its head are taken (once: a chain that resumes at an element has taken them), it runs,
and on a fault of its execution the element reached is recorded (R222); a fault of the checks leaves the chain not begun. Signals
of the head push with those of VCH.END. The flags of the elements that are complete are raised at that stop, since the restart does
not run them again: R68 speaks of the retirement only. (DESIGN CHOICE, assumption 23.) -/
def runChain (i : Instr) (s : State) (ch : Chain) : WordResult :=
  let resumed := s.core.veprog.getLsbD 16
  if !resumed && !s.core.waitsReady .ve ch.waits then .blocked id 0
  else if !(s.core.reserveSignals .ve i.ring).signalsReady .ve ch.waits then .blocked id 1
  else if (ch.slots.filterMap (fun i => slotOf i s.core.d)).any (fun sl => !sl.nd && !sl.kind.isDefer && sl.d.noRoom (vSend s).core) then
    .blocked vSend 8
  else
    let taken (s : State) : State := if resumed then s else s.mapCore (fun c => c.takeWaits .ve ch.waits)
    let r := chainRun s ch
    match r.fault with
    | some (f, w) =>
      .spent (fun s =>
        let r := chainRun s ch
        let started := r.began || resumed
        noteWord ((if started then taken else id) { s with core := { r.core with
          chain := s.core.chain, tokens := s.core.tokens, aflags := r.core.aflags ||| r.flags,
          veprog := if started then BitVec.ofNat 64 (r.done + 2 ^ 16) else s.core.veprog } }) w) f
    | none =>
      let c := { r.core with chain := none, veprog := 0#64, ring := r.ring }
      let c := if r.done = 0 then c.vStep else c
      .next (giveRing ch.head .ve s.hyp (taken (vDone s c r.flags)))

/-- R222: VCH.END. -/
def execVchEnd (r : BitVec 4) (s : State) : Host.Outcome State Fault Refusal :=
  .next (issueWith (fun _ => none) (.vchEnd r) (fun s => match s.core.chain with
    | none => .next s
    | some ch => runChain (.vchEnd r) s ch) s)

/-- A word that opens a chain stands at it until its waits are there; they are taken when the chain runs. It takes no step of the VE,
and neither do the slots as they are read. (DESIGN CHOICE, assumption 60.) -/
def openChain (i : Instr) (s : State) : Host.Outcome State Fault Refusal :=
  .next (if !s.active then s
    else match earlyFault i s with
      | some f => faultOf s s.unit f
      | none => match stampState s with
        | .wait => s
        | .overrun => faultOf s s.unit ⟨cStamp, 0, 0#64⟩
        | _ =>
          if s.core.veprog.getLsbD 16 || s.core.waitsReady .ve i.ring then
            s.mapCore (fun c => { (c.issued .ve).advance .ve s.baseAddr .next with chain := some ⟨i, s.groupAddr, []⟩ })
          else blockOrStamp s id 0)

/-- R222: VCH.BEGIN. -/
def execVchBegin (r d : BitVec 4) (s : State) : Host.Outcome State Fault Refusal := openChain (.vchBegin r d) s

/-- R225: VDRAIN. -/
def execVdrain (r q p : BitVec 4) (s : State) : Host.Outcome State Fault Refusal := openChain (.vdrain r q p) s

/-! ### Empty steps: R211 -/

/-- One empty step of a VE whose ENDR waits for pending writes. -/
def emptyStep (s : State) : State :=
  let s := vSend (s.mapCore Core.vStep)
  if s.core.ve.ending.isSome && s.core.vpend.isEmpty then retireEndr s else s

/-- R211: a pending special-function write lands: a step of the VE passes, in which nothing issues. -/
def execSfWriteLand (lnum : Nat) (s : State) : Host.Outcome State Fault Refusal :=
  .next (within lnum (fun s => if s.core.mode == .running && s.core.ve.ending.isSome then emptyStep s else s) s)

end Sys2Proof.Machine
end

