-- ==== Sys2Proof/Machine/ScanState.lean ====
section
/-! DEFINITION. The state register file and local scans (R226–R251): versions under hypotheses, state windows, operator
descriptors, and the words SW.SET, OPD.LD, SRF.* and SCAN*. -/
namespace Sys2Proof.Machine

/-! ### State windows: R231–R233 -/

/-- A state window's fields. -/
structure SWin where
  base : Nat
  slots : Nat
  elems : Nat
  clog : Nat
  fmt : Nat
  pos : Nat
  pstr : Nat
  plstr : Nat
  planes : Nat
  res : Nat
  deriving DecidableEq, Repr, Inhabited

def swinOf (d : BitVec 128) : SWin :=
  let n := d.toNat
  ⟨nbits n 127 96, nbits n 95 84, nbits n 83 72, nbits n 71 68, nbits n 67 64, nbits n 63 48, nbits n 47 32, nbits n 31 16, nbits n 15 13, nbits n 12 0⟩

/-- The float format of a state format code (R231). -/
def stFmt (code : Nat) : Fmt := match code with
  | 0 => f64
  | 1 => f32
  | 2 => bf16
  | _ => f16
/-- Element size of a state format. -/
def stSize (code : Nat) : Nat := match code with
  | 0 => 8
  | 1 => 4
  | _ => 2

def SWin.addr (w : SWin) : Word := BitVec.ofNat 64 w.base
/-- Offset of element `e` of position `t` in plane `p` (R232). -/
def SWin.elemOff (w : SWin) (p t e : Nat) : Nat := bufOff w.base + p * w.plstr * 16 + t * w.pstr * 16 + e * stSize w.fmt
/-- The window has no element. -/
def SWin.isEmpty (w : SWin) : Bool := w.pos == 0 || w.elems == 0
/-- One past its last byte. -/
def SWin.stop (w : SWin) : Nat := w.elemOff (w.planes - 1) (w.pos - 1) w.elems
/-- First slot of an SRF window. -/
def SWin.slot (w : SWin) : Nat := bufOff w.base / 256

/-- R233 steps 2 and 3 as far as they read BASE and SLOTS of an SRF window: all that SRF.ALLOC and SRF.FREE read. -/
def SWin.slotsFault (w : SWin) : Option Flt :=
  if bufSpace w.base ≠ 3 then some ⟨cBufacc, 0x42, w.addr⟩
  else if w.slots = 0 ∨ 2048 < w.slots ∨ w.base % 256 ≠ 0 ∨ 2048 < w.slot + w.slots then some ⟨cBufacc, 0x43, w.addr⟩
  else none

/-- R233 steps 2 and 3. -/
def SWin.spaceFault (w : SWin) (srf : Bool) : Option Flt :=
  if srf then
    match w.slotsFault with
    | some f => some f
    | none =>
      if w.pstr % 16 ≠ 0 ∨ w.plstr % 16 ≠ 0 ∨ w.clog ≠ 0 ∨ (!w.isEmpty ∧ (w.slot + w.slots) * 256 < w.stop)
      then some ⟨cBufacc, 0x43, w.addr⟩ else none
  else if bufSpace w.base ≠ 1 then some ⟨cBufacc, 0x42, w.addr⟩
  else if w.slots ≠ 0 ∨ (!w.isEmpty ∧ spaceSize 1 < w.stop) then some ⟨cBufacc, 0x43, w.addr⟩
  else none

/-- Every slot of an SRF window is primary (R233 step 5). -/
def Core.allPrimary (c : Core) (w : SWin) : Bool := (List.range w.slots).all (fun k => c.slots.get (w.slot + k) == .primary)

/-- R233 for a window that must lie in the SRF, or in AB. -/
def SWin.form (c : Core) (srf : Bool) (w : SWin) : Option Flt :=
  if w.res ≠ 0 ∨ 3 < w.fmt ∨ w.planes = 0 ∨ 6 < w.planes then some ⟨cSrf, 0, 0#64⟩
  else match w.spaceFault srf with
    | some f => some f
    | none =>
      if w.base % stSize w.fmt ≠ 0 then some ⟨cAlign, 0, w.addr⟩
      else if srf && !c.allPrimary w then some ⟨cSrf, 0, 0#64⟩
      else none

/-- The windows of a word, each with whether it lies in the SRF: the checks of R233 on one after another, in the order listed. (DESIGN
CHOICE, assumption 60.) -/
def checkWindows (c : Core) (ws : List (SWin × Bool)) : Option Flt := ws.findSome? (fun p => p.1.form c p.2)

/-! ### Reading and writing the SRF: R228 -/

/-- The offset that a read of SRF offset `o` under hypothesis `h` reads. -/
def State.srfAt (s : State) (h o : Nat) : Nat :=
  match (hypPath s h 4).findSome? (fun g => s.core.srfVer (o / 256) (BitVec.ofNat 8 g)) with
  | some j => 256 * j + o % 256
  | none => o

/-- read() of R228 for an element of `n` bytes. -/
def State.srfRead (s : State) (h o n : Nat) : Nat := readLE s.core.srf (s.srfAt h o) n

/-- The slots that a write to `slot` under `h` writes: its own target and the versions of strict descendants of `h`. -/
def State.srfTargets (s : State) (h slot : Nat) : List Nat :=
  let own := if h = 0 then slot else (s.core.srfVer slot (BitVec.ofNat 8 h)).getD slot
  own :: s.core.slots.filterMap (fun p => match p.2 with
    | .version sl g _ => if sl = slot ∧ (hypPath s (s.hyps.get g.toNat).parent.toNat 4 ++ [0]).contains h then some p.1 else none
    | _ => none)

/-- write() of R228 for an element of `n` bytes. -/
def State.srfWrite (s : State) (h o n v : Nat) : State :=
  s.mapCore (fun c => { c with srf := (s.srfTargets h (o / 256)).foldl (fun m j => writeLE m (256 * j + o % 256) n v) c.srf })

def srfFault : Flt := ⟨cSrf, 0, 0#64⟩

/-- F.ECC where one of the SRF offsets touches a marked word (R337, R397). -/
def Core.srfMark (c : Core) (n : Nat) (os : List Nat) : Option Flt :=
  if os.any (fun o => (c.markHit .srf o n).isSome) then some ⟨cEcc, 1, 0#64⟩ else none

/-- The slot that a new version takes: the lowest free one (R228 names none). (DESIGN CHOICE, assumption 60.) -/
def Core.freeSlot (c : Core) : Option Nat := (List.range 2048).find? (fun k => c.slots.get k == .free)
/-- Slots held by the context (R230). -/
def Core.heldSlots (c : Core) : Nat := (c.slots.filter (fun p => p.2 != .free)).length
def Core.slotQuota (c : Core) : Nat := match c.ctx with
  | some x => x.srfQuota
  | none => 0

/-- The ensure step of R228 for one slot under `h`: the contents that a version starts with are read. -/
def ensureSlot (s : State) (h slot : Nat) : Except Flt State :=
  let d := (hypPath s h 5).length
  if 3 < d then .error srfFault
  else if s.core.slots.any (fun p => match p.2 with
      | .version sl g e => sl == slot && e == d && g.toNat != h
      | _ => false) then .error srfFault
  else if (s.core.srfVer slot (BitVec.ofNat 8 h)).isSome then .ok s
  else if s.core.slotQuota < s.core.heldSlots + 1 then .error srfFault
  else match s.core.freeSlot with
    | none => .error srfFault
    | some k =>
      let from' := s.srfAt (s.hyps.get h).parent.toNat (256 * slot) / 256
      match s.core.srfMark 256 [256 * from'] with
      | some f => .error f
      | none => .ok (s.mapCore (fun c => { c.copySlot from' k with slots := c.slots.put k (.version slot (BitVec.ofNat 8 h) d) }))

/-- The ensure step for every slot that a word writes; where it faults, it has no effect. -/
def ensureSlots (s : State) (h : Nat) : List Nat → Except Flt State
  | [] => .ok s
  | k :: t => if h = 0 then .ok s else match ensureSlot s h k with
    | .error f => .error f
    | .ok s => ensureSlots s h t

/-- The slots that the rows of positions `ts` of an SRF window touch. -/
def SWin.slotsOf (w : SWin) (ts : List Nat) : List Nat :=
  if w.elems = 0 then []
  else ((List.range w.planes).flatMap (fun p => ts.flatMap (fun t =>
    let a := w.elemOff p t 0 / 256
    let b := (w.elemOff p t w.elems - 1) / 256
    (List.range (b + 1 - a)).map (a + ·)))).eraseDups

/-! ### Operators: R234–R237 -/

def opKind (d : List Word) : Nat := bits (d.getD 0 0#64) 63 60
def opFmt (d : List Word) : Nat := bits (d.getD 0 0#64) 59 56
def opRnd (d : List Word) : Nat := bits (d.getD 0 0#64) 55 54
def opPlanes (d : List Word) : Nat := bits (d.getD 0 0#64) 53 51
def opNu (d : List Word) : Nat := bits (d.getD 0 0#64) 50 48
/-- IDENT of a plane, in SFMT: the low bits of its dword. (DESIGN CHOICE, assumption 60.) -/
def opIdent (d : List Word) (p : Nat) : Nat := (d.getD (1 + p) 0#64).toNat % 2 ^ (8 * stSize (opFmt d))
def opUop (d : List Word) (k : Nat) : Word := d.getD (8 + k) 0#64

/-- PLANES that R235 gives a fixed kind. -/
def kindPlanes (k : Nat) : Nat := match k with
  | 0 => 1
  | 1 => 1
  | 2 => 2
  | 3 => 2
  | _ => 6

/-- One USER micro-operation is valid, given the scratch values written before it (R237). -/
def uopOk (planes : Nat) (scratch : List Nat) (u : Word) : Bool :=
  let op := bits u 63 60
  let dz := bits u 58 58 == 1
  let dst := bits u 57 54
  let operand (n : Nat) : Bool := if n < 6 then decide (n < planes) else if n < 12 then decide (n - 6 < planes) else scratch.contains (n - 12)
  decide (op ≤ 7) && (if dz then decide (dst ≤ 5 ∧ bits u 59 59 = 1) else decide (dst ≤ 3))
    && operand (bits u 53 50)
    && (if op = 6 ∨ op = 7 then bits u 49 46 == 0 else operand (bits u 49 46))
    && (if op = 3 then operand (bits u 45 42) else bits u 45 42 == 0)
    && bits u 41 0 == 0

/-- Micro-operations in order; `scratch` and `written` are the scratch values and result planes written so far. -/
def uopsOk (planes : Nat) : List Word → List Nat → List Nat → Bool
  | [], _, written => (List.range planes).all written.contains
  | u :: t, scratch, written =>
    uopOk planes scratch u
      && (if bits u 58 58 = 1 then uopsOk planes t scratch (bits u 57 54 :: written) else uopsOk planes t (bits u 57 54 :: scratch) written)

/-- R237: the image of an operator descriptor is valid. The bits of an IDENT dword above the width of SFMT are not looked at. (DESIGN
CHOICE, assumption 60.) -/
def opdOk (d : List Word) : Bool :=
  let k := opKind d
  let n := opPlanes d
  let user := k == 5
  decide (k ≤ 5 ∧ opFmt d ≤ 3 ∧ opRnd d ≤ 1 ∧ 1 ≤ n ∧ n ≤ 6) && bits (d.getD 0 0#64) 47 0 == 0 && d.getD 7 0#64 == 0#64
    && (user || (n == kindPlanes k && opNu d == 0))
    && (List.range 6).all (fun p => decide (p < n) || d.getD (1 + p) 0#64 == 0#64)
    && (List.range 8).all (fun u => (user && decide (u ≤ opNu d)) || opUop d u == 0#64)
    && (!user || uopsOk n ((List.range (opNu d + 1)).map (opUop d)) [] [])

/-- Rounding to SFMT under RND. -/
def opRound (d : List Word) (r : FVal × FlagSet) : Nat × FlagSet :=
  let (c, f) := (stFmt (opFmt d)).arith (rndOf (opRnd d)) r.1
  (c, r.2 ||| f)

/-- A value of a micro-operation's operand: planes of the earlier and the later element, and scratch. -/
def uopVal (f : Fmt) (e l : List Nat) (sc : Tab FVal) (n : Nat) : FVal :=
  if n < 6 then f.decode (e.getD n 0) else if n < 12 then f.decode (l.getD (n - 6) 0) else sc.get (n - 12)

/-- The exact result of a micro-operation's OP. -/
def uopExact (op : Nat) (mode : Rnd) (a b c : FVal) : FVal × FlagSet :=
  match op with
  | 0 => FVal.add mode a b
  | 1 => FVal.add mode a b.neg
  | 2 => FVal.mul a b
  | 3 => FVal.fma mode a b c
  | 4 => FVal.max a b
  | 5 => FVal.min a b
  | 6 => (a, nvOf a)
  | _ => (a.neg, nvOf a)

/-- The micro-operations of a USER node (R236). -/
def runUops (d : List Word) (e l : List Nat) : List Word → Tab FVal → Tab Nat → FlagSet → Tab Nat × FlagSet
  | [], _, out, fl => (out, fl)
  | u :: t, sc, out, fl =>
    let f := stFmt (opFmt d)
    let v (n : Nat) : FVal := uopVal f e l sc n
    let rp := bits u 59 59 == 1
    let g := if rp then f else f64
    let mode := if rp then rndOf (opRnd d) else .rne
    let (x, f1) := uopExact (bits u 63 60) mode (v (bits u 53 50)) (v (bits u 49 46)) (v (bits u 45 42))
    let (r, f2) := g.arith mode x
    if bits u 58 58 = 1 then runUops d e l t sc (out.set (bits u 57 54) r) (fl ||| f1 ||| f2)
    else runUops d e l t (sc.set (bits u 57 54) (g.decode r)) out (fl ||| f1 ||| f2)

/-- Sum of exact products and an addend list, rounded once (AFFINE2, R235). -/
def affine (d : List Word) (terms : List (FVal × FVal)) (plus : List FVal) : Nat × FlagSet :=
  let ps := terms.map (fun p => FVal.mul p.1 p.2)
  let (v, f) := exactSum (ps.map (·.1) ++ plus)
  opRound d (v, ps.foldl (fun a p => a ||| p.2) f)

/-- One node: the earlier element `e`, the later `l`, by planes (R235, R236). -/
def applyOp (d : List Word) (e l : List Nat) : List Nat × FlagSet :=
  let f := stFmt (opFmt d)
  let mode := rndOf (opRnd d)
  let x (n : Nat) : FVal := f.decode (e.getD n 0)
  let y (n : Nat) : FVal := f.decode (l.getD n 0)
  match opKind d with
  | 0 => let r := opRound d (FVal.add mode (x 0) (y 0)); ([r.1], r.2)
  | 1 => let r := opRound d (FVal.mul (x 0) (y 0)); ([r.1], r.2)
  | 2 =>
    let a := opRound d (FVal.add mode (y 0) (x 0))
    let t := opRound d (FVal.add mode (y 0) (x 1))
    let b := f.maxC t.1 (l.getD 1 0)
    ([a.1, b.1], a.2 ||| t.2 ||| b.2)
  | 3 =>
    let a := opRound d (FVal.mul (y 0) (x 0))
    let b := opRound d (FVal.fma mode (y 0) (x 1) (y 1))
    ([a.1, b.1], a.2 ||| b.2)
  | 4 =>
    let m (i j : Nat) : Nat × FlagSet := affine d [(y (2 * i), x j), (y (2 * i + 1), x (2 + j))] []
    let v (i : Nat) : Nat × FlagSet := affine d [(y (2 * i), x 4), (y (2 * i + 1), x 5)] [y (4 + i)]
    let rs := [m 0 0, m 0 1, m 1 0, m 1 1, v 0, v 1]
    (rs.map (·.1), rs.foldl (fun a r => a ||| r.2) 0#6)
  | _ =>
    let (out, fl) := runUops d e l ((List.range (opNu d + 1)).map (opUop d)) [] [] 0#6
    ((List.range (opPlanes d)).map out.get, fl)

/-! ### Tuples -/

/-- All planes of element `e` at position `t` of an AB window. -/
def SWin.abTuple (w : SWin) (c : Core) (t e : Nat) : List Nat :=
  (List.range w.planes).map (fun p => c.readBuf 1 (w.elemOff p t e) (stSize w.fmt))
/-- Write a tuple of an AB window. -/
def SWin.putAb (w : SWin) (c : Core) (t e : Nat) (v : List Nat) : Core :=
  (List.range w.planes).foldl (fun c p => c.writeBuf 1 (w.elemOff p t e) (stSize w.fmt) (v.getD p 0)) c
/-- All planes of element `e` at position `t` of an SRF window, read under `h`. -/
def SWin.srfTuple (w : SWin) (s : State) (h t e : Nat) : List Nat :=
  (List.range w.planes).map (fun p => s.srfRead h (w.elemOff p t e) (stSize w.fmt))
/-- Write a tuple of an SRF window under `h`. -/
def SWin.putSrf (w : SWin) (s : State) (h t e : Nat) (v : List Nat) : State :=
  (List.range w.planes).foldl (fun s p => s.srfWrite h (w.elemOff p t e) (stSize w.fmt) (v.getD p 0)) s

/-! ### The words: R241–R244 -/

/-- R241: SW.SET. -/
def execSwSet (r w a b : BitVec 4) (s : State) : Host.Outcome State Fault Refusal :=
  .next (issue (.swSet r w a b) (fun s =>
    .next (s.mapCore (fun c => { c with w := c.w.set w.toNat (s.r5 a ++ s.r5 b) }))) s)

/-- R242: OPD.LD. A nonzero bit in 63:32 of the address is a bit out of range, detail 0x81 (R337). (DEDUCED, assumption 26.) -/
def execOpdLd (r k a : BitVec 4) (s : State) : Host.Outcome State Fault Refusal :=
  .next (issue (.opdLd r k a) (fun s =>
    let v := s.r5 a
    if bits v 63 32 ≠ 0 then .fault ⟨cBufacc, 0x81, v⟩
    else if bufSpace v.toNat ≠ 1 then .fault ⟨cBufacc, 0x82, v⟩
    else if spaceSize 1 < bufOff v.toNat + 128 then .fault ⟨cBufacc, 0x83, v⟩
    else if v.toNat % 128 ≠ 0 then .fault ⟨cAlign, 0, v⟩
    else match s.core.bufMark 1 (bufOff v.toNat) 128 with
    | some f => .fault f
    | none =>
      let img := (List.range 16).map (fun n => BitVec.ofNat 64 (s.core.readBuf 1 (bufOff v.toNat + 8 * n) 8))
      if !opdOk img then .fault ⟨cOpd, 0, 0#64⟩
      else .next (s.mapCore (fun c => { c with opd := c.opd.set k.toNat ⟨true, img⟩ }))) s)

/-- R243: SRF.ALLOC. -/
def execSrfAlloc (r w : BitVec 4) (s : State) : Host.Outcome State Fault Refusal :=
  .next (issue (.srfAlloc r w) (fun s =>
    let x := swinOf (s.core.w.get w.toNat)
    match x.slotsFault with
    | some f => .fault f
    | none =>
      let ks := (List.range x.slots).map (x.slot + ·)
      if s.hyp ≠ 0#8 ∨ ks.any (fun k => s.core.slots.get k != .free) ∨ s.core.slotQuota < s.core.heldSlots + x.slots then .fault srfFault
      else match s.core.srfMark 256 (ks.map (256 * ·)) with
      | some f => .fault f
      | none => .next (s.mapCore (fun c => { c with
        slots := ks.foldl (fun t k => t.put k .primary) c.slots,
        srf := Tab.splice c.srf (256 * x.slot) (256 * (x.slot + x.slots)) [] }))) s)

/-- R243: SRF.FREE. -/
def execSrfFree (r w : BitVec 4) (s : State) : Host.Outcome State Fault Refusal :=
  .next (issue (.srfFree r w) (fun s =>
    let x := swinOf (s.core.w.get w.toNat)
    match x.slotsFault with
    | some f => .fault f
    | none =>
      if s.hyp ≠ 0#8 ∨ !s.core.allPrimary x then .fault srfFault
      else .next (s.mapCore (fun c => { c with
        slots := c.slots.filter (fun p => match p.2 with
          | .primary => !decide (x.slot ≤ p.1 ∧ p.1 < x.slot + x.slots)
          | .version sl _ _ => !decide (x.slot ≤ sl ∧ sl < x.slot + x.slots)
          | .free => false) }))) s)

/-! ### Words that run node by node: R238, R249 -/

/-- Where a word of R244 or of R246 to R248 stands, as SEPROG records it: phase 0 up-sweep and 1 down-sweep, level, target
and element. A move counts its elements: the plane as the level, the position as the target. The write that follows the
last node of a scan stands at level 0 of the down-sweep. (DESIGN CHOICE, assumption 23.) -/
structure SePos where
  phase : Nat
  level : Nat
  j : Nat
  el : Nat
  deriving DecidableEq, Repr, Inhabited

/-- SEPROG of a word that goes on from this place (R340). -/
def SePos.word (p : SePos) : Word := BitVec.ofNat 64 (p.phase + 4 * p.level + 2 ^ 7 * p.j + 2 ^ 23 * p.el + 2 ^ 39)
def SePos.ofWord (w : Word) : SePos := ⟨bits w 1 0, bits w 6 2, bits w 22 7, bits w 38 23⟩

/-- The places of a word rise by this number. -/
def SePos.key (p : SePos) : Nat := ((p.phase * 32 + (if p.phase = 1 then 31 - p.level else p.level)) * 2 ^ 16 + p.j) * 2 ^ 16 + p.el

/-- What a word does once its checks have passed: its places in order, the marked word that a place meets, and what it does
there. -/
structure SeWord where
  places : List SePos
  mark : State → SePos → Option Flt
  act : State → SePos → State

/-- The places that are left. -/
def SeWord.left (w : SeWord) (s : State) : List SePos :=
  if s.core.seprog.getLsbD 39 then w.places.filter (fun p => decide ((SePos.ofWord s.core.seprog).key ≤ p.key)) else w.places

/-- The SE stands at place `p` of its word. -/
def State.atPlace (s : State) (p : SePos) : State := s.mapCore (fun c => { c with seprog := p.word })

/-- The word of the SE is over: its flags are raised, and SEPROG is empty. -/
def State.leaveSe (s : State) : State := s.mapCore (fun c => { c.raiseFlags c.seFlags with seprog := 0#64, seFlags := 0#6 })

/-- One place of a word: the word retires after its last place, stands at the next one until then, and faults at a place
that meets a marked word, with every earlier place complete (R249). -/
def SeWord.turn (w : SeWord) (s : State) : WordResult :=
  match w.left s with
  | [] => .next s.leaveSe
  | p :: rest => match w.mark s p with
    | some f => .spent (fun _ => s.atPlace p) f
    | none => match rest with
      | [] => .next (w.act s p).leaveSe
      | q :: _ => .busy (fun _ => (w.act s p).atPlace q)

/-- Issue a word that runs place by place: `start` is what its checks leave, or none where it has no effect. A word that goes
on has passed them. -/
def issueSe (i : Instr) (start : State → Except Flt (Option State)) (w : State → SeWord) (s : State) : Host.Outcome State Fault Refusal :=
  .next (issue i (fun s =>
    if s.resumes i then (w s).turn s
    else match start s with
      | .error f => .fault f
      | .ok none => .next s
      | .ok (some t) => (w t).turn t) s)

/-! ### Moves: R244 -/

/-- Every (plane, position, element) of a window, ascending. -/
def SWin.cells (w : SWin) : List (Nat × Nat × Nat) :=
  (List.range w.planes).flatMap (fun p => (List.range w.pos).flatMap (fun t => (List.range w.elems).map (fun e => (p, t, e))))

/-- The places of a move. -/
def SWin.places (w : SWin) : List SePos := w.cells.map (fun (p, t, e) => ⟨0, p, t, e⟩)

/-- The offset of the element at a place of a move. -/
def SWin.at' (w : SWin) (p : SePos) : Nat := w.elemOff p.level p.j p.el

/-- The two windows of a move agree (R244). -/
def SWin.agrees (a b : SWin) : Bool := a.elems == b.elems && a.pos == b.pos && a.planes == b.planes && a.fmt == b.fmt

/-- The SRF bytes that a write of one element writes. -/
def State.srfPlaces (s : State) (h o : Nat) : List Nat := (s.srfTargets h (o / 256)).map (256 * · + o % 256)

/-- The checks of a move: its windows, their agreement, and the ensure step where it writes the SRF window `ws`. -/
def moveStart (wins : List (SWin × Bool)) (ws wx : SWin) (writes : Bool) (s : State) : Except Flt (Option State) :=
  match checkWindows s.core wins with
  | some f => .error f
  | none =>
    if !ws.agrees wx then .error srfFault
    else if ws.isEmpty then .ok none
    else if writes then (ensureSlots s s.hyp.toNat (ws.slotsOf (List.range ws.pos))).map some
    else .ok (some s)

/-- SRF.LD: one element from AB to the SRF. -/
def moveLd (ws wx : SWin) (h : Nat) : SeWord :=
  let n := stSize ws.fmt
  { places := ws.places
    mark := fun s p => (s.core.bufMark 1 (wx.at' p) n).or (s.core.srfMark n (s.srfPlaces h (ws.at' p)))
    act := fun s p => s.srfWrite h (ws.at' p) n (s.core.readBuf 1 (wx.at' p) n) }

/-- SRF.ST: one element from the SRF to AB. -/
def moveSt (ws wx : SWin) (h : Nat) : SeWord :=
  let n := stSize ws.fmt
  { places := ws.places
    mark := fun s p => (s.core.srfMark n [s.srfAt h (ws.at' p)]).or (s.core.bufMark 1 (wx.at' p) n)
    act := fun s p => s.mapCore (fun c => c.writeBuf 1 (wx.at' p) n (s.srfRead h (ws.at' p) n)) }

/-- SRF.ZERO: one element of the SRF. -/
def moveZero (ws : SWin) (h : Nat) : SeWord :=
  let n := stSize ws.fmt
  { places := ws.places
    mark := fun s p => s.core.srfMark n (s.srfPlaces h (ws.at' p))
    act := fun s p => s.srfWrite h (ws.at' p) n 0 }

/-- The window that a field of the acting SE names. -/
def State.swin {n : Nat} (s : State) (w : BitVec n) : SWin := swinOf (s.core.w.get w.toNat)

/-- R244: SRF.LD. -/
def execSrfLd (r w x : BitVec 4) (s : State) : Host.Outcome State Fault Refusal :=
  issueSe (.srfLd r w x) (fun s => moveStart [(s.swin w, true), (s.swin x, false)] (s.swin w) (s.swin x) true s)
    (fun s => moveLd (s.swin w) (s.swin x) s.hyp.toNat) s

/-- R244: SRF.ST. -/
def execSrfSt (r x w : BitVec 4) (s : State) : Host.Outcome State Fault Refusal :=
  issueSe (.srfSt r x w) (fun s => moveStart [(s.swin x, false), (s.swin w, true)] (s.swin w) (s.swin x) false s)
    (fun s => moveSt (s.swin w) (s.swin x) s.hyp.toNat) s

/-- R244: SRF.ZERO. -/
def execSrfZero (r w : BitVec 4) (s : State) : Host.Outcome State Fault Refusal :=
  issueSe (.srfZero r w) (fun s => moveStart [(s.swin w, true)] (s.swin w) (s.swin w) true s)
    (fun s => moveZero (s.swin w) s.hyp.toNat) s

/-! ### Scans: R245–R248 -/

/-- m of R77: the least with 2^m ≥ n and m ≥ 1. -/
def scanDepth (n : Nat) : Nat := if n ≤ 2 then 1 else Nat.log2 (n - 1) + 1

/-- The targets of one level of an up-sweep, and of a down-sweep with the node at the carry where `carry` (R246–R248). -/
def upTargets (n l : Nat) : List Nat := (List.range n).filter (fun j => (j + 1) % 2 ^ l == 0)
def downTargets (n l : Nat) (carry : Bool) : List Nat :=
  (List.range n).filter (fun j => (carry && j + 1 == 2 ^ (l - 1)) || ((j + 1) % 2 ^ l == 2 ^ (l - 1) && decide (2 ^ l ≤ j)))

/-- The places of levels 1 to `m` of an up-sweep. -/
def upPlaces (n m : Nat) : List SePos :=
  ((List.range m).map (· + 1)).flatMap (fun l => (upTargets n l).map (fun j => ⟨0, l, j, 0⟩))
/-- The places of levels `m` to 1 of a down-sweep. -/
def downPlaces (n m : Nat) (carry : Bool) : List SePos :=
  ((List.range m).map (m - ·)).flatMap (fun l => (downTargets n l carry).map (fun j => ⟨1, l, j, 0⟩))
/-- The place of the write after the last node. -/
def lastPlace : SePos := ⟨1, 0, 0, 0⟩

/-- A row of an AB window touches a marked word. -/
def SWin.rowMark (w : SWin) (c : Core) (t : Nat) : Option Flt :=
  (List.range w.planes).findSome? (fun p => c.bufMark 1 (w.elemOff p t 0) (w.elems * stSize w.fmt))

/-- A row of an SRF window touches a marked word, read or written under `h`. -/
def SWin.srfRowMark (w : SWin) (s : State) (h t : Nat) (write : Bool) : Option Flt :=
  (List.range w.planes).findSome? (fun p => (List.range w.elems).findSome? (fun e =>
    s.core.srfMark (stSize w.fmt) (if write then s.srfPlaces h (w.elemOff p t e) else [s.srfAt h (w.elemOff p t e)])))

/-- One node at position `j` for every element, with the earlier tuple given by `early`; its flags stand until the word
retires (R68). A node is one step for all elements and planes of its row: nothing comes between their accesses (R238). (DESIGN CHOICE,
assumption 23.) -/
def scanNode (d : List Word) (w : SWin) (early : Core → Nat → List Nat) (j : Nat) (c : Core) : Core :=
  (List.range w.elems).foldl (fun c e =>
    let (v, fl) := applyOp d (early c e) (w.abTuple c j e)
    let c := w.putAb c j e v
    { c with seFlags := c.seFlags ||| fl }) c

/-- The node at a target of a level: x[j] := op(x[j − 2^(l−1)], x[j]). -/
def treeNode (d : List Word) (w : SWin) (l j : Nat) (c : Core) : Core :=
  scanNode d w (fun c e => w.abTuple c (j - 2 ^ (l - 1)) e) j c

/-- The rows that such a node accesses are clean. -/
def SWin.nodeMark (w : SWin) (c : Core) (l j : Nat) : Option Flt := (w.rowMark c (j - 2 ^ (l - 1))).or (w.rowMark c j)

/-- The checks of R245 up to the chunk rule: none where the word has no effect, else the operator. `ws` is the window in the SRF
where the word names one, with the number of positions that it must have. -/
def scanChecks (s : State) (wx : SWin) (ws : Option (SWin × Nat)) (k : BitVec 4) : Except Flt (Option (List Word)) :=
  match checkWindows s.core ((wx, false) :: (ws.map (fun p => (p.1, true))).toList) with
  | some f => .error f
  | none =>
    if wx.isEmpty then .ok none
    else
      let o := s.core.opd.get k.toNat
      if !o.loaded ∨ wx.fmt ≠ opFmt o.dwords ∨ wx.planes ≠ opPlanes o.dwords then .error ⟨cOpd, 0, 0#64⟩
      else match ws with
        | some (w, n) =>
          if w.elems ≠ wx.elems ∨ w.fmt ≠ wx.fmt ∨ w.planes ≠ wx.planes ∨ w.pos ≠ n then .error srfFault else .ok (some o.dwords)
        | none => .ok (some o.dwords)

/-- The checks of a scan word: `chunk` is the chunk rule of its entry, and the SRF window is ensured at the positions `ts`
(R245). -/
def scanStart (wx : SWin) (ws : Option (SWin × Nat)) (k : BitVec 4) (chunk : Bool) (ts : List Nat) (s : State) : Except Flt (Option State) :=
  match scanChecks s wx ws k with
  | .error f => .error f
  | .ok none => .ok none
  | .ok (some _) =>
    if !chunk then .error srfFault
    else match ws with
      | none => .ok (some s)
      | some (w, _) => (ensureSlots s s.hyp.toNat (w.slotsOf ts)).map some

/-- Write the tuples `v` of every element to a position of an SRF window. -/
def SWin.putSrfRow (w : SWin) (h t : Nat) (v : State → Nat → List Nat) (s : State) : State :=
  (List.range w.elems).foldl (fun s e => w.putSrf s h t e (v s e)) s

/-- R246: the whole tree; with SW the last position goes to position 0 of wS. -/
def treeScan (d : List Word) (wx : SWin) (ws : Option SWin) (h : Nat) : SeWord :=
  let last (s : State) : State := match ws with
    | none => s
    | some w => w.putSrfRow h 0 (fun s e => wx.abTuple s.core (wx.pos - 1) e) s
  { places := upPlaces wx.pos wx.clog ++ downPlaces wx.pos (wx.clog - 1) false ++ (if ws.isSome then [lastPlace] else [])
    mark := fun s p =>
      if p.level = 0 then (wx.rowMark s.core (wx.pos - 1)).or (ws.bind (fun w => w.srfRowMark s h 0 true)) else wx.nodeMark s.core p.level p.j
    act := fun s p => if p.level = 0 then last s else s.mapCore (treeNode d wx p.level p.j) }

def scanWord (i : Instr) (x : BitVec 4) (sw : Option (BitVec 4)) (k : BitVec 4) (s : State) : Host.Outcome State Fault Refusal :=
  issueSe i (fun s => scanStart (s.swin x) (sw.map (fun w => (s.swin w, 1))) k ((s.swin x).clog == scanDepth (s.swin x).pos) [0] s)
    (fun s => treeScan (s.core.opd.get k.toNat).dwords (s.swin x) (sw.map (fun w => s.swin w)) s.hyp.toNat) s

/-- R246: SCAN. (DEDUCED, assumption 23.) -/
def execScan (r x k : BitVec 4) (s : State) : Host.Outcome State Fault Refusal := scanWord (.scan r x k) x none k s
/-- R246: SCAN.SW. -/
def execScanSw (r x w k : BitVec 4) (s : State) : Host.Outcome State Fault Refusal := scanWord (.scanSw r x w k) x (some w) k s

/-- The chunk rule of R247. -/
def SWin.chunkOk (w : SWin) : Bool := decide (1 ≤ w.clog ∧ w.pos ≤ 2 ^ w.clog)

/-- R247: the up-sweep of a chunk, whose last position, or the identity, goes to OUT. -/
def chunkRed (d : List Word) (wx ws : SWin) (h : Nat) : SeWord :=
  let full := wx.pos == 2 ^ wx.clog
  { places := upPlaces wx.pos wx.clog ++ [lastPlace]
    mark := fun s p =>
      if p.level = 0 then (if full then wx.rowMark s.core (wx.pos - 1) else none).or (ws.srfRowMark s h 1 true)
      else wx.nodeMark s.core p.level p.j
    act := fun s p =>
      if p.level = 0 then
        ws.putSrfRow h 1 (fun s e => if full then wx.abTuple s.core (wx.pos - 1) e else (List.range wx.planes).map (opIdent d)) s
      else s.mapCore (treeNode d wx p.level p.j) }

/-- R247: SCAN.RED. -/
def execScanRed (r x w k : BitVec 4) (s : State) : Host.Outcome State Fault Refusal :=
  issueSe (.scanRed r x w k) (fun s => scanStart (s.swin x) (some (s.swin w, 2)) k (s.swin x).chunkOk [1] s)
    (fun s => chunkRed (s.core.opd.get k.toNat).dwords (s.swin x) (s.swin w) s.hyp.toNat) s

/-- R248: the down-sweep of a chunk, with IN before its first position; a full chunk ends with OUT. -/
def chunkApply (d : List Word) (wx ws : SWin) (first : Bool) (h : Nat) : SeWord :=
  let carry (p : SePos) : Bool := !first && p.j + 1 == 2 ^ (p.level - 1)
  { places := downPlaces wx.pos wx.clog (!first) ++ (if wx.pos = 2 ^ wx.clog then [lastPlace] else [])
    mark := fun s p =>
      if p.level = 0 then (ws.srfRowMark s h 1 false).or (wx.rowMark s.core (wx.pos - 1))
      else if carry p then (ws.srfRowMark s h 0 false).or (wx.rowMark s.core p.j)
      else wx.nodeMark s.core p.level p.j
    act := fun s p =>
      if p.level = 0 then
        s.mapCore (fun c => (List.range wx.elems).foldl (fun c e => wx.putAb c (wx.pos - 1) e (ws.srfTuple s h 1 e)) c)
      else if carry p then s.mapCore (scanNode d wx (fun _ e => ws.srfTuple s h 0 e) p.j)
      else s.mapCore (treeNode d wx p.level p.j) }

/-- R248: SCAN.APPLY and its form for the first chunk. It writes no state window. -/
def applyWord (i : Instr) (first : Bool) (x w k : BitVec 4) (s : State) : Host.Outcome State Fault Refusal :=
  issueSe i (fun s => scanStart (s.swin x) (some (s.swin w, 2)) k (s.swin x).chunkOk [] s)
    (fun s => chunkApply (s.core.opd.get k.toNat).dwords (s.swin x) (s.swin w) first s.hyp.toNat) s

/-- R248: SCAN.APPLY. -/
def execScanApply (r x w k : BitVec 4) (s : State) : Host.Outcome State Fault Refusal := applyWord (.scanApply r x w k) false x w k s
/-- R248: SCAN.APPLY.FIRST. -/
def execScanApplyFirst (r x w k : BitVec 4) (s : State) : Host.Outcome State Fault Refusal := applyWord (.scanApplyFirst r x w k) true x w k s

end Sys2Proof.Machine
end

