-- ==== Sys2Proof/Machine/ScanNet.lean ====
section
/-! DEFINITION. The scan network (R252–R265): the Front's collective NSCAN words, the carries of Jetstream with their
credits and inboxes, and STEP. -/
namespace Sys2Proof.Machine

/-! ### Group words: R253 -/

def grpTag (g : Word) : Nat := bits g 63 48
def grpNr (g : Word) : Nat := bits g 47 44
def grpFirst (g : Word) : Bool := bits g 43 43 == 1
def grpPart (g : Word) : Bool := bits g 42 42 == 1
def grpLevel (g : Word) : Nat := bits g 41 37
def grpDir (g : Word) : Bool := bits g 36 36 == 1

/-- The ranges of a group word. -/
def grpOk (nscan : Bool) (g : Word) : Bool :=
  grpTag g != 0 && decide (1 ≤ grpNr g ∧ grpNr g ≤ 8) && bits g 35 0 == 0
    && (if nscan then grpLevel g == 0 && !grpDir g else decide (grpLevel g ≤ 16) && (grpLevel g != 0 || !grpDir g))

/-- Issue a word of the network. In the first cycle in which it is the next group it arms its tag, or faults where the
inbox holds carries of another (R256). -/
def netWord (i : Instr) (g : BitVec 4) (body : State → WordResult) (s : State) : State :=
  if !s.active || (earlyFault i s).isSome || s.interlocked i || s.dividing i then issue i body s
  else
    let tag := BitVec.ofNat 16 (grpTag (s.r5 g))
    if tag ≠ s.core.ctag ∧ !s.core.inbox.isEmpty then faultOf s s.unit ⟨cQueue, 0, 0#64⟩
    else issue i body (s.mapCore (fun c => { c with ctag := tag }))

/-- The checks on wS and on the descriptor of a word that uses one: R259. -/
def netChecks (s : State) (w : SWin) (k : Option Nat) : Option Flt :=
  match w.form s.core true with
  | some f => some f
  | none =>
    let o := s.core.opd.get (k.getD 0)
    if k.isSome && (!o.loaded || opFmt o.dwords != w.fmt || opPlanes o.dwords != w.planes) then some ⟨cOpd, 0, 0#64⟩
    else if w.pos ≠ 2 then some srfFault
    else none

/-! ### The Front: R254, R260 -/

/-- The logical core of a rank in the cluster of core `n`. -/
def rankCore (n r : Nat) : Nat := n / 8 * 8 + r

/-- The words that stand at the Front of a cluster, with their ranks and tenants. -/
def State.frontWords (s : State) (cluster : Nat) : List (Nat × Nat × FrontWord) :=
  (List.range 8).filterMap (fun r => let c := s.coreAt (8 * cluster + r); c.front.map (fun f => (r, c.tenant, f)))

/-- A word arrives at the Front: the number of ranks of its operation, or none where it is refused. -/
def frontArrive (s : State) (up : Bool) (g : Word) : Option Nat :=
  match s.frontWords (clusterIx s.lnum) with
  | [] => if coreOf s.lnum < grpNr g then some (grpNr g) else none
  | (_, tenant, f) :: _ =>
    if grpTag f.group = grpTag g ∧ f.up = up ∧ tenant = s.core.tenant ∧ coreOf s.lnum < f.ranks then some f.ranks else none

/-- R260: NSCAN.UP or NSCAN.DOWN up to its formation. -/
def nscanWord (i : Instr) (up : Bool) (w g k : BitVec 4) (s : State) : State :=
  let wait (f : FrontWord) : WordResult := .blocked (fun s => s.mapCore (fun c => { c with front := some f })) 10
  netWord i g (fun s =>
    match s.core.front with
    | some f => wait f
    | none =>
      let gw := s.r5 g
      match netChecks s (swinOf (s.core.w.get w.toNat)) (some k.toNat) with
      | some f => .fault f
      | none =>
        if !grpOk true gw then .fault srfFault
        else match frontArrive s up gw with
          | none => .fault srfFault
          | some n => wait ⟨i, up, w.toNat, k.toNat, gw, n⟩) s

/-- A word that has arrived at the Front waits within its stamped cycle; it overruns when the cycle ends (R264, R387). -/
def atFront (i : Instr) (s : State) : Bool := s.active && stampState s == .now && (earlyFault i s).isNone && (issueBlock i s).isNone

/-- A stamped NSCAN word arrives at its count, and otherwise as `nscanWord` says. -/
def nscanIssue (i : Instr) (up : Bool) (w g k : BitVec 4) (s : State) : State :=
  if atFront i s then
    let t := nscanWord i up w g k (s.mapCore (fun c => { c with pfx := c.pfx.set (sqIx s.unit) { s.pfx with stamp := none } }))
    if t.core.front.isSome then t.mapCore (fun c => { c with pfx := c.pfx.set (sqIx s.unit) s.pfx }) else t
  else nscanWord i up w g k s

/-- R260: NSCAN.UP. (DEDUCED, assumption 38.) -/
def execNscanUp (r w g k : BitVec 4) (s : State) : Host.Outcome State Fault Refusal := .next (nscanIssue (.nscanUp r w g k) true w g k s)
/-- R260: NSCAN.DOWN. -/
def execNscanDown (r w g k : BitVec 4) (s : State) : Host.Outcome State Fault Refusal := .next (nscanIssue (.nscanDown r w g k) false w g k s)

/-- The tuples of every element at a position. -/
abbrev Row := List (List Nat)

/-- One node for every element: the earlier row, the later row (R235). -/
def rowNode (d : List Word) (e l : Row) : Row × FlagSet :=
  let rs := List.zipWith (applyOp d) e l
  (rs.map (·.1), rs.foldl (fun a r => a ||| r.2) 0#6)

/-- The rows of a sweep and the flags of each rank. -/
structure Sweep where
  y : Tab Row
  fl : Tab FlagSet

/-- y[r] := op(e, y[r]). -/
def Sweep.node (d : List Word) (e : Row) (r : Nat) (x : Sweep) : Sweep :=
  let (v, f) := rowNode d e (x.y.get r)
  ⟨x.y.set r v, x.fl.set r (x.fl.get r ||| f)⟩

/-- The sweeps of R260. -/
def frontUp (d : List Word) (n : Nat) (real : Nat → Bool) (x : Sweep) : Sweep :=
  [1, 2, 3].foldl (fun x l => (List.range n).foldl (fun x r =>
    if (r + 1) % 2 ^ l = 0 ∧ real r then x.node d (x.y.get (r - 2 ^ (l - 1))) r else x) x) x

def frontDown (d : List Word) (n : Nat) (real : Nat → Bool) (inn : Option Row) (x : Sweep) : Sweep :=
  [3, 2, 1].foldl (fun x l => (List.range n).foldl (fun x r =>
    if !real r then x
    else match inn with
      | some e =>
        if r + 1 = 2 ^ (l - 1) then x.node d e r
        else if (r + 1) % 2 ^ l = 2 ^ (l - 1) ∧ 2 ^ l ≤ r then x.node d (x.y.get (r - 2 ^ (l - 1))) r
        else x
      | none => if (r + 1) % 2 ^ l = 2 ^ (l - 1) ∧ 2 ^ l ≤ r then x.node d (x.y.get (r - 2 ^ (l - 1))) r else x) x) x

/-- The row of a position, read by the core in focus under the hypothesis of its SE. -/
def SWin.srfRow (w : SWin) (s : State) (t : Nat) : Row :=
  (List.range w.elems).map (fun e => w.srfTuple s (s.core.hypOf .se).toNat t e)

/-- Write a row at a position. -/
def SWin.putRow (w : SWin) (s : State) (t : Nat) (row : Row) : State :=
  (List.range w.elems).foldl (fun s e => w.putSrf s (s.core.hypOf .se).toNat t e (row.getD e [])) s

/-- The positions that rank `r` of a formed operation writes. -/
def frontWrites (up : Bool) (real : Nat → Bool) (r : Nat) : List Nat :=
  if up then (if r % 2 = 1 ∧ real r then [1] else []) else if r = 0 then [1] else [0, 1]

/-- The version ensure step at the participants of cluster `cl`, rank by rank; the rank at which it fails, and the fault. -/
def frontEnsure (cl : Nat) (s : State) : List (Nat × SWin × List Nat) → Except (Nat × Flt) State
  | [] => .ok s
  | (r, w, ts) :: rest =>
    let t := focus (8 * cl + r) s
    match ensureSlots t (t.core.hypOf .se).toNat (w.slotsOf ts) with
    | .error f => .error (r, f)
    | .ok t => frontEnsure cl (focus s.lnum t) rest

/-- The positions that rank `r` of a formed operation reads. -/
def frontReads (up first : Bool) (r : Nat) : List Nat := if !up && !first && r == 0 then [0, 1] else [1]

/-- The core in focus reads a marked word of its SRF at one of the positions. -/
def SWin.readsMark (w : SWin) (s : State) (ts : List Nat) : Bool :=
  ts.any (fun t => (List.range w.planes).any (fun p => (List.range w.elems).any (fun e =>
    (s.core.markHit .srf (s.srfAt (s.core.hypOf .se).toNat (w.elemOff p t e)) (stSize w.fmt)).isSome)))

/-- A participant of a formed operation in which rank `k` met a marked word: it faults, and its frame names that rank
(R263). (DEDUCED, assumption 15.) -/
def frontEcc (k : Nat) (s : State) : State :=
  faultOf (s.mapCore (fun c => { c with frontRank := BitVec.ofNat 8 k })) .se ⟨cEcc, 1, 0#64⟩

/-- Act as the SE of rank `r` of a cluster. -/
def asRank (cl r : Nat) (f : State → State) (s : State) : State :=
  let t := within (8 * cl + r) (fun s => f { s with unit := .se }) s
  { t with unit := s.unit }

/-- A formed operation at one rank: its writes, its flags, and the retirement of its word (R254). -/
def frontFinish (up : Bool) (fw : FrontWord) (w : SWin) (ts : List Nat) (x : Sweep) (r : Nat) (s : State) : State :=
  let t := takeRing fw.word s
  let t := if ts.contains 1 then w.putRow t 1 (x.y.get r) else t
  let t := if !up && ts.contains 0 then w.putRow t 0 (x.y.get (r - 1)) else t
  retire fw.word s .next (t.mapCore (fun c => { c.raiseFlags (x.fl.get r) with front := none }))

/-- R254: an operation forms once ranks 0 to NR − 1 have arrived, and every rank retires, or every one faults. -/
def formFront (cl : Nat) (s : State) : State :=
  match s.frontWords cl with
  | [] => s
  | (_, _, f0) :: _ =>
    let n := f0.ranks
    let fws := (List.range n).filterMap (fun r => ((s.coreAt (8 * cl + r)).front).map (fun f => (r, f)))
    let ready (p : Nat × FrontWord) : Bool := State.ready { focus (8 * cl + p.1) s with unit := .se } p.2.word
    if fws.length ≠ n ∨ !fws.all ready then s
    else
      let win (p : Nat × FrontWord) : SWin := swinOf ((s.coreAt (8 * cl + p.1)).w.get p.2.wS)
      let image (p : Nat × FrontWord) : List Word := ((s.coreAt (8 * cl + p.1)).opd.get p.2.k).dwords
      let key (p : Nat × FrontWord) : List Nat × List Word :=
        ([grpNr p.2.group, if grpFirst p.2.group then 1 else 0, if grpPart p.2.group then 1 else 0, (win p).elems, (win p).fmt, (win p).planes], image p)
      let p0 : Nat × FrontWord := (0, (fws.head?.map (·.2)).getD f0)
      let fail : State := fws.foldl (fun s p => asRank cl p.1 (fun s => faultOf s .se srfFault) s) s
      if !fws.all (fun p => key p == key p0) || grpNr p0.2.group != n then fail
      else
        let real (r : Nat) : Bool := decide (r + 1 < n) || (r + 1 == n && !grpPart p0.2.group)
        let up := f0.up
        let bad (p : Nat × FrontWord) : Bool := (win p).readsMark (focus (8 * cl + p.1) s) (frontReads up (grpFirst p0.2.group) p.1)
        match fws.find? bad with
        | some q => fws.foldl (fun s p => asRank cl p.1 (frontEcc q.1) s) s
        | none =>
        match frontEnsure cl s (fws.map (fun p => (p.1, win p, frontWrites up real p.1))) with
        | .error (k, f) => if f.code = cEcc then fws.foldl (fun s p => asRank cl p.1 (frontEcc k) s) s else fail
        | .ok s =>
          let d := image p0
          let row (p : Nat × FrontWord) (t : Nat) : Row := (win p).srfRow (focus (8 * cl + p.1) s) t
          let x : Sweep := ⟨fws.map (fun p => (p.1, row p 1)), []⟩
          let x := if up then frontUp d n real x else frontDown d n real (if grpFirst p0.2.group then none else some (row p0 0)) x
          fws.foldl (fun s p => asRank cl p.1 (frontFinish up p.2 (win p) (frontWrites up real p.1) x p.1) s) s

/-- R254: the Front of a cluster forms its operation. (DEDUCED, assumption 38.) -/
def execFrontFormation (cluster : Nat) (s : State) : Host.Outcome State Fault Refusal := .next (formFront cluster s)

/-! ### Carries: R256–R258, R261 -/

/-- A peer word's number: device × 512 + logical core. -/
def peerNum (p : Word) : Nat := bits p 31 22 * 512 + bits p 8 0
def State.selfNum (s : State) : Nat := s.dev.toNat * 512 + s.lnum

/-- The role checks of R258 on a CARRY word. -/
def carryRole (s : State) (send : Bool) (g : Word) : Bool :=
  if grpLevel g ≠ 0 then coreOf s.lnum == 7 && grpNr g == 8 && !grpPart g
  else coreOf s.lnum == (if send then 7 else 0)

/-- The checks of a CARRY word. -/
def carryChecks (s : State) (w : SWin) (k : Option Nat) (send : Bool) (g p : Word) : Option Flt :=
  match netChecks s w k with
  | some f => some f
  | none => if !grpOk false g || bits p 63 32 != 0 || !carryRole s send g then some srfFault else none

/-- The payload: every plane of every element, plane by plane. -/
def SWin.payload (w : SWin) (s : State) (t : Nat) : List Byte :=
  let row := w.srfRow s t
  (List.range w.planes).flatMap (fun p => row.flatMap (fun x => natToBytes (stSize w.fmt) (x.getD p 0)))

/-- The row that a payload holds. -/
def SWin.rowOf (w : SWin) (bs : List Byte) : Row :=
  let z := stSize w.fmt
  (List.range w.elems).map (fun e => (List.range w.planes).map (fun p => bytesToNat ((bs.drop ((p * w.elems + e) * z)).take z)))

/-- Send a carry: its key index is the tenant (R363). -/
def sendCarry (s : State) (peer : Nat) (req : Request) : State :=
  (sendFor { s.source with unit := .se } s (peer / 512) (peer % 512) s.core.tenant req .carry).2

/-- A CARRY.SEND that waits for its stamp count asks for its credit (R256, R264). -/
def askEarly (i : Instr) (w g p : BitVec 4) (s : State) : State :=
  let gw := s.r5 g
  let ask := (peerNum (s.r5 p), grpTag gw)
  if s.active && (earlyFault i s).isNone && stampState s == .wait && !s.interlocked i && !s.core.credits.contains ask
      && (carryChecks s (swinOf (s.core.w.get w.toNat)) none true gw (s.r5 p)).isNone && (decide (ask.1 / 512 = s.dev.toNat) || s.hyp == 0#8)
  then s.mapCore (fun c => { c with carryAsk := some ask })
  else s

/-- R261: CARRY.SEND of a position. (DEDUCED, assumption 37.) -/
def carrySend (i : Instr) (t : Nat) (w g p : BitVec 4) (s : State) : State :=
  netWord i g (fun s =>
    let x := swinOf (s.core.w.get w.toNat)
    let gw := s.r5 g
    let peer := peerNum (s.r5 p)
    match carryChecks s x none true gw (s.r5 p) with
    | some f => .fault f
    | none =>
      let v := x.payload s t
      if x.readsMark s [t] then .fault ⟨cEcc, 1, 0#64⟩
      else if 4096 < v.length then .fault srfFault
      else if peer / 512 ≠ s.dev.toNat ∧ s.hyp ≠ 0#8 then .fault ⟨cHypso, 0, 0#64⟩
      else
        let ask := (peer, grpTag gw)
        if !s.core.credits.contains ask then .blocked (fun s => s.mapCore (fun c => { c with carryAsk := some ask })) 10
        else
          let s := s.mapCore (fun c => { c with credits := c.credits.erase ask, carryAsk := none })
          .next (sendCarry s peer (.carry (grpTag gw) (grpLevel gw) (grpDir gw) x.elems x.planes x.fmt v))) (askEarly i w g p s)

/-- R261: CARRY.SEND of IN. -/
def execCarrySendIn (r w g p : BitVec 4) (s : State) : Host.Outcome State Fault Refusal := .next (carrySend (.carrySendIn r w g p) 0 w g p s)
/-- R261: CARRY.SEND of OUT. -/
def execCarrySendOut (r w g p : BitVec 4) (s : State) : Host.Outcome State Fault Refusal := .next (carrySend (.carrySendOut r w g p) 1 w g p s)

/-- The entry is the carry that a receive names: the first in inbox order is taken. -/
def InboxEntry.isFor (e : InboxEntry) (peer : Nat) (g : Word) : Bool :=
  e.srcDev * 512 + e.src == peer && (match e.packet with
    | some (.carry tag level dir _ _ _ _) => tag == grpTag g && level == grpLevel g && dir == grpDir g
    | _ => false)

/-- R261: CARRY.RECV into a position, combined by descriptor `k` where the word names one. -/
def carryRecv (i : Instr) (t : Nat) (w g p : BitVec 4) (k : Option Nat) (s : State) : State :=
  netWord i g (fun s =>
    let x := swinOf (s.core.w.get w.toNat)
    let gw := s.r5 g
    let peer := peerNum (s.r5 p)
    match carryChecks s x k false gw (s.r5 p) with
    | some f => .fault f
    | none =>
      match s.core.inbox.findIdx? (fun e => e.isFor peer gw) with
      | none => .blocked id 10
      | some n =>
        match (s.core.inbox[n]?).bind (·.packet) with
        | some (.carry _ _ _ elems planes fmt v) =>
          if elems ≠ x.elems ∨ planes ≠ x.planes ∨ fmt ≠ x.fmt then .fault srfFault
          else if x.readsMark s [t] then .fault ⟨cEcc, 1, 0#64⟩
          else match ensureSlots s s.hyp.toNat (x.slotsOf [t]) with
            | .error f => .fault f
            | .ok s =>
              let s := s.mapCore (fun c => { c with inbox := c.inbox.eraseIdx n })
              match k with
              | none => .next (x.putRow s t (x.rowOf v))
              | some k =>
                let (row, fl) := rowNode (s.core.opd.get k).dwords (x.rowOf v) (x.srfRow s t)
                .next ((x.putRow s t row).raiseFlags fl)
        | _ => .blocked id 10) s

/-- R261: CARRY.RECV into IN. -/
def execCarryRecvIn (r w g p : BitVec 4) (s : State) : Host.Outcome State Fault Refusal := .next (carryRecv (.carryRecvIn r w g p) 0 w g p none s)
/-- R261: CARRY.RECV into OUT. -/
def execCarryRecvOut (r w g p : BitVec 4) (s : State) : Host.Outcome State Fault Refusal := .next (carryRecv (.carryRecvOut r w g p) 1 w g p none s)
/-- R261: CARRY.RECV.COMB into IN. -/
def execCarryRecvCombIn (r w g p k : BitVec 4) (s : State) : Host.Outcome State Fault Refusal :=
  .next (carryRecv (.carryRecvCombIn r w g p k) 0 w g p (some k.toNat) s)
/-- R261: CARRY.RECV.COMB into OUT. -/
def execCarryRecvCombOut (r w g p k : BitVec 4) (s : State) : Host.Outcome State Fault Refusal :=
  .next (carryRecv (.carryRecvCombOut r w g p k) 1 w g p (some k.toNat) s)

/-- The core in focus grants credits: its context is resident and not being saved (R256, R263). -/
def Core.grants (c : Core) : Bool :=
  c.ctx.isSome && (c.mode == .running || c.mode == .held || c.mode == .stopping || c.mode == .restarting) && decide (c.inbox.length < 8)

/-- The core in focus reserves an inbox entry for a sender. -/
def reserveEntry (s : State) (src srcDev tenant tag : Nat) : State :=
  s.mapCore (fun c => { c with inbox := c.inbox ++ [⟨src, srcDev, tenant, tag, none, false⟩] })

/-- The destination of a waiting send on this device would grant its credit. -/
def State.carryGrantable (s : State) (src : Nat) : Bool :=
  match (s.coreAt src).carryAsk with
  | none => false
  | some (peer, tag) =>
    let d := s.coreAt (peer % 512)
    peer / 512 == s.dev.toNat && d.grants && d.tenant == (s.coreAt src).tenant && d.ctag.toNat == tag

/-- R256: a credit is granted. For a sender of this device its
destination reserves an entry, where it is on this device, and the sender has the credit; for a sender of another
device, whose tenant and TAG the request names, the core in focus reserves the entry. -/
def grantCredit (q : CreditRequest) (s : State) : State :=
  if q.src / 512 = s.dev.toNat then
    let n := q.src % 512
    match (s.coreAt n).carryAsk with
    | none => s
    | some (peer, tag) =>
      let give (s : State) : State := within n (fun s => s.mapCore (fun c => { c with credits := c.credits ++ [(peer, tag)], carryAsk := none })) s
      if peer / 512 ≠ s.dev.toNat then give s
      else if s.carryGrantable n then
        let tenant := (s.coreAt n).tenant
        give (within (peer % 512) (fun d => reserveEntry d n d.dev.toNat tenant tag) s)
      else s
  else if s.core.grants && s.core.tenant == q.tenant && s.core.ctag.toNat == q.tag && q.tag != 0 then
    reserveEntry s (q.src % 512) (q.src / 512) q.tenant q.tag
  else s

/-- R256: a credit is granted. (DEDUCED, assumption 37.) -/
def execCarryCreditGrant (q : CreditRequest) (s : State) : Host.Outcome State Fault Refusal := .next (grantCredit q s)

/-- A carry lands in the entry that its credit reserved (R256, R257), where all its parts have come. -/
def landCarry (p : Packet) (s : State) : State :=
  let (lead, s) := s.gathered p
  match p.req with
  | .carry tag level dir elems planes fmt tail =>
    if (lead ++ tail).length ≠ elems * planes * stSize fmt then s
    else within p.dstLnum (fun s =>
      match s.core.inbox.findIdx? (fun e => e.packet.isNone && e.src == p.srcLnum && e.srcDev == p.srcDev && e.tag == tag && e.tenant == p.tenant) with
      | none => s
      | some n => s.mapCore (fun c => { c with inbox := c.inbox.modify n (fun e => { e with packet := some (.carry tag level dir elems planes fmt (lead ++ tail)) }) })) s
  | _ => s

/-- Packets of this device for itself that go before `p`: of the same core, and not delivered; carries have an order of their own
from core to core (R257). -/
def State.before (s : State) (p : Packet) (f : Flight) : Bool :=
  let q := f.pkt
  !isResp q && q.dstDev == s.dev.toNat && q.viaDev == p.viaDev && q.viaLnum == p.viaLnum && isCarry q == isCarry p
    && (!isCarry p || q.dstLnum == p.dstLnum)
    && decide (1 ≤ (p.flowSeq + 65536 - q.flowSeq) % 65536 ∧ (p.flowSeq + 65536 - q.flowSeq) % 65536 < 32768)

/-- The packet has come to the cluster of its target, and those before it are delivered (R257, R359). -/
def State.flowFirst (s : State) (p : Packet) : Bool :=
  s.packets.any (fun f => f.pkt == p && f.stop == endStop p) && (isResp p || !s.packets.any (s.before p))

/-- A packet that has been delivered is no longer on its way. -/
def State.landed (s : State) (p : Packet) : State := { s with packets := s.packets.eraseP (fun f => f.pkt == p) }

/-! ### STEP: R262 -/

/-- The checks of R262. -/
def stepChecks (s : State) (h x : SWin) (y : Option SWin) (k : Nat) : Option Flt :=
  match checkWindows s.core ((h, true) :: (x, false) :: (y.map (fun w => (w, false))).toList) with
  | some f => some f
  | none =>
    let o := s.core.opd.get k
    let fmtOk (w : SWin) : Bool := w.fmt == opFmt o.dwords
    if !o.loaded || opKind o.dwords != 3 || !fmtOk h || !fmtOk x || !y.all fmtOk || x.planes != 2 then some ⟨cOpd, 0, 0#64⟩
    else if h.planes ≠ 1 ∨ h.pos ≠ 1 ∨ h.elems ≠ x.elems ∨ !y.all (fun w => w.elems == x.elems && w.planes == 1 && w.pos == x.pos) then some srfFault
    else none

/-- One position of one element. -/
def stepElem (d : List Word) (wh wx : SWin) (wy : Option SWin) (h : Nat) (s : State) (t e : Nat) : State :=
  let f := stFmt (opFmt d)
  let a := wx.abTuple s.core t e
  let old := s.srfRead h (wh.elemOff 0 0 e) (stSize wh.fmt)
  let (v, fl) := opRound d (FVal.fma (rndOf (opRnd d)) (f.decode (a.getD 0 0)) (f.decode old) (f.decode (a.getD 1 0)))
  let s := (s.srfWrite h (wh.elemOff 0 0 e) (stSize wh.fmt) v).raiseFlags fl
  match wy with
  | none => s
  | some w => s.mapCore (fun c => w.putAb c t e [v])

/-- R262: STEP, with or without the output window. -/
def stepWord (i : Instr) (h x k : BitVec 4) (y : Option (BitVec 3)) (s : State) : Host.Outcome State Fault Refusal :=
  .next (issue i (fun s =>
    let wh := swinOf (s.core.w.get h.toNat)
    let wx := swinOf (s.core.w.get x.toNat)
    let wy := y.map (fun w => swinOf (s.core.w.get w.toNat))
    let hy := s.hyp.toNat
    match stepChecks s wh wx wy k.toNat with
    | some f => .fault f
    | none =>
      if wx.isEmpty then .next s
      else match (wh.srfRowMark s hy 0 false).or ((List.range wx.pos).findSome? (fun t =>
          (wx.rowMark s.core t).or (wy.bind (fun w => w.rowMark s.core t)))) with
      | some f => .fault f
      | none => match ensureSlots s hy (wh.slotsOf [0]) with
        | .error f => .fault f
        | .ok s =>
          let d := (s.core.opd.get k.toNat).dwords
          .next ((List.range wx.pos).foldl (fun s t => (List.range wx.elems).foldl (fun s e => stepElem d wh wx wy hy s t e) s) s)) s)

/-- R262: STEP. (DEDUCED, assumption 23.) -/
def execStep (r h x k : BitVec 4) (s : State) : Host.Outcome State Fault Refusal := stepWord (.step r h x k) h x k none s
/-- R262: STEP with the output window. -/
def execStepY (r h x k : BitVec 4) (y : BitVec 3) (s : State) : Host.Outcome State Fault Refusal := stepWord (.stepY r h x k y) h x k (some y) s

end Sys2Proof.Machine
end

