-- ==== Sys2Proof/Machine/Lds.lean ====
section
/-! DEFINITION. The LDS unit (R266–R279): the point function with its scramble, its output forms, and QR.DIRLD, QR.SEED,
QR.PT and QR.GEN. -/
namespace Sys2Proof.Machine

/-! ### The point function: R268, R269 -/

/-- SCR, STREAM and SEED of a value of sys.qrseed (R267). -/
def seedScr (q : Word) : Bool := bits q 48 48 == 1
def seedStream (q : Word) : BitVec 32 := BitVec.ofNat 32 (bits q 47 32)
def seedSeed (q : Word) : BitVec 32 := q.setWidth 32

/-- The xor of a list. -/
def xorAll (l : List (BitVec 32)) : BitVec 32 := l.foldl (· ^^^ ·) 0#32

/-- Bits reversed: bit 31 − j goes to bit j. -/
def rev32 (v : BitVec 32) : BitVec 32 :=
  BitVec.ofNat 32 (((List.range 32).map (fun j => if v.getLsbD (31 - j) then 2 ^ j else 0)).foldl (· + ·) 0)

def ldsMix (v : BitVec 32) : BitVec 32 :=
  let v := (v ^^^ (v >>> 16)) * 0x6B43A9B5#32
  let v := (v ^^^ (v >>> 15)) * 0x8F1D5C27#32
  v ^^^ (v >>> 16)

/-- key(d). -/
def ldsKey (q : Word) (d : Nat) : BitVec 32 := ldsMix (seedSeed q ^^^ ldsMix ((seedStream q <<< 16) ||| BitVec.ofNat 32 d))

def ldsNested (x k : BitVec 32) : BitVec 32 :=
  let y := rev32 x + k
  let y := y ^^^ (y * 0x5A3C96E2#32)
  let y := y ^^^ (y * 0x93D10B4A#32)
  let y := y ^^^ (y * 0xE6F24D78#32)
  rev32 (y ^^^ (y * 0x2B8EC13C#32))

/-- A dimension's row of a direction table. -/
def ldsRow (t : Tab (BitVec 32)) (d : Nat) : List (BitVec 32) := (List.range 32).map (fun j => t.get (32 * d + j))

/-- P(i, d) from a row of the table and a value of sys.qrseed: R268. -/
def pointOf (row : List (BitVec 32)) (q : Word) (i : BitVec 32) (d : Nat) : BitVec 32 :=
  let g := i ^^^ (i >>> 1)
  let u := xorAll ((List.range 32).filterMap (fun j => if g.getLsbD j then row[j]? else none))
  if seedScr q then ldsNested u (ldsKey q d) else u

/-- P(i, d) of a core. -/
def Core.point (c : Core) (i : BitVec 32) (d : Nat) : BitVec 32 := pointOf (ldsRow c.ldsTab d) c.qrseed i d

/-- A coordinate in an output form: R270. -/
def formOut (out : Nat) (u : BitVec 32) : Nat :=
  match out with
  | 0 => u.toNat
  | 1 => (f32.arith .rtz (.fin false u.toNat (-32))).1
  | _ => (bf16.arith .rtz (.fin false u.toNat (-32))).1

/-! ### The words: R275–R278 -/

/-- R276: QR.SEED. -/
def execQrSeed (r : BitVec 4) (a : BitVec 5) (s : State) : Host.Outcome State Fault Refusal :=
  .next (issue (.qrSeed r a) (fun s => .next (s.mapCore (fun c => { c with qrseed := s.r5 a &&& 0x1FFFFFFFFFFFF#64 }))) s)

/-- R277: QR.PT, with a latency of 3 (R83). (DESIGN CHOICE, assumption 10.) -/
def execQrPt (r : BitVec 4) (d a b : BitVec 5) (s : State) : Host.Outcome State Fault Refusal :=
  .next (issue (.qrPt r d a b) (fun s =>
    let x := s.r5 b
    if bits x 63 10 ≠ 0 ∨ bits x 9 8 = 3 then .fault ⟨cQueue, 0, 0#64⟩
    else
      let t := s.w5 d (BitVec.ofNat 64 (formOut (bits x 9 8) (s.core.point ((s.r5 a).setWidth 32) (bits x 7 0))))
      .next (t.mapCore (fun c => c.latency s.unit 3 d.toNat false))) s)

/-- The 128 bytes of one dimension at an address of QR.DIRLD, checked in the order of R131 or R133, which both name the
alignment of a direction-table image; the pseudocode of R275 has it before the loop. (DEDUCED, assumption 53.) -/
def dirBlock (s : State) (a : Word) : Except Flt (List Byte × State) :=
  if bits a 63 32 = 0 then
    match checkBuf s.core .cc a 128 128 false 0#8 with
    | .error f => .error f
    | .ok () => .ok (s.core.bufBytes (bufSpace a.toNat) (bufOff a.toNat) 128, s)
  else readVirt s s.hyp.toNat a 128 128

/-- How the rows of QR.DIRLD end: all loaded, at a fault, or at bytes of another device that have not come. -/
inductive RowsEnd where
  | loaded
  | fault (f : Flt)
  | waiting
  deriving DecidableEq, Repr

/-- Load dimensions `d` on from `a`, one row at a time; a fault leaves the rows before it (R275). -/
def dirLoad (s : State) (a : Word) (d : Nat) : Nat → State × RowsEnd
  | 0 => (s, .loaded)
  | n + 1 =>
    let ps := if bits a 63 32 = 0 ∨ a.toNat % 128 ≠ 0 then [] else unfetched s [(a, 128)]
    if !ps.isEmpty then (askParts ps s, .waiting)
    else match dirBlock (overlayBulk s) a with
    | .error f => (s, .fault f)
    | .ok (bs, t) =>
      let row := (List.range 32).foldl (fun t j => t.set (32 * d + j) (BitVec.ofNat 32 (bytesToNat ((bs.drop (4 * j)).take 4)))) s.core.ldsTab
      let keep (t : State) : State := { t with mem := t.mem.filter (fun p => s.isLocal p.1) }
      dirLoad ((if s.core.bulk.isEmpty then t else keep t).mapCore (fun c => { c with ldsTab := row })) (a + 128#64) (d + 1) n

/-- R275: QR.DIRLD. It keeps the CC busy until its last row is loaded (R423). (DEDUCED, assumption 53.) -/
def execQrDirld (r : BitVec 4) (a b : BitVec 5) (s : State) : Host.Outcome State Fault Refusal :=
  .next (issue (.qrDirld r a b) (fun s =>
    let va := s.r5 a
    let x := s.r5 b
    let d0 := bits x 7 0
    let n := bits x 16 8
    if bits x 63 17 ≠ 0 ∨ 256 < n ∨ 256 < d0 + n then .fault ⟨cQueue, 0, 0#64⟩
    else if n = 0 then .next s
    else if s.unitPending .cc then .busy id
    else match dirLoad s va d0 n with
      | (t, .loaded) => .next (t.mapCore (fun c => { c with bulk := [] }))
      | (_, .fault f) => .spent (fun s => (dirLoad s va d0 n).1.mapCore (fun c => { c with bulk := [] })) f
      | (_, .waiting) => .busy (fun s => (dirLoad s va d0 n).1)) s)

/-- One step of QR.GEN: elements `k` on, `e` at most; the row of each element is read in its step (R271). -/
def genElems (rd : Region) (q : Word) (i0 st : BitVec 32) (d0 nd : Nat) (c : Core) (k e : Nat) : List VWrite :=
  (List.range e).map (fun j =>
    let k := k + j
    let d := d0 + k % nd
    let u := pointOf (ldsRow c.ldsTab d) q (i0 + BitVec.ofNat 32 (k / nd) * st) d
    rd.write c k 4 false 0 (formOut (if rd.fmt = 9 then 0 else rd.fmt) u))

/-- The steps of QR.GEN. -/
def genSteps (rd : Region) (q : Word) (i0 st : BitVec 32) (d0 nd e : Nat) : Nat → Nat → Core → Core
  | 0, _, c => c
  | fuel + 1, k, c =>
    genSteps rd q i0 st d0 nd e fuel (k + e) (c.pushWrites (genElems rd q i0 st d0 nd c k (min e (rd.count - k)))).vStep

/-- R278: QR.GEN. (DEDUCED, assumption 35.) -/
def execQrGen (r d a b : BitVec 4) (s : State) : Host.Outcome State Fault Refusal :=
  .next (issueWith (fun _ => none) (.qrGen r d a b) (fun s =>
    let rd := regionOf (s.core.d.get d.toNat)
    let x := s.r5 b
    let d0 := bits x 7 0
    let nd := bits x 16 8
    if rd.count = 0 then .next (stepAfter s.unit s)
    else if bits x 63 17 ≠ 0 ∨ nd = 0 ∨ 256 < d0 + nd then .fault ⟨cQueue, 0, 0#64⟩
    else match checkRegion s.core rd true false 0 rd.count s.hyp with
      | some f => .fault f
      | none =>
        if rd.fmt ≠ 1 ∧ rd.fmt ≠ 2 ∧ rd.fmt ≠ 9 then .fault ⟨cBufacc, 0x81, rd.addr⟩
        else
          let s1 := vSend s
          if rd.noRoom s1.core then .blocked vSend 8
          else
            let e := if rd.full then 16 else 8
            let i := s.r5 a
            let c := genSteps rd s.core.qrseed (i.setWidth 32) (BitVec.ofNat 32 (bits i 63 32)) d0 nd e (stepsOf rd.count e) 0 s1.core
            .next (vDone s1 c 0#6)) s)

end Sys2Proof.Machine
end

