-- ==== Sys2Proof/Machine/Sample.lean ====
section
/-! DEFINITION. Sampling (R280–R295): slot records, the logit filter, kept sets and picks, the words SMP.*, their
performance and replies, and LOG.APPEND. -/
namespace Sys2Proof.Machine

/-! ### Slot records: R281 -/

/-- A little-endian field of a record. -/
def recNat (r : List Byte) (off n : Nat) : Nat := bytesToNat ((r.drop off).take n)

/-- A slot record's fields. -/
structure SlotRec where
  rowa : Nat
  rstr : Nat
  v : Nat
  temp : Nat
  topp : Nat
  topk : Nat
  nrows : Nat
  dim : Nat
  lfmt : Nat
  step0 : Nat
  ibase : Nat
  toka : Nat
  bara : Nat
  zero : Bool
  deriving DecidableEq, Repr, Inhabited

def slotRec (r : List Byte) : SlotRec :=
  ⟨recNat r 0 8, recNat r 8 4, recNat r 0xC 4, recNat r 0x10 4, recNat r 0x14 4, recNat r 0x18 1, recNat r 0x19 1, recNat r 0x1A 1,
   recNat r 0x1B 1, recNat r 0x1C 4, recNat r 0x20 4, recNat r 0x28 4, recNat r 0x2C 4, recNat r 0x24 4 == 0 && recNat r 0x30 16 == 0⟩

/-- Size of a logit. -/
def SlotRec.elem (r : SlotRec) : Nat := if r.lfmt = 1 then 4 else 2
/-- TEMP is ±0: greedy. -/
def SlotRec.greedy (r : SlotRec) : Bool := r.temp % 2 ^ 31 == 0

/-- An AB address that may be 0 for none. -/
def abField (a al n : Nat) : Bool := a == 0 || (a % al == 0 && bufSpace a == 1 && decide (bufOff a + n ≤ spaceSize 1))

/-- The ranges of R281. -/
def SlotRec.ok (r : SlotRec) : Bool :=
  decide (2 ^ 32 ≤ r.rowa ∧ r.rowa % 256 = 0 ∧ (r.lfmt = 1 ∨ r.lfmt = 2) ∧ r.rstr % 256 = 0 ∧ r.v * r.elem ≤ r.rstr
      ∧ 1 ≤ r.v ∧ r.v ≤ 2 ^ 24 ∧ 1 ≤ r.topk ∧ r.topk ≤ 64 ∧ 1 ≤ r.nrows ∧ r.nrows ≤ 8)
    && (r.greedy || decide (r.temp < 0x7F800000)) && decide (0 < r.topp ∧ r.topp ≤ 0x3F800000)
    && abField r.toka 8 8 && abField r.bara 16 16 && r.zero

/-! ### The logit filter: R284 -/

/-- A logit as a binary32 code. -/
def logitAt (r : SlotRec) (bs : List Byte) (i : Nat) : Nat :=
  if r.lfmt = 1 then recNat bs (4 * i) 4 else recNat bs (2 * i) 2 * 65536

/-- The index of the greatest entry, NaNs left out. -/
def topOf (l : List Nat) : Option Nat :=
  l.foldl (fun acc x => if (f32.decode x).isNaN then acc else match acc with
    | none => some x
    | some m => if (f32.decode m).ltNum (f32.decode x) then some x else some m) none

/-- Insert an index into a descending list; it stands after every entry that is not below it. -/
def insertDesc (x : Nat × Nat) : List (Nat × Nat) → List (Nat × Nat)
  | [] => [x]
  | y :: t => if (f32.decode y.2).ltNum (f32.decode x.2) then x :: y :: t else y :: insertDesc x t

/-- SL of R284: indices with their logits. -/
def shortlist (l : List Nat) : List (Nat × Nat) :=
  ((List.range l.length).zip l).foldl (fun acc x => if (f32.decode x.2).isNaN then acc else (insertDesc x acc).take 64) []

/-- 0x3FB8_AA3B and 0x3F31_7218. -/
def cLog2e : Nat := 0x3FB8AA3B
def cLn2 : Nat := 0x3F317218

/-- z of a logit. -/
def zOf (m invT l : Nat) : Nat :=
  if (f32.decode l).eqNum (f32.decode m) then 0 else (f32.mulC .rne (f32.subC .rne l m).1 invT).1
/-- e of a logit. -/
def eOf (m invT l : Nat) : Nat :=
  if (f32.decode l).isNaN then 0 else (SpFn.apply .exp2 (f32.mulC .rne (zOf m invT l) cLog2e).1).1

/-- The results of a row from its contents (R284). (DEDUCED, assumption 35.) -/
def rowResults (r : SlotRec) (bs : List Byte) : RowResult :=
  let l := (List.range r.v).map (logitAt r bs)
  let nanl := l.any (fun x => (f32.decode x).isNaN)
  match topOf l with
  | none => ⟨[], [], [], 0#32, List.replicate 4 0x7FC00000#32, nanl, true⟩
  | some m =>
    let invT := if r.greedy then 0x3F800000 else (f32.divC .rne 0x3F800000 r.temp).1
    let s := ((treeReduce (fun a b => f32.addC .rne a b) (· ||| ·) 25 (l.map (eOf m invT)) 0#6).1).getD 0
    let sl := shortlist l
    let ls := (f32.mulC .rne (SpFn.apply .log2 s).1 cLn2).1
    let b32 (n : Nat) : BitVec 32 := BitVec.ofNat 32 n
    ⟨sl.map (·.1), sl.map (fun x => b32 (eOf m invT x.2)), sl.map (fun x => b32 (zOf m invT x.2)), b32 s,
     (List.range 4).map (fun j => match sl[j]? with
       | some x => b32 (f32.subC .rne (zOf m invT x.2) ls).1
       | none => 0x7FC00000#32), nanl, false⟩

/-- Change a row of a slot of the core in focus. -/
def mapRow (slot row : Nat) (f : SmpSlot → LogitRow → LogitRow) (c : Core) : Core :=
  match c.smp.find? slot with
  | none => c
  | some sl => { c with smp := c.smp.put slot { sl with rows := sl.rows.modify row (f sl) } }

/-- The filter computes the results of a completed row. -/
def computeRow (sl : SmpSlot) (r : LogitRow) : LogitRow :=
  if r.complete && !r.fresh && r.pending.isNone then { r with pending := some (rowResults (slotRec sl.record) r.snap), snap := [] } else r

/-- The results reach the sampling unit. -/
def deliverRow (_ : SmpSlot) (r : LogitRow) : LogitRow :=
  match r.pending with
  | none => r
  | some x => { r with pending := none, last := some x, fresh := true }

/-- R283, R284: an armed row has completed, and the filter computes its results. -/
def execLogitRowComplete (lnum slot row : Nat) (s : State) : Host.Outcome State Fault Refusal :=
  .next (within lnum (fun s => s.mapCore (mapRow slot row computeRow)) s)

/-- R284: the results of a row reach the sampling unit. -/
def execLogitResultsDeliver (lnum slot row : Nat) (s : State) : Host.Outcome State Fault Refusal :=
  .next (within lnum (fun s => s.mapCore (mapRow slot row deliverRow)) s)

/-! ### Kept sets: R285 -/

/-- The kept entries of a row: identifiers, e, running sums; C is the last sum. -/
structure Kept where
  ids : List Nat
  e : List Nat
  c : List Nat
  total : Nat
  greedy : Bool
  deriving DecidableEq, Repr, Inhabited

/-- Running sums in binary32. -/
def runSums (acc : Nat) : List Nat → List Nat
  | [] => []
  | x :: t => let a := (f32.addC .rne acc x).1; a :: runSums a t
def serialSums : List Nat → List Nat
  | [] => []
  | x :: t => x :: runSums x t

/-- A binary32 code that is finite and not negative, in units of 2^−149. -/
def unitsOf (code : Nat) : Nat := match f32.decode code with
  | .fin _ m e => m * 2 ^ (e + 149).toNat
  | _ => 0

/-- R285: the kept set. -/
def keptOf (r : SlotRec) (x : RowResult) : Kept :=
  let k := min r.topk x.sl.length
  let e := (x.e.take k).map (·.toNat)
  let c := serialSums e
  let tp := (f32.mulC .rne r.topp x.s.toNat).1
  let n := match c.findIdx? (fun v => decide (unitsOf tp ≤ unitsOf v)) with
    | some j => j + 1
    | none => k
  ⟨x.sl.take n, e.take n, c.take n, (c.take n).getLastD 0, r.greedy⟩

/-- The entry at the first running sum above u × 2^−32 × total. -/
def firstAbove (ids c : List Nat) (u total : Nat) : Nat :=
  match c.findIdx? (fun v => decide (u * unitsOf total < unitsOf v * 2 ^ 32)) with
  | some j => ids.getD j 0
  | none => ids.getLastD 0

/-- pick(u). -/
def Kept.pick (k : Kept) (u : Nat) : Nat := if k.greedy then k.ids.headD 0 else firstAbove k.ids k.c u k.total

/-- e of a token in the kept set, 0 when it is not kept. -/
def Kept.eAt (k : Kept) (x : Nat) : Nat := match k.ids.findIdx? (· == x) with
  | some j => k.e.getD j 0
  | none => 0

/-- Accept of SMP.CHECK, compared exactly (R287). -/
def accepts (p q : Kept) (u x : Nat) : Bool :=
  let pe := unitsOf (p.eAt x)
  let qe := unitsOf (q.eAt x)
  if qe = 0 then decide (0 < pe) else decide (u * qe * unitsOf p.total < pe * unitsOf q.total * 2 ^ 32)

/-- The residual sums of SMP.RESID (R287). -/
def residuals (p q : Kept) : List Nat :=
  p.ids.map (fun x =>
    let a := (f32.divC .rne (p.eAt x) p.total).1
    let b := if q.eAt x = 0 then 0 else (f32.divC .rne (q.eAt x) q.total).1
    (f32.maxC (f32.subC .rne a b).1 0).1)

/-! ### Performing a word: R287, R288 -/

/-- What a word comes to: its reply bits, its results for the log, and the slot after it. -/
structure Drawn where
  reply : Nat
  result : SmpResult
  slot : SmpSlot
  deriving DecidableEq, Repr, Inhabited

/-- Reply bits. -/
def flLate : Nat := 2 ^ 63
def flEmpty : Nat := 2 ^ 62
def flNanl : Nat := 2 ^ 61
def flRet : Nat := 2 ^ 60
def flStop : Nat := 2 ^ 59
def flResid0 : Nat := 2 ^ 58
def flRef : Nat := 2 ^ 57
def flAcc : Nat := 2 ^ 56
def noToken : Nat := 0xFFFFFFFF

def replyOf (flags : Nat) (step : BitVec 32) (token : Nat) : Nat := flags + step.toNat % 2 ^ 24 * 2 ^ 32 + token

/-- The result of a word that read no row. -/
def noRow (reply kind : Nat) (step : BitVec 32) : SmpResult :=
  ⟨BitVec.ofNat 64 reply, kind, List.replicate 4 0x7FC00000#32, List.replicate 4 0xFFFFFFFF#32, step⟩

/-- A word that returns RET. -/
def drawRet (sl : SmpSlot) (kind : Nat) : Drawn :=
  let reply := replyOf flRet sl.step noToken
  let x := noRow reply kind sl.step
  ⟨reply, x, { sl with latest := some x }⟩

/-- The row re-armed by a commit. -/
def LogitRow.rearm (r : LogitRow) : LogitRow := { r with written := [], complete := false, late := false, fresh := false }

/-- A commit: the row `n` is consumed and STEP rises; a stop token retires the slot. -/
def SmpSlot.commit (sl : SmpSlot) (n : Nat) (stopped : Bool) : SmpSlot :=
  { sl with rows := sl.rows.modify n LogitRow.rearm, step := sl.step + 1, state := if stopped then 2 else sl.state }

/-- The uniform of a word from its snapshot (R286). -/
def SmpWord.uniform (w : SmpWord) (r : SlotRec) (step : BitVec 32) : Nat :=
  (pointOf (w.rows.getD w.kind []) w.seed (BitVec.ofNat 32 r.ibase + step) ((r.dim + w.kind) % 256)).toNat

/-- The token of a word on a row that is not EMPTY: token, flags, and whether it commits. -/
def SmpWord.choose (w : SmpWord) (p q : Kept) (u : Nat) : Nat × Nat × Bool :=
  match w.kind with
  | 0 => (p.pick u, 0, true)
  | 1 => let x := bits w.rb 31 0; if accepts p q u x then (x, flAcc, true) else (noToken, flRef, false)
  | _ =>
    let rs := serialSums (residuals p q)
    let total := rs.getLastD 0
    if unitsOf total = 0 then (p.pick u, flResid0, true) else (firstAbove p.ids rs u total, 0, true)

/-- A word on its completed row. -/
def SmpWord.onRow (w : SmpWord) (sl : SmpSlot) (n : Nat) (late : Bool) (x : RowResult) (q : Kept) : Drawn :=
  let r := slotRec sl.record
  let fl := (if late then flLate else 0) + (if x.empty then flEmpty else 0) + (if x.nanl then flNanl else 0)
  if x.empty then
    let commit := w.kind != 1
    let reply := replyOf (fl + (if commit then 0 else flRef)) sl.step noToken
    let res := noRow reply w.kind sl.step
    ⟨reply, res, { (if commit then sl.commit n false else sl) with latest := some res }⟩
  else
    let (token, f, commit) := w.choose (keptOf r x) q (w.uniform r sl.step)
    let stopped := commit && w.stop.any (fun t => t.toNat == token)
    let reply := replyOf (fl + f + (if stopped then flStop else 0)) sl.step token
    let res : SmpResult := ⟨BitVec.ofNat 64 reply, w.kind, x.lp, (List.range 4).map (fun j => match x.sl[j]? with
      | some i => BitVec.ofNat 32 i
      | none => 0xFFFFFFFF#32), sl.step⟩
    ⟨reply, res, { (if commit then sl.commit n stopped else sl) with latest := some res }⟩

/-- Target and draft slot of a word. -/
def SmpWord.target (w : SmpWord) : Nat := bits w.ra 5 0
def SmpWord.draft (w : SmpWord) : Nat := bits w.ra 13 8
def SmpWord.draftRow (w : SmpWord) : Nat := if w.kind = 1 then bits w.rb 34 32 else bits w.rb 2 0

/-- The last completed results of a row, once its latest completion has come back. -/
def LogitRow.results (r : LogitRow) : Option RowResult := if r.complete && !r.fresh then none else r.last

/-- What a pending word comes to, or none while it waits for a row (R287). -/
def Core.draw (c : Core) (w : SmpWord) : Option Drawn :=
  let sl := c.smp.get w.target
  if sl.state ≠ 1 then some (drawRet sl w.kind)
  else
    let n := sl.step.toNat % max 1 (slotRec sl.record).nrows
    match sl.rows[n]? with
    | none => none
    | some row =>
      if !(row.complete && row.fresh) then none
      else match row.last with
        | none => none
        | some x =>
          if w.kind = 0 then some (w.onRow sl n row.late x default)
          else
            let d := c.smp.get w.draft
            match (d.rows[w.draftRow]?).bind LogitRow.results with
            | none => none
            | some y => some (w.onRow sl n row.late x (keptOf (slotRec d.record) y))

/-- Fill the `i`-th reserved place of the RQ (R290). -/
def fillPlace (v : Word) : Nat → List RqEntry → List RqEntry
  | _, [] => []
  | i, e :: t => if e.val.isSome then e :: fillPlace v i t else match i with
    | 0 => { e with val := some v } :: t
    | i + 1 => e :: fillPlace v i t

/-- Actions 1 and 2 of R288: the reply goes to TOKA, and an arrival to BARA. A refused arrival is a fault of the sampling unit. -/
def replyWord (s : State) (w : SmpWord) (d : Drawn) : State × Option Raised :=
  let r := slotRec (s.core.smp.get w.target).record
  let s := if r.toka = 0 then s else s.mapCore (fun c => c.writeBuf 1 (bufOff r.toka) 8 d.reply)
  if r.bara = 0 then (s, none)
  else match barPhys s (.ab (bufOff r.bara)) 1 1#64 with
    | some (_, s) => (s, none)
    | none => (s, some { raisedByUnit .sampling 0#8 ⟨cQueue, 0, BitVec.ofNat 64 r.bara⟩ with word := w.word.setWidth 64 })

/-- Action 3 of R288: the `i`-th pending word fills its RQ place, and is over. -/
def endWord (s : State) (i : Nat) (w : SmpWord) (d : Drawn) : State :=
  s.mapCore (fun c => { c with
    smp := c.smp.put w.target d.slot, smpq := c.smpq.eraseIdx i, rq := { c.rq with items := fillPlace (BitVec.ofNat 64 d.reply) i c.rq.items } })

/-- R287: the sampling unit of the core in focus performs its oldest word, when it can; nothing is performed while the
core is stopped (R295). A word whose arrival is refused stays. (DESIGN CHOICE, assumption 35.) -/
def performSmp (s : State) : State :=
  match s.core.smpq with
  | [] => s
  | w :: _ =>
    if s.core.mode != .running then s
    else match s.core.draw w with
      | none => s
      | some d => match replyWord s w d with
        | (s, none) => endWord s 0 w d
        | (s, some r) => takeFault s r

/-- R287: the sampling unit performs a pending word. -/
def execSmpWordPerform (lnum : Nat) (s : State) : Host.Outcome State Fault Refusal := .next (within lnum performSmp s)

/-! ### The words: R289–R292 -/

def queueFlt : Flt := ⟨cQueue, 0, 0#64⟩

/-- The slot is configured. -/
def Core.slotSet (c : Core) (k : Nat) : Bool := (c.smp.get k).state != 0

/-- Issue a DRAW, CHECK or RESID: a place of the RQ is reserved and the snapshot taken (R286, R290). -/
def smpIssue (kind : Nat) (ra rb : Word) (s : State) : WordResult :=
  if rqDepth ≤ s.core.rq.items.length then .blocked id 5
  else
    let c := s.core
    let sl := c.smp.get (bits ra 5 0)
    let dim := (slotRec sl.record).dim
    let w : SmpWord := ⟨kind, c.curWord.get (sqIx .cc), ra, rb, c.qrseed, (List.range 3).map (fun k => ldsRow c.ldsTab ((dim + k) % 256)), sl.stop⟩
    .next (s.mapCore (fun c => { c with smpq := c.smpq ++ [w], rq := c.rq.push ⟨none, 0, 0#8⟩ }))

/-- R287: SMP.DRAW. -/
def execSmpDraw (r : BitVec 4) (a : BitVec 5) (s : State) : Host.Outcome State Fault Refusal :=
  .next (issue (.smpDraw r a) (fun s =>
    let ra := s.r5 a
    if bits ra 63 6 ≠ 0 ∨ !s.core.slotSet (bits ra 5 0) then .fault queueFlt else smpIssue 0 ra 0#64 s) s)

/-- The operands of a CHECK or RESID name two configured slots and a row of the draft slot. -/
def draftOk (s : State) (ra : Word) (row : Nat) : Bool :=
  bits ra 63 14 == 0 && bits ra 7 6 == 0 && s.core.slotSet (bits ra 5 0) && s.core.slotSet (bits ra 13 8)
    && decide (row < (slotRec (s.core.smp.get (bits ra 13 8)).record).nrows)

/-- R287: SMP.CHECK. -/
def execSmpCheck (r : BitVec 4) (a b : BitVec 5) (s : State) : Host.Outcome State Fault Refusal :=
  .next (issue (.smpCheck r a b) (fun s =>
    let rb := s.r5 b
    if bits rb 63 35 ≠ 0 ∨ !draftOk s (s.r5 a) (bits rb 34 32) then .fault queueFlt else smpIssue 1 (s.r5 a) rb s) s)

/-- R287: SMP.RESID. -/
def execSmpResid (r : BitVec 4) (a b : BitVec 5) (s : State) : Host.Outcome State Fault Refusal :=
  .next (issue (.smpResid r a b) (fun s =>
    let rb := s.r5 b
    if bits rb 63 3 ≠ 0 ∨ !draftOk s (s.r5 a) (bits rb 2 0) then .fault queueFlt else smpIssue 2 (s.r5 a) rb s) s)

/-- A block that a CC word reads: a buffer address by R131, any other by R133 (R291). -/
def ccBlock (s : State) (a : Word) (n align : Nat) : Except Flt (List Byte × State) :=
  if bits a 63 32 = 0 then
    match checkBuf s.core .cc a n align false 0#8 with
    | .error f => .error f
    | .ok () => .ok (s.core.bufBytes (bufSpace a.toNat) (bufOff a.toNat) n, s)
  else readVirt s s.hyp.toNat a n align

/-- The parts of a block that may lie on another device. -/
def blockOf (a : Word) (n : Nat) : List (Word × Nat) := if bits a 63 32 = 0 then [] else [(a, n)]

/-- R283: the physical segments of a row, each within a page, all within one stack of this device. -/
def rowSegs (s : State) (row : Word) (stack : Option Nat) : Nat → Word → Nat → Nat → Except Flt (List (Nat × Nat × Nat) × State)
  | 0, _, _, _ => .ok ([], s)
  | fuel + 1, va, n, o =>
    if n = 0 then .ok ([], s)
    else
      let k := min n (4096 - va.toNat % 4096)
      match blockPage s va 1 with
      | .error f => .error f
      | .ok (pa, s) =>
        if !s.isLocal pa || !(stack.all (fun x => x == paStack pa)) then .error ⟨cProt, 0x88, row⟩
        else match rowSegs s row (some (paStack pa)) fuel (va + BitVec.ofNat 64 k) (n - k) (o + k) with
          | .error f => .error f
          | .ok (l, s) => .ok ((pa, k, o) :: l, s)

/-- The rows of a slot, ready to be armed. -/
def slotRows (s : State) (r : SlotRec) : Nat → Nat → Except Flt (List LogitRow × State)
  | _, 0 => .ok ([], s)
  | k, n + 1 =>
    let va := BitVec.ofNat 64 (r.rowa + k * r.rstr)
    let len := r.v * r.elem
    match rowSegs s va none (len / 4096 + 2) va len 0 with
    | .error f => .error f
    | .ok (g, s) => match slotRows s r (k + 1) n with
      | .error f => .error f
      | .ok (l, s) => .ok ({ (default : LogitRow) with segs := g, bytes := len } :: l, s)

/-- Rows armed on the device for other slots than `slot` of the core in focus. -/
def State.otherRows (s : State) (slot : Nat) : List LogitRow :=
  (s.core.smp.filter (fun p => p.1 != slot)).flatMap (fun p => p.2.rows)
    ++ s.others.flatMap (fun p => p.2.smp.flatMap (fun q => q.2.rows))
    ++ s.saves.flatMap (fun x => x.core.smp.flatMap (fun q => q.2.rows))

/-- Two rows share a byte. -/
def rowsClash (a b : LogitRow) : Bool :=
  a.segs.any (fun x => b.segs.any (fun y => decide (x.1 < y.1 + y.2.1 ∧ y.1 < x.1 + x.2.1)))

/-- Step 1 of R291: the pending words of a slot complete at once with RET, in issue order; the faults of the arrivals that are
refused. (DESIGN CHOICE, assumption 35.) -/
def cancelWords (slot : Nat) : Nat → State → State × List Raised
  | 0, s => (s, [])
  | fuel + 1, s =>
    match s.core.smpq.findIdx? (fun w => w.target == slot) with
    | none => (s, [])
    | some i => match s.core.smpq[i]? with
      | none => (s, [])
      | some w =>
        let d := drawRet (s.core.smp.get slot) w.kind
        let (s, f) := replyWord s w d
        let (s, fs) := cancelWords slot fuel (endWord s i w d)
        (s, f.toList ++ fs)

/-- R291: SMP.CFG. It waits until every earlier access of the CC is performed. A refused arrival of step 1 stops the core when the
word has done the other steps. (DESIGN CHOICE, assumption 35.) -/
def execSmpCfg (r : BitVec 4) (a b : BitVec 5) (s : State) : Host.Outcome State Fault Refusal :=
  .next (issue (.smpCfg r a b) (fun s =>
    let va := s.r5 a
    let slot := (s.r5 b).toNat
    if 63 < slot then .fault queueFlt
    else if s.unitPending .cc then .busy id
    else withBlocks .busy (blockOf va 64) (fun s =>
      match ccBlock s va 64 64 with
      | .error f => .fault f
      | .ok (bs, s) =>
        let x := slotRec bs
        if !x.ok then .fault queueFlt
        else match slotRows s x 0 x.nrows with
          | .error f => .fault f
          | .ok (rows, s) =>
            if rows.any (fun p => (s.otherRows slot).any (rowsClash p)) then .fault queueFlt
            else
              let (s, fs) := cancelWords slot s.core.smpq.length s
              .raises (s.mapCore (fun c => { c with smp := c.smp.put slot ⟨1, bs, BitVec.ofNat 32 x.step0, [], none, rows⟩ })) fs) s) s)

/-- R292: SMP.STOP. -/
def execSmpStop (r : BitVec 4) (a b : BitVec 5) (s : State) : Host.Outcome State Fault Refusal :=
  .next (issue (.smpStop r a b) (fun s =>
    let va := s.r5 a
    let x := s.r5 b
    let slot := bits x 5 0
    let n := bits x 12 8
    if bits x 63 13 ≠ 0 ∨ bits x 7 6 ≠ 0 ∨ 16 < n ∨ !s.core.slotSet slot then .fault queueFlt
    else if s.unitPending .cc then .waits id
    else withBlocks .blocked (blockOf va (4 * n)) (fun s =>
      match ccBlock s va (4 * n) 4 with
      | .error f => .fault f
      | .ok (bs, s) => .next (s.mapCore (fun c => { c with
          smp := c.smp.put slot { c.smp.get slot with stop := (List.range n).map (fun k => BitVec.ofNat 32 (recNat bs (4 * k) 4)) } }))) s) s)

/-! ### LOG.APPEND: R293 -/

/-- Bytes 0x08 to 0x3F of a log record. -/
def logBytes (lnum slot : Nat) (x : SmpResult) : List Byte :=
  natToBytes 4 (x.reply.toNat % 2 ^ 32) ++ natToBytes 4 x.step.toNat ++ natToBytes 1 slot ++ natToBytes 1 (bits x.reply 63 56)
    ++ natToBytes 2 lnum ++ natToBytes 1 x.kind ++ natToBytes 3 0 ++ x.lp.flatMap (fun v => natToBytes 4 v.toNat)
    ++ x.sl.flatMap (fun v => natToBytes 4 v.toNat) ++ natToBytes 8 0

/-- Append a result to the ring at sys.logring. The step on a header of another device is taken at its home after the word has
issued, and the answer brings rd and goes on with the record: a fault of the header or of the record's page then comes after
issue. (DESIGN CHOICE, assumption 30.) -/
def logAppend (d : BitVec 5) (slot : Nat) (x : SmpResult) (s : State) : WordResult :=
  match checkMem s s.core.logring 64 3 with
  | .error f => .fault f
  | .ok (pa, leaf, s) =>
    let bs := logBytes s.lnum slot x
    let a := (s.access (.log bs) 64 d.toNat 0#64).withLeaf s.core.logring pa leaf
    if s.noRoom a then .blocked id 8
    else if !s.isLocal pa then .next (s.pushAccess a)
    else match s.memMark pa 64 with
      | some f => .fault f
      | none =>
        let (r, t) := logStep s pa
        match logRecord a bs r (t.mapCore (fun c => { c with cntSt := c.cntSt + 1 })) with
        | .error f => .fault f
        | .ok t => .next t

/-- R293: LOG.APPEND. -/
def execLogAppend (r : BitVec 4) (d a : BitVec 5) (s : State) : Host.Outcome State Fault Refusal :=
  .next (issue (.logAppend r d a) (fun s =>
    let ra := s.r5 a
    let slot := bits ra 5 0
    if bits ra 63 6 ≠ 0 ∨ !s.core.slotSet slot then .fault queueFlt
    else if s.hyp ≠ 0#8 then .fault ⟨cHypso, 0, 0#64⟩
    else if s.core.smpq.any (fun w => w.target == slot) then .blocked id 8
    else match (s.core.smp.get slot).latest with
      | none => .fault queueFlt
      | some x => if s.unitPending .cc then .waits id else logAppend d slot x s) s)

end Sys2Proof.Machine
end

