-- ==== Sys2Proof/Machine/Hyp.lean ====
section
/-! DEFINITION. The hypothesis words HYP.OPEN, HYP.ENTER, HYP.OK, HYP.NO and HYP.QUERY (R308–R315), the orphan trap (R305)
and the freeing of identifiers (R306). -/
namespace Sys2Proof.Machine

/-- The entry of an identifier as a context of a tenant sees it; none for a free identifier and for another tenant's
(R296). -/
def State.hypOf (s : State) (h : Nat) : Option Hyp :=
  let e := s.hyps.get h
  if e.state = 0 ∨ e.tenant ≠ s.core.tenant then none else some e

/-- The identifier is open for the tenant of the core in focus. -/
def State.hypOpen (s : State) (h : Nat) : Bool := match s.hypOf h with
  | some e => e.state == 1
  | none => false

/-- Depth of a hypothesis; 0 for the root. -/
def State.depthOf (s : State) (h : Nat) : Nat := if h = 0 then 0 else (s.hyps.get h).depth

/-- The lowest free identifier. -/
def State.freeId (s : State) : Option Nat := ((List.range 255).map (· + 1)).find? (fun h => (s.hyps.get h).state == 0)

/-- HOPEN is below the effective HYPS at the RCB and at every ancestor (R310, R318). -/
def hypQuotaOk (s : State) (x : Context) : Bool := x.chain.all (fun p => decide (hopenAt s x.tenant p.1 < p.2.2))

/-- A context without fields, for a core that has none. -/
def Core.context (c : Core) : Context := c.ctx.getD default

/-- R310: HYP.OPEN. -/
def execHypOpen (r : BitVec 4) (d a : BitVec 5) (s : State) : Host.Outcome State Fault Refusal :=
  .next (issue (.hypOpen r d a) (fun s =>
    let p := (s.r5 a).toNat
    let x := s.core.context
    if 255 < p then .fault queueFlt
    else if p ≠ 0 ∧ !s.hypOpen p then .fault queueFlt
    else if s.depthOf p = 3 then .fault ⟨cHypfull, 3, 0#64⟩
    else if !hypQuotaOk s x then .fault ⟨cHypfull, 2, 0#64⟩
    else match s.freeId with
      | none => .fault ⟨cHypfull, 1, 0#64⟩
      | some h =>
        let e : Hyp := ⟨1, BitVec.ofNat 8 p, s.depthOf p + 1, x.tenant, x.spill, x.spillN, x.chain.map (·.1), 0#8, 0#8⟩
        let s := addHopen s x (· + 1)
        .next ({ s with hyps := s.hyps.set h e }.w5 d (BitVec.ofNat 64 h))) s)

/-- R311: HYP.ENTER. -/
def execHypEnter (r : BitVec 4) (a : BitVec 5) (s : State) : Host.Outcome State Fault Refusal :=
  .next (issue (.hypEnter r a) (fun s =>
    let h := (s.r5 a).toNat
    if 255 < h ∨ (h ≠ 0 ∧ (s.hypOf h).isNone) then .fault queueFlt
    else
      let id := BitVec.ofNat 8 h
      .next (s.mapCore (fun c => { c with
        hyp := id, hypDepth := BitVec.ofNat 2 (s.depthOf h),
        orphan := if h ≠ 0 ∧ (s.hyps.get h).state = 2 then some ⟨(s.hyps.get h).top, (s.hyps.get h).up, id⟩ else c.orphan }))) s)

/-- A merge of version `v` into a non-root parent would find the spill area full (R303). -/
def mergeOverflows (s : State) (p : BitVec 8) (v : Version) : Bool :=
  p != 0#8 && (findVer s v.line p.toNat).isNone
    && (match makeRoom (takeVer s v) v.line with
      | .ok _ => false
      | .error _ => true)

/-- Some merge of a confirmation finds the spill area full. -/
def confirmOverflows (s : State) (h : BitVec 8) : Bool :=
  let p := (s.hyps.get h.toNat).parent
  ((s.versNow.filter (fun v => v.hyp == h)).foldl (fun (acc : State × Bool) v =>
    (mergeVer acc.1 p v, acc.2 || mergeOverflows acc.1 p v)) (s, false)).2

/-- R312: HYP.OK. It carries a release: the CC's earlier accesses are performed first. (DEDUCED, assumption 39.) -/
def execHypOk (r : BitVec 4) (d a : BitVec 5) (s : State) : Host.Outcome State Fault Refusal :=
  .next (issue (.hypOk r d a) (fun s =>
    let h := (s.r5 a).toNat
    if 255 < h ∨ h = 0 then .fault queueFlt
    else if s.unitPending .cc then .busy id
    else if !s.hypOpen h then .next (s.w5 d 0#64)
    else
      let t := (confirmHyp s (BitVec.ofNat 8 h)).w5 d 1#64
      if confirmOverflows s (BitVec.ofNat 8 h) then .trapped t ⟨cHypfull, 0, 0#64⟩ else .next t) s)

/-- R313: HYP.NO, ordered for the CC as a fence. -/
def execHypNo (r : BitVec 4) (d a : BitVec 5) (s : State) : Host.Outcome State Fault Refusal :=
  .next (issue (.hypNo r d a) (fun s =>
    let h := (s.r5 a).toNat
    if 255 < h ∨ h = 0 then .fault queueFlt
    else if s.unitPending .cc then .busy id
    else if !s.hypOpen h then .next (s.w5 d 0#64)
    else .next ((refuteHyp s (BitVec.ofNat 8 h)).w5 d 1#64)) s)

/-- The word of HYP.QUERY: R314. -/
def State.hypWord (s : State) (h : Nat) : Nat :=
  if h = 0 then 1
  else match s.hypOf h with
    | none => 0
    | some e =>
      e.state + e.depth * 4 + e.parent.toNat * 256
        + ((s.hyps.filter (fun q => q.2.state == 1 && q.2.parent.toNat == h)).length % 256) * 65536

/-- R314: HYP.QUERY. -/
def execHypQuery (r : BitVec 4) (d a : BitVec 5) (s : State) : Host.Outcome State Fault Refusal :=
  .next (issue (.hypQuery r d a) (fun s =>
    let h := (s.r5 a).toNat
    if 255 < h then .fault queueFlt else .next (s.w5 d (BitVec.ofNat 64 (s.hypWord h)))) s)

/-- R305: the core takes F.ORPHAN at its CC's boundary. (DEDUCED, assumption 40.) -/
def execOrphanTrap (lnum : Nat) (s : State) : Host.Outcome State Fault Refusal := .next (within lnum takeOrphan s)

/-- R306: a draining identifier to which nothing refers becomes free. -/
def execHypIdFree (h : Nat) (s : State) : Host.Outcome State Fault Refusal :=
  if (s.hyps.get h).state = 2 ∧ !s.refers (BitVec.ofNat 8 h) then .next (freeHyp s h) else .next s

end Sys2Proof.Machine
end

