-- ==== Sys2Proof/Machine/Task.lean ====
section
/-! DEFINITION. Task words and pre-emption (R325–R334): TASK.ENQ, TASK.DONE, TASK.YIELD, CKPT, dispatch, requests and the
Squall. -/
namespace Sys2Proof.Machine

/-- The RCB at an address and its ancestors, as far as they have been fetched and one beyond. -/
def rcbBlocks (s : State) : Nat → Word → List (Word × Nat)
  | 0, _ => []
  | fuel + 1, a =>
    if a.toNat % 256 ≠ 0 then []
    else if !(unfetched s [(a, 256)]).isEmpty then [(a, 256)]
    else
      let p := BitVec.ofNat 64 (peekAs s s.core.tenant a 8)
      (a, 256) :: (if p = 0#64 then [] else rcbBlocks s fuel p)

/-- The blocks of a task record and its chain, as far as they have been fetched and one beyond (R317, R319). -/
def recordBlocks (s : State) (task : Word) : List (Word × Nat) :=
  if task.toNat % 64 ≠ 0 then []
  else if !(unfetched s [(task, 64)]).isEmpty then [(task, 64)]
  else (task, 64) :: rcbBlocks s 8 (BitVec.ofNat 64 (peekAs s s.core.tenant task 8))

/-- R326: TASK.ENQ. A record and its chain in another device's memory are fetched first (R319). The word reads the record after the CC's earlier
accesses (R135), which its enqueue, a release, needs performed too. -/
def execTaskEnq (r : BitVec 4) (a b : BitVec 5) (s : State) : Host.Outcome State Fault Refusal :=
  .next (issue (.taskEnq r a b) (fun s =>
    let task := s.r5 a
    let d := s.r5 b
    let die := if bits d 2 0 = 7 then dieOf s.lnum else bits d 2 0
    match checkMem s task 64 3 with
    | .error f => .fault f
    | .ok _ =>
      if bits d 63 3 ≠ 0 ∨ 3 < die then .fault queueFlt
      else if s.unitPending .cc then .waits id
      else match unfetched s (recordBlocks s task) with
        | p :: ps => .busy (askParts (p :: ps))
        | [] => match enqCheck s s.core.tenant true task with
          | .error f => .fault f
          | .ok (x, entry, t) => if poolFull t die then .blocked id 8 else .next (enqueue t die x entry)) s)

/-! ### TASK.DONE: R327 -/

/-- Every engine is idle and complete, and no access, copy or tile command is outstanding (R121, R327, R330). -/
def State.quiet (s : State) : Bool :=
  !engines.any (fun u => s.engBusy u) && s.core.cntLd == 0 && s.core.cntSt == 0 && s.core.cntCp == 0 && s.core.cntTl == 0

/-- A successor that cannot be released fails, and the fault domain is told. -/
def failSuccessor (s : State) (x : Context) (succ : Word) : State :=
  report (setTaskState s x.tenant succ 5)
    (recordOf { x with task := succ } 0#64 (causeWord cQueue 0 0 s.lnum 0 false false false false) s.gtc)

/-- How far the release of a successor is: done; its memory is asked for at its home, or updated there; or the pool is
full. -/
inductive Release where
  | done (s : State)
  | ask (s : State)
  | full (s : State)
  deriving DecidableEq, Repr

/-- One predecessor less, by an indivisible update at the home of PRED: the value before, or the update that is awaited (R319,
R327). What has been fetched of the record is read anew after it. -/
def decrement (s : State) (x : Context) (succ : Word) : Nat × State ⊕ State :=
  let va := at' succ tkPred
  match translate s x.tenant va 3 with
  | .error _ => .inl (0, s)
  | .ok (pa, leaf, t) =>
    if s.isLocal pa then
      let n := t.readPhys pa 4
      .inl (n, t.writePhysLE pa 4 (n + 2 ^ 32 - 1))
    else .inr ((t.mapCore (fun c => { c with bulk := [] })).pushAccess ((s.access .pred 4 0 0#64).withLeaf va pa leaf))

/-- A successor whose last predecessor is done and that passes its checks goes to the pool, where there is a place (R327). -/
def placeSuccessor (s : State) (y : Context) (entry : Word) : Release :=
  if poolFull s (dieOf s.lnum) then .full (s.mapCore (fun c => { c with succWait := some (y, entry) }))
  else .done ((enqueue s (dieOf s.lnum) y entry).mapCore (fun c => { c with succWait := none }))

/-- The last predecessor of a successor is done: it goes to the pool where it passes its checks (R327). -/
def freedSuccessor (s : State) (x : Context) (succ : Word) : Release :=
  match enqCheck s x.tenant true succ with
  | .error _ => .done (failSuccessor s x succ)
  | .ok (y, entry, s) => placeSuccessor s y entry

/-- Release one successor of the task of the core in focus, whose memory is at hand (R327). -/
def releaseSuccessor (s : State) (x : Context) (succ : Word) : Release :=
  let rcb := BitVec.ofNat 64 (peekAs s x.tenant succ 8)
  if peekAs s x.tenant (at' rcb 8) 2 ≠ x.tenant then .done (failSuccessor s x succ)
  else if peekAs s x.tenant (at' succ tkPred) 4 = 0 ∨ peekAs s x.tenant (at' succ tkState) 1 ≠ 0 then .done (failSuccessor s x succ)
  else match decrement s x succ with
    | .inr s => .ask s
    | .inl (n, s) => if n ≠ 1 then .done s else freedSuccessor s x succ

/-- Release successor `k` of the list (R327). -/
def releaseAt (s : State) (x : Context) (list : Word) (k : Nat) : Release :=
  match s.core.succWait with
  | some (y, entry) => placeSuccessor s y entry
  | none =>
    let place := at' list (8 * k)
    let succ := BitVec.ofNat 64 (peekAs s x.tenant place 8)
    let blocks := (place, 8) :: (if (unfetched s [(place, 8)]).isEmpty then recordBlocks s succ else [])
    if s.core.succPred.any (· != 1) then .done s
    else match unfetched s blocks with
    | p :: ps => .ask (askParts (p :: ps) s)
    | [] => if s.core.succPred.isSome then freedSuccessor s x succ else releaseSuccessor s x succ

/-- Release `n` successors from number `k` on; the number of those that are released stands in the core. -/
def releaseFrom (x : Context) (list : Word) : Nat → Nat → State → Release
  | 0, _, s => .done s
  | n + 1, k, s =>
    match releaseAt s x list k with
    | .done s => releaseFrom x list n (k + 1) (s.mapCore (fun c => { c with succDone := k + 1, succPred := none, bulk := [] }))
    | r => r

/-- The release of the remaining successors of a task: its record is read first. -/
def releaseAll (x : Context) (s : State) : Except Flt Release :=
  match unfetched s [(x.task, 64)] with
  | p :: ps => .ok (.ask (askParts (p :: ps) s))
  | [] => match readAs s x.tenant x.task 64 64 with
    | .error f => .error f
    | .ok (b, s) => .ok (releaseFrom x (BitVec.ofNat 64 (blockField b 0x38 8)) (blockField b 0x34 1 - s.core.succDone) s.core.succDone s)

/-- The core that a finished task leaves: free, its logit rows disarmed and its SRF slots free (R327); the next dispatch does
the rest (R25, R424). -/
def Core.released (c : Core) (tenant : Nat) : Core :=
  { c with mode := .halted, ctx := none, lastTenant := some tenant, preempt := none, succDone := 0, succPred := none, succWait := none, slots := [],
           smp := c.smp.map (fun p => (p.1, { p.2 with rows := [] })) }

/-- The end of the task of the core in focus. -/
def finishTask (s : State) (x : Context) : State :=
  let s := endRuns (setTaskState (addRun (releaseBlock (endPull s) x) x (· - 1)) x.tenant x.task 4) x
  (dropKept s x).mapCore (fun c => c.released x.tenant)

/-- What the state of a release is in the cycle that ends with it. -/
def Release.state (r : Release) : State :=
  match r with
  | .done s => s
  | .ask s => s
  | .full s => s

/-- R327: TASK.DONE. -/
def execTaskDone (r : BitVec 4) (a : BitVec 5) (s : State) : Host.Outcome State Fault Refusal :=
  .next (issue (.taskDone r a) (fun s =>
    let x := s.core.context
    let go (s : State) : State := ((releaseAll x s).map Release.state).toOption.getD s
    if s.r5 a ≠ s.core.task ∨ s.hyp ≠ 0#8 then .fault queueFlt
    else if s.core.pend.any (fun a => a.kind == .pred) then .waits id
    else if !s.quiet || !s.core.smpq.isEmpty || s.unitPending .cc then .blocked id 7
    else match releaseAll x s with
      | .error f => .fault f
      | .ok (.done t) => .ok (finishTask t x) .pending
      | .ok (.ask _) => .waits go
      | .ok (.full _) => .waits go) s)

/-! ### Live-range tables: R329 -/

/-- An entry of a live-range table: its base, its length, its reserved bytes. -/
def liveEntry (b : List Byte) (k : Nat) : Nat × Nat × Nat :=
  (blockField b (8 + 16 * k) 8, blockField b (16 + 16 * k) 4, blockField b (20 + 16 * k) 4)

/-- The entry names a buffer, and not memory. -/
def liveInBuf (e : Nat × Nat × Nat) : Bool := decide (e.1 < 2 ^ 32)

/-- The checks on the entries. -/
def liveFault (es : List (Nat × Nat × Nat)) : Option Flt :=
  let bs := es.filter liveInBuf
  let range (e : Nat × Nat × Nat) : Option Flt :=
    if 2 < bufSpace e.1 then some ⟨cBufacc, 0x82, BitVec.ofNat 64 e.1⟩
    else if spaceSize (bufSpace e.1) < bufOff e.1 + e.2.1 then some ⟨cBufacc, 0x83, BitVec.ofNat 64 e.1⟩
    else none
  if es.any (fun e => e.2.2 ≠ 0) then some queueFlt
  else match bs.findSome? range with
    | some f => some f
    | none => bs.findSome? (fun e => if e.1 % 32 ≠ 0 ∨ e.2.1 % 32 ≠ 0 then some ⟨cAlign, 0, BitVec.ofNat 64 e.1⟩ else none)

/-- The blocks of a table in memory, as far as its header has been fetched. -/
def tableBlocks (s : State) (va : Word) : List (Word × Nat) :=
  if bits va 63 32 = 0 ∨ va.toNat % 8 ≠ 0 then []
  else if !(unfetched s [(va, 8)]).isEmpty then [(va, 8)]
  else [(va, 8 + 16 * min 64 (peekAs s s.core.tenant va 4))]

/-- The buffer ranges that a table names: every byte of the table is checked before its fields are. A count above 64 stands for
64 entries there. (DEDUCED, assumption 36.) -/
def liveTable (s : State) (va : Word) : Except Flt (List (Nat × Nat × Nat) × State) :=
  match ccBlock s va 8 8 with
  | .error f => .error f
  | .ok (h, s) =>
    let n := blockField h 0 4
    match ccBlock s va (8 + 16 * min n 64) 8 with
    | .error f => .error f
    | .ok (b, s) =>
      let es := (List.range n).map (liveEntry b)
      if 64 < n ∨ blockField h 4 4 ≠ 0 then .error queueFlt
      else match liveFault es with
        | some f => .error f
        | none => .ok ((es.filter liveInBuf).map (fun e => (bufSpace e.1, bufOff e.1, e.2.1)), s)

/-! ### CKPT and TASK.YIELD: R328, R330 -/

/-- A save of KEEP with no request: the task goes on, and the save is its last checkpoint (R330). -/
def keepSave (s : State) (ranges : List (Nat × Nat × Nat)) : State :=
  match s.core.ctx with
  | none => s
  | some x =>
    match writeBlock (endPull s) ranges with
    | .error (u, f) => failSave s u f
    | .ok s => { s with kept := (s.kept.filter (fun v => v.task != x.task)) ++ [⟨x.task, s.lnum, s.core, [], ranges⟩] }

/-- A word that fences and may then save. It reads its table after the CC's earlier accesses (R132, R135). `save` says whether the context leaves the core, `keep` whether a save is
made without that. -/
def ckptWord (i : Instr) (a : BitVec 5) (save keep : State → Bool) (s : State) : Host.Outcome State Fault Refusal :=
  .next (issue i (fun s =>
    let va := s.r5 a
    let body (s : State) : WordResult :=
      match (if a = 0#5 then .ok ([], s) else liveTable s va) with
      | .error f => .fault f
      | .ok (ranges, s) =>
        if !s.quiet || ((save s || keep s) && !s.core.inboxLanded) then .blocked id 7
        else if save s then .done (saveContext (retire i s .next s) ranges)
        else if keep s then .done (keepSave (retire i s .next s) ranges)
        else .next s
    if s.unitPending .cc then .blocked id 7
    else if a = 0#5 then body s else withBlocks .blocked (tableBlocks s va) body s) s)

/-- A pre-emption request stands for the core. -/
def Core.asked (c : Core) : Bool := c.preempt.isSome

/-- R330: CKPT. (DEDUCED, assumption 36.) -/
def execCkpt (r : BitVec 4) (a : BitVec 5) (s : State) : Host.Outcome State Fault Refusal :=
  ckptWord (.ckpt r a) a (fun s => s.core.asked) (fun s => s.core.context.keep) s

/-- The pool holds an eligible task of equal or higher priority that could use this core. -/
def State.yieldsTo (s : State) : Bool :=
  (s.pools.get (dieOf s.lnum)).any (fun p => s.entryEligible p && decide (s.core.context.prio ≤ p.ctx.prio)
    && (match p.bound with
      | none => true
      | some n => n == s.lnum) && s.coreUsable s.lnum)

/-- R328: TASK.YIELD. (DEDUCED, assumption 36.) -/
def execTaskYield (r : BitVec 4) (a : BitVec 5) (s : State) : Host.Outcome State Fault Refusal :=
  ckptWord (.taskYield r a) a (fun s => s.core.asked || s.yieldsTo) (fun _ => false) s

/-! ### Events: R321, R331, R332 -/

/-- R321: the ready pool of a die dispatches, after the boot (R403). (DESIGN CHOICE, assumption 1.) -/
def execTaskDispatch (die : Nat) (s : State) : Host.Outcome State Fault Refusal := .next (s.byHost (dispatch s die))

/-- R331: the pool of a die asks its victim, or the region manager asks a core, to give up its task. -/
def execPreemptRequest (die : Nat) (victim : Option Nat) (s : State) : Host.Outcome State Fault Refusal :=
  match (match victim with
    | some v => some v
    | none => s.poolVictim die) with
  | some v => .next (within v requestPreempt s)
  | none => .next s

/-- The deadline of a request: a forced save of the core in focus begins; a held context is saved at once (R332, R334,
R347). -/
def squallNow (s : State) : State :=
  if !s.preemptDue || s.core.underway then s
  else match s.core.mode with
    | .running => finishSquall (beginSquall s)
    | .held => squallHeld s
    | _ => s

/-- R332: a Squall. -/
def execSquall (lnum : Nat) (s : State) : Host.Outcome State Fault Refusal := .next (within lnum squallNow s)

/-- R332: the last write of a Squall is performed. -/
def execSquallSaveComplete (lnum : Nat) (s : State) : Host.Outcome State Fault Refusal :=
  .next (within lnum (fun s => if s.core.mode == .saving then finishSquall (settle s) else s) s)

end Sys2Proof.Machine
end

