-- ==== Sys2Proof/Machine/Runs.lean ====
section
/-! DEFINITION. Runs of a collective (R374, R376–R378): the fields of a record, counters and the queueing of records, and how a record or
a PUT ends once its bytes are visible. -/
namespace Sys2Proof.Machine

/-- The fields of a record (R374). -/
def recField (r : List Byte) (o n : Nat) : Nat := blockField r o n
def recCtl (r : List Byte) (hi lo : Nat) : Nat := nbits (recField r 0 4) hi lo
def recKind (r : List Byte) : Nat := recCtl r 2 0
def recWen (r : List Byte) : Bool := recCtl r 3 3 == 1
def recWait (r : List Byte) : Nat := recCtl r 9 4
def recDen (r : List Byte) : Bool := recCtl r 10 10 == 1
def recDone (r : List Byte) : Nat := recCtl r 16 11
def recLoce (r : List Byte) : Bool := recCtl r 17 17 == 1
def recSrcb (r : List Byte) : Nat := recCtl r 20 18
def recDstb (r : List Byte) : Nat := recCtl r 23 21
def recThr (r : List Byte) : Nat := recField r 4 4
def recRank (r : List Byte) : Nat := recField r 8 2
def recPeer (r : List Byte) : Nat := recField r 0x0A 2
def recNel (r : List Byte) : Nat := recField r 0x14 4
def recSoff (r : List Byte) : Nat := recField r 0x18 8
def recDoff (r : List Byte) : Nat := recField r 0x20 8

/-! ### Counters and queueing: R376 -/

/-- Queue the next record of the run's own rank from index `k` on, and test it. -/
def CollRun.queueFrom (r : CollRun) (k : Nat) : CollRun :=
  match ((List.range r.records.length).drop k).find? (fun i => recRank (r.records.getD i []) == r.rank) with
  | none => { r with queued := none, met := false }
  | some i =>
    let x := r.records.getD i []
    { r with queued := some i, met := !recWen x || decide (recThr x ≤ (r.counters.get (recWait x)).toNat) }

/-- Add to a counter, modulo 2^32; the queued record's condition may be met by it. -/
def CollRun.count (r : CollRun) (c : Nat) (n : BitVec 32) : CollRun :=
  let r := { r with counters := r.counters.set c (r.counters.get c + n) }
  match r.queued with
  | none => r
  | some i =>
    let x := r.records.getD i []
    if recWait x = c ∧ recThr x ≤ (r.counters.get c).toNat then { r with met := true } else r

/-- Run `n` of the list. -/
def State.run? (s : State) (n : Nat) : Option CollRun := s.colls[n]?

/-- Replace run `n`, and settle what is over. -/
def putRun (s : State) (n : Nat) (r : CollRun) : State := mapRuns { s with colls := s.colls.set n r } id

/-! ### Where a record ends: R377 -/

/-- The source of a run's packets: its own context, wherever that is now (R372, R379). -/
def CollRun.source (r : CollRun) : Source := ⟨r.lnum, .cc, r.ctx.task, r.ctx.tenant, 0#64⟩

/-- The run of a handle in a generation, of the context that sent a packet. -/
def State.runOf (s : State) (w : Waiting) (handle gen : Nat) : Option Nat :=
  s.colls.findIdx? (fun r => r.lnum == w.pkt.srcLnum && r.ctx.task == w.task && r.ctx.tenant == w.pkt.tenant && r.handle == handle
    && r.generation.toNat == gen)

/-- Packets of the same record, or of the same PUT, are not answered yet. -/
def State.alike (s : State) (w : Waiting) : Bool :=
  s.waiting.any (fun v => v.kind == w.kind && v.task == w.task && v.pkt.srcLnum == w.pkt.srcLnum)

/-- A local record is complete: its counter rises. -/
def endRecord (s : State) (n k : Nat) (r : CollRun) : State :=
  let x := r.records.getD k []
  let r := { r with fired := r.fired.erase k, bulk := r.bulk.filter (fun b => b.1 != k) }
  putRun s n (if recDen x then r.count (recDone x) 1#32 else r)

/-- The answer to a PUT whose handle is not running its generation: the spec gives it no number. (DESIGN CHOICE, assumption 29.) -/
def notRunning : Nat := 9

/-- Answer a PUT, at the port (R364, R378, R380). -/
def answerPut (s : State) (p : PutPacket) (cause : Nat) : State :=
  { s with responses := s.responses ++ [(p.srcDev, p.id, cause, [])] }

/-- The sender's run of a PUT that this device sent. -/
def putSender (s : State) (p : PutPacket) : Option Nat :=
  s.colls.findIdx? (fun r => r.lnum == p.srcLnum && r.ctx.tenant == p.tenant && r.handle == p.handle && r.rank == p.srcRank
    && r.generation.toNat == p.generation)

/-- Mark a refusal at the sender on this device. -/
def markRefused (s : State) (p : PutPacket) : State :=
  match putSender s p with
  | none => s
  | some n => match s.run? n with
    | none => s
    | some r =>
      let first := ((r.refused.find? (fun q => q.1 == p.record)).map (·.2.1)).getD s.gtc
      { s with colls := s.colls.set n { r with refused := (p.record, first, s.gtc) :: r.refused.filter (fun q => q.1 != p.record) } }

/-- The run that a PUT names at its receiver: the same handle, running the same generation (R378). -/
def putTarget (s : State) (p : PutPacket) : Option Nat :=
  s.colls.findIdx? (fun r => r.running && r.lnum == p.dstLnum && r.ctx.tenant == p.tenant && r.handle == p.handle
    && r.generation.toNat == p.generation && r.rank == p.dstRank)

/-- The sender's record is complete. -/
def putDone (s : State) (p : PutPacket) : State :=
  match putSender s p with
  | none => s
  | some n => match s.run? n with
    | none => s
    | some r => putRun s n { r with fired := r.fired.erase p.record, refused := r.refused.filter (fun q => q.1 != p.record) }

/-- A PUT is over for its sender: the record here, or an answer. -/
def putOver (p : PutPacket) (s : State) : State := if p.srcDev = s.dev.toNat then putDone s p else answerPut s p 0

/-- A PUT's elements are visible: its counter rises (R377). -/
def putVisible (p : PutPacket) (s : State) : State :=
  putOver p (match p.counter, putTarget s p with
    | some c, some n => match s.run? n with
      | some r => putRun s n (r.count c 1#32)
      | none => s
    | _, _ => s)

/-- The last part of a record or of a PUT has been written. -/
def collWritten (w : Waiting) (s : State) : State :=
  if s.alike w then s
  else match w.kind with
    | .collWrite h g k => match s.runOf w h g with
      | some n => match s.run? n with
        | some r => if r.fired.contains k then endRecord s n k r else s
        | none => s
      | none => s
    | .collLand p => putVisible p s
    | _ => s

/-- A packet of a run has failed: its record fails, or the run that a PUT came to aborts (R380). -/
def collFailed (w : Waiting) (cause : Nat) (s : State) : State :=
  let code := if cause ≤ 5 then 3 else 4
  let step := if cause ≤ 5 then cause else 0
  let record (h g k : Nat) : State := match s.runOf w h g with
    | some n => match s.run? n with
      | some r => if r.fired.contains k then failRecord s n { r with bulk := r.bulk.filter (fun b => b.1 != k) } k code step else s
      | none => s
    | none => s
  match w.kind with
  | .collRead h g k => record h g k
  | .collWrite h g k => record h g k
  | .collLand p => putOver p (match putTarget s p with
    | some n => match s.run? n with
      | some r => abortFrom s r code step
      | none => s
    | none => s)
  | _ => s

end Sys2Proof.Machine
end

