-- ==== Sys2Proof/Machine/Remote.lean ====
section
/-! DEFINITION. Remote access (R359–R371): what a receiving port checks and performs, the answers that come back to the
sender, the chain of an STC, and the two words STC and WIN.DRAIN. -/
namespace Sys2Proof.Machine

/-! ### Buffer kinds of requests -/

/-- The request is buffer traffic (R363). -/
def reqIsBuf (r : Request) : Bool :=
  match r with
  | .winWrite .. => true
  | .winBytes .. => true
  | .winRead .. => true
  | .arrive .. => true
  | .stc .. => true
  | .carry .. => true
  | .part c _ => c
  | _ => false

/-- The bits of a key entry that a request needs, counted from bit 123: BUF 1, AT 2, WR 4, RD 8 (R363, R364 step 3). A
barrier word on memory and a log append are atomics. (DEDUCED, assumption 16.) -/
def reqNeeds (r : Request) : Nat :=
  match r with
  | .memRead .. => 8
  | .memWrite .. => 4
  | .memRed .. => 2
  | .memAmo .. => 2
  | .memBar .. => 2
  | .memLog _ => 2
  | .winRead .. => 9
  | .part false _ => 4
  | .put _ => 4
  | _ => 5

/-- The key entry's fields (R363). -/
def keyBase (k : BitVec 128) : Nat := nbits k.toNat 107 78
def keyLimit (k : BitVec 128) : Nat := nbits k.toNat 77 48
def keyTenant (k : BitVec 128) : Nat := nbits k.toNat 119 108

/-- Steps 1 to 4 of R364: the cause of a refusal. -/
def keyCheck (k : BitVec 128) (p : Packet) : Option Nat :=
  if !k.getLsbD 127 then some 1
  else if keyTenant k ≠ p.tenant then some 2
  else if (nbits k.toNat 126 123) &&& reqNeeds p.req ≠ reqNeeds p.req then some 3
  else match reqRange p.req with
    | none => none
    | some (pa, n) =>
      let first := pa % 2 ^ 42 / 4096
      let last := (pa % 2 ^ 42 + n - 1) / 4096
      if 2 ^ 41 ≤ pa % 2 ^ 42 ∨ first < keyBase k ∨ keyLimit k < last then some 4 else none

/-- The key entry that a port holds at an index. -/
def State.keyAt (s : State) (port index : Nat) : BitVec 128 := s.keys.get (port * 4096 + index)

/-! ### Answers -/

/-- The peer of an STC that a packet is for, as a cause carries it: 16 × k (R365). -/
def hopOf (p : Packet) : Nat := match p.req with
  | .stc _ _ _ _ _ k => 16 * k
  | _ => 0

/-- An answer is there: 0 or a cause, with 16 × the STC peer (R365). -/
def reply (s : State) (p : Packet) (cause : Nat) (data : List Byte) : State :=
  { s with responses := s.responses ++ [(p.srcDev, p.id, cause, data)] }

/-- A target answers a request: the answer goes back over the fabric, from its die (R358). -/
def answer (s : State) (p : Packet) (cause : Nat) (data : List Byte) : State :=
  s.enter (endDie p) (endStop p) { p with dstDev := p.srcDev, dstLnum := p.srcLnum, viaDev := s.dev.toNat, viaLnum := p.dstLnum, flowSeq := 0, req := .resp cause data }

/-- A port refuses: it answers itself, and counts it in its drop counter (R364). -/
def refuseAt (port : Nat) (p : Packet) (cause : Nat) (s : State) : State :=
  { reply s p cause [] with drops := s.drops.set port (s.drops.get port + 1) }

/-! ### The chain of an STC: R370 -/

def peerDev (p : BitVec 32) : Nat := nbits p.toNat 9 0
def peerLnum (p : BitVec 32) : Nat := nbits p.toNat 18 10
def peerKey (p : BitVec 32) : Nat := nbits p.toNat 30 19

/-- The packet that peer `k` sends on to peer `k + 1`, if there is one. -/
def stcForward (p : Packet) : Option Packet :=
  match p.req with
  | .stc space off size v peers k =>
    (peers[k + 1]?).map (fun n => { p with dstDev := peerDev n, dstLnum := peerLnum n, key := peerKey n,
                                           req := .stc space off size v peers (k + 1) })
  | _ => none

/-- Peer `k` writes, and then forwards or acknowledges. -/
def stcHere (p : Packet) (s : State) : State :=
  match p.req with
  | .stc space off size v _ k =>
    if !(s.coreAt p.dstLnum).resident p.tenant then answer s p (5 + 16 * k) []
    else
      let s := within p.dstLnum (fun s => s.mapCore (fun c => c.putBytes space off (natToBytes size v.toNat))) s
      match stcForward p with
      | none => answer s p 0 []
      | some q => (s.launch p.dstLnum q).2
  | _ => s

/-! ### Arrival -/

/-- The bytes of the target's local buffers that a request touches: space, offset and length of each part. -/
def reqTouches (r : Request) : List (Nat × Nat × Nat) :=
  match r with
  | .winRead space off n => [(space, off, n)]
  | .arrive off _ => [(1, off, 16)]
  | .winWrite space off data bar => (space, off, data.length) :: (bar.map (fun b => (1, b, 16))).toList
  | .winBytes space data => data.map (fun d => (space, d.1, 1))
  | .stc space off size _ _ _ => [(space, off, size)]
  | _ => []

/-- An uncorrectable word of this device's memory, or of a buffer of the target core, under a request (R366). -/
def reqMarked (s : State) (p : Packet) : Option Flt :=
  match reqRange p.req with
  | some r => s.memMark r.1 r.2
  | none =>
    let c := s.coreAt p.dstLnum
    if c.resident p.tenant then (reqTouches p.req).findSome? (fun t => c.bufMark t.1 t.2.1 t.2.2) else none

/-- The target takes buffer traffic of the packet's tenant (R364 step 5): its context is resident, or is being saved and has granted
the carry a credit (R263). -/
def State.takes (s : State) (p : Packet) : Bool :=
  let c := s.coreAt p.dstLnum
  c.resident p.tenant || (c.mode == .saving && isCarry p
    && c.inbox.any (fun e => e.packet.isNone && e.src == p.srcLnum && e.srcDev == p.srcDev && e.tenant == p.tenant))

/-- The mark that a request has met is gone: only the first access meets it (R397). -/
def clearMark (s : State) (p : Packet) (f : Flt) : State :=
  if (reqRange p.req).isSome then { s with marked := s.marked.filter (fun m => m.2 != f.addr.toNat) }
  else within p.dstLnum (fun s => noteEcc s (raisedByUnit (.seq .cc) 0#8 f)) s

/-- Perform a request that its port has passed, and answer it (R362, R365, R366). -/
def performAnswer (s : State) (p : Packet) : State :=
  match reqMarked s p with
  | some f => answer (report (clearMark s p f) (homeEcc s p.tenant)) p (6 + hopOf p) []
  | none => match p.req with
    | .part _ data => s.gather p data
    | .carry .. => if s.takes p then answer (landCarry p s) p 0 [] else answer (s.gathered p).2 p 5 []
    | .stc .. => stcHere p s
    | _ => match performReq s p with
      | .error c => answer s p c []
      | .ok (d, s) => answer s p 0 d

/-- R364 at a port. A refusal of step 5 is the port's too; a request that passes goes to its target through the IOD's router, and a
part of a PUT to the communication processor of the port. -/
def checkAnswer (port : Nat) (s : State) (p : Packet) : State :=
  match keyCheck (s.keyAt port p.key) p with
  | some c => refuseAt port p (c + hopOf p) s
  | none =>
    if reqIsBuf p.req && !s.takes p then refuseAt port p (5 + hopOf p) s
    else match p.req with
      | .part false data => s.gather p data
      | _ => s.enter 0 (portStop port) p

/-- sys.gtc periods of 2 ms (R17). -/
def responseLimit : Nat := 1880000

/-! ### Answers at the sender: R362, R365 -/

/-- Where the context that sent a packet is: on its core, saved, or gone. -/
inductive Sender where
  | resident | saved | gone
  deriving DecidableEq, Repr

def State.senderOf (s : State) (w : Waiting) : Sender :=
  let c := s.coreAt w.pkt.srcLnum
  if c.ctx.isSome && c.task == w.task then .resident
  else if s.saves.any (fun v => v.task == w.task && v.lnum == w.pkt.srcLnum) then .saved
  else .gone

/-- Act on the context that sent a packet, resident or saved. -/
def onSender (w : Waiting) (f : State → State) (s : State) : State :=
  match s.senderOf w with
  | .resident => within w.pkt.srcLnum f s
  | .gone => s
  | .saved =>
    within w.pkt.srcLnum (fun s =>
      match s.saves.find? (fun v => v.task == w.task && v.lnum == s.lnum) with
      | none => s
      | some v =>
        let t := f { s with core := v.core }
        { t with core := s.core, saves := t.saves.map (fun x => if x.task == v.task && x.lnum == v.lnum then { x with core := t.core } else x) }) s

/-- Charge a fault to the context that sent a packet; a saved context holds it until its resume (R365). -/
def chargeSender (w : Waiting) (r : Raised) (s : State) : State :=
  match s.senderOf w with
  | .resident => within w.pkt.srcLnum (fun s => takeFault s r) s
  | .gone => s
  | .saved => onSender w (fun s => s.mapCore (fun c => { c with heldFaults := c.heldFaults ++ [r] })) s

/-- What a packet addressed, for FADDR: a window address, a buffer address or a physical address. -/
def Waiting.addr (w : Waiting) : Nat :=
  let buf (space off : Nat) : Nat := (match w.kind with
    | .window k _ => 8 + k
    | .copy (some k) .. => 8 + k
    | .bar (some k) _ => 8 + k
    | _ => space) * 2 ^ 28 + off
  match w.pkt.req with
  | .winWrite space off _ _ => buf space off
  | .winBytes space ((off, _) :: _) => buf space off
  | .winBytes space [] => buf space 0
  | .winRead space off _ => buf space off
  | .arrive off _ => buf 1 off
  | .stc space off _ _ _ _ => buf space off
  | .carry .. => 0
  | r => match reqRange r with
    | some (pa, _) => pa
    | none => 0

/-- The unit that a failed packet is charged to (R338, R365). -/
def Waiting.unit (w : Waiting) : FUnit :=
  match w.kind with
  | .copy .. => .copyEngine
  | .copyRead _ => .copyEngine
  | .count => if w.pkt.srcUnit == .ae then .copyEngine else .seq w.pkt.srcUnit
  | .tile => .relocated
  | _ => .seq w.pkt.srcUnit

/-- The sectors of a copy's packet count on the barrier of a saved context in its save block's AB. -/
def ackSaved (seq row off : Nat) (p : Packet) (s : State) : State :=
  match s.core.copies.find? (fun x => x.seq == seq), s.core.ctx with
  | some cp, some x =>
    let n := (copyPacket p).2
    let bar := cdBar cp.desc
    let s := if bar ≠ 0#64 ∧ isBufAddr bar ∧ bufSpace bar.toNat = 1 ∧ n ≠ 0 then
        let a := at' s.core.saveBlock (0x180000 + bufOff bar.toNat)
        pokeAs s x.tenant a 16 ((Bar.decode (peekAs s x.tenant a 16)).sectors n).encode
      else countOrSkip s bar n
    { s with core := s.core.settleCopy (cp.acknowledge row off (copyPacket p).1) }
  | _, _ => s

/-- The entry that a packet carries. -/
def State.entryOf (s : State) (w : Waiting) : Option Access := (s.coreAt w.pkt.srcLnum).pend.find? (fun a => a.pid == w.pkt.id)

/-- The entry of a TBAR word on another device fails (R169). -/
def failBar (w : Waiting) (s : State) : State :=
  match s.core.pend.findIdx? (fun a => a.pid == w.pkt.id), s.entryOf w with
  | some k, some a => s.failEntry k a
  | _, _ => s

/-- The effect of a successful answer on the core that waits for it. -/
def takeAnswer (saved : Bool) (w : Waiting) (data : List Byte) (s : State) : State :=
  match w.kind with
  | .window k st => (if st then s.storeDone else s).mapCore (fun c => c.subOut k)
  | .copy k seq row off =>
    let s := match k with
      | some k => s.mapCore (fun c => c.subOut k)
      | none => s
    if saved then ackSaved seq row off w.pkt s else copyAck s seq row off w.pkt
  | .copyRead seq => copyGot s seq data
  | .fetch => s.mapCore (fun c => { c with fetching := c.fetching.map (fun f =>
      if some f.1 = (reqRange w.pkt.req).map (·.1) then (f.1, some (BitVec.ofNat 32 (bytesToNat data))) else f) })
  | .bulk => s.mapCore (fun c => { c with bulk := c.bulk.map (fun b =>
      if some b.1 = (reqRange w.pkt.req).map (·.1) then (b.1, some data) else b) })
  | .store => s.storeDone
  | .load => returnRemote s w.pkt.id data
  | .bar (some k) rd => s.mapCore (fun c => (c.subOut k).setReg w.pkt.srcUnit rd (BitVec.ofNat 64 (bytesToNat data)))
  | .bar none _ => if data.isEmpty then failBar w s else returnRemote s w.pkt.id data
  | .poll =>
    let pa := ((reqRange w.pkt.req).map (·.1)).getD 0
    let ph := if data.isEmpty then 16 else bytesToNat data
    s.mapCore (fun c => { c with poll := c.poll.set (sqIx w.pkt.srcUnit) (some (32 * pa + ph)) })
  | .tile => s.mapCore (fun c => { c with tiles := c.tiles.map (fun t =>
      if t.need.any (fun n => n.2.1 == w.pkt.id) then { t with got := t.got ++ [(w.pkt.id, data)] } else t) })
  | .stc => s.storeDone
  | _ => s

/-- A barrier word that has issued and whose home answers without data has faulted with F.QUEUE there (R169). -/
def barRefused (w : Waiting) (data : List Byte) : Bool :=
  data.isEmpty && (match w.kind with
    | .bar .. => true
    | _ => false)

/-- The core that a packet's context has, resident or saved. -/
def State.senderCore (s : State) (w : Waiting) : Core :=
  match s.senderOf w, s.saves.find? (fun v => v.task == w.task && v.lnum == w.pkt.srcLnum) with
  | .saved, some v => v.core
  | _, _ => s.coreAt w.pkt.srcLnum

/-- The tile command that a packet fetches an operand of. -/
def State.tileOf (s : State) (w : Waiting) : Option Tile := (s.senderCore w).tiles.find? (fun t => t.need.any (fun n => n.2.1 == w.pkt.id))

/-- The current hypothesis of the unit that a failed packet is charged to (R297, R339). -/
def State.waitHyp (s : State) (w : Waiting) : BitVec 8 :=
  let c := s.senderCore w
  match w.unit with
  | .seq u => c.hypOf u
  | .relocated => ((s.tileOf w).map (fun t => (s.coreAt t.me).hypOf .me)).getD (c.hypOf .me)
  | .copyEngine => ((c.copies.find? (fun x => match w.kind with
      | .copy _ seq .. => x.seq == seq
      | .copyRead seq => x.seq == seq
      | _ => false)).map (·.hyp)).getD 0#8
  | _ => 0#8

/-- The words of the group that a failed packet is charged to: 0 for the copy engine (R340). -/
def State.waitWord (s : State) (w : Waiting) : Word :=
  match w.unit with
  | .seq _ => w.word
  | .relocated => ((s.tileOf w).map (·.word)).getD 0#64
  | _ => 0#64

/-- A fault that the answer to a packet brings: of the access that it carries, or of the packet itself (R339, R340, R365). -/
def answerFault (s : State) (w : Waiting) (code detail : Nat) : Raised :=
  match s.entryOf w with
  | some a => ⟨w.unit, code, detail, BitVec.ofNat 64 (match a.place with
      | .mem va _ => va
      | .buf space off => space * 2 ^ 28 + off
      | .none => 0), a.word, s.waitHyp w⟩
  | none => ⟨w.unit, code, detail, BitVec.ofNat 64 w.addr, s.waitWord w, s.waitHyp w⟩

/-- Remove a packet from those that wait. -/
def State.endWait (s : State) (id : Nat) : State :=
  { s with waiting := s.waiting.filter (fun w => w.pkt.id != id), left := s.left.filter (fun l => l.2 != id) }

/-- Let what waited for answers go on: signals, fences, a core that stops. -/
def afterAnswer (w : Waiting) (s : State) : State :=
  match s.senderOf w with
  | .resident => within w.pkt.srcLnum (fun s => resettle (drain s)) s
  | _ => s

/-- A packet of a collective run has been answered: a block has come for a record, or a part has been written. -/
def collGot (w : Waiting) (data : List Byte) (s : State) : State :=
  match w.kind with
  | .collRead h g k =>
    let pa := ((reqRange w.pkt.req).map (·.1)).getD 0
    match s.runOf w h g with
    | some n => match s.run? n with
      | some r => { s with colls := s.colls.set n { r with bulk := r.bulk.map (fun b => if b.1 = k ∧ b.2.1 = pa then (k, pa, some data) else b) } }
      | none => s
    | none => s
  | _ => collWritten w s

/-- The fault that a LOG.APPEND meets when the answer of its header's home has come (R293). -/
def logRefused (s : State) (w : Waiting) (data : List Byte) : Option Flt :=
  match s.entryOf w with
  | some a => match a.kind with
    | .log bs => match logEnd (focus w.pkt.srcLnum s) a bs data with
      | .error f => some f
      | .ok _ => none
    | _ => none
  | none => none

/-- A packet has been answered with success. -/
def succeed (w : Waiting) (data : List Byte) (s : State) : State :=
  if w.kind.isColl then collGot w data (s.endWait w.pkt.id) else
  let saved := s.senderOf w == .saved
  let r := answerFault s w cQueue 0
  let late : Option Raised := if barRefused w data then some r
    else (logRefused s w data).map (fun f => { r with code := f.code, detail := f.detail, addr := f.addr })
  let s := afterAnswer w (onSender w (takeAnswer saved w data) (s.endWait w.pkt.id))
  match late with
  | some r => chargeSender w r s
  | none => s

/-- The access that a failed posted write leaves in the access replay list (R344, R365); a VE has no place there.
(DEDUCED, assumption 25.) -/
def lostAccess (w : Waiting) : Option Access :=
  let mk (size data : Nat) : Option Access :=
    some { unit := w.pkt.srcUnit, kind := .store, place := .buf (w.addr / 2 ^ 28) (w.addr % 2 ^ 28), size := size, rd := 0, data := BitVec.ofNat 64 data,
           hyp := 0#8, kindSO := false, kindUO := false, acq := false, rel := false, scope := 0, rmc := false, pid := 0, word := w.word }
  if w.pkt.srcUnit ≠ .cc ∧ w.pkt.srcUnit ≠ .ae then none
  else match w.access with
    | some a => some a
    | none => match w.kind, w.pkt.req with
      | .window _ true, .winWrite _ _ data _ => mk data.length (bytesToNat data)
      | .stc, .stc _ _ size v _ _ => mk size v.toNat
      | _, _ => none

/-- A relocated tile command whose operand did not come fails. -/
def failOperand (id : Nat) (c : Core) : Core :=
  match c.tiles.findIdx? (fun t => t.need.any (fun n => n.2.1 == id)) with
  | some k => c.failTile k
  | none => c

/-- The effect of a failed packet on the core that waits for it (R365). -/
def takeFailure (w : Waiting) (s : State) : State :=
  let s := match lostAccess w with
    | some a => s.mapCore (fun c => { c with replays := c.replays ++ [⟨a, false, cRemote, none⟩] })
    | none => s
  match w.kind with
  | .window k st => (if st then s.storeDone else s).mapCore (fun c => c.subOut k)
  | .copy k seq row off => copyFailed (match k with
      | some k => s.mapCore (fun c => c.subOut k)
      | none => s) seq row off
  | .copyRead seq => s.mapCore (fun c => { c with copies := c.copies.map (fun x =>
      if x.seq == seq then { x with fetch := 0, got := none } else x) })
  | .fetch => s.mapCore (fun c => { c with fetching := none })
  | .bulk => s.mapCore (fun c => { c with bulk := [], underway := false })
  | .store => s.storeDone
  | .load => s.mapCore (fun c =>
      let counts (p : AccessKind → Bool) : Nat := if c.pend.any (fun a => a.pid == w.pkt.id && p a.kind) then 1 else 0
      { c with pend := c.pend.filter (fun a => a.pid != w.pkt.id), cntLd := c.cntLd - counts AccessKind.returns,
               cntSt := c.cntSt - counts AccessKind.stores })
  | .bar (some k) _ => s.mapCore (fun c => c.subOut k)
  | .bar none _ => failBar w s
  | .tile => s.mapCore (failOperand w.pkt.id)
  | .stc => s.storeDone
  | _ => s

/-- A packet has failed with a cause of R365. (DEDUCED, assumption 25.) -/
def failPacket (w : Waiting) (cause peer : Nat) (s : State) : State :=
  if w.kind.isColl then collFailed w cause (s.endWait w.pkt.id) else
  if let .save unit := w.kind then onSender w (fun s => failSave s unit ⟨cRemote, cause, BitVec.ofNat 64 w.addr⟩) (s.endWait w.pkt.id) else
  let r := answerFault s w cRemote (cause + 16 * peer)
  chargeSender w r (afterAnswer w (onSender w (takeFailure w) (s.endWait w.pkt.id)))

/-- The packet, or what it was forwarded as, leaves this device somewhere on its way. -/
def Waiting.leaves (w : Waiting) (dev : Nat) : Bool :=
  w.pkt.dstDev != dev || (match w.pkt.req with
    | .stc _ _ _ _ peers _ => peers.any (fun p => peerDev p != dev)
    | _ => false)

/-- The answer that this device itself has given to a packet of its own. -/
def State.ownAnswer (s : State) (id : Nat) : Option (Nat × Nat × Nat × List Byte) :=
  s.responses.find? (fun r => r.1 == s.dev.toNat && r.2.1 == id)

/-- An answer may come from outside: the packet has left. -/
def State.outside (s : State) (w : Waiting) : Bool :=
  w.leaves s.dev.toNat && !s.packets.any (fun f => f.pkt.id == w.pkt.id && f.pkt.srcDev == s.dev.toNat)

/-- Take the answer to packet `id`: the one that this device gave, or `ext` from outside. -/
def takeResponse (id : Nat) (wanted : Waiting → Nat → Bool) (ext : Nat × List Byte) (s : State) : State :=
  match s.waiting.find? (fun w => w.pkt.id == id) with
  | none => s
  | some w =>
    match s.ownAnswer id with
    | some r =>
      if !wanted w r.2.2.1 then s
      else
        let s : State := { s with responses := s.responses.erase r }
        if r.2.2.1 = 0 then succeed w r.2.2.2 s else failPacket w (r.2.2.1 % 16) (r.2.2.1 / 16) s
    | none =>
      if !wanted w ext.1 || !s.outside w then s
      else if ext.1 = 0 then succeed w ext.2 s
      else failPacket w (ext.1 % 16) (ext.1 / 16) s

/-- The answer to the packet brings data: a read, an atomic or a barrier word (R362). -/
def WaitKind.reads (k : WaitKind) : Bool :=
  match k with
  | .copyRead _ => true
  | .fetch => true
  | .bulk => true
  | .load => true
  | .bar .. => true
  | .poll => true
  | .tile => true
  | .collRead .. => true
  | _ => false

/-- R362: a posted write is acknowledged. -/
def execRemoteWriteAck (id : Nat) (s : State) : Host.Outcome State Fault Refusal :=
  .next (takeResponse id (fun w c => !w.kind.reads && c == 0) (0, []) s)

/-- R362: the response to a remote read, atomic or barrier word. -/
def execRemoteReadResponse (id : Nat) (data : List Byte) (s : State) : Host.Outcome State Fault Refusal :=
  .next (takeResponse id (fun w c => w.kind.reads && c == 0) (0, data) s)

/-- A PUT of this device has had a negative response: its record fails (R380). -/
def putFailed (p : PutPacket) (cause : Nat) (s : State) : State :=
  let s : State := { s with puts := s.puts.erase p, left := s.left.filter (fun l => l.2 != p.id) }
  match putSender s p with
  | none => s
  | some n => match s.colls[n]? with
    | none => s
    | some r => if cause ≤ 5 then failRecord s n r p.record 3 cause else failRecord s n r p.record (if cause = 7 then 2 else 4) 0

/-- R365: a negative response, to a packet or to a PUT; a PUT may be refused for now (R378). -/
def execRemoteNegativeResponse (id cause peer : Nat) (s : State) : Host.Outcome State Fault Refusal :=
  .next (match s.waiting.find? (fun w => w.pkt.id == id) with
    | some _ => takeResponse id (fun _ c => decide (1 ≤ c % 16 ∧ c % 16 ≤ 8 ∧ c < 256)) (cause % 16 + 16 * (peer % 16), []) s
    | none => match s.puts.find? (fun p => p.id == id && p.srcDev == s.dev.toNat && p.dstDev != s.dev.toNat) with
      | some p =>
        if 1 ≤ cause ∧ cause ≤ 8 then putFailed p cause s
        else if cause = notRunning then markRefused { s with puts := s.puts.erase p } p
        else s
      | none => s)

/-- When the PUT was sent. -/
def putSince (s : State) (p : PutPacket) : Option Word :=
  ((putSender s p).bind s.run?).bind (fun r => (r.out.find? (fun q => q.1 == p.record)).map (·.2))

/-- R365: no response within 2 ms, to a packet or to a PUT. (DEDUCED, assumptions 25 and 29.) -/
def execRemoteResponseTimeout (id : Nat) (s : State) : Host.Outcome State Fault Refusal :=
  .next (match s.waiting.find? (fun w => w.pkt.id == id) with
    | some w => if responseLimit ≤ (s.gtc - w.since).toNat then failPacket w 7 0 s else s
    | none => match s.puts.find? (fun p => p.id == id && p.srcDev == s.dev.toNat && p.dstDev != s.dev.toNat) with
      | none => s
      | some p => match putSince s p with
        | none => s
        | some t => if responseLimit ≤ (s.gtc - t).toNat then putFailed p 7 s else s)

/-! ### STC and WIN.DRAIN: R368–R371 -/

/-- The fields of an STC record (R369). -/
structure StcRec where
  count : Nat
  size : Nat
  space : Nat
  off : Nat
  peers : List (BitVec 32)

/-- The record at an offset of AB; none where a count, a space, a core number or a reserved bit is refused. -/
def stcRec (c : Core) (off : Nat) : Option StcRec :=
  let h0 := c.readBuf 1 off 8
  let h1 := c.readBuf 1 (off + 8) 8
  let n := nbits h0 4 0
  let ps := (List.range n).map (fun k => c.readBuf 1 (off + 16 + 8 * k) 8)
  if n = 0 ∨ 16 < n ∨ nbits h0 9 8 = 3 ∨ nbits h0 63 10 ≠ 0 ∨ nbits h0 7 7 ≠ 0 ∨ nbits h1 63 28 ≠ 0
      ∨ ps.any (fun p => decide (383 < nbits p 18 10) || nbits p 63 31 != 0) then none
  else some ⟨n, 2 ^ nbits h0 6 5, nbits h0 9 8, nbits h1 27 0, ps.map (BitVec.ofNat 32)⟩

/-- The record's header: COUNT for the range check, before the fields are judged. -/
def stcCount (c : Core) (off : Nat) : Nat := nbits (c.readBuf 1 off 8) 4 0

/-- In the VE, steps pass until the ordinary writes of the record's bytes have landed (R210). -/
def holdRecord (off : Nat) (s : State) : State :=
  if s.unit = .ve then s.mapCore (fun c =>
    let c := c.holdBytes (2 ^ 28 + off) 16
    c.holdBytes (2 ^ 28 + off) (16 + 8 * stcCount c off)) else s

/-- The checks of R370 in their order. (DEDUCED, assumption 26.) -/
def stcChecks (s : State) (b : Word) : Except Flt StcRec :=
  let off := bufOff b.toNat
  if bits b 63 32 ≠ 0 then .error ⟨cBufacc, 0x81, b⟩
  else if bits b 31 28 ≠ 1 then .error ⟨cBufacc, 0x82, b⟩
  else if b.toNat % 16 ≠ 0 then .error ⟨cAlign, 0, b⟩
  else if spaceSize 1 < off + 16 then .error ⟨cBufacc, 0x83, b⟩
  else match s.core.bufMark 1 off (16 + 8 * stcCount s.core off), stcRec s.core off with
    | some f, _ => .error f
    | none, none => .error ⟨cQueue, 0, 0#64⟩
    | none, some r =>
      if spaceSize 1 < off + 16 + 8 * r.count then .error ⟨cBufacc, 0x83, b⟩
      else if spaceSize r.space < r.off + r.size then .error ⟨cBufacc, 0x52, b⟩
      else if r.off % r.size ≠ 0 then .error ⟨cAlign, 0, b⟩
      else if s.hyp ≠ 0#8 then .error ⟨cHypso, 0, b⟩
      else .ok r

/-- R370: STC. The record is read once, after the earlier buffer accesses of its sequencer (R132). -/
def execStc (r : BitVec 4) (a b : BitVec 5) (s : State) : Host.Outcome State Fault Refusal :=
  .next (issue (.stc r a b) (fun s =>
    let s := holdRecord (bufOff (s.r5 a).toNat) (flushUnit s.unit (2 * s.core.pend.length + 1) s)
    if s.bufPending then .blocked id 8
    else match stcChecks s (s.r5 a) with
    | .error f => .fault f
    | .ok x =>
      if 64 ≤ s.storesOut s.unit ∨ counterMax ≤ s.core.cntSt ∨ s.ordered = true then .blocked id 8
      else match x.peers with
        | [] => .next s
        | p :: _ =>
          let s := s.mapCore (fun c => { c with cntSt := c.cntSt + 1 })
          .next (send s (peerDev p) (peerLnum p) (peerKey p) (.stc x.space x.off x.size (s.r5 b) x.peers 0) .stc).2) s)

/-- The condition of R371 holds. -/
def State.winsDrained (s : State) (m : Word) : Bool :=
  (List.range 8).all (fun k => !m.getLsbD k || s.core.out k == 0) && (!m.getLsbD 8 || s.storesOut s.unit == 0)

/-- R371: WIN.DRAIN. -/
def execWinDrain (r : BitVec 4) (a : BitVec 5) (s : State) : Host.Outcome State Fault Refusal :=
  .next (issue (.winDrain r a) (fun s =>
    let m := s.r5 a
    if bits m 63 9 ≠ 0 then .fault ⟨cQueue, 0, 0#64⟩ else if s.winsDrained m then .next s else .blocked id 8) s)

end Sys2Proof.Machine
end

