-- ==== Sys2Proof/Machine/Ports.lean ====
section
/-! DEFINITION. The IOD ports (R402): key tables (R363), slot tables with their banks (R356–R358), and the invalidation of
translations (R353). -/
namespace Sys2Proof.Machine

/-! ### Commands: R402 -/

/-- Causes of PORTERR. -/
inductive PortCause where
  | bit | block | field | bank
  deriving DecidableEq, Repr

def PortCause.num (c : PortCause) : Nat := match c with
  | .bit => 1
  | .block => 2
  | .field => 3
  | .bank => 4

/-- The command that a write names: its opcode and its block's address. -/
def portOp (w : Word) : Nat := bits w 3 0
def portBlock (w : Word) : Nat := bits w 51 6 * 64

/-- `n` bytes at a physical address are memory of this device. -/
def State.ownMem (s : State) (pa n : Nat) : Bool :=
  s.isLocal pa && paHasMem pa && s.isLocal (pa + n - 1) && paHasMem (pa + n - 1) && paStack pa == paStack (pa + n - 1)

/-- Dword `k` of a block. -/
def portDword (s : State) (w : Word) (k : Nat) : Nat := s.readPhys (portBlock w + 8 * k) 8

/-- The write and the block's dwords from `used` on are as they must be; `ops` is the number of opcodes of the port.
(DEDUCED, assumption 27.) -/
def portShape (s : State) (w : Word) (ops used : Nat) : Option PortCause :=
  if bits w 63 52 ≠ 0 ∨ bits w 5 4 ≠ 0 ∨ ops ≤ portOp w then some .bit
  else if !s.ownMem (portBlock w) 64 then some .block
  else if ((List.range 8).drop used).any (fun k => portDword s w k != 0) then some .bit
  else none

/-- PORTERR after one more refusal. -/
def portErrWord (old : Word) (port : Nat) (c : PortCause) : Word :=
  let n := min (bits old 63 32 + 1) (2 ^ 32 - 1)
  BitVec.ofNat 64 (port + 16 * c.num + n * 2 ^ 32)

/-- One more completed command of KEYPORT (0) or FABPORT (1). -/
def portDoneWord (old : Word) (port : Nat) : Word :=
  let k := bits old 31 0
  let f := bits old 63 32
  if port = 0 then BitVec.ofNat 64 ((k + 1) % 2 ^ 32 + f * 2 ^ 32) else BitVec.ofNat 64 (k + (f + 1) % 2 ^ 32 * 2 ^ 32)

/-- A command of KEYPORT or FABPORT ends: it has its effect, or is refused and changes nothing; its count rises.
(DEDUCED, assumption 27.) -/
def endPort (port : Nat) (r : Except PortCause State) (s : State) : State :=
  match r with
  | .ok t => { t with portDone := portDoneWord t.portDone port }
  | .error c => { s with portErr := portErrWord s.portErr port c, portDone := portDoneWord s.portDone port }

/-! ### Keys: R363 -/

/-- Reserved bits of a key entry read as zero. -/
def keyMask : BitVec 128 := BitVec.ofNat 128 (31 * 2 ^ 123 + (2 ^ 72 - 1) * 2 ^ 48)

/-- Change `count` entries from `first` on in the tables of the ports that a mask names. -/
def mapKeys (s : State) (mask first count : Nat) (f : Nat → BitVec 128 → BitVec 128) : State :=
  let ports := (List.range 24).filter (fun p => mask / 2 ^ p % 2 == 1)
  let one (t : Tab (BitVec 128)) (p i : Nat) : Tab (BitVec 128) := t.set (p * 4096 + first + i) (f i (t.get (p * 4096 + first + i)))
  { s with keys := ports.foldl (fun t p => (List.range count).foldl (fun t i => one t p i) t) s.keys }

/-- A KEYPORT command. (DEDUCED, assumption 27.) -/
def keyPort (w : Word) (s : State) : Except PortCause State :=
  let d0 := portDword s w 0
  let d1 := portDword s w 1
  let pa := portDword s w 2
  let first := nbits d1 11 0
  let count := nbits d1 27 16 + 1
  match portShape s w 2 (if portOp w = 0 then 3 else 2) with
  | some c => .error c
  | none =>
    if nbits d0 63 24 ≠ 0 ∨ nbits d1 15 12 ≠ 0 ∨ nbits d1 63 28 ≠ 0 then .error .bit
    else if 4096 < first + count then .error .field
    else if portOp w = 1 then .ok (mapKeys s (nbits d0 23 0) first count (fun _ k => k &&& ~~~(1#128 <<< 127)))
    else if pa % 16 ≠ 0 ∨ s.ownMem pa (16 * count) = false then .error .field
    else .ok (mapKeys s (nbits d0 23 0) first count (fun i _ => BitVec.ofNat 128 (s.readPhys (pa + 16 * i) 16) &&& keyMask))

/-- R402: KEYPORT, load. A write whose opcode the port does not have comes here too, and is refused. -/
def execKeyLoad (w : Word) (s : State) : Host.Outcome State Fault Refusal :=
  .next (s.byHost (if portOp w = 1 then s else endPort 0 (keyPort w s) s))

/-- R402: KEYPORT, invalidate. -/
def execKeyInvalidate (w : Word) (s : State) : Host.Outcome State Fault Refusal :=
  .next (s.byHost (if portOp w = 1 then endPort 0 (keyPort w s) s else s))

/-! ### Slot tables: R356–R358 -/

/-- A connection word's fields. -/
def connV (c : BitVec 32) : Bool := c.getLsbD 31
def connCar (c : BitVec 32) : Bool := c.getLsbD 30
def connTenant (c : BitVec 32) : Nat := nbits c.toNat 27 16
def connInput (c : BitVec 32) : Nat := nbits c.toNat 4 0
/-- Reserved bits read as zero. -/
def connMask : BitVec 32 := 0xCFFF001F#32

/-- The connection words of one entry of an image break R357. -/
def entryRefused (cs : List (BitVec 32)) : Bool :=
  let v := cs.filter connV
  v.any (fun c => connTenant c == 0) || (v.map connInput).any (fun i => decide (1 < (v.filter (fun c => connInput c == i)).length))

/-- The image of a bank in memory: 256 entries of 32 words. -/
def bankImage (s : State) (pa : Nat) : List (List (BitVec 32)) :=
  (List.range 256).map (fun n => (List.range 32).map (fun o => BitVec.ofNat 32 (s.readPhys (pa + 128 * n + 4 * o) 4)))

/-- A bank from its image. -/
def bankOf (img : List (List (BitVec 32))) : Tab (BitVec 32) :=
  let ws := (img.flatten).map (· &&& connMask)
  ((List.range ws.length).zip ws).foldl (fun t p => Tab.set t p.1 p.2) []

/-- The bank in use, and a load of the other one. -/
def SlotTable.bank (t : SlotTable) : Tab (BitVec 32) := if t.active then t.bank1 else t.bank0
def SlotTable.load (t : SlotTable) (b : Tab (BitVec 32)) : SlotTable :=
  if t.active then { t with bank0 := b } else { t with bank1 := b }

/-- Periods of a frame: 256 slots of 3 (R356). -/
def framePeriods : Nat := 768

/-- The first frame start at or after a value of sys.gtc; where the value has passed, the next one (R356, R402). -/
def State.frameStart (s : State) (v : Nat) : Nat := (max v s.gtc.toNat + framePeriods - 1) / framePeriods * framePeriods

/-- A FABPORT command. (DESIGN CHOICE, assumption 7; DEDUCED, assumption 27.) -/
def fabPort (w : Word) (s : State) : Except PortCause State :=
  let d0 := portDword s w 0
  let d1 := portDword s w 1
  match portShape s w 2 2 with
  | some c => .error c
  | none =>
    if portOp w = 0 then
      let img := bankImage s d1
      if 4 < d0 ∨ d1 % 4096 ≠ 0 ∨ s.ownMem d1 32768 = false then .error .field
      else if img.any (fun e => (e.drop (Config.routerOutputs d0)).any (· != 0#32)) then .error .field
      else if img.any entryRefused then .error .bank
      else .ok { s with slotTables := s.slotTables.set d0 ((s.slotTables.get d0).load (bankOf img)) }
    else if nbits d0 63 5 ≠ 0 then .error .bit
    else
      let named := (List.range 5).filter (fun r => d0 / 2 ^ r % 2 == 1)
      let at' (t : Tab SlotTable) (r : Nat) : Tab SlotTable := t.set r { t.get r with swapAt := (t.get r).swapAt ++ [s.frameStart d1] }
      .ok { s with slotTables := named.foldl at' s.slotTables }

/-- R402: FABPORT, load bank. A write whose opcode the port does not have comes here too, and is refused. -/
def execFabLoadBank (w : Word) (s : State) : Host.Outcome State Fault Refusal :=
  .next (s.byHost (if portOp w = 1 then s else endPort 1 (fabPort w s) s))

/-- R402: FABPORT, swap. -/
def execFabSwap (w : Word) (s : State) : Host.Outcome State Fault Refusal :=
  .next (s.byHost (if portOp w = 1 then endPort 1 (fabPort w s) s else s))

/-- A swap of the router is due: a frame start at which it was to swap has come. -/
def State.swapDue (s : State) (router : Nat) : Bool := (s.slotTables.get router).swapAt.any (fun v => decide (v ≤ s.gtc.toNat))

/-- The banks change places once for each swap that is due. -/
def SlotTable.swap (t : SlotTable) (now : Nat) : SlotTable :=
  { t with active := t.active != ((t.swapAt.filter (fun v => decide (v ≤ now))).length % 2 == 1), swapAt := t.swapAt.filter (fun v => decide (now < v)) }

/-- R356: a router swaps its banks. -/
def execSlotBankSwap (router : Nat) (s : State) : Host.Outcome State Fault Refusal :=
  .next (if s.swapDue router then { s with slotTables := s.slotTables.set router ((s.slotTables.get router).swap s.gtc.toNat) } else s)

/-- The slot of a frame that sys.gtc is in (R356). -/
def State.slot (s : State) : Nat := s.gtc.toNat / 3 % 256

/-- The contexts that the device knows: on its cores, saved, and in the pools. -/
def State.contexts (s : State) : List Context :=
  (s.core :: s.others.map (·.2)).filterMap (·.ctx) ++ s.saves.filterMap (fun v => v.core.ctx) ++ (s.pools.flatMap (·.2)).map (·.ctx)

/-- The weight of a tenant: FSLOT + 1 of its root RCB (R358), by any of its contexts; 1 where the device has none.
(DEDUCED, assumption 28.) -/
def State.weight (s : State) (tenant : Nat) : Nat :=
  match (s.contexts.find? (fun x => x.tenant == tenant)).bind (fun x => x.chain.getLast?) with
  | some (root, _, _) => peekAs s tenant (at' root 0x18) 2 + 1
  | none => 1

/-- Step 4 of R358: deficit round-robin among the tenants that wait. The answer is the packet and the new mark. -/
def roundRobin (s : State) (mark : Nat) (ws : List Flight) : Option (Flight × Nat) :=
  let last := mark / 65536
  let left := mark % 65536
  match ws.find? (fun f => f.pkt.tenant == last) with
  | some f => if left ≠ 0 then some (f, last * 65536 + (left - 1)) else next s last ws
  | none => next s last ws
where
  /-- The first packet of the tenant that comes after `last`, in rising order and around. -/
  next (s : State) (last : Nat) (ws : List Flight) : Option (Flight × Nat) :=
    let key (f : Flight) : Nat := (f.pkt.tenant + 8191 - last) % 8192
    match ws with
    | [] => none
    | w :: t =>
      let q := t.foldl (fun b f => if key f < key b then f else b) w
      some (q, q.pkt.tenant * 65536 + (s.weight q.pkt.tenant - 1))

/-- The stop to which a packet goes when it leaves router `r` by output `o`: the one whose queue it is in, or, for what a
connection carries, any on a minimal path (R358, R359). -/
def Flight.queue (f : Flight) (r o : Nat) : Option Nat := if (Config.outputOf r f.out).toNat = o then some f.out else none
def Flight.along (f : Flight) (s : State) (r o : Nat) : Option Nat := (s.nextStops r f.pkt).find? (fun n => (Config.outputOf r n).toNat == o)

/-- What an output sends in this slot (R358): the packet, the stop it goes to, and the mark of the round-robin.
(DEDUCED, assumption 28.) -/
def slotPick (s : State) (router output : Nat) : Option (Flight × Nat × Nat) :=
  let c := (s.slotTables.get router).bank.get (32 * s.slot + output)
  let mark := s.drr.get (32 * router + output)
  let ws := s.packets.filter (fun f => f.stop == router)
  let along (f : Flight) : Option Nat := f.along s router output
  let circuit := ws.filter (fun f => (along f).isSome && (Config.inputOf router f.src).toNat == connInput c)
  let queue := ws.filter (fun f => !isCarry f.pkt && (f.queue router output).isSome)
  let best : Option (Flight × Nat × Nat) := (roundRobin s mark queue).map (fun p => (p.1, p.1.out, p.2))
  if connV c && connCar c then
    match circuit.find? (fun f => isCarry f.pkt) with
    | some f => some (f, (along f).getD 63, mark)
    | none => best
  else if connV c then
    match circuit.find? (fun f => !isCarry f.pkt && f.pkt.tenant == connTenant c) with
    | some f => some (f, (along f).getD 63, mark)
    | none => match queue.find? (fun f => f.pkt.tenant == connTenant c) with
      | some f => some (f, f.out, mark)
      | none => best
  else best

/-- The packet of this device still waits for its answer. -/
def State.unanswered (s : State) (id : Nat) : Bool := s.waiting.any (fun w => w.pkt.id == id) || s.puts.any (fun p => p.id == id)

/-- A packet leaves the device by a port: an answer is out, and an own request is on the port's link. -/
def leaveBy (port : Nat) (p : Packet) (s : State) : State :=
  match p.req with
  | .resp cause data => reply s p cause data
  | _ => if p.srcDev = s.dev.toNat ∧ s.unanswered p.id = true then { s with left := s.left.filter (fun l => s.unanswered l.2) ++ [(port, p.id)] } else s

/-- A packet leaves a router towards a stop: the next router, a UALink port and with it the device, or the stop at which it
ends. -/
def moveOn (s : State) (router : Nat) (f : Flight) (stop : Nat) : State :=
  let s : State := { s with packets := s.packets.erase f }
  if stop ≤ 4 then s.enter stop router f.pkt
  else if stop < 64 then leaveBy (stop - 32) f.pkt s
  else { s with packets := s.packets ++ [{ f with stop := stop, src := router, out := 63 }] }

/-- Bytes of data in a packet; a request without data has no more than a header. -/
def packetSize (p : Packet) : Nat := match p.req with
  | .winWrite _ _ d _ => d.length
  | .winBytes _ d => d.length
  | .memWrite _ d => d.length
  | .carry _ _ _ _ _ _ d => d.length
  | .part _ d => d.length
  | .put q => q.data.length
  | .resp _ d => d.length
  | _ => 0

/-- The slots that a packet takes on its way to a stop: a slot of a port at ×2 carries half a maximum packet, and at ×1 a quarter
(R356, R400). -/
def State.slotsFor (s : State) (p : Packet) (stop : Nat) : Nat :=
  if 32 ≤ stop ∧ stop < 64 then max 1 ((packetSize p * 2 ^ s.lanes.get (stop - 32) + 255) / 256) else 1

/-- R358: an output sends; a packet of which a part is left stays in its queue. (DEDUCED, assumption 28.) -/
def execFabricSlotSend (router output : Nat) (s : State) : Host.Outcome State Fault Refusal :=
  .next (match slotPick s router output with
    | none => s
    | some (f, stop, mark) =>
      let s : State := { s with drr := s.drr.set (32 * router + output) mark }
      if f.sent + 1 < s.slotsFor f.pkt stop then
        { s with packets := s.packets.map (fun g => if g = f then { g with sent := g.sent + 1 } else g) }
      else moveOn s router f stop)

/-! ### Translations: R353 -/

/-- The entry maps some address of a range of a tenant. -/
def TlbEntry.hits (t : TlbEntry) (tenant va n : Nat) : Bool := t.tenant == tenant && decide (t.base < va + n ∧ va < t.base + t.size)

/-- An XLTPORT command: the translations that it drops. -/
def xltPort (w : Word) (s : State) : Except PortCause (TlbEntry → Bool) :=
  let d0 := portDword s w 0
  let va := portDword s w 1
  let n := portDword s w 2
  match portShape s w 3 (if portOp w = 0 then 3 else if portOp w = 1 then 1 else 0) with
  | some c => .error c
  | none =>
    if portOp w = 2 then .ok (fun _ => true)
    else if nbits d0 63 12 ≠ 0 then .error .bit
    else if portOp w = 1 then .ok (fun t => t.tenant == d0)
    else if va % 4096 ≠ 0 ∨ n % 4096 ≠ 0 ∨ n = 0 then .error .field
    else .ok (fun t => t.hits d0 (va % 2 ^ 57) n)

/-- An XLTPORT command drops its entries at once and counts when R353 lets it; a refused one counts at once.
(DEDUCED, assumption 27.) -/
def xltCommand (w : Word) (s : State) : State :=
  match xltPort w s with
  | .error c => { s with portErr := portErrWord s.portErr 2 c, xltDone := s.xltDone + 1 }
  | .ok hit => { s with tlbs := s.tlbs.map (fun c => (c.1, c.2.filter (fun t => !hit t))), xltPending := s.xltPending + 1 }

/-- R402: XLTPORT, range. A write whose opcode the port does not have comes here too, and is refused. -/
def execXltRange (w : Word) (s : State) : Host.Outcome State Fault Refusal :=
  .next (s.byHost (if portOp w = 1 ∨ portOp w = 2 then s else xltCommand w s))
/-- R402: XLTPORT, tenant. -/
def execXltTenant (w : Word) (s : State) : Host.Outcome State Fault Refusal := .next (s.byHost (if portOp w = 1 then xltCommand w s else s))
/-- R402: XLTPORT, all. -/
def execXltAll (w : Word) (s : State) : Host.Outcome State Fault Refusal := .next (s.byHost (if portOp w = 2 then xltCommand w s else s))

/-- The core has an access that is translated and not performed. -/
def Core.translated (c : Core) : Bool := c.pend.any (fun a => match a.place with
  | .mem .. => a.kind.isAccess
  | _ => false)

/-- No access that an entry translated is still to be performed: on no core, and on no other device (R353). -/
def State.xltQuiet (s : State) : Bool :=
  !s.core.translated && s.others.all (fun p => !p.2.translated) && !s.waiting.any (fun w => (reqRange w.pkt.req).isSome)

/-- R353: an invalidation completes. -/
def execXltInvalidationComplete (s : State) : Host.Outcome State Fault Refusal :=
  .next (if s.xltPending ≠ 0 ∧ s.xltQuiet = true then { s with xltPending := s.xltPending - 1, xltDone := s.xltDone + 1 } else s)

end Sys2Proof.Machine
end

