-- ==== Sys2Proof/Machine/Calm.lean ====
section
/-! DEFINITION. Determinism words (R389–R391): FRAME.BEGIN and DIGEST. -/
namespace Sys2Proof.Machine

/-- One byte of the CRC-64 of R391. -/
def crcBits : Nat → Word → Word
  | 0, c => c
  | n + 1, c => crcBits n (if c.getLsbD 63 then (c <<< 1) ^^^ 0x42F0E1EBA9EA3693#64 else c <<< 1)

/-- The CRC-64 of a run of bytes from a starting value (R391). -/
def crc64 (c : Word) (bs : List Byte) : Word := bs.foldl (fun c v => crcBits 8 (c ^^^ ((v.setWidth 64 : Word) <<< (56 : Nat)))) c

/-- R390: FRAME.BEGIN; RUN and COUNT hold their values from the next cycle on (Core.tick). (DEDUCED, assumption 41.) -/
def execFrameBegin (r : BitVec 4) (a : BitVec 5) (s : State) : Host.Outcome State Fault Refusal :=
  .next (issue (.frameBegin r a) (fun s =>
    let v := s.r5 a
    if bits v 63 32 ≠ 0 then .fault queueFlt
    else .next (s.mapCore (fun c => { c with frameNext := some (BitVec.ofNat 32 (bits v 31 0)) }))) s)

/-! ### DIGEST: R391 -/

/-- The bytes of one entry: AB and AS of the core, or memory as the CC sees it. -/
def digestEntry (s : State) (e : Nat × Nat × Nat) : Except Flt (List Byte × State) :=
  if liveInBuf e then
    if bufSpace e.1 ≠ 1 ∧ bufSpace e.1 ≠ 2 then .error ⟨cBufacc, 0x82, BitVec.ofNat 64 e.1⟩
    else if spaceSize (bufSpace e.1) < bufOff e.1 + e.2.1 then .error ⟨cBufacc, 0x83, BitVec.ofNat 64 e.1⟩
    else match s.core.bufMark (bufSpace e.1) (bufOff e.1) e.2.1 with
      | some f => .error f
      | none => .ok (s.core.bufBytes (bufSpace e.1) (bufOff e.1) e.2.1, s)
  else readVirt s s.hyp.toNat (BitVec.ofNat 64 e.1) e.2.1 1

/-- The digest of the entries in table order. -/
def digestAll (c : Word) (s : State) : List (Nat × Nat × Nat) → Except Flt (Word × State)
  | [] => .ok (c, s)
  | e :: t =>
    match digestEntry s e with
    | .error f => .error f
    | .ok (bs, s) => digestAll (crc64 c bs) s t

/-- The entries of a table in AB, in AS or in memory. -/
def digestTable (s : State) (va : Word) : Except Flt (List (Nat × Nat × Nat) × State) :=
  match ccBlock s va 8 8 with
  | .error f => .error f
  | .ok (h, s) =>
    let n := blockField h 0 4
    if 64 < n ∨ blockField h 4 4 ≠ 0 then .error queueFlt
    else match ccBlock s va (8 + 16 * n) 8 with
      | .error f => .error f
      | .ok (b, s) =>
        let es := (List.range n).map (liveEntry b)
        if es.any (fun e => e.2.2 != 0) then .error queueFlt else .ok (es, s)

/-- The memory that the entries of a table name, as far as DIGEST has come: up to the first entry that is not at hand, or that
faults. -/
def entryBlocks (s : State) : List (Nat × Nat × Nat) → List (Word × Nat)
  | [] => []
  | e :: t =>
    let b := (BitVec.ofNat 64 e.1, e.2.1)
    if liveInBuf e then (match digestEntry s e with
      | .error _ => []
      | .ok _ => entryBlocks s t)
    else if !(unfetched s [b]).isEmpty then [b]
    else match digestEntry (overlayBulk s) e with
      | .error _ => [b]
      | .ok _ => b :: entryBlocks s t

/-- The memory that a DIGEST reads next: the header of its table, the table, and then what the entries name, in order. -/
def digestBlocks (s : State) (va : Word) : List (Word × Nat) :=
  let table := tableBlocks s va
  table ++ (if !(unfetched s table).isEmpty then []
    else match digestTable (overlayBulk s) va with
      | .error _ => []
      | .ok (es, _) => entryBlocks s es)

/-- R391: DIGEST. The CC's own earlier accesses are performed before it reads (R132, R135). -/
def execDigest (r : BitVec 4) (d a b : BitVec 5) (s : State) : Host.Outcome State Fault Refusal :=
  .next (issue (.digest r d a b) (fun s =>
    let s := flushUnit .cc (2 * s.core.pend.length + 1) s
    let va := s.r5 a
    if s.unitPending .cc then .busy id
    else withBlocks .busy (digestBlocks s va) (fun s =>
      match digestTable s va with
      | .error f => .fault f
      | .ok (es, s) => match digestAll (s.r5 b) s es with
        | .error f => .fault f
        | .ok (c, s) => .next (s.w5 d c)) s) s)

end Sys2Proof.Machine
end

