-- ==== Sys2Proof/Machine/Coll.lean ====
section
/-! DEFINITION. Collectives (R372–R382): graphs and their checks, runs and their records, PUTs and aborts, and the words
COLL.LOAD, COLL.RUN, COLL.WAIT and TRIG.ADD. -/
namespace Sys2Proof.Machine

/-! ### Graphs: R373–R375 -/

/-- The spans of a level of the tree of R76: the pairs joined, an unpaired last one passed on. -/
def joinSpans : List (Nat × Nat) → List (Nat × Nat)
  | a :: b :: t => (a.1, b.2) :: joinSpans t
  | l => l

/-- The pairs of spans that a level of the tree combines. -/
def pairsOf : List (Nat × Nat) → List ((Nat × Nat) × (Nat × Nat))
  | a :: b :: t => (a, b) :: pairsOf t
  | _ => []

/-- Some node of the tree over these spans has these two children (R76). -/
def treeHas (p : (Nat × Nat) × (Nat × Nat)) : Nat → List (Nat × Nat) → Bool
  | 0, _ => false
  | fuel + 1, l => (pairsOf l).contains p || treeHas p fuel (joinSpans l)

/-- A record is as R374 and R375 ask. -/
def recOk (nmem ncnt op : Nat) (r : List Byte) : Bool :=
  let elo := recField r 0x0C 2
  let ehi := recField r 0x0E 2
  let lhi := recField r 0x10 2
  decide (recKind r ≤ 2) && recCtl r 31 24 == 0 && recField r 0x12 2 == 0 && (r.drop 0x28).all (· == 0#8)
    && decide (recRank r < nmem ∧ recPeer r < nmem ∧ recWait r < ncnt ∧ recDone r < ncnt)
    && (recKind r != 2 || (op != 0 && treeHas ((elo, ehi), (ehi + 1, lhi)) 11 ((List.range nmem).map (fun k => (k, k)))))

/-- The image of a graph: its header, its records, its member table. -/
structure Graph where
  header : List Byte
  records : List (List Byte)
  members : List Byte

def Graph.nops (h : List Byte) : Nat := blockField h 0 4
def Graph.nmem (h : List Byte) : Nat := blockField h 4 2

/-- The header's ranges (R373). -/
def headerOk (h : List Byte) : Bool :=
  decide (1 ≤ Graph.nops h ∧ Graph.nops h ≤ 4096 ∧ 1 ≤ Graph.nmem h ∧ Graph.nmem h ≤ 1024)
    && decide (1 ≤ blockField h 6 1 ∧ blockField h 6 1 ≤ 64) && [0, 1, 2, 3, 7, 9].contains (blockField h 7 1)
    && decide (blockField h 8 1 ≤ 3) && blockField h 9 7 == 0 && blockField h 0x20 32 == 0

/-- Address of the member table. -/
def memberAddr (h : List Byte) : Word := BitVec.ofNat 64 (blockField h 0x18 8)

/-- Read an image: the header first, whose ranges say how much follows. A buffer address is checked by R131, and holds no
image (R133, R373, R375). -/
def readGraph (s : State) (va : Word) : Except Flt (Graph × State) :=
  match ccBlock s va 64 64 with
  | .error f => .error f
  | .ok (h, s) =>
    if bits va 63 32 = 0 ∨ headerOk h = false then .error queueFlt
    else match ccBlock s (at' va 64) (64 * Graph.nops h) 64 with
      | .error f => .error f
      | .ok (rs, s) => match ccBlock s (memberAddr h) (8 * Graph.nmem h) 8 with
        | .error f => .error f
        | .ok (ms, s) => .ok (⟨h, chunks 64 rs (Graph.nops h), ms⟩, s)

/-- The memory that an image lies in: the header, and the rest once the header is at hand. -/
def graphBlocks (s : State) (va : Word) : List (Word × Nat) :=
  blockOf va 64 ++ (match ccBlock (overlayBulk s) va 64 64 with
    | .error _ => []
    | .ok (h, _) => if headerOk h then blockOf (at' va 64) (64 * Graph.nops h) ++ blockOf (memberAddr h) (8 * Graph.nmem h) else [])

/-- The member dwords. -/
def Graph.peers (g : Graph) : List Nat := (chunks 8 g.members (Graph.nmem g.header)).map bytesToNat

/-- The member dwords that name a core of a device. -/
def Graph.ranks (g : Graph) (dev lnum : Nat) : List Nat :=
  (List.range g.peers.length).filter (fun k => nbits (g.peers.getD k 0) 9 0 == dev && nbits (g.peers.getD k 0) 18 10 == lnum)

/-- SIG: the CRC over COUNT, ETYPE, OP and HASH, the two small fields as 4 bytes each (R375). (DEDUCED, assumption 29.) -/
def Graph.sig (g : Graph) : Word :=
  let hash := crc64 0#64 (g.records.flatten ++ g.members)
  crc64 0#64 ((g.header.drop 0x10).take 8 ++ natToBytes 4 (blockField g.header 7 1) ++ natToBytes 4 (blockField g.header 8 1)
    ++ natToBytes 8 hash.toNat)

/-- R375: the rank of the core that loads, where the image passes its checks. -/
def Graph.rank (g : Graph) (dev lnum : Nat) : Option Nat :=
  let nmem := Graph.nmem g.header
  if !g.records.all (recOk nmem (blockField g.header 6 1) (blockField g.header 8 1)) then none
  else if g.peers.any (fun p => decide (383 < nbits p 18 10) || nbits p 63 31 != 0) then none
  else match g.ranks dev lnum with
    | [k] => some k
    | _ => none

/-! ### Data: R377 -/

/-- Bytes of an element. -/
def CollRun.esize (r : CollRun) : Nat := fmtBits r.etype / 8

/-- Address of a span: at 2^32 or above, and a multiple of the element size. -/
def CollRun.addr (r : CollRun) (base off : Nat) : Option Word :=
  let a := r.bases.getD base 0#64 + BitVec.ofNat 64 off
  if bits a 63 32 = 0 ∨ a.toNat % r.esize ≠ 0 then none else some a

/-- The parts of a span that lie on other devices, translated by the owner's tables. -/
def runParts (s : State) (r : CollRun) (va : Word) (n : Nat) : List (Nat × Nat × Nat) :=
  (pageParts (n / 256 + 2) va n).filterMap (fun p => match translate s r.ctx.tenant p.1 0 with
    | .ok (pa, leaf, _) => if s.isLocal pa then none else some (pa, p.2, pteKey leaf)
    | .error _ => none)

/-- The blocks of other devices that a record has asked for. -/
def CollRun.blocksOf (r : CollRun) (k : Nat) : List (Nat × Option (List Byte)) := (r.bulk.filter (fun b => b.1 == k)).map (·.2)

/-- Read a span of record `k`. -/
def runRead (s : State) (r : CollRun) (k : Nat) (va : Word) (n : Nat) : Except Flt (List Byte × State) :=
  readAsFrom s (r.blocksOf k) r.ctx.tenant va n (n / 4096 + 2)

/-- Write a span page by page: on this device, or by packets whose answers do as `kind` says. -/
def runWrite (s : State) (r : CollRun) (kind : WaitKind) (va : Word) (bs : List Byte) : Nat → Except Flt State
  | 0 => .ok s
  | fuel + 1 =>
    if bs.isEmpty then .ok s
    else if !canonical va then .error ⟨cPage, 0x48, va⟩
    else
      let k := min bs.length (256 - va.toNat % 256)
      match translate s r.ctx.tenant va 1 with
      | .error f => .error f
      | .ok (pa, leaf, s) =>
        let s := if s.isLocal pa then s.writePhys pa (bs.take k)
          else (sendFor r.source s (paDev pa) 0 (pteKey leaf) (.memWrite pa (bs.take k)) kind).2
        runWrite s r kind (va + BitVec.ofNat 64 k) (bs.drop k) fuel

/-- The operation of a graph on two elements: the earlier and the later operand (R377). -/
def collOp (etype op x y : Nat) : Nat :=
  match fmtOf etype with
  | some f => match op with
    | 1 => (f.addC .rne x y).1
    | 2 => (f.maxC x y).1
    | _ => (f.minC x y).1
  | none =>
    let w := fmtBits etype
    match op with
    | 1 => (x + y) % 2 ^ w
    | 2 => if sextNat w x < sextNat w y then y else x
    | _ => if sextNat w y < sextNat w x then y else x

/-- The result of a RED over its spans. -/
def redBytes (r : CollRun) (loce : Bool) (dst src : List Byte) : List Byte :=
  let z := r.esize
  let es (l : List Byte) : List Nat := (chunks z l (l.length / z)).map bytesToNat
  ((es dst).zip (es src)).flatMap (fun p =>
    natToBytes z (if loce then collOp r.etype r.op p.1 p.2 else collOp r.etype r.op p.2 p.1))

/-- What a record reads: its source, and for a RED its destination. -/
def CollRun.reads (r : CollRun) (x : List Byte) : List (Option Word × Nat) :=
  let n := recNel x * r.esize
  (r.addr (recSrcb x) (recSoff x), n) :: (if recKind x = 2 then [(r.addr (recDstb x) (recDoff x), n)] else [])

/-- The blocks of other devices that record `k` reads and that have not come. -/
def missing (s : State) (r : CollRun) (k : Nat) : List (Nat × Nat × Nat) :=
  ((r.reads (r.records.getD k [])).flatMap (fun p => match p.1 with
    | none => []
    | some va => runParts s r va p.2)).filter (fun p => !(r.blocksOf k).any (fun b => b.1 == p.1 && b.2.isSome))

/-- Ask for blocks. -/
def askRun (s : State) (n k : Nat) (r : CollRun) (ps : List (Nat × Nat × Nat)) : State :=
  let new := ps.filter (fun p => !(r.blocksOf k).any (fun b => b.1 == p.1))
  let s : State := { s with colls := s.colls.set n { r with bulk := r.bulk ++ new.map (fun p => (k, p.1, none)) } }
  new.foldl (fun s p => (sendFor r.source s (paDev p.1) 0 p.2.2 (.memRead p.1 p.2.1) (.collRead r.handle r.generation.toNat k)).2) s

/-- The member dword of a rank. -/
def CollRun.member (r : CollRun) (k : Nat) : BitVec 32 := r.members.getD k 0#32

/-- The packet of a PUT (R377, R378); its first to a receiver carries SIG, however often it is sent. -/
def putPacket (s : State) (r : CollRun) (k : Nat) (data : List Byte) : PutPacket :=
  let x := r.records.getD k []
  let m := r.member (recPeer x)
  { id := s.packetId + 1, srcDev := s.dev.toNat, srcLnum := r.lnum, dstDev := peerDev m, dstLnum := peerLnum m, key := peerKey m, tenant := r.ctx.tenant,
    flowSeq := s.flowSeq.get (r.lnum * 1024 + peerDev m), handle := r.handle, generation := r.generation.toNat, srcRank := r.rank, dstRank := recPeer x, record := k,
    sig := if (r.sentTo.find? (fun q => q.1 == recPeer x)).all (fun q => q.2 == k) then some r.sig else none, dst := recDstb x * 2 ^ 64 + recDoff x, data := data,
    len := data.length, foreign := false, counter := if recDen x then some (recDone x) else none }

/-- The packet of the fabric that carries a PUT. -/
def PutPacket.packet (q : PutPacket) : Packet :=
  { (default : Packet) with id := q.id, srcDev := q.srcDev, srcLnum := q.srcLnum, dstDev := q.dstDev, dstLnum := q.dstLnum, tenant := q.tenant, key := q.key,
                            viaDev := q.srcDev, viaLnum := q.srcLnum, flowSeq := q.flowSeq, foreign := q.foreign, req := .put q }

/-- A PUT of the run is on its way. -/
def State.putOut (s : State) (r : CollRun) (k : Nat) : Bool :=
  s.puts.any (fun p => p.srcDev == s.dev.toNat && p.srcLnum == r.lnum && p.handle == r.handle && p.tenant == r.ctx.tenant
    && p.srcRank == r.rank && p.record == k)

/-- Send a PUT, once its source is at hand. -/
def putStart (s : State) (n k : Nat) (r : CollRun) : State :=
  let x := r.records.getD k []
  match missing s r k with
  | p :: ps => askRun s n k r (p :: ps)
  | [] =>
    match (match r.addr (recSrcb x) (recSoff x) with
      | none => none
      | some va => (runRead s r k va (recNel x * r.esize)).toOption) with
    | none => failRecord s n r k 4 0
    | some (d, _) =>
      let p := putPacket s r k d
      let (x', s) := s.launch r.lnum (PutPacket.packet p) true
      { s with packetId := s.packetId + 1, puts := s.puts ++ [{ p with flowSeq := x'.flowSeq }],
               colls := s.colls.set n { r with
                 sentTo := if r.sentTo.any (fun q => q.1 == recPeer x) then r.sentTo else (recPeer x, k) :: r.sentTo,
                 out := (k, s.gtc) :: r.out.filter (fun q => q.1 != k), bulk := r.bulk.filter (fun b => b.1 != k) } }

/-! ### Events: R376–R380 -/

/-- R376: the queued record fires, and the next of its rank is queued. -/
def execCollRecordFire (run : Nat) (s : State) : Host.Outcome State Fault Refusal :=
  .next (match s.run? run with
    | none => s
    | some r =>
      match r.queued with
      | none => s
      | some k =>
        if !r.met || !r.running || r.aborted.isSome then s
        else
          let r' := { r with fired := r.fired ++ [k] }.queueFrom (k + 1)
          let s : State := { s with colls := s.colls.set run r' }
          if recKind (r.records.getD k []) = 1 then putStart s run k r' else s)

/-- Parts of a record are on their way to their homes. -/
def State.writing (s : State) (r : CollRun) (k : Nat) : Bool :=
  s.waiting.any (fun w => w.kind == .collWrite r.handle r.generation.toNat k && w.task == r.ctx.task && w.pkt.srcLnum == r.lnum)

/-- Act on a core and come back, where the act may fail. -/
def withinE (s : State) (n : Nat) (f : State → Except Flt State) : Except Flt State :=
  match f (focus n s) with
  | .ok t => .ok (focus s.lnum t)
  | .error e => .error e

/-- Write a local record: it is complete where all its bytes lie on this device, and else when the last packet is answered (R377).
(DEDUCED, assumption 29.) -/
def recordEnd (s : State) (n k : Nat) (r : CollRun) : State :=
  let x := r.records.getD k []
  let len := recNel x * r.esize
  let kind := WaitKind.collWrite r.handle r.generation.toNat k
  let fail : State := failRecord s n r k 4 0
  match r.addr (recSrcb x) (recSoff x), r.addr (recDstb x) (recDoff x) with
  | some src, some dst =>
    match runRead s r k src len, runRead s r k dst (if recKind x = 2 then len else 0) with
    | .ok (bs, _), .ok (ds, _) =>
      match withinE s r.lnum (fun s => runWrite s r kind dst (if recKind x = 2 then redBytes r (recLoce x) ds bs else bs) (len / 256 + 2)) with
      | .ok s => if s.writing r k then s else endRecord s n k r
      | .error _ => fail
    | _, _ => fail
  | _, _ => fail

/-- R377: a fired record completes. A PUT completes here when its receiver is on another device and has accepted it. -/
def execCollRecordComplete (run rec : Nat) (s : State) : Host.Outcome State Fault Refusal :=
  .next (match s.run? run with
    | none => s
    | some r =>
      if !r.fired.contains rec then s
      else
        let x := r.records.getD rec []
        if recKind x = 1 then
          if !s.putOut r rec then (if (r.refused.any (fun p => p.1 == rec)) then s else putStart s run rec r)
          else if peerDev (r.member (recPeer x)) = s.dev.toNat then s
          else
            putRun { s with puts := s.puts.filter (fun p => !(p.srcLnum == r.lnum && p.handle == r.handle && p.record == rec && p.srcDev == s.dev.toNat)) }
              run { r with fired := r.fired.erase rec, refused := r.refused.filter (fun p => p.1 != rec) }
        else if s.writing r rec then s
        else match missing s r rec with
          | p :: ps => askRun s run rec r (p :: ps)
          | [] => recordEnd s run rec r)

/-- A page of a PUT's destination passes step 4 of R364 at its port. -/
def putPageOk (k : BitVec 128) (pa : Nat) : Bool :=
  decide (pa % 2 ^ 42 < 2 ^ 41) && decide (keyBase k ≤ pa % 2 ^ 42 / 4096 ∧ pa % 2 ^ 42 / 4096 ≤ keyLimit k)

/-- Steps 1 to 3 of R364 for a PUT at a port: the step that fails. -/
def putKey (k : BitVec 128) (p : PutPacket) : Option Nat :=
  if !k.getLsbD 127 then some 1 else if keyTenant k ≠ p.tenant then some 2 else if !k.getLsbD 125 then some 3 else none

/-- The parts of a PUT's destination in this device's memory. -/
def putParts (s : State) (p : PutPacket) (r : CollRun) (dst : Word) : List (Nat × Nat) :=
  (pageParts (p.data.length / 256 + 2) dst p.data.length).filterMap (fun q => match translate s r.ctx.tenant q.1 1 with
    | .ok (pa, _, _) => if s.isLocal pa then some (pa, q.2) else none
    | .error _ => none)

/-- A port refuses a PUT (R364): its cause goes to the sender, and the port counts it. -/
def refusePut (port : Nat) (p : PutPacket) (cause : Nat) (s : State) : State :=
  { answerPut s p cause with drops := s.drops.set port (s.drops.get port + 1) }

/-- A PUT aborts the run that it came to; its sender's record is over without it (R380). (DEDUCED, assumption 29.) -/
def putAborts (p : PutPacket) (r : CollRun) (cause : Nat) (s : State) : State := putOver p (abortFrom s r cause 0)

/-- A PUT that has passed its port writes its data, and raises its counter when they are visible (R377). -/
def putLand (p : PutPacket) (r : CollRun) (dst : Word) (s : State) : State :=
  match withinE s r.lnum (fun s => runWrite s r (.collLand p) dst p.data (p.data.length / 256 + 2)) with
  | .error _ => putAborts p r 4 s
  | .ok s => if s.waiting.any (fun w => w.kind == .collLand p) then s else putVisible p s

/-- A PUT at its receiving processor: refused by its port or by its run, aborting the run, or performed. `port` is none for a
sender on this device. A marked word under the destination gives the record and the cause of R366. A PUT of whose packets one has been
refused has no effect. -/
def putArrive (port : Option Nat) (q : PutPacket) (s : State) : State :=
  let (lead, s) := s.gathered (PutPacket.packet q)
  let p : PutPacket := { q with data := lead ++ q.data }
  match port.bind (fun k => (putKey (s.keyAt k p.key) p).map (fun c => (k, c))) with
  | some (k, c) => refusePut k p c s
  | none =>
  if p.data.length ≠ p.len then s
  else match putTarget s p with
  | none => if port.isNone then markRefused s p else answerPut s p notRunning
  | some n => match s.run? n with
    | none => s
    | some r =>
      let at' := r.addr (p.dst / 2 ^ 64) (p.dst % 2 ^ 64)
      let parts := (at'.map (putParts s p r)).getD []
      match port.bind (fun k => if parts.all (fun q => putPageOk (s.keyAt k p.key) q.1) then none else some k) with
      | some k => refusePut k p 4 s
      | none =>
        if p.sig.isSome && p.sig != some r.sig then putAborts p r 1 s
        else match at' with
          | none => putAborts p r 4 s
          | some dst =>
            match port.bind (fun _ => parts.findSome? (fun q => s.memMark q.1 q.2)) with
            | some f =>
              answerPut (report { s with marked := s.marked.filter (fun m => m.2 != f.addr.toNat) } (homeEcc s p.tenant)) p 6
            | none => putLand p r dst s

/-- sys.gtc periods of 1 µs (R17). -/
def retryPeriods : Nat := 940

/-- R378: a refused PUT is sent again after 1 µs; a receiver on another device refuses here. -/
def execCollPutRetry (run rec : Nat) (s : State) : Host.Outcome State Fault Refusal :=
  .next (match s.run? run with
    | none => s
    | some r =>
      if !r.fired.contains rec || recKind (r.records.getD rec []) != 1 then s
      else
        match r.refused.find? (fun q => q.1 == rec) with
        | some q => if s.putOut r rec || decide ((s.gtc - q.2.2).toNat < retryPeriods) then s else putStart s run rec r
        | none =>
          match s.puts.find? (fun p => p.srcLnum == r.lnum && p.handle == r.handle && p.record == rec && p.dstDev != s.dev.toNat) with
          | some p => markRefused { s with puts := s.puts.erase p } p
          | none => s)

/-- R380: a refusal has lasted 2 ms. -/
def execCollRefusalTimeout (run rec : Nat) (s : State) : Host.Outcome State Fault Refusal :=
  .next (match s.run? run with
    | none => s
    | some r =>
      match r.refused.find? (fun q => q.1 == rec) with
      | none => s
      | some q =>
        if responseLimit ≤ (s.gtc - q.2.1).toNat then failRecord s run r rec 2 0 else s)

/-- R380: an abort from another device reaches a member here. -/
def execCollAbortReceive (member : CollMember) (handle generation : Nat) (detail : BitVec 16) (s : State) : Host.Outcome State Fault Refusal :=
  .next (abortRuns s [member.lnum] member.tenant handle generation detail)

/-- The context of a run is on its core. -/
def State.hasRun (s : State) (r : CollRun) : Bool :=
  !r.finished && (match (s.coreAt r.lnum).ctx with
    | some x => x.task == r.ctx.task && x.tenant == r.ctx.tenant
    | none => false)

/-- Raise F.COLL once: at the context's CC, or held with a saved context (R380). -/
def raiseColl (s : State) (n : Nat) (r : CollRun) (d : BitVec 16) : State :=
  let f (c : Core) : Raised := ⟨.seq .cc, cColl, d.toNat, 0#64, 0#64, c.hyp⟩
  if s.hasRun r then
    if (s.coreAt r.lnum).mode == .running then
      within r.lnum (fun s => takeFault s (f s.core)) { s with colls := s.colls.set n { r with raised := true } }
    else s
  else if s.saves.any (fun v => v.task == r.ctx.task && v.lnum == r.lnum) then
    let hold (v : SavedContext) : SavedContext :=
      if v.task == r.ctx.task && v.lnum == r.lnum then { v with core := { v.core with heldFaults := v.core.heldFaults ++ [f v.core] } } else v
    { s with colls := s.colls.set n { r with raised := true }, saves := s.saves.map hold }
  else s

/-- R380: F.COLL. -/
def execCollFaultRaise (run : Nat) (s : State) : Host.Outcome State Fault Refusal :=
  .next (match s.run? run with
    | none => s
    | some r => match r.aborted with
      | some d => if r.raised then s else raiseColl s run r d
      | none => s)

/-! ### Words: R381, R382 -/

/-- The handle of the context on the core in focus. -/
def State.handleIx (s : State) (h : Nat) : Option Nat :=
  s.colls.findIdx? (fun r => r.lnum == s.lnum && r.handle == h && r.isOf s.core.context)

/-- The run of a handle. -/
def State.handle (s : State) (h : Nat) : Option CollRun := (s.handleIx h).bind s.run?

/-- Set the run of a handle. -/
def State.setHandle (s : State) (h : Nat) (r : CollRun) : State :=
  match s.handleIx h with
  | some n => { s with colls := s.colls.set n r }
  | none => { s with colls := s.colls ++ [r] }

/-- F.HYPSO under a hypothesis. -/
def collHyp (s : State) (body : State → WordResult) : WordResult := if s.hyp ≠ 0#8 then .fault ⟨cHypso, 0, 0#64⟩ else body s

/-- The handle is running. -/
def State.handleRuns (s : State) (h : Nat) : Bool := match s.handle h with
  | some r => r.running
  | none => false

/-- The F.COLL of a handle whose abort has not been raised yet comes before a word that would start the handle anew (R380). -/
def State.abortFirst (s : State) (h : Nat) (body : State → WordResult) : WordResult :=
  match s.handle h with
  | some run => match run.aborted with
    | some d => if run.raised then body s else .spent (fun s => s.setHandle h { run with raised := true }) ⟨cColl, d.toNat, 0#64⟩
    | none => body s
  | none => body s

/-- R382: COLL.LOAD. (DEDUCED, assumption 29.) -/
def execCollLoad (r : BitVec 4) (a b : BitVec 5) (s : State) : Host.Outcome State Fault Refusal :=
  .next (issue (.collLoad r a b) (fun s => collHyp s (fun s =>
    let va := s.r5 a
    let h := (s.r5 b).toNat
    let s := flushUnit .cc (2 * s.core.pend.length + 1) s
    if 7 < h ∨ s.handleRuns h = true then .fault queueFlt
    else if s.unitPending .cc then .busy id
    else s.abortFirst h (fun s => withBlocks .busy (graphBlocks s va) (fun s =>
      match readGraph s va with
      | .error f => .fault f
      | .ok (g, s) =>
        match g.rank s.dev.toNat s.lnum with
        | none => .fault queueFlt
        | some k =>
          let gen := ((s.handle h).map (·.generation)).getD 0#16
          .next (s.setHandle h
            { (default : CollRun) with lnum := s.lnum, handle := h, ctx := s.core.context, ncnt := blockField g.header 6 1,
                                       etype := blockField g.header 7 1, op := blockField g.header 8 1, rank := k, sig := g.sig,
                                       members := g.peers.map (BitVec.ofNat 32), records := g.records, generation := gen })) s))) s)

/-- A release at .sys of the CC: its accesses are performed and acknowledged first (R162). -/
def ccRelease (body : State → WordResult) (s : State) : WordResult :=
  let s := flushUnit .cc (2 * s.core.pend.length + 1) s
  if !s.released then .waits writeBack else body s

/-- R382: COLL.RUN. (DEDUCED, assumption 29.) -/
def execCollRun (r : BitVec 4) (a b : BitVec 5) (s : State) : Host.Outcome State Fault Refusal :=
  .next (issue (.collRun r a b) (fun s => collHyp s (fun s =>
    let h := (s.r5 a).toNat
    let va := s.r5 b
    if 7 < h ∨ s.handleRuns h = true then .fault queueFlt
    else match s.handle h with
    | none => .fault queueFlt
    | some run =>
      if s.unitPending .cc then .waits id
      else s.abortFirst h (fun s => withBlocks .blocked (blockOf va 64) (fun s =>
        match ccBlock s va 64 64 with
        | .error f => .fault f
        | .ok (bs, s) =>
          let bases := (chunks 8 bs 8).map (fun d => BitVec.ofNat 64 (bytesToNat d))
          if bases.any (fun b => decide (b.toNat < 2 ^ 32)) then .fault ⟨cBufacc, 0, va⟩
          else ccRelease (fun s =>
            let x : CollRun := { run with running := true, bases := bases, counters := [],
                                          generation := run.generation + 1, fired := [], refused := [], out := [], sentTo := [], aborted := none,
                                          raised := false, bulk := [] }
            let s := s.setHandle h (x.queueFrom 0)
            .next (mapRuns s id)) s) s))) s)

/-- R382: COLL.WAIT. An abort that has been raised already is not raised again. -/
def execCollWait (r : BitVec 4) (a : BitVec 5) (s : State) : Host.Outcome State Fault Refusal :=
  .next (issue (.collWait r a) (fun s => collHyp s (fun s =>
    let h := (s.r5 a).toNat
    if 7 < h then .fault queueFlt
    else match s.handle h with
    | none => .fault queueFlt
    | some run =>
      if run.running then .blocked id 8
      else match run.aborted with
        | some d =>
          if run.raised then .next (observe s)
          else .spent (fun s => s.setHandle h { run with raised := true }) ⟨cColl, d.toNat, 0#64⟩
        | none => .next (observe s))) s)

/-- R382: TRIG.ADD. -/
def execTrigAdd (r : BitVec 4) (a b : BitVec 5) (s : State) : Host.Outcome State Fault Refusal :=
  .next (issue (.trigAdd r a b) (fun s => collHyp s (fun s =>
    let v := s.r5 a
    let h := bits v 2 0
    let c := bits v 13 8
    if bits v 7 3 ≠ 0 ∨ bits v 63 14 ≠ 0 ∨ bits (s.r5 b) 63 32 ≠ 0 then .fault queueFlt
    else match s.handle h with
    | none => .fault queueFlt
    | some run =>
      if !run.running || decide (run.ncnt ≤ c) then .fault queueFlt
      else ccRelease (fun s => .next (s.setHandle h (run.count c (BitVec.ofNat 32 (bits (s.r5 b) 31 0))))) s)) s)

end Sys2Proof.Machine
end

