-- ==== Sys2Proof/Machine/Arrive.lean ====
section
/-! DEFINITION. What arrives at a port, or at a core from this device: the flows and the reorder buffer of R359, the checks of
R364, the hops of an STC (R370), and the PUTs of a collective (R378). -/
namespace Sys2Proof.Machine

/-- The flow of an arrival: the core that put it on the fabric (R359). -/
def Arrival.flow (a : Arrival) : Nat := match a with
  | .req p => p.viaDev * 512 + p.viaLnum
  | .put p => p.srcDev * 512 + p.srcLnum

/-- Its number in the flow. -/
def Arrival.seq (a : Arrival) : Nat := match a with
  | .req p => p.flowSeq
  | .put p => p.flowSeq

/-- What R364 and R378 do with an arrival whose turn it is. -/
def Arrival.perform (port : Nat) (a : Arrival) (s : State) : State := match a with
  | .req p => checkAnswer port s p
  | .put p => putArrive (some port) p s

/-- The negative response for an arrival that is dropped. -/
def Arrival.refuse (cause : Nat) (a : Arrival) (s : State) : State := match a with
  | .req p => reply s p (cause + hopOf p) []
  | .put p => answerPut s p cause

/-- The packet uses an option that this device does not implement, or a payload of more than 256 bytes (R354). -/
def unsupported (p : Packet) : Bool :=
  p.foreign || (match p.req with
    | .winWrite _ _ data _ => decide (256 < data.length)
    | .winBytes _ data => decide (256 < data.length)
    | .winRead _ _ n => decide (256 < n)
    | .memRead _ n => decide (256 < n)
    | .memWrite _ data => decide (256 < data.length)
    | .carry _ _ _ _ _ _ data => decide (256 < data.length)
    | .part _ data => decide (256 < data.length)
    | .put q => q.foreign || decide (256 < q.data.length)
    | _ => false)

/-- How far ahead of its turn an arrival is. -/
def State.ahead (s : State) (a : Arrival) : Nat := (a.seq + 65536 - s.flowDone.get a.flow) % 65536

/-- The next number of a flow has had its turn. -/
def State.passTurn (s : State) (flow : Nat) : State :=
  { s with flowDone := s.flowDone.set flow ((s.flowDone.get flow + 1) % 65536) }

/-- Perform, of the waiting packets of a flow, those whose turn it is, past the numbers that are lost; at most `fuel`. -/
def drainFlow (flow : Nat) : Nat → State → State
  | 0, s => s
  | fuel + 1, s =>
    if s.flowLost.contains (flow, s.flowDone.get flow) then
      drainFlow flow fuel (State.passTurn { s with flowLost := s.flowLost.erase (flow, s.flowDone.get flow) } flow)
    else
      match s.reorder.find? (fun r => r.2.1.flow == flow && r.2.1.seq == s.flowDone.get flow) with
      | none => s
      | some r => drainFlow flow fuel (r.2.1.perform r.1 (State.passTurn { s with reorder := s.reorder.erase r } flow))

/-- Enough turns for all that waits and all that is lost. -/
def drainAll (flow : Nat) (s : State) : State := drainFlow flow (s.reorder.length + s.flowLost.length) s

/-- Places of a port's reorder buffer (R359). -/
def reorderDepth : Nat := 512

/-- A packet of another device arrives at a port. One that is early waits in the reorder buffer while it has room; one
whose number has passed is dropped. (DEDUCED, assumption 24.) -/
def arriveAt (port : Nat) (a : Arrival) (s : State) : State :=
  if s.ahead a = 0 then drainAll a.flow (a.perform port (s.passTurn a.flow))
  else if s.ahead a < 32768 ∧ (s.reorder.filter (fun r => r.1 == port)).length < reorderDepth then
    { s with reorder := s.reorder ++ [(port, a, s.gtc)] }
  else s

/-- A request comes through a port. -/
def requestAt (port : Nat) (p : Packet) (s : State) : State :=
  if p.dstDev ≠ s.dev.toNat then s
  else if unsupported p then { s with portErrors := s.portErrors.set port (s.portErrors.get port + 1) }
  else arriveAt port (.req p) s

/-- A packet has come to the stop at which it ends, after those before it in its flow (R257, R359, R361). -/
def arriveHere (p : Packet) (s : State) : State :=
  if p.dstDev = s.dev.toNat ∧ s.flowFirst p = true then
    let s := s.landed p
    match p.req with
    | .resp cause data => reply s p cause data
    | .put q => putArrive none q { s with puts := s.puts.filter (fun x => x.id != q.id) }
    | _ => performAnswer s p
  else s

/-- The packet is on its last stop inside the device: it has come from a core of it, or has passed a port. -/
def State.inside (s : State) (p : Packet) : Bool := s.packets.any (fun f => f.pkt == p && decide (64 ≤ f.stop))

/-- R364: a request arrives through a port, or at its target. -/
def execPortRequestCheck (port : Nat) (p : Packet) (s : State) : Host.Outcome State Fault Refusal :=
  .next (if s.inside p then arriveHere p s else if p.viaDev = s.dev.toNat then s else requestAt port p s)

/-- R370: peer `k` of a chain: through a port when the previous hop is another device. -/
def execStcPeerForward (port : Nat) (p : Packet) (s : State) : Host.Outcome State Fault Refusal :=
  .next (match p.req with
    | .stc .. => if s.inside p then arriveHere p s else if p.viaDev = s.dev.toNat then s else requestAt port p s
    | _ => s)

/-- R257: a carry packet is delivered, in send order and once: it is inside the device, past its port where it has come through one. -/
def execCarryPacketDeliver (p : Packet) (s : State) : Host.Outcome State Fault Refusal :=
  .next (if isCarry p then arriveHere p s else s)

/-- R378: a PUT packet arrives: at a port, or at the communication processor of its target on this device. -/
def execCollPutReceive (port : Nat) (p : PutPacket) (s : State) : Host.Outcome State Fault Refusal :=
  .next (if p.dstDev ≠ s.dev.toNat then s
    else if p.srcDev = s.dev.toNat then
      match s.packets.find? (fun f => f.pkt.req == .put p && f.stop == commStop) with
      | some f => arriveHere f.pkt s
      | none => s
    else if p.foreign ∨ 256 < p.data.length then { s with portErrors := s.portErrors.set port (s.portErrors.get port + 1) }
    else arriveAt port (.put p) s)

/-- sys.gtc periods of 64 µs (R17). -/
def gapLimit : Nat := 60160

/-- R359: the gap before a waiting packet of a flow has stood for 64 µs: that packet and every later one of the flow are
dropped and reported, and the numbers from the gap on are lost; packets that wait before the gap keep their turns.
(DEDUCED, assumption 24.) -/
def execReorderGapTimeout (srcDev srcLnum : Nat) (s : State) : Host.Outcome State Fault Refusal :=
  let flow := srcDev * 512 + srcLnum
  let pos (r : Nat × Arrival × Word) : Nat := s.ahead r.2.1
  let mine := s.reorder.filter (fun r => r.2.1.flow == flow)
  let late := mine.filter (fun r => decide (gapLimit ≤ (s.gtc - r.2.2).toNat))
  .next (match late with
    | [] => s
    | r :: t =>
      let first := t.foldl (fun m x => min m (pos x)) (pos r)
      let drop := mine.filter (fun x => decide (first ≤ pos x))
      let top := drop.foldl (fun m x => max m (pos x)) 0
      let low := (mine.filter (fun x => decide (pos x < first))).foldl (fun m x => max m (pos x + 1)) 0
      let lost := (List.range (top + 1)).drop low
      let s' := drop.foldl (fun s x => x.2.1.refuse 8 s) s
      drainAll flow { s' with reorder := s.reorder.filter (fun x => !drop.contains x),
                              flowLost := s.flowLost ++ lost.map (fun n => (flow, (s.flowDone.get flow + n) % 65536)) })

end Sys2Proof.Machine
end

