-- ==== Sys2Proof/Machine/Faults.lean ====
section
/-! DEFINITION. Fault events (R127, R338, R345–R347, R387): faults that find a sequencer as it stands, the posting of
records, and the responses of a host core. -/
namespace Sys2Proof.Machine

/-! ### Faults of a sequencer as it stands -/

/-- Act as sequencer `u` of the core in focus and come back. -/
def asUnit (u : Sqr) (f : State → State) (s : State) : State := { f { s with unit := u } with unit := s.unit }

/-- F.STALL with the cause that blocks the sequencer. -/
def stallExpiry (u : Sqr) (s : State) : State :=
  if s.stallDue u then raiseAt s u (s.stallOf u) else s

/-- R127: a sequencer's blocked count exceeds the stall limit. -/
def execStallLimitExpiry (lnum : Nat) (u : Sqr) (s : State) : Host.Outcome State Fault Refusal :=
  .next (within lnum (asUnit u (stallExpiry u)) s)

/-- The next base word of the acting sequencer is not ready in this cycle (R387). -/
def State.nextUnready (s : State) : Bool :=
  match fetch s with
  | .word w _ => match decodeIn s.unit s.pfx w.toNat with
    | .ok i => s.dividing i || (issueBlock i s).isSome
    | .error _ => false
  | _ => false

/-- F.STAMP for a stamped group whose count has passed, or has come with the group unready. -/
def stampCheck (s : State) : State :=
  if !s.active then s
  else match stampState s with
    | .overrun => faultOf s s.unit ⟨cStamp, 0, 0#64⟩
    | .now => if s.nextUnready then faultOf s s.unit ⟨cStamp, 0, 0#64⟩ else s
    | _ => s

/-- R387: a stamped group overruns. -/
def execStampOverrun (lnum : Nat) (u : Sqr) (s : State) : Host.Outcome State Fault Refusal :=
  .next (within lnum (asUnit u stampCheck) s)

/-- The code is one that a fault can have (R337). -/
def codeOccurs (code : Nat) : Bool := decide (1 ≤ code ∧ code ≤ 0x15) || code == 0x20

/-- A fault that comes from outside the model's own checks, such as an error that a read finds (R338, R396). -/
def faultStop (unit : FUnit) (code detail : Nat) (addr : Word) (s : State) : State :=
  if !codeOccurs code then s
  else
    let r : Raised := match unit with
      | .seq u => raisedBy s u ⟨code, detail, addr⟩
      | u => raisedByUnit u (s.unitHyp u) ⟨code, detail, addr⟩
    takeFault s r

/-- R338: a unit of a core raises a fault. -/
def execFaultStop (lnum : Nat) (unit : FUnit) (code detail : Nat) (addr : Word) (s : State) : Host.Outcome State Fault Refusal :=
  .next (within lnum (faultStop unit code detail addr) s)

/-! ### Delivery: R345 -/

/-- The 64 bytes of a record, its fields in the order of R345. (DEDUCED, assumption 31.) -/
def FaultRecord.bytes (r : FaultRecord) : List Byte :=
  [r.frame, r.cause, r.task, r.rcb, BitVec.ofNat 64 r.domain, r.handler, r.gtc, 0#64].flatMap (fun w => natToBytes 8 w.toNat)

/-- Records that the fault queue holds (R345). -/
def faultqDepth : Nat := 4096

/-- Post the oldest record that waits, where the queue has a place. -/
def postRecord (s : State) : State :=
  match s.unposted with
  | [] => s
  | r :: t =>
    if faultqDepth ≤ s.faultq.length then s
    else
      let s := s.writePhys (s.fqBase.toNat + 64 * s.fqTail) r.bytes
      { s with unposted := t, faultq := s.faultq ++ [r], fqTail := (s.fqTail + 1) % faultqDepth, hostIrqs := s.hostIrqs + 1 }

/-- R345: the IOD posts a record and interrupts the host cores. -/
def execFaultRecordPost (s : State) : Host.Outcome State Fault Refusal := .next (postRecord s)

/-- R345: the region manager advances FQHEAD: the records before it are consumed. -/
def execFqheadWrite (v : Word) (s : State) : Host.Outcome State Fault Refusal :=
  let h := v.toNat % faultqDepth
  .next (s.byHost { s with fqHead := h, faultq := s.faultq.drop ((h + faultqDepth - s.fqHead) % faultqDepth) })

/-! ### Responses: R346, R347 -/

/-- The task record that a response names. -/
def sameTask (w task : Word) : Bool := w.toNat / 64 == task.toNat / 64

/-- The save of a held context with an unanswered frame waits for its last write. -/
def Core.parks (c : Core) : Bool := c.mode == .saving && (match c.parking with
  | some (.context _ e) => !e
  | _ => false)

/-- The core holds a context with an unanswered frame of this task. -/
def Core.heldFor (w : Word) (c : Core) : Bool :=
  (c.mode == .held || c.parks) && !c.answered && (match c.ctx with
    | some x => sameTask w x.task
    | none => false)

/-- Number of the core that a response names. (DEDUCED, assumption 31.) -/
def State.heldCore (s : State) (w : Word) : Option Nat :=
  if s.core.heldFor w then some s.lnum else (List.find? (fun p => p.2.heldFor w) s.others).map (·.1)

/-- The saved context with an unanswered frame that a response names. -/
def State.savedFor (s : State) (w : Word) : Option SavedContext :=
  s.saves.find? (fun v => sameTask w v.task && v.core.primary.isSome && !v.core.answered)

/-- HANDLED in the frame's CAUSE (R339). -/
def markHandled (s : State) (tenant : Nat) (frame : Word) : State :=
  let c := peekAs s tenant frame 8
  if c / 2 ^ 36 % 2 = 1 then s else pokeAs s tenant frame 8 (c + 2 ^ 36)

/-- RESUME of a held core: HANDLED, and the restart in place; of one whose save is under way, as for the saved task. -/
def resumeHeld (s : State) : State :=
  let t := markHandled (s.mapCore (fun c => { c with handled := true, answered := true })) s.core.tenant s.core.frameAddr
  match s.core.mode, s.core.parking with
  | .saving, some (.context ranges _) => t.mapCore (fun c => { c with parking := some (.context ranges true) })
  | _, _ => restartInPlace t

/-- The pool entries of a die, changed for one saved context. -/
def mapEntry (s : State) (v : SavedContext) (f : PoolEntry → PoolEntry) : State :=
  let die := dieOf v.lnum
  { s with pools := s.pools.set die ((s.pools.get die).map (fun p => if p.bound == some v.lnum && p.ctx.task == v.task then f p else p)) }

/-- RESUME of a saved task: HANDLED, and its entry is eligible. -/
def resumeSavedTask (s : State) (v : SavedContext) : State :=
  let same (x : SavedContext) : Bool := x.task == v.task && x.lnum == v.lnum
  let s := markHandled s v.core.tenant v.core.frameAddr
  let s : State := { s with saves := s.saves.map (fun x =>
    if same x then { x with core := { x.core with handled := true, answered := true } } else x) }
  mapEntry s v (fun p => { p with eligible := true })

/-- FAIL of a saved task: as for a held core, and its entry and its save go. -/
def failSaved (s : State) (v : SavedContext) : State :=
  match v.core.ctx with
  | none => s
  | some x =>
    let die := dieOf v.lnum
    let s := dropKept (endRuns (releaseBlock (addRun (setTaskState s x.tenant x.task 5) x (· - 1)) x) x) x
    { s with saves := s.saves.filter (fun w => !(w.task == v.task && w.lnum == v.lnum)),
             pools := s.pools.set die ((s.pools.get die).filter (fun p => !(p.bound == some v.lnum && p.ctx.task == v.task))) }

/-- R346: RESUME. -/
def execFrespResume (task : Word) (s : State) : Host.Outcome State Fault Refusal :=
  .next (s.byHost (match s.heldCore task with
    | some n => within n resumeHeld s
    | none => match s.savedFor task with
      | some v => resumeSavedTask s v
      | none => s))

/-- R346: FAIL. -/
def execFrespFail (task : Word) (s : State) : Host.Outcome State Fault Refusal :=
  .next (s.byHost (match s.heldCore task with
    | some n => within n failContext s
    | none => match s.savedFor task with
      | some v => failSaved s v
      | none => s))

/-- R346: SAVE. -/
def execFrespSave (task : Word) (s : State) : Host.Outcome State Fault Refusal :=
  .next (s.byHost (match s.heldCore task with
    | some n => within n squallHeld s
    | none => s))

/-- R346: action 3 has no effect. -/
def execFrespNoAction (_task : Word) (s : State) : Host.Outcome State Fault Refusal := .next s

end Sys2Proof.Machine
end

