-- ==== Sys2Proof/Machine/Health.lean ====
section
/-! DEFINITION. Monitors, spares and the recompute of a replica (R393–R400). -/
namespace Sys2Proof.Machine

/-! ### Monitors: R394, R395 -/

/-- The cluster with a new sample of its sensors. The CRIT of each sensor is timed from the first sample that shows it.
(DEDUCED, assumption 33.) -/
def Cluster.sample (c : Cluster) (gtc : Word) (x : Sensors) : Cluster :=
  let hot := x.temp.map (fun t => decide (c.throttleLimit.toInt ≤ t.toInt))
  let crit := x.temp.map (fun t => decide (c.criticalLimit.toInt ≤ t.toInt))
  { c with temp := x.temp, hot := hot, crit := crit, minMv := x.minMv, freq := x.freq, stretched := false,
           critSince := ((List.range crit.length).zip crit).map (fun p => if p.2 then some ((c.critSince.getD p.1 none).getD gtc) else none) }

/-- Change one cluster. -/
def State.mapCluster (s : State) (n : Nat) (f : Cluster → Cluster) : State := { s with clusters := s.clusters.set n (f (s.clusters.get n)) }

/-- The clock is lowered by one step, to a quarter of 940 MHz at most. -/
def Cluster.throttle (c : Cluster) : Cluster := if c.hot.any id then { c with lowered := min (c.lowered + 1) 12 } else c

/-- R395: a sample in which a sensor shows HOT lowers the cluster's clock by a step. -/
def execThermalThrottle (cluster : Nat) (x : Sensors) (s : State) : Host.Outcome State Fault Refusal :=
  .next (s.mapCluster cluster (fun c => (c.sample s.gtc x).throttle))

/-- R395: a sample in which no sensor shows HOT restores the clock and releases the cores. -/
def execHotSensorsClear (cluster : Nat) (x : Sensors) (s : State) : Host.Outcome State Fault Refusal :=
  .next (s.mapCluster cluster (fun c =>
    let c := c.sample s.gtc x
    if c.hot.any id then c else { c with lowered := 0, critHold := false }))

/-- R395: a droop event counts, and stretches the clock while it lasts. (DEDUCED, assumption 33.) -/
def execDroopStretch (cluster : Nat) (x : Sensors) (s : State) : Host.Outcome State Fault Refusal :=
  .next (s.mapCluster cluster (fun c =>
    let c := c.sample s.gtc x
    { c with droopEvents := if c.droopEvents = BitVec.allOnes 32 then c.droopEvents else c.droopEvents + 1, stretched := true }))

/-- sys.gtc periods of 1 ms (R17). -/
def critPeriods : Nat := 940000

/-- A sensor has shown CRIT for 1 ms. -/
def State.critDue (s : State) (cluster : Nat) : Bool :=
  (s.clusters.get cluster).critSince.any (fun x => x.any (fun t => decide (critPeriods ≤ (s.gtc - t).toNat)))

/-- R395: every task of the cluster is asked to give up its core, and the cores are held free. (DEDUCED, assumption 50.) -/
def execThermalCritical (cluster : Nat) (s : State) : Host.Outcome State Fault Refusal :=
  .next (if s.critDue cluster then
      ((List.range 8).map (fun k => 8 * cluster + k)).foldl (fun s n => within n requestPreempt s) (s.mapCluster cluster (fun c => { c with critHold := true }))
    else s)

/-! ### Scrubbing: R397 -/

/-- One more corrected error in the SRAMs of a core (R394, R396): the count saturates. -/
def Core.countCorr (c : Core) : Core := { c with eccCorr := if c.eccCorr = BitVec.allOnes 32 then c.eccCorr else c.eccCorr + 1 }

/-- The storage belongs to a core. -/
def coreStore (st : Store) : Bool := st != .l2 && st != .hbm && st != .comm

/-- What a scrub does that finds an error. It changes no value: an error of one bit is corrected and counted, by the core or by the
base die of the stack; an uncorrectable word is marked, and the management controller is told. An upset comes after the scrub has
passed. (DEDUCED, assumption 33.) -/
def scrub (st : Store) (lnum addr : Nat) (found : EccFinding) (s : State) : State :=
  let a := (if st = .comm then 2 ^ 18 * lnum else 0) + addr / 8 * 8
  let counted (s : State) (u : Bool) : State := if st = .hbm then s.notePair a u else s
  match found with
  | .corrected => if coreStore st then within lnum (fun s => s.mapCore Core.countCorr) s else counted s false
  | .uncorrectable =>
    let s : State := { s with mgmtReports := s.mgmtReports ++ [(st, lnum, a)] }
    if coreStore st then within lnum (fun s => s.mapCore (fun c => { c with marks := (st, a) :: c.marks.filter (· != (st, a)) })) s
    else counted { s with marked := (st, a) :: s.marked.filter (· != (st, a)) } true
  | .upset =>
    if coreStore st then within lnum (fun s => s.mapCore (fun c => { c with upsets := (st, a) :: c.upsets.filter (· != (st, a)) })) s
    else { s with upset := (st, a) :: s.upset.filter (· != (st, a)) }

/-- R397: the scrubber meets an error. -/
def execScrubPass (st : Store) (lnum addr : Nat) (found : EccFinding) (s : State) : Host.Outcome State Fault Refusal :=
  .next (scrub st lnum addr found s)

/-! ### Errors of one bit under an access: R396 -/

/-- No word of the device has an error of one bit. -/
def State.noUpsets (s : State) : Bool := s.upset.isEmpty && s.core.upsets.isEmpty && s.others.all (fun p => p.2.upsets.isEmpty)

/-- A run from here ends without the mark: an access of the run has met the marked word. -/
def meets (run : State → Host.Outcome State Fault Refusal) (gone : State → Bool) (s : State) : Bool :=
  match run s with
  | .next t => gone t
  | _ => false

/-- The upset words that a run reads: those where an error that could not be corrected would have raised F.ECC. A core's come with
its number. (DEDUCED, assumption 33.) -/
def upsetsMet (run : State → Host.Outcome State Fault Refusal) (s : State) : List (Option Nat × Store × Nat) :=
  let ofCore (n : Nat) : List (Option Nat × Store × Nat) :=
    ((s.coreAt n).upsets.filter (fun m => meets run (fun t => !(t.coreAt n).marks.contains m)
      (within n (fun s => s.mapCore (fun c => { c with marks := [m] })) s))).map (fun m => (some n, m.1, m.2))
  (s.lnum :: s.others.map (·.1)).flatMap ofCore
    ++ (s.upset.filter (fun m => meets run (fun t => !t.marked.contains m) { s with marked := [m] })).map (fun m => (none, m.1, m.2))

/-- The word is corrected where it stands, and counts. -/
def correctUpset (s : State) (m : Option Nat × Store × Nat) : State :=
  match m.1 with
  | some n => within n (fun s => s.mapCore (fun c => { c.countCorr with upsets := c.upsets.filter (· != m.2) })) s
  | none =>
    let s : State := { s with upset := s.upset.filter (· != m.2) }
    if m.2.1 = .hbm then s.notePair m.2.2 false else s

/-- A run in which every error of one bit that an access meets is corrected and counted; the values are those without the error
(R396). -/
def correcting (run : State → Host.Outcome State Fault Refusal) (s : State) : Host.Outcome State Fault Refusal :=
  if s.noUpsets then run s
  else match run s with
    | .next t => .next ((upsetsMet run s).foldl correctUpset t)
    | o => o

/-! ### Spares: R393, R398–R400 -/

/-- The error correction of the physical core under a logical core. -/
def Core.ecc (c : Core) : Ecc := ⟨c.eccCorr, c.eccUncorr, c.marks, c.upsets⟩
def Core.withEcc (c : Core) (e : Ecc) : Core := { c with eccCorr := e.corr, eccUncorr := e.uncorr, marks := e.marks, upsets := e.upsets }

/-- Bind a logical core to a slot (R14): it stands on the other physical core from now on, with that one's storage. A free core
finds it as after reset. (DEDUCED, assumption 34.) -/
def State.bindSlot (s : State) (n slot : Nat) : State :=
  let cl := clusterIx n
  let old := (s.coreAt n).ecc
  let new := (s.clusters.get cl).away
  let s : State := { s with phys := s.phys.set n (if slot = coreOf n then 0 else slot + 1) }
  let s := s.mapCluster cl (fun c => { c with away := old })
  within n (fun s => s.mapCore (fun c => (if c.mode == .halted then c.cleared none else c).withEcc new)) s

/-- Put a running context away for a retirement: a held one by SAVE, any other by a Squall (R398 step 1). -/
def retireSave (s : State) : State :=
  match s.core.mode with
  | .held => squallHeld s
  | .running => if s.core.underway then s else finishSquall (beginSquall s)
  | .saving => finishSquall (settle s)
  | _ => s

/-- The save block of a context holds its last checkpoint with KEEP again. (DEDUCED, assumption 34.) -/
def rewriteKept (s : State) (v : SavedContext) : Option State :=
  let t := focus v.lnum s
  match writeBlock { t with core := v.core } v.ranges with
  | .error _ => none
  | .ok u => some (focus s.lnum { u with core := t.core })

/-- A task whose save failed resumes from its last checkpoint with KEEP, where it has one (R398 step 3).
(DEDUCED, assumption 34.) -/
def revive (s : State) (x : Context) (n : Nat) : State :=
  if s.saves.any (fun v => v.task == x.task && v.lnum == n) then s
  else match s.kept.find? (fun v => v.task == x.task && v.lnum == n) with
    | none => s
    | some v => match rewriteKept s v with
      | none => dropKept s x
      | some s =>
        let s := setTaskState (addRun s x (· + 1)) x.tenant x.task 3
        let s := setSmap s x (smapOf s x ||| 2 ^ x.saveIx)
        let die := dieOf n
        { s with saves := s.saves ++ [v], arrivals := s.arrivals + 1,
                 pools := s.pools.set die (s.pools.get die ++ [⟨x, 0#64, s.arrivals, some n, true⟩]) }

/-- Every saved task that is bound to a core fails. -/
def failBound (s : State) (n : Nat) : State := (s.saves.filter (fun v => v.lnum == n)).foldl failSaved s

/-- Give up a recompute on slot 8 of a cluster: the moved core has its own slot again (R393, R398). -/
def dropRecompute (s : State) (cluster : Nat) : State :=
  let c := s.clusters.get cluster
  match c.spare with
  | some n => if c.recompute then (s.bindSlot n (coreOf n)).mapCluster cluster (fun c => { c with spare := none, recompute := false }) else s
  | none => s

/-- The logical core has no slot any more: the tasks bound to it fail. -/
def noSlot (s : State) (n : Nat) : State := failBound (s.mapCluster (clusterIx n) (fun c => { c with unavailable := n :: c.unavailable })) n

/-- Bind the core to slot 8, or leave it without a slot where that is taken (R398 step 2). Where the retired core is slot 8 itself, a
core that is there for a recompute has its own slot again. (DEDUCED, assumption 34.) -/
def retireBind (s : State) (n : Nat) : State :=
  let cl := clusterIx n
  let bad := s.physOf n
  let moved := (s.clusters.get cl).recompute
  let s := dropRecompute { s with retired := s.retired ++ [(cl, bad)] } cl
  if bad = 8 then
    let s := s.mapCluster cl (fun c => { c with spareBad := true })
    if moved then s else noSlot s n
  else if (s.clusters.get cl).spare.isSome || (s.clusters.get cl).spareBad then noSlot s n
  else (s.bindSlot n 8).mapCluster cl (fun c => { c with spare := some n })

/-- A retirement goes on once the task is off its core (R398). (DEDUCED, assumption 34.) -/
def retireOn (s : State) (n : Nat) : State :=
  match s.retiring.find? (fun p => p.1 == n) with
  | none => s
  | some p =>
    let s := within n retireSave s
    if (s.coreAt n).ctx.isSome then s
    else
      let s : State := { s with retiring := s.retiring.filter (fun p => p.1 != n) }
      let s := match p.2 with
        | some x => revive s x n
        | none => s
      if (s.clusters.get (clusterIx n)).unavailable.contains n then s else retireBind s n

/-- Retire the physical core under a logical core: its task is saved first. -/
def retireCore (s : State) (n : Nat) : State :=
  retireOn (if s.retiring.any (fun p => p.1 == n) then s else { s with retiring := s.retiring ++ [(n, (s.coreAt n).ctx)] }) n

/-- R398: a physical core is retired, as the management controller decides. -/
def execCoreRetirement (lnum : Nat) (s : State) : Host.Outcome State Fault Refusal := .next (if s.managed then retireCore s lnum else s)

/-- sys.gtc periods of 1 s (R17). -/
def secondPeriods : Nat := 940000000

/-- A channel pair of a stack begins to be copied to a spare, while the stack has one of its two left and no copy of the pair is
under way (R399). (DEDUCED, assumption 33.) -/
def spareChannel (s : State) (stack pair : Nat) : State :=
  let mine := s.hbmSpares.filter (fun p => p.1 == stack)
  if 2 ≤ mine.length ∨ (mine.any (fun p => p.2.1 == pair && !p.2.2)) = true then s
  else { s with hbmSpares := s.hbmSpares ++ [(stack, pair, false)],
                pairErrors := s.pairErrors.filter (fun e => !(e.1 == stack && e.2.1 == pair)) }

/-- The base die has counted 16 corrected errors of the pair within 1 s, or an uncorrectable one, and has a spare for it. -/
def State.spareDue (s : State) (stack pair : Nat) : Bool :=
  let mine := s.pairErrors.filter (fun e => e.1 == stack && e.2.1 == pair)
  let recent := mine.filter (fun e => !e.2.2.2 && decide ((s.gtc - e.2.2.1).toNat < secondPeriods))
  (decide (16 ≤ recent.length) || mine.any (fun e => e.2.2.2))
    && decide ((s.hbmSpares.filter (fun p => p.1 == stack)).length < 2) && !s.hbmSpares.contains (stack, pair, false)

/-- R399: a failing channel pair starts copying. -/
def execHbmChannelSpare (stack pair : Nat) (s : State) : Host.Outcome State Fault Refusal :=
  .next (if s.spareDue stack pair then spareChannel s stack pair else s)

/-- R399: the copy is complete, and accesses go to the spare. -/
def execHbmSpareCopyDone (stack pair : Nat) (s : State) : Host.Outcome State Fault Refusal :=
  .next { s with hbmSpares := s.hbmSpares.map (fun p => if p.1 = stack ∧ p.2.1 = pair then (stack, pair, true) else p) }

/-- What waits at the IOD's router for a port takes another on a minimal path. -/
def State.reroute (s : State) (port : Nat) : State :=
  let waits (f : Flight) : Bool := f.stop == 0 && f.out == portStop port
  let rest : State := { s with packets := s.packets.filter (fun f => !waits f) }
  { s with packets := s.packets.map (fun f => if waits f then { f with out := rest.leastOccupied 0 (rest.nextStops 0 f.pkt) } else f) }

/-- A packet of this device is lost on a link (R365, R400). -/
def lostOnLink (s : State) (id : Nat) : State :=
  match s.waiting.find? (fun w => w.pkt.id == id) with
  | some w => failPacket w 8 0 s
  | none => match s.puts.find? (fun p => p.id == id) with
    | some p => putFailed p 8 s
    | none => s

/-- A lane of a port fails: the port goes to ×2, to ×1, and then out of routing; what is on its link then is lost (R400). `lanes` counts
the failures. (DEDUCED, assumption 33.) -/
def dropLane (s : State) (port : Nat) : State :=
  let t : State := { s with lanes := s.lanes.set port (min (s.lanes.get port + 1) 3) }
  if t.portWorks port || !s.portWorks port then t
  else
    let lost := t.left.filter (fun l => l.1 == port && Config.onLink t.gtc.toNat l.2)
    lost.foldl (fun s l => lostOnLink s l.2) (t.reroute port)

/-- R400: a lane is dropped. -/
def execLaneDrop (port : Nat) (s : State) : Host.Outcome State Fault Refusal := .next (dropLane s port)

/-! ### The recompute of a replica: R393 -/

/-- A pre-empted task of the first replica is to resume from its last checkpoint with KEEP. -/
def rewindTask (s : State) (w : Word) : State :=
  match s.saves.find? (fun v => sameTask w v.task), s.kept.find? (fun v => sameTask w v.task) with
  | some v, some k =>
    if v.lnum ≠ k.lnum then s
    else match rewriteKept s k with
      | none => s
      | some s => mapEntry { s with saves := s.saves.map (fun x => if x.task == v.task && x.lnum == v.lnum then k else x) } k (fun p => { p with eligible := true })
  | _, _ => s

/-- A task of a halted subtree fails: on its core, saved, or in the pool. -/
def haltTask (s : State) (w : Word) : State :=
  match (s.lnum :: s.others.map (·.1)).find? (fun n => match (s.coreAt n).ctx with | some x => sameTask w x.task | none => false) with
  | some n => within n failContext s
  | none => match s.saves.find? (fun v => sameTask w v.task) with
    | some v => failSaved s v
    | none =>
      let mine (p : PoolEntry) : Bool := sameTask w p.ctx.task
      match (s.pools.flatMap (·.2)).find? mine with
      | some p => setTaskState { s with pools := s.pools.map (fun q => (q.1, q.2.filter (fun p => !mine p))) } p.ctx.tenant p.ctx.task 5
      | none => s

/-- No majority: the handler of a tenant's root and the management controller are told. The rule gives the record no CAUSE: it is 0.
(DESIGN CHOICE, assumption 34.) -/
def tellNoMajority (s : State) (tenant : Nat) (root : Word) : State :=
  let domain := peekAs s tenant (at' root 0x24) 4
  let handler := peekAs s tenant (at' root 0x28) 8
  { report s ⟨0#64, 0#64, 0#64, root, domain, BitVec.ofNat 64 handler, s.gtc⟩ with noMajority := s.noMajority ++ [(tenant, root)] }

/-- R393: a logical core of a cluster is bound to slot 8 for a recompute, where that slot is free, and the tasks of the first
replica's step that the region manager names resume from their checkpoints. -/
def execRecomputeSpareBind (cluster : Nat) (x : RecomputeCore) (s : State) : Host.Outcome State Fault Refusal :=
  let n := 8 * cluster + x.core
  let c := s.clusters.get cluster
  .next (if c.spare.isSome || c.spareBad || decide (8 ≤ x.core) then s
    else x.tasks.foldl rewindTask ((s.bindSlot n 8).mapCluster cluster (fun c => { c with spare := some n, recompute := true })))

/-- R393: the recompute ends. The region manager names the tasks of the subtree that it halts, and, where there is no majority, the
tenant and its root RCB. -/
def execRecomputeSpareRelease (x : RecomputeEnd) (s : State) : Host.Outcome State Fault Refusal :=
  let s := x.halted.foldl haltTask (dropRecompute s x.cluster)
  .next (match x.told with
    | some t => tellNoMajority s t.1 t.2
    | none => s)

end Sys2Proof.Machine
end

