-- ==== Sys2Proof/Machine/Platform.lean ====
section
/-! DEFINITION. Reset, boot, attestation, the management port and the IOD control space (R24, R401–R406). -/
namespace Sys2Proof.Machine

/-- R24: device reset. The fused anti-rollback counter and the provisioned operator root stay. (DEDUCED, assumption 32.) -/
def execDeviceReset (s : State) : Host.Outcome State Fault Refusal := .next { State.reset with svn := s.svn, operatorRoot := s.operatorRoot }

/-! ### Boot: R403, R404 -/

/-- R404: the image is accepted. (DESIGN CHOICE, assumption 5.) -/
def imageOk (v : ImageVerdict) (svn : BitVec 64) : Bool := v.rsa && v.slh && v.keyHashes && decide (svn.toNat ≤ v.version)

/-- Images that the security processor loads before the host cores start (R403 step 2). -/
def bootImages : Nat := 4

/-- The stage after image `n` has been accepted: four images, then the operating system, which starts the region
manager. -/
def stageAfter (n : Nat) : BootStage := if n + 1 < bootImages then .images (n + 1) else if n + 1 = bootImages then .os else .running

/-- Which image comes next. -/
def BootStage.next (b : BootStage) : Option Nat :=
  match b with
  | .rom => some 0
  | .images n => some n
  | .os => some bootImages
  | _ => none

/-- Schedule firmware goes into the SRAM of every communication processor, which starts anew with it (R372). (PRESUMED,
assumption 59.) -/
def loadFirmware (v : ImageVerdict) (s : State) : State :=
  match v.firmware with
  | none => s
  | some bs =>
    let p : CommProc := { (default : CommProc) with sram := writeBytes [] 0 (bs.take (2 ^ 18)), firmware := some v.measurement }
    { s with comms := (List.range 24).map (fun k => (k, p)) }

/-- The image of the boot that is the schedule firmware (R403 step 2). -/
def firmwareImage : Nat := 1

/-- The boot with the verdicts on the next images; it stops at the first refusal, which the management port reports (R403, R404).
(DEDUCED, assumption 32.) -/
def bootWith (s : State) : List ImageVerdict → State
  | [] => s
  | v :: t =>
    match s.boot.next with
    | none => s
    | some n =>
      if imageOk v s.svn then
        let s := if n = firmwareImage then loadFirmware v s else s
        bootWith { s with boot := stageAfter n, measurements := if n < bootImages then s.measurements ++ [v.measurement] else s.measurements } t
      else { s with boot := .refused n, replies := s.replies ++ [[BitVec.ofNat 64 n]] }

/-- R403: the boot sequence. -/
def execBootSequence (images : List ImageVerdict) (s : State) : Host.Outcome State Fault Refusal := .next (bootWith s images)

/-- R404: an image that is presented after the boot, such as schedule firmware (R372); of a refused one nothing is kept. -/
def execImageVerify (v : ImageVerdict) (s : State) : Host.Outcome State Fault Refusal :=
  .next (if s.boot = .running ∧ imageOk v s.svn = true then loadFirmware v { s with images := s.images ++ [v.measurement] } else s)

/-! ### Attestation: R405 -/

/-- The spare map of 16 bytes: a bit for each cluster whose slot 8 is bound, two bits for the lanes that each port has dropped, and
the spare channel pairs used. (DESIGN CHOICE, assumption 5.) -/
def State.spareMap (s : State) : BitVec 128 :=
  let slots := ((List.range 48).map (fun c => if (s.clusters.get c).spare.isSome then 2 ^ c else 0)).sum
  let lanes := ((List.range 24).map (fun p => s.lanes.get p % 4 * 2 ^ (48 + 2 * p))).sum
  BitVec.ofNat 128 (slots + lanes + s.hbmSpares.length % 2 ^ 32 * 2 ^ 96)

/-- The measurements of a report: eight places, those without a boot image zero. (DESIGN CHOICE, assumption 5.) -/
def State.meas (s : State) : List (BitVec 384) := (List.range 8).map (fun k => s.measurements.getD k 0)

/-- The device has stayed in its ROM. -/
def State.inRom (s : State) : Bool := match s.boot with
  | .refused _ => true
  | _ => false

/-- Issue a report, once one of those that may ask for it runs; its two signatures are free values. (DESIGN CHOICE, assumption 5.) -/
def attest (s : State) (nonce : BitVec 256) : State :=
  if !s.managed then s
  else
    let n := s.reports.length
    let r : Report := ⟨nonce, Config.deviceId, s.meas, s.svn, s.spareMap, Config.attestRsa n, Config.attestSlh n⟩
    { s with reports := s.reports ++ [r] }

/-- R405: an attestation report. -/
def execAttestationReport (nonce : BitVec 256) (s : State) : Host.Outcome State Fault Refusal := .next (attest s nonce)

/-! ### Management port: R406 -/

/-- The monitors of a cluster, as the system registers of its cores read: sys.therm0–3, sys.droop and sys.ringosc, and sys.ecc of
each core (R394). -/
def State.monitors (s : State) (cluster : Nat) : List Word :=
  let reads (core n : Nat) : Word := ((focus (8 * cluster + core) s).sysreg n).getD 0#64
  (List.range 6).map (fun k => reads 0 (0x100 + k)) ++ (List.range 8).map (fun k => reads k 0x106)

/-- The session is accepted: its client certificate chains to the operator root (R406). -/
def State.admits (s : State) (cert : ClientCert) : Bool := cert.chain && cert.root == s.operatorRoot

/-- Serve a request; a device that stayed in its ROM takes only a recovery image, which starts the boot again, and one whose
management controller does not run yet nothing. (DEDUCED, assumption 32.) -/
def serve (s : State) (m : MgmtRequest) : State :=
  match m with
  | .recovery v => if s.inRom && imageOk v s.svn then { s with boot := .rom, measurements := [] } else s
  | m =>
    if !s.managed then s
    else match m with
      | .readMonitors c => { s with replies := s.replies ++ [s.monitors c] }
      | .setLimits c a b => s.mapCluster c (fun x => { x with throttleLimit := a, criticalLimit := b })
      | .retireCore n => retireCore s n
      | .spareChannel a b => spareChannel s a b
      | .dropLane p => dropLane s p
      | .attest n => attest s n
      | .recovery _ => s

/-- R406: a request of a session. The security processor itself verifies a recovery image in ROM, whoever brings it (R404).
(DEDUCED, assumption 32.) -/
def execMgmtRequest (m : MgmtSession) (s : State) : Host.Outcome State Fault Refusal :=
  .next (if s.admits m.cert || s.inRom then serve s m.request else s)

/-! ### IOD control space: R401 -/

/-- A refused enqueue posts F.QUEUE; no context is known. (DEDUCED, assumption 31.) -/
def enqRefused (s : State) (task : Word) : State :=
  report s (recordOf { (default : Context) with task := task } 0#64 (causeWord cQueue 0 0 0 0 false false false false) s.gtc)

/-- A write to TASKENQ; `tenant` names the tables that the region manager's address belongs to. -/
def taskEnqueue (w : Word) (tenant : Nat) (s : State) : State :=
  let task := BitVec.ofNat 64 (bits w 63 6 * 64)
  let die := bits w 2 0
  if 3 < die then enqRefused s task
  else match enqCheck s tenant false task with
    | .error _ => enqRefused s task
    | .ok (x, entry, t) => if poolFull t die then enqRefused s task else enqueue t die x entry

/-- R401: TASKENQ. -/
def execTaskenq (w : Word) (tenant : Nat) (s : State) : Host.Outcome State Fault Refusal := .next (s.byHost (taskEnqueue w tenant s))

/-- R401: DEVID, until the first dispatch. -/
def execDevidWrite (v : Word) (s : State) : Host.Outcome State Fault Refusal :=
  .next (s.byHost (if s.dispatched then s else { s with dev := BitVec.ofNat 10 (bits v 9 0) }))

/-- What a host core reads in the IOD control space, by the offset and size of its access: a write-only register reads as zero (R5),
and so does the space at any access but an aligned one of 8 bytes (R401). -/
def State.iodRead (s : State) (off size : Nat) : Word :=
  if size ≠ 8 then 0#64
  else match off with
    | 0x10 => s.fqBase
    | 0x18 => BitVec.ofNat 64 s.fqHead
    | 0x20 => BitVec.ofNat 64 s.fqTail
    | 0x40 => s.xltDone
    | 0x48 => s.dev.setWidth 64
    | 0x50 => s.portDone
    | 0x58 => s.portErr
    | _ => 0#64

/-- R401: a write to a register that has no event of its own, or one that is not an aligned write of 8 bytes to any: FQBASE is written,
a multiple of 256 KiB; a read-only register ignores the write, and so does the space an access of another size or alignment. An
aligned write of 8 bytes to a register with an event of its own is that event. -/
def execIodRegisterWrite (p : IodPlace) (v : Word) (s : State) : Host.Outcome State Fault Refusal :=
  .next (s.byHost (if p.size = 8 ∧ p.off = 0x10 then { s with fqBase := v &&& ~~~0x3FFFF#64 } else s))

end Sys2Proof.Machine
end

