-- ==== Sys2Proof/Machine/Time.lean ====
section
/-! DEFINITION. Time: the global time counter (R17, R355) and the cycles of a core (R81, R386). -/
namespace Sys2Proof.Machine

/-- R17: sys.gtc rises by one in each 940 MHz period, modulo 2^64. -/
def execGtcPeriodIncrement (s : State) : Host.Outcome State Fault Refusal := .next { s with gtc := s.gtc + 1 }

/-- The frame counter's next cycle: the count of a FRAME.BEGIN, or one more while RUN = 1, up to its top (R386, R390). -/
def Core.frameTick (c : Core) : Core :=
  match c.frameNext with
  | some n => { c with frameRun := true, frameCount := n, frameNext := none }
  | none => if c.frameRun && c.frameCount != BitVec.allOnes 32 then { c with frameCount := c.frameCount + 1 } else c

/-- The results that groups wait for have one cycle less to go (R83). (DESIGN CHOICE, assumption 10.) -/
def Core.divTick (c : Core) : Core :=
  { c with divs := (c.divs.map (fun p => (p.1, (p.2.filter (fun d => decide (1 < d.left))).map
      (fun d => { d with left := d.left - 1 })))).filter (fun p => !p.2.isEmpty) }

/-- One core-clock cycle of a resident core that is not stopped: sys.cycle rises, the frame counter has its cycle (R81,
R386), and cp falls for the zero copies of the cycle (R176). -/
def Core.tick (c : Core) : Core :=
  if c.mode != .running then c else { c.frameTick.divTick.dropZero with cycle := c.cycle + 1 }

/-- R386 (DESIGN CHOICE, assumption 10; DEDUCED, assumption 41.) -/
def execFrameCountAdvance (lnum : Nat) (s : State) : Host.Outcome State Fault Refusal :=
  .next (within lnum (fun s => s.mapCore Core.tick) s)

/-- R355: before the first dispatch, a lagging counter steps forward to the master's value, once. No period passes with the
step: what is counted from the last correction moves with it. -/
def execGtcBringupStep (master : Word) (s : State) : Host.Outcome State Fault Refusal :=
  .next (if s.dispatched || s.gtcStepped || decide (master.toNat ≤ s.gtc.toNat) then s
    else { s with gtc := master, gtcStepped := true, lastCorrection := s.lastCorrection.map (fun l => l + (master - s.gtc)) })

/-- R355, R17: in one period, at most one of every 2^16, alignment withholds the increment on a device that leads, or makes it
two on a device that lags; before the first dispatch a device that lags is brought up by its step. `lastCorrection` is the
counter after the period of the last correction. -/
def execGtcDriftCorrection (leads : Bool) (s : State) : Host.Outcome State Fault Refusal :=
  let g := if leads then s.gtc else s.gtc + 2
  .next (if !leads && !s.dispatched && !s.gtcStepped then s else match s.lastCorrection with
    | none => { s with gtc := g, lastCorrection := some g }
    | some l => if 65535 ≤ (s.gtc - l).toNat then { s with gtc := g, lastCorrection := some g } else s)

end Sys2Proof.Machine
end

