-- ==== Sys2Proof/Machine/Dispatch.lean ====
section
/-! DEFINITION. The instruction dispatch: one arm per constructor, each a direct call of the meaning. -/
namespace Sys2Proof.Machine

/-- The effect of one instruction word or event. (DESIGN CHOICE, assumption 11.) -/
def exec (i : Instr) (s : State) : Host.Outcome State Fault Refusal :=
  match i with
  | .nop r => Sys2Proof.Machine.execNop r s
  | .trap r c => Sys2Proof.Machine.execTrap r c s
  | .sysr r d n => Sys2Proof.Machine.execSysr r d n s
  | .sysw r n b => Sys2Proof.Machine.execSysw r n b s
  | .ckpt r a => Sys2Proof.Machine.execCkpt r a s
  | .stamp c => Sys2Proof.Machine.execStamp c s
  | .extI h => Sys2Proof.Machine.execExtI h s
  | .extM p s1 o w => Sys2Proof.Machine.execExtM p s1 o w s
  | .add r d a b => Sys2Proof.Machine.execAdd r d a b s
  | .sub r d a b => Sys2Proof.Machine.execSub r d a b s
  | .and r d a b => Sys2Proof.Machine.execAnd r d a b s
  | .or r d a b => Sys2Proof.Machine.execOr r d a b s
  | .xor r d a b => Sys2Proof.Machine.execXor r d a b s
  | .andn r d a b => Sys2Proof.Machine.execAndn r d a b s
  | .minI64 r d a b => Sys2Proof.Machine.execMinI64 r d a b s
  | .maxI64 r d a b => Sys2Proof.Machine.execMaxI64 r d a b s
  | .minN64 r d a b => Sys2Proof.Machine.execMinN64 r d a b s
  | .maxN64 r d a b => Sys2Proof.Machine.execMaxN64 r d a b s
  | .addI32 r d a b => Sys2Proof.Machine.execAddI32 r d a b s
  | .subI32 r d a b => Sys2Proof.Machine.execSubI32 r d a b s
  | .clz r d a => Sys2Proof.Machine.execClz r d a s
  | .ctz r d a => Sys2Proof.Machine.execCtz r d a s
  | .popc r d a => Sys2Proof.Machine.execPopc r d a s
  | .addsI64 r d a b => Sys2Proof.Machine.execAddsI64 r d a b s
  | .addi r d a i1 => Sys2Proof.Machine.execAddi r d a i1 s
  | .andi r d a i1 => Sys2Proof.Machine.execAndi r d a i1 s
  | .ori r d a i1 => Sys2Proof.Machine.execOri r d a i1 s
  | .xori r d a i1 => Sys2Proof.Machine.execXori r d a i1 s
  | .slti r d a i1 => Sys2Proof.Machine.execSlti r d a i1 s
  | .sltiu r d a i1 => Sys2Proof.Machine.execSltiu r d a i1 s
  | .sll r d a b => Sys2Proof.Machine.execSll r d a b s
  | .srl r d a b => Sys2Proof.Machine.execSrl r d a b s
  | .sra r d a b => Sys2Proof.Machine.execSra r d a b s
  | .ror r d a b => Sys2Proof.Machine.execRor r d a b s
  | .slli r d a n h => Sys2Proof.Machine.execSlli r d a n h s
  | .srli r d a n h => Sys2Proof.Machine.execSrli r d a n h s
  | .srai r d a n h => Sys2Proof.Machine.execSrai r d a n h s
  | .rori r d a n h => Sys2Proof.Machine.execRori r d a n h s
  | .mul r d a b => Sys2Proof.Machine.execMul r d a b s
  | .mulhI64 r d a b => Sys2Proof.Machine.execMulhI64 r d a b s
  | .mulhN64 r d a b => Sys2Proof.Machine.execMulhN64 r d a b s
  | .divI64 r d a b => Sys2Proof.Machine.execDivI64 r d a b s
  | .divN64 r d a b => Sys2Proof.Machine.execDivN64 r d a b s
  | .remI64 r d a b => Sys2Proof.Machine.execRemI64 r d a b s
  | .remN64 r d a b => Sys2Proof.Machine.execRemN64 r d a b s
  | .cmpEq r d a b => Sys2Proof.Machine.execCmpEq r d a b s
  | .cmpNe r d a b => Sys2Proof.Machine.execCmpNe r d a b s
  | .cmpLtI64 r d a b => Sys2Proof.Machine.execCmpLtI64 r d a b s
  | .cmpGeI64 r d a b => Sys2Proof.Machine.execCmpGeI64 r d a b s
  | .cmpLtN64 r d a b => Sys2Proof.Machine.execCmpLtN64 r d a b s
  | .cmpGeN64 r d a b => Sys2Proof.Machine.execCmpGeN64 r d a b s
  | .tst r d a b => Sys2Proof.Machine.execTst r d a b s
  | .gand r d a b => Sys2Proof.Machine.execGand r d a b s
  | .gor r d a b => Sys2Proof.Machine.execGor r d a b s
  | .gxor r d a b => Sys2Proof.Machine.execGxor r d a b s
  | .gandn r d a b => Sys2Proof.Machine.execGandn r d a b s
  | .gmov r d a => Sys2Proof.Machine.execGmov r d a s
  | .gnot r d a => Sys2Proof.Machine.execGnot r d a s
  | .gset r d => Sys2Proof.Machine.execGset r d s
  | .gclr r d => Sys2Proof.Machine.execGclr r d s
  | .sel r g n d a => Sys2Proof.Machine.execSel r g n d a s
  | .movi r d i1 => Sys2Proof.Machine.execMovi r d i1 s
  | .lih r d i1 => Sys2Proof.Machine.execLih r d i1 s
  | .br r g n o => Sys2Proof.Machine.execBr r g n o s
  | .jal r d i1 => Sys2Proof.Machine.execJal r d i1 s
  | .jr r d a => Sys2Proof.Machine.execJr r d a s
  | .lea1 r d a i1 => Sys2Proof.Machine.execLea1 r d a i1 s
  | .lea2 r d a i1 => Sys2Proof.Machine.execLea2 r d a i1 s
  | .lea4 r d a i1 => Sys2Proof.Machine.execLea4 r d a i1 s
  | .lea8 r d a i1 => Sys2Proof.Machine.execLea8 r d a i1 s
  | .ldI8 r d a i1 => Sys2Proof.Machine.execLdI8 r d a i1 s
  | .ldN8 r d a i1 => Sys2Proof.Machine.execLdN8 r d a i1 s
  | .ldI16 r d a i1 => Sys2Proof.Machine.execLdI16 r d a i1 s
  | .ldN16 r d a i1 => Sys2Proof.Machine.execLdN16 r d a i1 s
  | .ldI32 r d a i1 => Sys2Proof.Machine.execLdI32 r d a i1 s
  | .ldN32 r d a i1 => Sys2Proof.Machine.execLdN32 r d a i1 s
  | .ldN64 r d a i1 => Sys2Proof.Machine.execLdN64 r d a i1 s
  | .stN8 r g n o a b => Sys2Proof.Machine.execStN8 r g n o a b s
  | .stN16 r g n o a b => Sys2Proof.Machine.execStN16 r g n o a b s
  | .stN32 r g n o a b => Sys2Proof.Machine.execStN32 r g n o a b s
  | .stN64 r g n o a b => Sys2Proof.Machine.execStN64 r g n o a b s
  | .amoSwap r g n d a b => Sys2Proof.Machine.execAmoSwap r g n d a b s
  | .amoAdd r g n d a b => Sys2Proof.Machine.execAmoAdd r g n d a b s
  | .amoAnd r g n d a b => Sys2Proof.Machine.execAmoAnd r g n d a b s
  | .amoOr r g n d a b => Sys2Proof.Machine.execAmoOr r g n d a b s
  | .amoXor r g n d a b => Sys2Proof.Machine.execAmoXor r g n d a b s
  | .amoMax r g n d a b => Sys2Proof.Machine.execAmoMax r g n d a b s
  | .amoMin r g n d a b => Sys2Proof.Machine.execAmoMin r g n d a b s
  | .amoCas r g n d a b => Sys2Proof.Machine.execAmoCas r g n d a b s
  | .redAdd r g n a b => Sys2Proof.Machine.execRedAdd r g n a b s
  | .redAnd r g n a b => Sys2Proof.Machine.execRedAnd r g n a b s
  | .redOr r g n a b => Sys2Proof.Machine.execRedOr r g n a b s
  | .redXor r g n a b => Sys2Proof.Machine.execRedXor r g n a b s
  | .redMax r g n a b => Sys2Proof.Machine.execRedMax r g n a b s
  | .redMin r g n a b => Sys2Proof.Machine.execRedMin r g n a b s
  | .redFaddF32 r g n a b => Sys2Proof.Machine.execRedFaddF32 r g n a b s
  | .redFaddF64 r g n a b => Sys2Proof.Machine.execRedFaddF64 r g n a b s
  | .fence r s1 => Sys2Proof.Machine.execFence r s1 s
  | .ldAcq r d a s1 => Sys2Proof.Machine.execLdAcq r d a s1 s
  | .stRel r g n s1 a b => Sys2Proof.Machine.execStRel r g n s1 a b s
  | .ldAcqPromote r d a s1 => Sys2Proof.Machine.execLdAcqPromote r d a s1 s
  | .amoSwapPromote r g n d a b => Sys2Proof.Machine.execAmoSwapPromote r g n d a b s
  | .amoAddPromote r g n d a b => Sys2Proof.Machine.execAmoAddPromote r g n d a b s
  | .amoCasPromote r g n d a b => Sys2Proof.Machine.execAmoCasPromote r g n d a b s
  | .tbarInit r a b => Sys2Proof.Machine.execTbarInit r a b s
  | .tbarArrive r d a b => Sys2Proof.Machine.execTbarArrive r d a b s
  | .tbarExpect r d a b => Sys2Proof.Machine.execTbarExpect r d a b s
  | .tbarWait r a b => Sys2Proof.Machine.execTbarWait r a b s
  | .tbarTest r d a b => Sys2Proof.Machine.execTbarTest r d a b s
  | .bldN8 r d a i1 => Sys2Proof.Machine.execBldN8 r d a i1 s
  | .bldN16 r d a i1 => Sys2Proof.Machine.execBldN16 r d a i1 s
  | .bldN32 r d a i1 => Sys2Proof.Machine.execBldN32 r d a i1 s
  | .bldN64 r d a i1 => Sys2Proof.Machine.execBldN64 r d a i1 s
  | .bstN8 r d a i1 => Sys2Proof.Machine.execBstN8 r d a i1 s
  | .bstN16 r d a i1 => Sys2Proof.Machine.execBstN16 r d a i1 s
  | .bstN32 r d a i1 => Sys2Proof.Machine.execBstN32 r d a i1 s
  | .bstN64 r d a i1 => Sys2Proof.Machine.execBstN64 r d a i1 s
  | .engCmd r e a b n => Sys2Proof.Machine.execEngCmd r e a b n s
  | .engCmdReloc r a b n => Sys2Proof.Machine.execEngCmdReloc r a b n s
  | .engFence r m => Sys2Proof.Machine.execEngFence r m s
  | .engBusy r d => Sys2Proof.Machine.execEngBusy r d s
  | .bqEnq r e a => Sys2Proof.Machine.execBqEnq r e a s
  | .rqDeq r d s1 => Sys2Proof.Machine.execRqDeq r d s1 s
  | .fmtEnq r a => Sys2Proof.Machine.execFmtEnq r a s
  | .endr r => Sys2Proof.Machine.execEndr r s
  | .arg r d i1 => Sys2Proof.Machine.execArg r d i1 s
  | .argWrite r d i1 b => Sys2Proof.Machine.execArgWrite r d i1 b s
  | .rqEnq r a => Sys2Proof.Machine.execRqEnq r a s
  | .bqBr r o => Sys2Proof.Machine.execBqBr r o s
  | .bqBrn r o => Sys2Proof.Machine.execBqBrn r o s
  | .loopImm r n c l => Sys2Proof.Machine.execLoopImm r n c l s
  | .loopReg r n c l => Sys2Proof.Machine.execLoopReg r n c l s
  | .waitc r a b c d => Sys2Proof.Machine.execWaitc r a b c d s
  | .taskEnq r a b => Sys2Proof.Machine.execTaskEnq r a b s
  | .taskDone r a => Sys2Proof.Machine.execTaskDone r a s
  | .taskYield r a => Sys2Proof.Machine.execTaskYield r a s
  | .hypOpen r d a => Sys2Proof.Machine.execHypOpen r d a s
  | .hypEnter r a => Sys2Proof.Machine.execHypEnter r a s
  | .hypOk r d a => Sys2Proof.Machine.execHypOk r d a s
  | .hypNo r d a => Sys2Proof.Machine.execHypNo r d a s
  | .hypQuery r d a => Sys2Proof.Machine.execHypQuery r d a s
  | .cpy r c => Sys2Proof.Machine.execCpy r c s
  | .cpyT r c d t => Sys2Proof.Machine.execCpyT r c d t s
  | .cdSet r c s1 f => Sys2Proof.Machine.execCdSet r c s1 f s
  | .gath r c => Sys2Proof.Machine.execGath r c s
  | .gathT r c d t => Sys2Proof.Machine.execGathT r c d t s
  | .scat r c => Sys2Proof.Machine.execScat r c s
  | .scatT r c d t => Sys2Proof.Machine.execScatT r c d t s
  | .mcast r c => Sys2Proof.Machine.execMcast r c s
  | .mcastT r c d t => Sys2Proof.Machine.execMcastT r c d t s
  | .sclLd r c => Sys2Proof.Machine.execSclLd r c s
  | .sclLdT r c d t => Sys2Proof.Machine.execSclLdT r c d t s
  | .pref r c => Sys2Proof.Machine.execPref r c s
  | .mm r c a b k z y x => Sys2Proof.Machine.execMm r c a b k z y x s
  | .mmG r c a b i1 z y => Sys2Proof.Machine.execMmG r c a b i1 z y s
  | .accZero r c => Sys2Proof.Machine.execAccZero r c s
  | .accRd r d c => Sys2Proof.Machine.execAccRd r d c s
  | .accWr r c s1 => Sys2Proof.Machine.execAccWr r c s1 s
  | .tdSet r t a b => Sys2Proof.Machine.execTdSet r t a b s
  | .vadd r d a b x y z t => Sys2Proof.Machine.execVadd r d a b x y z t s
  | .vsub r d a b x y z t => Sys2Proof.Machine.execVsub r d a b x y z t s
  | .vmul r d a b x y z t => Sys2Proof.Machine.execVmul r d a b x y z t s
  | .vdiv r d a b x y z t => Sys2Proof.Machine.execVdiv r d a b x y z t s
  | .vmin r d a b x y z t => Sys2Proof.Machine.execVmin r d a b x y z t s
  | .vmax r d a b x y z t => Sys2Proof.Machine.execVmax r d a b x y z t s
  | .vand r d a b x y z t => Sys2Proof.Machine.execVand r d a b x y z t s
  | .vor r d a b x y z t => Sys2Proof.Machine.execVor r d a b x y z t s
  | .vxor r d a b x y z t => Sys2Proof.Machine.execVxor r d a b x y z t s
  | .vshl r d a b x y z t => Sys2Proof.Machine.execVshl r d a b x y z t s
  | .vshr r d a b x y z t => Sys2Proof.Machine.execVshr r d a b x y z t s
  | .vfma r d a b x y t => Sys2Proof.Machine.execVfma r d a b x y t s
  | .vfms r d a b x y t => Sys2Proof.Machine.execVfms r d a b x y t s
  | .vfnma r d a b x y t => Sys2Proof.Machine.execVfnma r d a b x y t s
  | .vsel r d a b x y t => Sys2Proof.Machine.execVsel r d a b x y t s
  | .vclamp r d a b x y t => Sys2Proof.Machine.execVclamp r d a b x y t s
  | .vcmpEq r d a b x y z t => Sys2Proof.Machine.execVcmpEq r d a b x y z t s
  | .vcmpLt r d a b x y z t => Sys2Proof.Machine.execVcmpLt r d a b x y z t s
  | .vcmpLe r d a b x y z t => Sys2Proof.Machine.execVcmpLe r d a b x y z t s
  | .vcvt r d a x => Sys2Proof.Machine.execVcvt r d a x s
  | .vnot r d a x z t => Sys2Proof.Machine.execVnot r d a x z t s
  | .vabs r d a x z t => Sys2Proof.Machine.execVabs r d a x z t s
  | .vneg r d a x z t => Sys2Proof.Machine.execVneg r d a x z t s
  | .vmov r d a x z t => Sys2Proof.Machine.execVmov r d a x z t s
  | .vexp2 r d a x z => Sys2Proof.Machine.execVexp2 r d a x z s
  | .vlog2 r d a x z => Sys2Proof.Machine.execVlog2 r d a x z s
  | .vrcp r d a x z => Sys2Proof.Machine.execVrcp r d a x z s
  | .vrsq r d a x z => Sys2Proof.Machine.execVrsq r d a x z s
  | .vsqrt r d a x z => Sys2Proof.Machine.execVsqrt r d a x z s
  | .vsin r d a x z => Sys2Proof.Machine.execVsin r d a x z s
  | .vcos r d a x z => Sys2Proof.Machine.execVcos r d a x z s
  | .vtanh r d a x z => Sys2Proof.Machine.execVtanh r d a x z s
  | .vrsum r d a t => Sys2Proof.Machine.execVrsum r d a t s
  | .vrmax r d a t => Sys2Proof.Machine.execVrmax r d a t s
  | .vrmin r d a t => Sys2Proof.Machine.execVrmin r d a t s
  | .vrsumsq r d a t => Sys2Proof.Machine.execVrsumsq r d a t s
  | .vrargmax r d a t => Sys2Proof.Machine.execVrargmax r d a t s
  | .vchBegin r d => Sys2Proof.Machine.execVchBegin r d s
  | .vchEnd r => Sys2Proof.Machine.execVchEnd r s
  | .vdefer r q k p => Sys2Proof.Machine.execVdefer r q k p s
  | .vdrain r q p => Sys2Proof.Machine.execVdrain r q p s
  | .rgnSet r d a b => Sys2Proof.Machine.execRgnSet r d a b s
  | .qrGen r d a b => Sys2Proof.Machine.execQrGen r d a b s
  | .srfAlloc r w => Sys2Proof.Machine.execSrfAlloc r w s
  | .srfFree r w => Sys2Proof.Machine.execSrfFree r w s
  | .srfLd r s1 x => Sys2Proof.Machine.execSrfLd r s1 x s
  | .srfSt r x s1 => Sys2Proof.Machine.execSrfSt r x s1 s
  | .srfZero r w => Sys2Proof.Machine.execSrfZero r w s
  | .opdLd r k a => Sys2Proof.Machine.execOpdLd r k a s
  | .scan r x k => Sys2Proof.Machine.execScan r x k s
  | .scanSw r x s1 k => Sys2Proof.Machine.execScanSw r x s1 k s
  | .scanRed r x s1 k => Sys2Proof.Machine.execScanRed r x s1 k s
  | .scanApply r x s1 k => Sys2Proof.Machine.execScanApply r x s1 k s
  | .scanApplyFirst r x s1 k => Sys2Proof.Machine.execScanApplyFirst r x s1 k s
  | .nscanUp r s1 g k => Sys2Proof.Machine.execNscanUp r s1 g k s
  | .nscanDown r s1 g k => Sys2Proof.Machine.execNscanDown r s1 g k s
  | .carrySendIn r s1 g p => Sys2Proof.Machine.execCarrySendIn r s1 g p s
  | .carrySendOut r s1 g p => Sys2Proof.Machine.execCarrySendOut r s1 g p s
  | .carryRecvIn r s1 g p => Sys2Proof.Machine.execCarryRecvIn r s1 g p s
  | .carryRecvOut r s1 g p => Sys2Proof.Machine.execCarryRecvOut r s1 g p s
  | .carryRecvCombIn r s1 g p k => Sys2Proof.Machine.execCarryRecvCombIn r s1 g p k s
  | .carryRecvCombOut r s1 g p k => Sys2Proof.Machine.execCarryRecvCombOut r s1 g p k s
  | .step r h x k => Sys2Proof.Machine.execStep r h x k s
  | .stepY r h x k y => Sys2Proof.Machine.execStepY r h x k y s
  | .swSet r w a b => Sys2Proof.Machine.execSwSet r w a b s
  | .qrDirld r a b => Sys2Proof.Machine.execQrDirld r a b s
  | .qrSeed r a => Sys2Proof.Machine.execQrSeed r a s
  | .qrPt r d a b => Sys2Proof.Machine.execQrPt r d a b s
  | .smpDraw r a => Sys2Proof.Machine.execSmpDraw r a s
  | .smpCheck r a b => Sys2Proof.Machine.execSmpCheck r a b s
  | .smpResid r a b => Sys2Proof.Machine.execSmpResid r a b s
  | .smpCfg r a b => Sys2Proof.Machine.execSmpCfg r a b s
  | .smpStop r a b => Sys2Proof.Machine.execSmpStop r a b s
  | .logAppend r d a => Sys2Proof.Machine.execLogAppend r d a s
  | .collLoad r a b => Sys2Proof.Machine.execCollLoad r a b s
  | .collRun r a b => Sys2Proof.Machine.execCollRun r a b s
  | .collWait r a => Sys2Proof.Machine.execCollWait r a s
  | .trigAdd r a b => Sys2Proof.Machine.execTrigAdd r a b s
  | .stc r a b => Sys2Proof.Machine.execStc r a b s
  | .winDrain r a => Sys2Proof.Machine.execWinDrain r a s
  | .digest r d a b => Sys2Proof.Machine.execDigest r d a b s
  | .frameBegin r a => Sys2Proof.Machine.execFrameBegin r a s
  | .deviceReset => Sys2Proof.Machine.execDeviceReset s
  | .bootSequence images => Sys2Proof.Machine.execBootSequence images s
  | .imageVerify v => Sys2Proof.Machine.execImageVerify v s
  | .gtcBringupStep master => Sys2Proof.Machine.execGtcBringupStep master s
  | .gtcDriftCorrection leads => Sys2Proof.Machine.execGtcDriftCorrection leads s
  | .engineCommandTake lnum u => Sys2Proof.Machine.execEngineCommandTake lnum u s
  | .relocCommandPull issuer => Sys2Proof.Machine.execRelocCommandPull issuer s
  | .loadValueReturn lnum k => Sys2Proof.Machine.execLoadValueReturn lnum k s
  | .storePerformed lnum k => Sys2Proof.Machine.execStorePerformed lnum k s
  | .timedCopyDue lnum => Sys2Proof.Machine.execTimedCopyDue lnum s
  | .copyBurst lnum => Sys2Proof.Machine.execCopyBurst lnum s
  | .scaleGroupPush lnum => Sys2Proof.Machine.execScaleGroupPush lnum s
  | .tileCommit lnum => Sys2Proof.Machine.execTileCommit lnum s
  | .sfWriteLand lnum => Sys2Proof.Machine.execSfWriteLand lnum s
  | .frontFormation cluster => Sys2Proof.Machine.execFrontFormation cluster s
  | .carryCreditGrant src => Sys2Proof.Machine.execCarryCreditGrant src s
  | .carryPacketDeliver p => Sys2Proof.Machine.execCarryPacketDeliver p s
  | .stallLimitExpiry lnum u => Sys2Proof.Machine.execStallLimitExpiry lnum u s
  | .stampOverrun lnum u => Sys2Proof.Machine.execStampOverrun lnum u s
  | .faultStop lnum unit code detail addr => Sys2Proof.Machine.execFaultStop lnum unit code detail addr s
  | .faultRecordPost => Sys2Proof.Machine.execFaultRecordPost s
  | .frespResume task => Sys2Proof.Machine.execFrespResume task s
  | .frespFail task => Sys2Proof.Machine.execFrespFail task s
  | .frespSave task => Sys2Proof.Machine.execFrespSave task s
  | .frespNoAction task => Sys2Proof.Machine.execFrespNoAction task s
  | .orphanTrap lnum => Sys2Proof.Machine.execOrphanTrap lnum s
  | .hypIdFree h => Sys2Proof.Machine.execHypIdFree h s
  | .logitRowComplete lnum slot row => Sys2Proof.Machine.execLogitRowComplete lnum slot row s
  | .logitResultsDeliver lnum slot row => Sys2Proof.Machine.execLogitResultsDeliver lnum slot row s
  | .smpWordPerform lnum => Sys2Proof.Machine.execSmpWordPerform lnum s
  | .taskDispatch die => Sys2Proof.Machine.execTaskDispatch die s
  | .preemptRequest die victim => Sys2Proof.Machine.execPreemptRequest die victim s
  | .squall lnum => Sys2Proof.Machine.execSquall lnum s
  | .squallSaveComplete lnum => Sys2Proof.Machine.execSquallSaveComplete lnum s
  | .taskenq w tenant => Sys2Proof.Machine.execTaskenq w tenant s
  | .fqheadWrite v => Sys2Proof.Machine.execFqheadWrite v s
  | .devidWrite v => Sys2Proof.Machine.execDevidWrite v s
  | .iodRegisterWrite p v => Sys2Proof.Machine.execIodRegisterWrite p v s
  | .keyLoad w => Sys2Proof.Machine.execKeyLoad w s
  | .keyInvalidate w => Sys2Proof.Machine.execKeyInvalidate w s
  | .fabLoadBank w => Sys2Proof.Machine.execFabLoadBank w s
  | .fabSwap w => Sys2Proof.Machine.execFabSwap w s
  | .xltRange w => Sys2Proof.Machine.execXltRange w s
  | .xltTenant w => Sys2Proof.Machine.execXltTenant w s
  | .xltAll w => Sys2Proof.Machine.execXltAll w s
  | .xltInvalidationComplete => Sys2Proof.Machine.execXltInvalidationComplete s
  | .slotBankSwap router => Sys2Proof.Machine.execSlotBankSwap router s
  | .fabricSlotSend router output => Sys2Proof.Machine.execFabricSlotSend router output s
  | .reorderGapTimeout srcDev srcLnum => Sys2Proof.Machine.execReorderGapTimeout srcDev srcLnum s
  | .portRequestCheck port p => Sys2Proof.Machine.execPortRequestCheck port p s
  | .remoteWriteAck id => Sys2Proof.Machine.execRemoteWriteAck id s
  | .remoteReadResponse id data => Sys2Proof.Machine.execRemoteReadResponse id data s
  | .remoteNegativeResponse id cause peer => Sys2Proof.Machine.execRemoteNegativeResponse id cause peer s
  | .remoteResponseTimeout id => Sys2Proof.Machine.execRemoteResponseTimeout id s
  | .stcPeerForward port p => Sys2Proof.Machine.execStcPeerForward port p s
  | .collRecordFire run => Sys2Proof.Machine.execCollRecordFire run s
  | .collRecordComplete run rec => Sys2Proof.Machine.execCollRecordComplete run rec s
  | .collPutReceive port p => Sys2Proof.Machine.execCollPutReceive port p s
  | .collPutRetry run rec => Sys2Proof.Machine.execCollPutRetry run rec s
  | .collRefusalTimeout run rec => Sys2Proof.Machine.execCollRefusalTimeout run rec s
  | .collAbortReceive member handle generation detail => Sys2Proof.Machine.execCollAbortReceive member handle generation detail s
  | .collFaultRaise run => Sys2Proof.Machine.execCollFaultRaise run s
  | .thermalThrottle cluster s1 => Sys2Proof.Machine.execThermalThrottle cluster s1 s
  | .thermalCritical cluster => Sys2Proof.Machine.execThermalCritical cluster s
  | .droopStretch cluster s1 => Sys2Proof.Machine.execDroopStretch cluster s1 s
  | .scrubPass st lnum addr found => Sys2Proof.Machine.execScrubPass st lnum addr found s
  | .coreRetirement lnum => Sys2Proof.Machine.execCoreRetirement lnum s
  | .hbmChannelSpare stack pair => Sys2Proof.Machine.execHbmChannelSpare stack pair s
  | .hbmSpareCopyDone stack pair => Sys2Proof.Machine.execHbmSpareCopyDone stack pair s
  | .laneDrop port => Sys2Proof.Machine.execLaneDrop port s
  | .attestationReport nonce => Sys2Proof.Machine.execAttestationReport nonce s
  | .mgmtRequest m => Sys2Proof.Machine.execMgmtRequest m s
  | .gtcPeriodIncrement => Sys2Proof.Machine.execGtcPeriodIncrement s
  | .frameCountAdvance lnum => Sys2Proof.Machine.execFrameCountAdvance lnum s
  | .hotSensorsClear cluster s1 => Sys2Proof.Machine.execHotSensorsClear cluster s1 s
  | .recomputeSpareBind cluster x => Sys2Proof.Machine.execRecomputeSpareBind cluster x s
  | .recomputeSpareRelease x => Sys2Proof.Machine.execRecomputeSpareRelease x s

end Sys2Proof.Machine
end

