-- ==== Sys2Proof/Machine/Schedule.lean ====
section
/-! DEFINITION. Whose move it is: the sequencers of the core in focus in ring order, then the units beside them, then
time (R19, R20). The order is the model's own; every order that an agenda names is possible too. -/
namespace Sys2Proof.Machine

/-- The move of one turn: a word to run, what an event has come to, or nothing but the new state. -/
inductive Move where
  | run (i : Instr) (s : State)
  | event (o : Host.Outcome State Fault Refusal)
  | rest (s : State)

/-- A core has turns: it runs or stops, or it is held and asked to give up its task. -/
def Core.hasTurn (c : Core) : Bool := match c.mode with
  | .halted => false
  | .held => c.preempt.isSome
  | _ => true

/-- The next core that has turns after the one in focus, in rising order and around. -/
def nextCore (s : State) : Nat :=
  let run := (s.others.filter (fun p => p.2.hasTurn)).map (·.1)
  match run.find? (fun n => decide (s.lnum < n)) with
  | some n => n
  | none => run.head?.getD s.lnum

/-- Perform an access: a returning one, or any other. -/
def accessEvent (k : Nat) (s : State) : Host.Outcome State Fault Refusal :=
  match s.core.pend[k]? with
  | some a => if a.kind.returns then execLoadValueReturn s.lnum k s else execStorePerformed s.lnum k s
  | none => .next s

/-- A packet has come to the stop at which it ends (R361). -/
def localEvent (p : Packet) (s : State) : Host.Outcome State Fault Refusal :=
  match p.req with
  | .carry .. => execCarryPacketDeliver p s
  | .part true _ => execCarryPacketDeliver p s
  | .stc .. => execStcPeerForward 0 p s
  | .put q => execCollPutReceive 0 q s
  | _ => execPortRequestCheck 0 p s

/-- The answer that this device has given to its own packet. -/
def answerEvent (id : Nat) (s : State) : Host.Outcome State Fault Refusal :=
  match s.ownAnswer id, s.waiting.find? (fun w => w.pkt.id == id) with
  | some r, some w =>
    if r.2.2.1 ≠ 0 then execRemoteNegativeResponse id (r.2.2.1 % 16) (r.2.2.1 / 16) s
    else if w.kind.reads then execRemoteReadResponse id r.2.2.2 s
    else execRemoteWriteAck id s
  | _, _ => .next s

/-- Run an event of the default order by its meaning. -/
def Due.run (d : Due) (s : State) : Host.Outcome State Fault Refusal :=
  match d with
  | .stall u => execStallLimitExpiry s.lnum u s
  | .relocPull => execRelocCommandPull s.lnum s
  | .access k => accessEvent k s
  | .fence => .next (resettle (drain s))
  | .copyDue => execTimedCopyDue s.lnum s
  | .copyBurst => execCopyBurst s.lnum s
  | .scalePush => execScaleGroupPush s.lnum s
  | .tileCommit => execTileCommit s.lnum s
  | .send => .next (vSend s)
  | .front => execFrontFormation (clusterIx s.lnum) s
  | .carryGrant => execCarryCreditGrant ⟨s.selfNum, s.core.tenant, (s.core.carryAsk.map (·.2)).getD 0⟩ s
  | .smpPerform => execSmpWordPerform s.lnum s
  | .rowComplete slot row => execLogitRowComplete s.lnum slot row s
  | .rowDeliver slot row => execLogitResultsDeliver s.lnum slot row s
  | .hypFree h => execHypIdFree h s
  | .squall => execSquall s.lnum s
  | .squallDone => execSquallSaveComplete s.lnum s
  | .restart => .next (restartOn s)
  | .request p => localEvent p s
  | .depart router output => execFabricSlotSend router output s
  | .answer id => answerEvent id s
  | .timeout id => execRemoteResponseTimeout id s
  | .dispatch die => execTaskDispatch die s
  | .preempt die => execPreemptRequest die none s
  | .post => execFaultRecordPost s
  | .recordFire run => execCollRecordFire run s
  | .recordDone run rec => execCollRecordComplete run rec s
  | .putRetry run rec => execCollPutRetry run rec s
  | .refusalEnd run rec => execCollRefusalTimeout run rec s
  | .collFault run => execCollFaultRaise run s
  | .xltDone => execXltInvalidationComplete s
  | .bankSwap router => execSlotBankSwap router s
  | .evict => .next (evictLines s)
  | .gap dev lnum => execReorderGapTimeout dev lnum s
  | .critical cluster => execThermalCritical cluster s
  | .retire n => .next (retireOn s n)
  | .spare stack pair => execHbmChannelSpare stack pair s
  | .period => execGtcPeriodIncrement s
  | .tick n => execFrameCountAdvance n s
  | .rotate => .next (focus (nextCore s) s)

/-- The turn after a sequencer's: ring order, then the units beside them (R18). -/
def turnAfter (u : Sqr) : Turn := match u with
  | .cc => .seq .ae
  | .ae => .seq .me
  | .me => .seq .se
  | .se => .seq .ve
  | .ve => .background

/-- The word is a prefix: its group is not complete (R44). -/
def isPrefix (i : Instr) : Bool := match i with
  | .stamp _ => true
  | .extI _ => true
  | .extM .. => true
  | _ => false

/-- Fetch and decode the next word of the acting sequencer (R33, R48, R85); the words of one group are read in one
turn. A group whose base word cannot be fetched shows none in its frame (R340). -/
def fetchMove (s : State) : Move :=
  match (if s.midWord then .word (s.core.curWord.get 0) s else fetch s) with
  | .wait s => .rest s
  | .fault f => .rest (faultOf (noteWord s 0#32) s.unit f)
  | .word w s =>
    let s := noteWord s w
    match decodeIn s.unit s.pfx w.toNat with
    | .error e =>
      if e = .step 6 ∧ majorOf w.toNat = 2 then .rest (joinBad w { s with turn := .seq s.unit })
      else .rest (faultOf s s.unit (decodeFault e))
    | .ok i => .run i (if isPrefix i then { s with turn := .seq s.unit } else s)

/-- The turn of a sequencer of the core in focus. (DESIGN CHOICE, assumption 8.) -/
def seqMove (s : State) (u : Sqr) : Move :=
  let s := { s with unit := u, turn := turnAfter u }
  if s.midWord then fetchMove s
  else if s.core.mode != .running then .rest s
  else match u with
    | .cc => if s.core.orphanPending then .event (execOrphanTrap s.lnum s) else fetchMove s
    | u =>
      let e := s.core.eng u
      if e.ending.isSome then .event (execSfWriteLand s.lnum s)
      else if e.run.isNone then
        if !e.cmdq.items.isEmpty || (u == .me && !s.core.relocs.isEmpty) then .event (execEngineCommandTake s.lnum u s)
        else if u = .ve then .rest (s.mapCore Core.vDrain)
        else .rest s
      else fetchMove s

/-! ### What falls due -/

/-- A due event where a condition holds. -/
def dueIf (b : Bool) (d : Due) : List Due := if b then [d] else []

/-- The rows of the sampling slots of a core with a property. -/
def Core.rowsWith (c : Core) (p : LogitRow → Bool) (d : Nat → Nat → Due) : List Due :=
  c.smp.flatMap (fun x => ((List.range x.2.rows.length).filter (fun r => (x.2.rows[r]?).any p)).map (d x.1))

/-- What is due on the core in focus. (DESIGN CHOICE, assumption 8.) -/
def coreDues (s : State) : List Due :=
  let c := s.core
  if c.mode == .halted then []
  else
    ((List.range c.pend.length).find? (fun k => s.canPerform k)).toList.map Due.access
    ++ dueIf (c.pend.any (fun a => a.kind == .fence)) .fence
    ++ dueIf (c.copies.any (fun x => x.timed && !x.due && x.isDue s.gtc)) .copyDue
    ++ dueIf (c.copies.any (fun x => x.kind != .sclLd)) .copyBurst
    ++ dueIf (c.copies.any (fun x => x.kind == .sclLd)) .scalePush
    ++ dueIf (match c.tiles with | t :: _ => t.ready | [] => false) .tileCommit
    ++ dueIf (c.windowDue.isSome || c.windowWaits) .send
    ++ dueIf c.front.isSome .front
    ++ dueIf (s.carryGrantable s.lnum) .carryGrant
    ++ dueIf (!c.smpq.isEmpty) .smpPerform
    ++ c.rowsWith (fun r => r.complete && !r.fresh && r.pending.isNone) .rowComplete
    ++ c.rowsWith (fun r => r.pending.isSome) .rowDeliver
    ++ dueIf (pullable s s.lnum).isSome .relocPull
    ++ dueIf s.preemptDue .squall
    ++ dueIf (c.mode == .saving) .squallDone
    ++ dueIf (c.mode == .restarting && s.replaysDone) .restart

/-- What is due for one run of a collective. -/
def runDues (s : State) (n : Nat) (r : CollRun) : List Due :=
  let refusedAt (k : Nat) (limit : Nat) (since : Word) : Bool := (r.refused.any (fun q => q.1 == k)) && decide (limit ≤ (s.gtc - since).toNat)
  dueIf r.met (.recordFire n)
  ++ (r.fired.filter (fun k => !s.putOut r k && !r.refused.any (fun q => q.1 == k))).map (Due.recordDone n)
  ++ (r.refused.filter (fun q => refusedAt q.1 retryPeriods q.2.2)).map (fun q => Due.putRetry n q.1)
  ++ (r.refused.filter (fun q => refusedAt q.1 responseLimit q.2.1)).map (fun q => Due.refusalEnd n q.1)
  ++ dueIf (r.aborted.isSome && !r.raised) (.collFault n)

/-- What is due on the device. (DESIGN CHOICE, assumption 8.) -/
def deviceDues (s : State) : List Due :=
  (s.packets.filter (fun f => decide (64 ≤ f.stop))).map (fun f => Due.request f.pkt)
  ++ ((s.packets.filter (fun f => decide (f.stop < 64))).map (fun f => Due.depart f.stop (Config.outputOf f.stop f.out).toNat)).eraseDups
  ++ ((s.waiting.filter (fun w => (s.ownAnswer w.pkt.id).isSome)).map (fun w => Due.answer w.pkt.id))
  ++ ((s.waiting.filter (fun w => decide (responseLimit ≤ (s.gtc - w.since).toNat))).map (fun w => Due.timeout w.pkt.id))
  ++ ((s.puts.filter (fun p => p.dstDev != s.dev.toNat && (putSince s p).any (fun t => decide (responseLimit ≤ (s.gtc - t).toNat)))).map (fun p => Due.timeout p.id))
  ++ ((List.range s.colls.length).zip s.colls).flatMap (fun p => runDues s p.1 p.2)
  ++ (s.hyps.filter (fun p => p.2.state == 2)).map (fun p => Due.hypFree p.1)
  ++ dueIf (!s.unposted.isEmpty && decide (s.faultq.length < faultqDepth)) .post
  ++ dueIf (!s.dirtyRemote.isEmpty) .evict
  ++ dueIf (s.xltPending != 0 && s.xltQuiet) .xltDone
  ++ ((List.range 5).filter s.swapDue).map Due.bankSwap
  ++ ((s.reorder.filter (fun r => decide (gapLimit ≤ (s.gtc - r.2.2).toNat))).map (fun r => Due.gap (r.2.1.flow / 512) (r.2.1.flow % 512))).take 1
  ++ ((s.clusters.filter (fun p => s.critDue p.1 && !p.2.critHold)).map (fun p => Due.critical p.1))
  ++ s.retiring.map (fun p => Due.retire p.1)
  ++ (((s.pairErrors.map (fun e => (e.1, e.2.1))).eraseDups.filter (fun p => s.spareDue p.1 p.2)).map (fun p => Due.spare p.1 p.2))
  ++ (s.pools.filter (fun p => s.hostUp && (s.pickEntry p.1).isSome)).map (fun p => Due.dispatch p.1)
  ++ (s.pools.filter (fun p => (s.poolVictim p.1).isSome)).map (fun p => Due.preempt p.1)

/-- The units beside the sequencers: F.STALL of a sequencer that has been blocked too long, what else is due, and the turn of the
next core. When every core has had its turn,
what is due on the device happens, and a cycle of every core and a period of sys.gtc pass. (DESIGN CHOICE, assumption 8.) -/
def backgroundMove (s : State) : Move :=
  let wrap := decide (nextCore s ≤ s.lnum)
  let ticks := (s.lnum :: s.others.map (·.1)).map Due.tick
  .rest { s with dues := (ringOrder.filter s.stallDue).map Due.stall ++ coreDues s ++ (if wrap then deviceDues s ++ ticks ++ [.period] else []) ++ [.rotate], turn := .seq .cc }

/-- The next move. A word on the agenda has no sequencer and is passed over. (DESIGN CHOICE, assumptions 8 and 9 and 11.) -/
def nextMove (s : State) : Move :=
  match s.agenda with
  | i :: rest => if (encode i).isNone then .run i { s with agenda := rest } else .rest { s with agenda := rest }
  | [] => match s.dues with
    | d :: rest => .event (d.run { s with dues := rest })
    | [] => match s.turn with
      | .seq u => seqMove s u
      | .background => backgroundMove s

/-- The next move, run by `exec` where it is an instruction or an event. -/
def moveStep (s : State) : Host.Outcome State Fault Refusal :=
  match nextMove s with
  | .run i s => exec i s
  | .event o => o
  | .rest s => .next s

/-! ### Placing one instruction -/

/-- A page-table walk for virtual address 0, to one 512 MiB leaf at physical address 0, with every permission, accessed
and dirty (R350, R351): five tables from the root at 0x10000. (DESIGN CHOICE, assumption 1.) -/
def fetchTables (dev : Nat) : List (Nat × Nat) :=
  let base := dev * 2 ^ 42
  let pte (a : Nat) : Nat := (base + a) / 4096 * 4096
  [(0x10000, pte 0x12000 + 1), (0x12000, pte 0x13000 + 1), (0x13000, pte 0 + 0xDD + 2 ^ 10)]

/-- The context that runs a placed instruction. -/
def placedContext : Context :=
  { (default : Context) with tenant := 1, task := 0x100000#64, rcb := 0x101000#64, save := 0x200000#64, chain := [] }

/-- The core that runs a placed instruction: the focus, with a context that is resident and running.
(DESIGN CHOICE, assumption 1.) -/
def State.placed (s : State) (u : Sqr) : State :=
  let root := s.dev.toNat * 2 ^ 42 + 0x10000
  let s : State := { s with unit := u, turn := .seq u, agenda := [], dues := [], roots := s.roots.set 1 (BitVec.ofNat 64 root) }
  let s := (fetchTables s.dev.toNat).foldl (fun s p => { s with mem := writeLE s.mem (s.dev.toNat * 2 ^ 42 + p.1) 8 p.2 }) s
  s.mapCore (fun c => { c with mode := .running, ctx := some (c.ctx.getD placedContext), pfx := [], divs := [], underway := false, fetching := none, icache := default, chain := none })

/-- Store a word where sequencer `u` fetches its next one: at the CC's PC through the placed tables, or in the engine's
instruction memory, with a command running. (DESIGN CHOICE, assumption 1.) -/
def State.placeWord (s : State) (u : Sqr) (w : BitVec 32) : State :=
  match u with
  | .cc =>
    let s := { s with tlbs := [], core := { s.core with pc := s.core.pc &&& 0x1FFFFFFC#64, orphan := none } }
    { s with mem := writeLE s.mem (s.dev.toNat * 2 ^ 42 + s.core.pc.toNat) 4 w.toNat }
  | u => s.mapCore (fun c => c.mapEng u (fun e =>
      { e with run := some (e.run.getD default), ending := none, imem := e.imem.set (e.upc / 4 % 0x4000) w, upc := e.upc / 4 % 0x4000 * 4 }))

/-- The sequencer that accepts a word: the CC, or the first engine that does (R49). -/
def streamOf (w : Nat) : Sqr :=
  ([Sqr.cc, .ae, .me, .se, .ve].find? (fun u => match decodeIn u {} w with
    | .ok _ => true
    | .error _ => false)).getD .cc

end Sys2Proof.Machine
end

