-- ==== Sys2Proof/Machine/Step.lean ====
section
/-! DEFINITION. One step of the machine, and the placing of one instruction where it is fetched next. -/
namespace Sys2Proof.Machine

/-- One step: the next move, with the errors of one bit that its accesses meet corrected (R396).
(DESIGN CHOICE, assumptions 8 and 9.) -/
def step (s : State) : Host.Outcome State Fault Refusal := correcting moveStep s

/-- The machine with an instruction of one 32-bit word placed where the next step fetches it (R33): the word's sequencer
has the turn, in a resident context. A shorter width has no word, and nothing changes. (DESIGN CHOICE, assumption 1.) -/
def State.withFetchWord (s : State) (nbits w : Nat) : State :=
  let x := BitVec.ofNat 32 (w % 2 ^ nbits)
  let u := streamOf x.toNat
  (s.placed u).placeWord u x

end Sys2Proof.Machine
end

