-- ==== Sys2Proof/Safety.lean ====
section
/-! DEFINITION. What a safe run is, and the words in which statements speak of one instruction: when it issues, what the
issue of any word moves, and when an instruction completes with an effect. -/
namespace Sys2Proof.Safety
open Sys2Proof.Machine

/-- The step answers a next state. -/
def goes (s : State) : Prop := ∃ t, step s = .next t

/-- The first `n` steps all answer a next state. -/
def safeFor : Nat → State → Prop
  | 0, _ => True
  | n + 1, s => ∃ t, step s = .next t ∧ safeFor n t

/-- A word of format R (R37): ring bits, major, the three fields, funct7. -/
def wordR (ring : BitVec 4) (major : Nat) (d a b : BitVec 5) (funct : Nat) : Nat :=
  ring.toNat * 2 ^ 28 + major * 2 ^ 22 + d.toNat * 2 ^ 17 + a.toNat * 2 ^ 12 + b.toNat * 2 ^ 7 + funct

/-! ### What the issue of a word moves -/

/-- Where an engine stands: micro-PC and loops (R106, R110). -/
def engineStanding (e : Engine) : Nat × Tab LoopReg × List Nat := (e.upc, e.loops, e.loopOrder)

/-- Where every sequencer of a core stands: the PC of the CC, and the engines (R18). -/
def standing (c : Core) : Word × List (Nat × Tab LoopReg × List Nat) :=
  (c.pc, [engineStanding c.ae, engineStanding c.me, engineStanding c.se, engineStanding c.ve])

/-- An engine but for where it stands. -/
def stillEngine (e : Engine) : Engine := { e with upc := 0, loops := [], loopOrder := [] }

/-- The entry of the access list is no ring signal that waits. -/
def noSignal (a : Access) : Bool := match a.kind with
  | .signal .. => false
  | _ => true

/-- A core but for what the issue of any word moves: where its sequencers stand, the group that each reads, its blocked
cycles, ring tokens with the signals that wait, vector word numbers, sys.instret, and what its instruction cache holds (R85). -/
def stillCore (c : Core) : Core :=
  let c := { c with pc := 0#64, pfx := [], blocked := [], cause := [], exempt := [], poll := [], bulk := [],
                    underway := false, icache := default, instret := 0#64 }
  { c with tokens := [], vword := 0, vretire := [], pend := c.pend.filter noSignal,
           ae := stillEngine c.ae, me := stillEngine c.me, se := stillEngine c.se, ve := stillEngine c.ve }

/-- The machine but for what the issue of any word of the core in focus moves. -/
def still (s : State) : State := { s with core := stillCore s.core }

/-- The word issues here: it is ready (R48, R83, R115, R126, R387), and its guard lets it execute (R39). -/
def issues (s : State) (i : Instr) : Prop := s.ready i = true ∧ s.guarded i = true

/-- The word completes: `exec` answers a next state that holds what `e` holds, but for what the issue of any word moves,
after the step that the word is in a vector engine (R209); control goes on as `k` says (R44, R112). -/
def completes (s : State) (i : Instr) (k : Ctl) (e : State) : Prop :=
  ∃ t, exec i s = .next t ∧ still t = still (stepAfter s.unit e) ∧ standing t.core = standing (e.core.advance s.unit s.baseAddr k)

/-- `n` further executions of the word, one after the other, come to `t`: a word of the SE that runs place by place (R249). -/
def turns (i : Instr) : Nat → State → State → Prop
  | 0, s, t => t = s
  | n + 1, s, t => ∃ u, exec i s = .next u ∧ turns i n u t

/-- A word of the SE that issues in `s` has retired in `t`: control has gone on, and no place of it is left. -/
def retired (s t : State) : Prop := t.core.seprog.getLsbD 39 = false ∧ standing t.core = standing (s.core.advance s.unit s.baseAddr .next)

/-- The word, when it issues, has the effect `f` and goes on. -/
def does (s : State) (i : Instr) (f : State → State) : Prop := issues s i → completes s i .next (f (takeRing i s))

/-- The word, when it issues, writes `v` to register field `d` of its sequencer and does nothing else. -/
def writesReg (s : State) (i : Instr) (d : BitVec 5) (v : Word) : Prop := does s i (fun s => s.w5 d v)

/-- The word, when it issues, writes guard `d` and does nothing else. -/
def writesGuard (s : State) (i : Instr) (d : BitVec 5) (v : Bool) : Prop := does s i (fun s => s.mapCore (fun c => c.setGuard d.toNat v))

/-- The word stands for the cause of R126, and the cycle counts as blocked; in its stamped cycle it faults (R387). -/
def blocks (s : State) (i : Instr) (cause : Nat) : Prop :=
  issues s i → exec i s = .next (if stampState s = .now then faultOf s s.unit ⟨0x0A, 0, 0#64⟩ else noteBlocked s cause)

/-- The word faults and has not issued. -/
def faults (s : State) (i : Instr) (f : Flt) : Prop := issues s i → exec i s = .next (faultOf s s.unit f)

/-- An access that a word issues in `s`, with no order of its own: its place comes with its translation. -/
def plainAccess (s : State) (kind : AccessKind) (size rd : Nat) (data : Word) : Access :=
  { unit := s.unit, kind := kind, place := .none, size := size, rd := rd, data := data, hyp := s.hyp, kindSO := false,
    kindUO := false, acq := false, rel := false, scope := 0, rmc := false, pid := 0, word := s.core.groupWord s.unit, upto := s.packetId }

/-- The word issues an access `a` to memory at `va` (R133, R123, R362): it faults by the first check that fails; under a
hypothesis it faults where `so` forbids that (1: on an SO page or another device, R299; 2: always, R143); it stands where a
counter or the remote stores leave no room; a tagged store under a refuted hypothesis has no effect (R304); else the access, with
its translation, joins those in flight. -/
def accesses (s : State) (i : Instr) (va : Word) (acc : AccKind) (so : Nat) (a : Access) : Prop :=
  (canonical va = false → faults s i ⟨0x05, 0x40 + 8 * acc, va⟩)
  ∧ (canonical va = true → va.toNat % a.size ≠ 0 → faults s i ⟨0x04, 0, va⟩)
  ∧ (canonical va = true → va.toNat % a.size = 0 → ∀ f, translate (takeRing i s) s.core.tenant va acc = .error f → faults s i f)
  ∧ (canonical va = true → va.toNat % a.size = 0 → ∀ pa leaf t,
      translate (takeRing i s) s.core.tenant va acc = .ok (pa, leaf, t) →
      let x := a.withLeaf va pa leaf
      let forbidden : Prop := s.hyp ≠ 0#8 ∧ (so = 2 ∨ (so = 1 ∧ (pteKind leaf = 0 ∨ paDev pa ≠ s.dev.toNat)))
      (forbidden → faults s i ⟨0x0D, 0, va⟩)
      ∧ (¬forbidden → t.noRoom x = true → blocks s i 8)
      ∧ (¬forbidden → t.noRoom x = false → t.tagRefuted x = true → issues s i → completes s i .next t)
      ∧ (¬forbidden → t.noRoom x = false → t.tagRefuted x = false → issues s i → completes s i .next (t.mapCore (fun c =>
          { c with pend := c.pend ++ [x], cntLd := c.cntLd + (if a.kind.returns then 1 else 0),
                   cntSt := c.cntSt + (if a.kind.returns then 0 else 1) }))))

end Sys2Proof.Safety
end

