-- ==== Sys2Proof/Certificates/Slice0/Obligations.lean ====
section
/-! DEFINITION. The statements for the provers. -/

section
open Sys2Proof Sys2Proof.Machine Sys2Proof.Safety

/-! ### The control core -/

/-- R87: each word of major 0x04 writes its result to rd, and nothing else; its encoding, and the words of that major that fault
at decode with F.ILLEGAL (R48). -/
def Obligations.AluRegisterResults : Prop :=
  ∀ (s : State) (r : BitVec 4) (d a b : BitVec 5),
    let x := s.r5 a
    let y := s.r5 b
    let is (f : Nat) (i : Instr) : Prop := decodeRaw (wordR r 0x04 d a b f) = .ok i
    let illegal (f : Nat) : Prop := ∃ e, decodeRaw (wordR r 0x04 d a b f) = .error (.step e) ∧ (e = 4 ∨ e = 6)
    writesReg s (.add r d a b) d (x + y)
    ∧ writesReg s (.sub r d a b) d (x - y)
    ∧ writesReg s (.and r d a b) d (x &&& y)
    ∧ writesReg s (.or r d a b) d (x ||| y)
    ∧ writesReg s (.xor r d a b) d (x ^^^ y)
    ∧ writesReg s (.andn r d a b) d (x &&& ~~~y)
    ∧ writesReg s (.minI64 r d a b) d (if x.toInt ≤ y.toInt then x else y)
    ∧ writesReg s (.maxI64 r d a b) d (if x.toInt ≤ y.toInt then y else x)
    ∧ writesReg s (.minN64 r d a b) d (if x.toNat ≤ y.toNat then x else y)
    ∧ writesReg s (.maxN64 r d a b) d (if x.toNat ≤ y.toNat then y else x)
    ∧ writesReg s (.addI32 r d a b) d (((x + y).setWidth 32).signExtend 64)
    ∧ writesReg s (.subI32 r d a b) d (((x - y).setWidth 32).signExtend 64)
    ∧ (∃ n : Nat, n ≤ 64 ∧ (∀ k < n, x.getLsbD (63 - k) = false) ∧ (n < 64 → x.getLsbD (63 - n) = true)
        ∧ writesReg s (.clz r d a) d (BitVec.ofNat 64 n))
    ∧ (∃ n : Nat, n ≤ 64 ∧ (∀ k < n, x.getLsbD k = false) ∧ (n < 64 → x.getLsbD n = true)
        ∧ writesReg s (.ctz r d a) d (BitVec.ofNat 64 n))
    ∧ writesReg s (.popc r d a) d (BitVec.ofNat 64 ((List.range 64).countP (fun n => x.getLsbD n)))
    ∧ writesReg s (.addsI64 r d a b) d (BitVec.ofInt 64 (max (-(2 ^ 63)) (min (2 ^ 63 - 1) (x.toInt + y.toInt))))
    ∧ is 0 (.add r d a b) ∧ is 1 (.sub r d a b) ∧ is 2 (.and r d a b) ∧ is 3 (.or r d a b) ∧ is 4 (.xor r d a b) ∧ is 5 (.andn r d a b)
    ∧ is 6 (.minI64 r d a b) ∧ is 7 (.maxI64 r d a b) ∧ is 8 (.minN64 r d a b) ∧ is 9 (.maxN64 r d a b) ∧ is 10 (.addI32 r d a b)
    ∧ is 11 (.subI32 r d a b) ∧ is 15 (.addsI64 r d a b) ∧ (b = 0#5 → is 12 (.clz r d a) ∧ is 13 (.ctz r d a) ∧ is 14 (.popc r d a))
    ∧ (b ≠ 0#5 → ∀ f, 12 ≤ f → f ≤ 14 → illegal f) ∧ (∀ f, 16 ≤ f → f < 128 → illegal f)

/-- R88, R89, R91, R92: the immediate words, the moves, LEA and the shifts write rd. The immediate is sign-extended, widened by
EXT.I (R47). The amount of a shift is bits 5:0 of rb, or that of an immediate form in its two fields (R50); the
encodings, and the words of their majors that fault at decode. -/
def Obligations.ImmediateAndShiftResults : Prop :=
  ∀ (s : State) (r : BitVec 4) (d a b : BitVec 5) (h : BitVec 1) (i : BitVec 9) (m : BitVec 16),
    let x := s.r5 a
    let y := BitVec.ofInt 64 (s.immS i)
    writesReg s (.addi r d a i) d (x + y)
    ∧ writesReg s (.andi r d a i) d (x &&& y)
    ∧ writesReg s (.ori r d a i) d (x ||| y)
    ∧ writesReg s (.xori r d a i) d (x ^^^ y)
    ∧ writesReg s (.slti r d a i) d (if x.toInt < y.toInt then 1#64 else 0#64)
    ∧ writesReg s (.sltiu r d a i) d (if x.toNat < y.toNat then 1#64 else 0#64)
    ∧ writesReg s (.movi r d m) d (BitVec.ofInt 64 (s.immS m))
    ∧ writesReg s (.lih r d m) d ((s.r5 d <<< 16) ||| m.setWidth 64)
    ∧ writesReg s (.lea1 r d a i) d (s.r5 d + x + y)
    ∧ writesReg s (.lea2 r d a i) d (s.r5 d + x * 2#64 + y)
    ∧ writesReg s (.lea4 r d a i) d (s.r5 d + x * 4#64 + y)
    ∧ writesReg s (.lea8 r d a i) d (s.r5 d + x * 8#64 + y)
    ∧ (let k := (s.r5 b).toNat % 64
       let n := (h ++ b).toNat
       writesReg s (.sll r d a b) d (x <<< k)
       ∧ writesReg s (.srl r d a b) d (x >>> k)
       ∧ writesReg s (.sra r d a b) d (BitVec.ofInt 64 (x.toInt / 2 ^ k))
       ∧ writesReg s (.ror r d a b) d ((x >>> k) ||| (x <<< (64 - k)))
       ∧ writesReg s (.slli r d a b h) d (x <<< n)
       ∧ writesReg s (.srli r d a b h) d (x >>> n)
       ∧ writesReg s (.srai r d a b h) d (BitVec.ofInt 64 (x.toInt / 2 ^ n))
       ∧ writesReg s (.rori r d a b h) d ((x >>> n) ||| (x <<< (64 - n))))
    ∧ (s.pfx.extI = none → s.immS i = i.toInt ∧ s.immS m = m.toInt)
    ∧ (∀ e, s.pfx.extI = some e → s.immS i = (e ++ i).toInt ∧ s.immS m = (e ++ m).toInt)
    ∧ (let wordI (major f : Nat) : Nat := wordR r major d a 0#5 0 + f * 2 ^ 9 + i.toNat
       let is (w : Nat) (i : Instr) : Prop := decodeRaw w = .ok i
       let illegal (w : Nat) : Prop := decodeRaw w = .error (.step 4)
       let f (n : Nat) : Nat := wordR r 0x06 d a b n
       is (wordI 0x05 0) (.addi r d a i) ∧ is (wordI 0x05 1) (.andi r d a i) ∧ is (wordI 0x05 2) (.ori r d a i) ∧ is (wordI 0x05 3) (.xori r d a i)
       ∧ is (wordI 0x05 4) (.slti r d a i) ∧ is (wordI 0x05 5) (.sltiu r d a i) ∧ illegal (wordI 0x05 6) ∧ illegal (wordI 0x05 7)
       ∧ is (wordI 0x0F 0) (.lea1 r d a i) ∧ is (wordI 0x0F 1) (.lea2 r d a i) ∧ is (wordI 0x0F 2) (.lea4 r d a i) ∧ is (wordI 0x0F 3) (.lea8 r d a i)
       ∧ (∀ k, 4 ≤ k → k < 8 → illegal (wordI 0x0F k))
       ∧ is (wordR r 0x0B d 0#5 0#5 0 + m.toNat) (.movi r d m) ∧ is (wordR r 0x0B d 0#5 0#5 0 + 2 ^ 16 + m.toNat) (.lih r d m)
       ∧ is (f 0) (.sll r d a b) ∧ is (f 32) (.srl r d a b) ∧ is (f 64) (.sra r d a b) ∧ is (f 96) (.ror r d a b)
       ∧ is (f (16 + h.toNat)) (.slli r d a b h) ∧ is (f (48 + h.toNat)) (.srli r d a b h) ∧ is (f (80 + h.toNat)) (.srai r d a b h)
       ∧ is (f (112 + h.toNat)) (.rori r d a b h)
       ∧ (∀ n, n < 128 → n % 16 ≠ 0 → n % 32 ≠ 17 → illegal (f n)))

/-- R90, R83: the products, and the quotients and remainders with their corner cases, each of which completes. A later group waits
for a product for 3 cycles, and for a quotient or remainder, as a division in progress in its sequencer, for 34.
Where the spec is silent it rests on choices of the model: assumption 10. -/
def Obligations.MultiplyDivideResults : Prop :=
  ∀ (s : State) (r : BitVec 4) (d a b : BitVec 5),
    let x := s.r5 a
    let y := s.r5 b
    let is (f : Nat) (i : Instr) : Prop := decodeRaw (wordR r 0x07 d a b f) = .ok i
    let illegal (f : Nat) : Prop := ∃ e, decodeRaw (wordR r 0x07 d a b f) = .error (.step e) ∧ (e = 4 ∨ e = 6)
    let after (n : Nat) (division : Bool) (i : Instr) (v : Word) : Prop := issues s i → completes s i .next
      (((takeRing i s).w5 d v).mapCore (fun c =>
        { c with divs := c.divs.set (sqIx s.unit) (⟨n, d.toNat, division⟩ :: c.divs.get (sqIx s.unit)) }))
    let multiplies (i : Instr) (v : Word) : Prop := after 3 false i v
    let divides (i : Instr) (v : Word) : Prop := after 34 true i v
    let q : Word := if y = 0#64 then 0xFFFFFFFFFFFFFFFF#64
      else if x.toInt = -(2 ^ 63) ∧ y.toInt = -1 then x else BitVec.ofInt 64 (x.toInt.tdiv y.toInt)
    multiplies (.mul r d a b) (x * y)
    ∧ multiplies (.mulhI64 r d a b) (BitVec.ofInt 64 (x.toInt * y.toInt / 2 ^ 64))
    ∧ multiplies (.mulhN64 r d a b) (BitVec.ofNat 64 (x.toNat * y.toNat / 2 ^ 64))
    ∧ divides (.divI64 r d a b) q
    ∧ divides (.remI64 r d a b) (if y = 0#64 then x else x - y * q)
    ∧ divides (.divN64 r d a b) (if y = 0#64 then 0xFFFFFFFFFFFFFFFF#64 else BitVec.ofNat 64 (x.toNat / y.toNat))
    ∧ divides (.remN64 r d a b) (if y = 0#64 then x else BitVec.ofNat 64 (x.toNat % y.toNat))
    ∧ is 0 (.mul r d a b) ∧ is 1 (.mulhI64 r d a b) ∧ is 2 (.mulhN64 r d a b) ∧ is 3 (.divI64 r d a b) ∧ is 4 (.divN64 r d a b)
    ∧ is 5 (.remI64 r d a b) ∧ is 6 (.remN64 r d a b) ∧ (∀ f, 7 ≤ f → f < 128 → illegal f)

/-- R93, R94: the compares and the guard logic write guard gd; a write to g0 is discarded, and g0 reads as 1;
their encodings, and the words of their majors that fault at decode. -/
def Obligations.CompareAndGuardResults : Prop :=
  ∀ (s : State) (r : BitVec 4) (d a b : BitVec 5),
    let x := s.r5 a
    let y := s.r5 b
    let is (m f : Nat) (i : Instr) : Prop := decodeRaw (wordR r m d a b f) = .ok i
    let illegal (m f : Nat) : Prop := ∃ e, decodeRaw (wordR r m d a b f) = .error (.step e) ∧ (e = 4 ∨ e = 6)
    let p := a.toNat = 0 ∨ s.core.g.getLsbD a.toNat = true
    let q := b.toNat = 0 ∨ s.core.g.getLsbD b.toNat = true
    writesGuard s (.cmpEq r d a b) d (x == y)
    ∧ writesGuard s (.cmpNe r d a b) d (x != y)
    ∧ writesGuard s (.cmpLtI64 r d a b) d (decide (x.toInt < y.toInt))
    ∧ writesGuard s (.cmpGeI64 r d a b) d (decide (y.toInt ≤ x.toInt))
    ∧ writesGuard s (.cmpLtN64 r d a b) d (decide (x.toNat < y.toNat))
    ∧ writesGuard s (.cmpGeN64 r d a b) d (decide (y.toNat ≤ x.toNat))
    ∧ writesGuard s (.tst r d a b) d (x &&& y != 0#64)
    ∧ writesGuard s (.gand r d a b) d (decide (p ∧ q))
    ∧ writesGuard s (.gor r d a b) d (decide (p ∨ q))
    ∧ writesGuard s (.gxor r d a b) d (decide (p ↔ ¬q))
    ∧ writesGuard s (.gandn r d a b) d (decide (p ∧ ¬q))
    ∧ writesGuard s (.gmov r d a) d (decide p)
    ∧ writesGuard s (.gnot r d a) d (decide (¬p))
    ∧ writesGuard s (.gset r d) d true
    ∧ writesGuard s (.gclr r d) d false

    ∧ (d.toNat < 8 →
        is 8 0 (.cmpEq r d a b) ∧ is 8 1 (.cmpNe r d a b) ∧ is 8 2 (.cmpLtI64 r d a b) ∧ is 8 3 (.cmpGeI64 r d a b)
        ∧ is 8 4 (.cmpLtN64 r d a b) ∧ is 8 5 (.cmpGeN64 r d a b) ∧ is 8 6 (.tst r d a b))
    ∧ (d.toNat < 8 → a.toNat < 8 → b.toNat < 8 →
        is 9 0 (.gand r d a b) ∧ is 9 1 (.gor r d a b) ∧ is 9 2 (.gxor r d a b) ∧ is 9 3 (.gandn r d a b))
    ∧ (d.toNat < 8 → a.toNat < 8 → b = 0#5 → is 9 4 (.gmov r d a) ∧ is 9 5 (.gnot r d a))
    ∧ (d.toNat < 8 → a = 0#5 → b = 0#5 → is 9 6 (.gset r d) ∧ is 9 7 (.gclr r d)) ∧ (8 ≤ d.toNat → ∀ f < 128, illegal 8 f ∧ illegal 9 f)
    ∧ (8 ≤ a.toNat ∨ 8 ≤ b.toNat → ∀ f < 128, illegal 9 f) ∧ (b ≠ 0#5 → ∀ f, 4 ≤ f → f < 8 → illegal 9 f) ∧ (a ≠ 0#5 → illegal 9 6 ∧ illegal 9 7)
    ∧ (∀ f, 7 ≤ f → f < 128 → illegal 8 f) ∧ (∀ f, 8 ≤ f → f < 128 → illegal 9 f)
    ∧ (∀ v, ((takeRing (.gset r d) s).core.setGuard 0 v).guard 0 = true)

/-- R80, R35: what the register and guard writes of the statements above leave: the written register or guard, where
number 0 discards the write, and every other one and all the rest of the machine, an engine's micro-PC, loops and queues among it, as
before. -/
def Obligations.RegisterAndGuardWrites : Prop :=
  (∀ (s : State) (d : BitVec 5) (v : Word),
    (s.w5 d v).core.reg s.unit d.toNat = (if d = 0#5 then 0#64 else v)
    ∧ (∀ u n, u ≠ s.unit ∨ n ≠ d.toNat → (s.w5 d v).core.reg u n = s.core.reg u n)
    ∧ (let c := (s.w5 d v).core
       { (s.w5 d v) with core := { c with x := s.core.x, ae := { c.ae with e := s.core.ae.e }, me := { c.me with e := s.core.me.e },
                                          se := { c.se with e := s.core.se.e }, ve := { c.ve with e := s.core.ve.e } } } = s))
  ∧ (∀ (c : Core) (n : Nat) (v : Bool), n < 8 →
    (c.setGuard n v).guard n = (if n = 0 then true else v)
    ∧ (∀ m, m < 8 → m ≠ n → (c.setGuard n v).guard m = c.guard m)
    ∧ { c.setGuard n v with g := c.g } = c)

/-- R95–R98, R131: SEL moves a register; BR, JAL and JR go to their targets and write their links; JR to a misaligned or
non-canonical target faults and writes nothing.
Where the spec is silent it rests on choices of the model: assumption 14. -/
def Obligations.SelectAndJumpResults : Prop :=
  ∀ (s : State) (r : BitVec 4) (g : BitVec 3) (n : BitVec 1) (d a : BitVec 5) (o : BitVec 18) (m : BitVec 17),
    let base : Word := BitVec.ofNat 64 s.baseAddr
    writesReg s (.sel r g n d a) d (s.r5 a)
    ∧ (issues s (.br r g n o) →
        completes s (.br r g n o) (.jump (base + BitVec.ofInt 64 (4 * s.immS o)).toNat) (takeRing (.br r g n o) s))
    ∧ (issues s (.jal r d m) → completes s (.jal r d m) (.jump (base + BitVec.ofInt 64 (4 * s.immS m)).toNat)
        ((takeRing (.jal r d m) s).w5 d (base + 4#64)))
    ∧ (issues s (.jr r d a) → (s.r5 a).toNat % 4 = 0 → canonical (s.r5 a) = true →
        completes s (.jr r d a) (.jump (s.r5 a).toNat) ((takeRing (.jr r d a) s).w5 d (base + 4#64)))
    ∧ ((s.r5 a).toNat % 4 ≠ 0 → faults s (.jr r d a) ⟨0x04, 0, s.r5 a⟩)
    ∧ ((s.r5 a).toNat % 4 = 0 → canonical (s.r5 a) = false → faults s (.jr r d a) ⟨0x05, 0x50, s.r5 a⟩)

/-- R44–R47, R99, R100: NOP does nothing but on the ring; a prefix joins its group and changes nothing else; TRAP retires
and then stops the core with its code. -/
def Obligations.NopPrefixTrap : Prop :=
  ∀ (s : State) (r : BitVec 4) (c : BitVec 10) (n : BitVec 22) (h : BitVec 21) (p : BitVec 1) (sc : BitVec 3) (o w : BitVec 2),
    let reads (i : Instr) (q : Prefixes) : Prop :=
      ∀ v, encode i = some v → s.active = true → s.midWord = false → prefixOk s.pfx v = true → earlyFault i s = none →
        ∃ t, exec i s = .next t ∧ t.pfx = { q with count := s.pfx.count + 1, lastWord := BitVec.ofNat 32 v }
          ∧ { t with core := { t.core with pfx := s.core.pfx } } = s
    does s (.nop r) id
    ∧ reads (.stamp n) { s.pfx with stamp := some n }
    ∧ reads (.extI h) { s.pfx with extI := some h }
    ∧ reads (.extM p sc o w) { s.pfx with extM := some (p, sc, o, w) }
    ∧ (issues s (.trap r c) →
        exec (.trap r c) s = .next (raiseAt (retire (.trap r c) s .next (takeRing (.trap r c) s)) s.unit (raisedBy s s.unit ⟨0x20, c.toNat, 0#64⟩)))

/-- R81–R83, R101, R102: SYSR reads an assigned system register, for which a later group waits 2 cycles; SYSW writes the writable fields; an unassigned number
faults, detail 8, and is checked before the ring waits.
Where the spec is silent it rests on choices of the model: assumption 18. -/
def Obligations.SystemRegisterAccess : Prop :=
  ∀ (s : State) (r : BitVec 4) (d b : BitVec 5) (n : BitVec 10),
    ((s.sysreg n.toNat).isSome = true → does s (.sysr r d n) (fun s => (s.w5 d ((s.sysreg n.toNat).getD 0#64)).mapCore (fun c =>
        { c with divs := c.divs.set (sqIx s.unit) (⟨2, d.toNat, false⟩ :: c.divs.get (sqIx s.unit)) })))
    ∧ ((s.sysreg n.toNat).isSome = true → does s (.sysw r n b) (fun s => s.mapCore (fun c =>
        let v := s.r5 b
        if n = 0x004#10 then { c with g := v.setWidth 8 ||| 1#8 }
        else if n = 0x005#10 then { c with aflags := c.aflags &&& ~~~(v.setWidth 6) }
        else if 0x010 ≤ n.toNat ∧ n.toNat ≤ 0x017 then { c with scratch := c.scratch.set (n.toNat - 0x010) v }
        else if n = 0x051#10 then { c with logring := v }
        else if 0x060 ≤ n.toNat ∧ n.toNat ≤ 0x067 then { c with win := c.win.set (n.toNat - 0x060) (v &&& 0x803FFFFFFFFFE000#64) }
        else c)))
    ∧ (s.sysreg n.toNat = none → faults s (.sysr r d n) ⟨0x01, 8, 0#64⟩ ∧ faults s (.sysw r n b) ⟨0x01, 8, 0#64⟩)

/-- R15, R81, R125, R267, R282, R298, R348, R360, R385, R394: the value of every assigned system register, and the unassigned numbers. -/
def Obligations.SystemRegisterValues : Prop :=
  ∀ (s : State),
    let c := s.core
    s.sysreg 0x000 = some (BitVec.ofNat 64 (s.dev.toNat * 2 ^ 22 + s.physOf s.lnum * 2 ^ 18 + s.lnum / 96 * 2 ^ 16
      + s.lnum % 96 / 8 * 2 ^ 12 + s.lnum % 8 * 2 ^ 9 + s.lnum))
    ∧ s.sysreg 0x001 = some s.gtc ∧ s.sysreg 0x002 = some c.cycle ∧ s.sysreg 0x003 = some c.instret
    ∧ s.sysreg 0x004 = some ((c.g ||| 1#8).setWidth 64) ∧ s.sysreg 0x005 = some (c.aflags.setWidth 64)
    ∧ (∀ x, c.ctx = some x → s.sysreg 0x006 = some x.task ∧ s.sysreg 0x007 = some x.rcb ∧ s.sysreg 0x024 = some (x.stall.setWidth 64))
    ∧ s.sysreg 0x008 = some (BitVec.ofNat 64 (c.hyp.toNat + c.hypDepth.toNat * 2 ^ 8))
    ∧ s.sysreg 0x009 = some (BitVec.ofNat 64 ((if c.frameRun then 2 ^ 63 else 0) + c.frameCount.toNat))
    ∧ (∀ k < 8, s.sysreg (0x010 + k) = some (c.scratch.get k))
    ∧ s.sysreg 0x020 = some (BitVec.ofNat 64 (c.ae.cmdq.items.length + c.me.cmdq.items.length * 2 ^ 5 + c.se.cmdq.items.length * 2 ^ 10
      + c.ve.cmdq.items.length * 2 ^ 15 + c.fmtq.items.length * 2 ^ 20 + c.rq.items.length * 2 ^ 25 + c.ae.bq.items.length * 2 ^ 30
      + c.me.bq.items.length * 2 ^ 34 + c.se.bq.items.length * 2 ^ 38 + c.ve.bq.items.length * 2 ^ 42 + c.sclq.items.length * 2 ^ 46))
    ∧ s.sysreg 0x021 = some (BitVec.ofNat 64 (((List.range 10).map (fun k => (c.tokens.get k).toks.length * 2 ^ (6 * k))).sum))
    ∧ s.sysreg 0x022 = some (BitVec.ofNat 64 (c.cntLd * 2 ^ 48 + c.cntSt * 2 ^ 32 + c.cntCp * 2 ^ 16 + c.cntTl))
    ∧ (∃ v, s.sysreg 0x050 = some v ∧ ∀ k < 64, v.getLsbD k = decide ((c.smp.get k).state = 1))
    ∧ (∀ x, c.ctx = some x → x.tenant < 2 ^ 12 →
        s.sysreg 0x082 = some (BitVec.ofNat 12 x.tenant ++ (s.roots.get x.tenant).extractLsb' 13 39 ++ 0#13)
        ∧ s.sysreg 0x083 = some (x.save + BitVec.ofNat 64 (x.saveIx * 0x400000)))
    ∧ (let cl := s.clusters.get (s.lnum / 8)
       (∀ k < 4, s.sysreg (0x100 + k) = some (BitVec.ofNat 64 ((cl.temp.getD k 0#16).toNat + (if cl.hot.getD k false then 2 ^ 16 else 0)
         + (if cl.crit.getD k false then 2 ^ 17 else 0))))
       ∧ s.sysreg 0x104 = some (BitVec.ofNat 64 (cl.droopEvents.toNat * 2 ^ 32 + cl.minMv.toNat)) ∧ s.sysreg 0x105 = some (cl.freq.setWidth 64))
    ∧ s.sysreg 0x023 = some c.rtbase ∧ s.sysreg 0x040 = some c.qrseed ∧ s.sysreg 0x051 = some c.logring
    ∧ (∀ k < 8, s.sysreg (0x060 + k) = some (c.win.get k) ∧ s.sysreg (0x068 + k) = some (BitVec.ofNat 64 (c.out k % 256)))
    ∧ s.sysreg 0x080 = some c.fcause ∧ s.sysreg 0x081 = some c.faddr
    ∧ s.sysreg 0x106 = some (BitVec.ofNat 64 (c.eccUncorr.toNat * 2 ^ 32 + c.eccCorr.toNat))
    ∧ (∀ n, 0x200 ≤ n ∨ (0x107 ≤ n ∧ n < 0x200) ∨ (0x084 ≤ n ∧ n < 0x100) ∨ (0x052 ≤ n ∧ n < 0x060) ∨ (0x025 ≤ n ∧ n < 0x040) ∨ (0x041 ≤ n ∧ n < 0x050)
        ∨ (0x018 ≤ n ∧ n < 0x020) ∨ (0x00A ≤ n ∧ n < 0x010) →
        s.sysreg n = none)

/-! ### Sequencing -/

/-- R105, R118–R120: a command, a branch outcome, a format entry and a result entry are pushed at the tail of their queue,
with the hypothesis of the word; a full queue blocks.
Where the spec is silent it rests on choices of the model: assumption 17. -/
def Obligations.QueuePushes : Prop :=
  ∀ (s : State) (r : BitVec 4) (e : BitVec 2) (u : BitVec 5) (a b : BitVec 5) (n : BitVec 9),
    let cmd (s : State) (reloc : Bool) : Command :=
      ⟨s.r5 a, s.r5 b, n, reloc, BitVec.ofNat 57 s.groupAddr, s.core.hyp, BitVec.ofNat 9 s.lnum⟩
    let full (q : Sqr) : Prop := (s.core.eng q).cmdq.items.length ≥ 16
    let push (q : Sqr) (reloc : Bool) (s : State) : State :=
      (s.mapCore (fun c => c.mapEng q (fun x => { x with cmdq := x.cmdq.push (cmd s reloc) }))).pushGate (engIx q)
    (¬full (engOf e.toNat) → does s (.engCmd r e a b n) (push (engOf e.toNat) false))
    ∧ (full (engOf e.toNat) → blocks s (.engCmd r e a b n) 2)
    ∧ (¬full .me → does s (.engCmdReloc r a b n) (push .me true))
    ∧ (full .me → blocks s (.engCmdReloc r a b n) 2)
    ∧ ((s.core.eng (engOf u.toNat)).bq.items.length < 8 → does s (.bqEnq r u a) (fun s =>
        (s.mapCore (fun c => c.mapEng (engOf u.toNat) (fun x => { x with bq := x.bq.push (s.r5 a != 0#64, c.hyp) }))).pushGate (4 + engIx (engOf u.toNat))))
    ∧ ((s.core.eng (engOf u.toNat)).bq.items.length ≥ 8 → blocks s (.bqEnq r u a) 4)
    ∧ (s.core.fmtq.items.length < 16 → does s (.fmtEnq r a) (fun s =>
        (s.mapCore (fun c => { c with fmtq := c.fmtq.push (s.r5 a, c.hyp) })).pushGate 8))
    ∧ (s.core.fmtq.items.length ≥ 16 → blocks s (.fmtEnq r a) 3)
    ∧ (s.core.rq.items.length < 16 → does s (.rqEnq r a) (fun s =>
        (s.mapCore (fun c => { c with rq := c.rq.push ⟨some (s.r5 a), engCode s.unit, s.hyp⟩ })).pushGate 9))
    ∧ (s.core.rq.items.length ≥ 16 → blocks s (.rqEnq r a) 5)

/-- R118, R120: RQ.DEQ pops the oldest entry into its two registers; a BQ branch pops the oldest outcome and branches on
it, and clears the loops that its target leaves (R113); an empty queue blocks. -/
def Obligations.QueuePops : Prop :=
  ∀ (s : State) (r : BitVec 4) (d x : BitVec 5) (o : BitVec 15),
    let target : Int := s.baseAddr + 4 * s.immS o
    let pop (s : State) : State := s.mapCore (fun c => c.mapEng s.unit (fun e => { e with bq := e.bq.pop 8 }))
    let leave (s : State) : State := s.mapCore (fun c => c.mapEng s.unit (fun e => e.leaveLoops target.toNat))
    (∀ e t v, s.core.rq.items = e :: t → e.val = some v →
        (e.src = 0 ∨ s.core.gated (codeEng e.src) 9 (s.core.rq.items.filter (fun y => y.src == e.src)).length = false) →
        does s (.rqDeq r d x) (fun s => ((s.mapCore (fun c => { c with rq := c.rq.pop 16 })).w5 d v).w5 x (BitVec.ofNat 64 e.src)))
    ∧ (s.core.rq.items = [] → blocks s (.rqDeq r d x) 5)
    ∧ (∀ b h t, (s.core.eng s.unit).bq.items = (b, h) :: t → s.core.gated .cc (4 + engIx s.unit) (t.length + 1) = false →
        0 ≤ target → target ≤ 0xFFFC →
        (issues s (.bqBr r o) → completes s (.bqBr r o) (if b then .jump target.toNat else .next)
          (if b then leave (pop (takeRing (.bqBr r o) s)) else pop (takeRing (.bqBr r o) s)))
        ∧ (issues s (.bqBrn r o) → completes s (.bqBrn r o) (if b then .next else .jump target.toNat)
          (if b then pop (takeRing (.bqBrn r o) s) else leave (pop (takeRing (.bqBrn r o) s)))))
    ∧ ((s.core.eng s.unit).bq.items = [] → 0 ≤ target → target ≤ 0xFFFC → blocks s (.bqBr r o) 4 ∧ blocks s (.bqBrn r o) 4)
    ∧ (target < 0 ∨ 0xFFFC < target → faults s (.bqBr r o) ⟨0x01, 10, 0#64⟩ ∧ faults s (.bqBrn r o) ⟨0x01, 10, 0#64⟩)

/-- R109, R114: ARG reads an item of the running command or of a loop; its write form returns the old value and writes the
item, and faults with F.LOOP on a value out of range. -/
def Obligations.ArgumentItems : Prop :=
  ∀ (s : State) (r : BitVec 4) (d b : BitVec 5) (i : BitVec 4),
    let e := s.core.eng s.unit
    let c := e.run.getD default
    let k := i.toNat
    let l := e.loops.get (k % 4)
    let v := s.r5 b
    let item : Word := if k = 0 then c.entry.setWidth 64 else if k = 1 then c.macroAddr.setWidth 64 else if k = 2 then c.hyp.setWidth 64
      else if k = 3 then c.src.setWidth 64 else if k < 8 then l.count.setWidth 64 else if k < 12 then l.start.setWidth 64 else l.stop.setWidth 64
    let write (e : Engine) : Engine :=
      if k < 8 then { e with loops := e.loops.set (k % 4) { e.loops.get (k % 4) with count := v.setWidth 24 } }
      else if k < 12 then { e with loops := e.loops.set (k % 4) { e.loops.get (k % 4) with ls := true },
                                   latches := e.latches.set (k % 4) { e.latches.get (k % 4) with start := v.setWidth 16 } }
      else { e with loops := e.loops.set (k % 4) { e.loops.get (k % 4) with le := true },
                    latches := e.latches.set (k % 4) { e.latches.get (k % 4) with stop := v.setWidth 16 } }
    let bad : Prop := (k < 8 ∧ 0xFFFFFF < v.toNat) ∨ (8 ≤ k ∧ (0xFFFC < v.toNat ∨ v.toNat % 4 ≠ 0))
    writesReg s (.arg r d i) d item
    ∧ (¬bad → issues s (.argWrite r d i b) → completes s (.argWrite r d i b) .next
        (((takeRing (.argWrite r d i b) s).mapCore (fun c => c.mapEng s.unit write)).w5 d item))
    ∧ (bad → faults s (.argWrite r d i b) ⟨0x14, 0, 0#64⟩)

/-- R111: LOOP enters a hardware loop, or skips its body when the trip count is 0; the latches replace the computed start
and end. A loop that is active already, that leaves the instruction memory or that overlaps another faults with F.LOOP,
before the ring waits.
Where the spec is silent it rests on choices of the model: assumption 18. -/
def Obligations.LoopEntry : Prop :=
  ∀ (s : State) (r : BitVec 4) (n : BitVec 2) (m : BitVec 12) (c : BitVec 5) (l : BitVec 7),
    let e := s.core.eng s.unit
    let x := e.loops.get n.toNat
    let start := if x.ls then (e.latches.get n.toNat).start.toNat else s.baseAddr + 4
    let stop := if x.le then (e.latches.get n.toNat).stop.toNat else s.baseAddr + 4 + 4 * s.immU l
    let skip := s.baseAddr + 4 + 4 * s.immU l + 4
    let overlaps (k : Nat) : Bool := let y := e.loops.get k
      y.a && decide (start ≤ y.stop.toNat ∧ y.start.toNat ≤ stop) && !decide (y.start.toNat ≤ start ∧ stop ≤ y.stop.toNat)
    let bad (trips : Nat) : Prop := 0xFFFFFF < trips ∨ x.a = true ∨ stop < start ∨ 0xFFFC < stop ∨ 0x10000 < skip
      ∨ (List.range 4).any overlaps = true
    let enter (trips : Nat) (s : State) : State := s.mapCore (fun c => c.mapEng s.unit (fun e =>
      if trips = 0 then { e with loops := e.loops.set n.toNat { e.loops.get n.toNat with ls := false, le := false } }
      else { e with loops := e.loops.set n.toNat ⟨true, false, false, BitVec.ofNat 24 (trips - 1), BitVec.ofNat 16 start, BitVec.ofNat 16 stop⟩,
                    loopOrder := n.toNat :: e.loopOrder.filter (· != n.toNat) }))
    let enters (i : Instr) (trips : Nat) : Prop :=
      (¬bad trips → issues s i → completes s i (.to (if trips = 0 then skip else start)) (enter trips (takeRing i s)))
      ∧ (bad trips → faults s i ⟨0x14, 0, 0#64⟩)
    enters (.loopImm r n m l) m.toNat ∧ enters (.loopReg r n c l) (s.r5 c).toNat

/-- R121, R122, R124: ENG.FENCE goes on when no engine of its mask is busy, WAITC when each counter is at or below its
limit (15 sets none); else they block. ENG.BUSY reads one bit for each engine. -/
def Obligations.WaitsAndBusy : Prop :=
  ∀ (s : State) (r : BitVec 4) (m d : BitVec 5) (a b c e : BitVec 4),
    let i := Instr.engFence r m
    let w := Instr.waitc r a b c e
    let ok (lim : BitVec 4) (n : Nat) : Prop := lim = 15#4 ∨ n ≤ lim.toNat
    let met : Prop := ok a s.core.cntLd ∧ ok b s.core.cntSt ∧ ok c s.core.cntCp ∧ ok e s.core.cntTl
    ((∀ u ∈ [Sqr.ae, .me, .se, .ve], m.getLsbD (engIx u) = true → (takeRing i s).engBusy u = false) → does s i id)
    ∧ ((∃ u ∈ [Sqr.ae, .me, .se, .ve], m.getLsbD (engIx u) = true ∧ (takeRing i s).engBusy u = true) → blocks s i 7)
    ∧ (met → does s w id) ∧ (¬met → blocks s w 6)
    ∧ does s (.engBusy r d) (fun s => s.w5 d (BitVec.ofNat 64 ((if s.engBusy .ae then 1 else 0) + (if s.engBusy .me then 2 else 0)
        + (if s.engBusy .se then 4 else 0) + (if s.engBusy .ve then 8 else 0))))

/-- R106, R107: an idle engine takes its oldest command into e1 and e2 and starts at its entry; ENDR ends the routine, in
a vector engine when its writes have landed (R211).
Where the spec is silent it rests on choices of the model: assumption 13. -/
def Obligations.RoutineTakeAndEnd : Prop :=
  (∀ (s : State) (u : Sqr) (c : Command) (rest : List Command), u ≠ .cc → s.core.mode = .running → (s.core.eng u).run = none →
    (u = .me → s.core.relocs = []) → (s.core.eng u).cmdq.items = c :: rest → s.core.gated .cc (engIx u) (rest.length + 1) = false →
    s.core.marks = [] → ((s.core.eng u).rtab.get c.entry.toNat).getLsbD 31 = true →
    ∃ t, exec (.engineCommandTake s.lnum u) s = .next t
      ∧ (t.core.eng u).run = some c ∧ (t.core.eng u).cmdq.items = rest
      ∧ t.core.reg u 1 = c.a ∧ t.core.reg u 2 = c.b
      ∧ (t.core.eng u).upc = ((s.core.eng u).rtab.get c.entry.toNat).toNat / 4 % 2 ^ 14 * 4
      ∧ (∀ n, n ≠ 1 → n ≠ 2 → t.core.reg u n = s.core.reg u n)
      ∧ (∀ v, v ≠ u → (∀ n, t.core.reg v n = s.core.reg v n) ∧ t.core.eng v = s.core.eng v) ∧ t.mem = s.mem ∧ t.others = s.others)
  ∧ (∀ (s : State) (r : BitVec 4), (s.unit = .ve → (stepAfter .ve (takeRing (.endr r) s)).core.vpend = []) →
    (s.unit = .me → s.core.meOwn = none) → issues s (.endr r) →
    completes s (.endr r) .ended ((takeRing (.endr r) s).mapCore (fun c => c.mapEng s.unit (fun e =>
      { e with run := none, ending := none, loopOrder := [],
               loops := (List.range 4).foldl (fun t i => Tab.set t i { Tab.get t i with a := false }) e.loops }))))
  ∧ (∀ (s : State) (r : BitVec 4), s.unit = .ve → issues s (.endr r) →
    (stepAfter .ve (takeRing (.endr r) s)).core.vpend ≠ [] →
    ∃ t, exec (.endr r) s = .next t ∧ t.core.ve.ending = some r.toNat ∧ t.core.ve.run = s.core.ve.run ∧ t.core.ve.upc = s.core.ve.upc)

/-! ### Memory access and ordering -/

/-- R133, R140, R141: each load and store issues its access, of its size and extension, at ra plus the offset in units of its
size, or faults in the order of the checks. -/
def Obligations.LoadsAndStores : Prop :=
  ∀ (s : State) (r : BitVec 4) (d a b o : BitVec 5) (m : BitVec 9) (g : BitVec 3) (n : BitVec 1),
    let at' (size : Nat) : Word := s.r5 a + BitVec.ofInt 64 (s.immS m * size)
    let ld (sgn : Bool) (size : Nat) : Access := plainAccess s (.load sgn) size d.toNat 0#64
    let to' (size : Nat) : Word := s.r5 a + BitVec.ofInt 64 (s.immS o * size)
    let st (size : Nat) : Access := plainAccess s .store size 0 (s.r5 b)
    accesses s (.ldI8 r d a m) (at' 1) 0 0 (ld true 1) ∧ accesses s (.ldN8 r d a m) (at' 1) 0 0 (ld false 1)
    ∧ accesses s (.ldI16 r d a m) (at' 2) 0 0 (ld true 2) ∧ accesses s (.ldN16 r d a m) (at' 2) 0 0 (ld false 2)
    ∧ accesses s (.ldI32 r d a m) (at' 4) 0 0 (ld true 4) ∧ accesses s (.ldN32 r d a m) (at' 4) 0 0 (ld false 4)
    ∧ accesses s (.ldN64 r d a m) (at' 8) 0 0 (ld false 8)
    ∧ accesses s (.stN8 r g n o a b) (to' 1) 1 1 (st 1) ∧ accesses s (.stN16 r g n o a b) (to' 2) 1 1 (st 2)
    ∧ accesses s (.stN32 r g n o a b) (to' 4) 1 1 (st 4) ∧ accesses s (.stN64 r g n o a b) (to' 8) 1 1 (st 8)

/-- R143–R145, R158: each atomic and each reduction issues its access at ra, with its operands as read at issue and the
order, scope and width of its EXT.M, a PROMOTE form as such; in Calm mode an atomic and a RED.FADD fault, whatever the guard.
Where the spec is silent it rests on choices of the model: assumption 18. -/
def Obligations.AtomicsAndReductions : Prop :=
  ∀ (s : State) (r : BitVec 4) (g : BitVec 3) (n : BitVec 1) (d a b : BitVec 5),
    let m := s.pfx.extM
    let w : Nat := match m with | some (_, _, _, w) => (if w = 1#2 then 4 else 8) | none => 8
    let acq : Bool := match m with | some (_, _, o, _) => o.getLsbD 0 | none => false
    let rel : Bool := match m with | some (_, _, o, _) => o.getLsbD 1 | none => false
    let sc : Nat := match m with | some (sp, sc, _, _) => (if sp = 1#1 then sc.toNat else 3) | none => 3
    let ordered (x : Access) : Access := { x with acq := acq, rel := rel, scope := sc }
    let promoting (i : Instr) (op : Nat) (pro : Bool) : Prop :=
      (s.core.calm = false → accesses s i (s.r5 a) 3 2
        { ordered (plainAccess s (.amo op (s.r5 b) (s.r5 d)) w d.toNat 0#64) with promote := pro })
      ∧ (s.core.calm = true → s.ready i = true → exec i s = .next (faultOf s s.unit ⟨0x0B, 0, 0#64⟩))
    let amo (i : Instr) (op : Nat) : Prop := promoting i op false
    let pro (i : Instr) (op : Nat) : Prop := promoting i op true
    let red (i : Instr) (op w : Nat) : Prop := accesses s i (s.r5 a) 3 2 (ordered (plainAccess s (.red op (s.r5 b)) w 0 0#64))
    let fadd (i : Instr) (op w : Nat) : Prop := (s.core.calm = false → red i op w)
      ∧ (s.core.calm = true → s.ready i = true → exec i s = .next (faultOf s s.unit ⟨0x0B, 0, 0#64⟩))
    amo (.amoSwap r g n d a b) 0 ∧ amo (.amoAdd r g n d a b) 1 ∧ amo (.amoAnd r g n d a b) 2 ∧ amo (.amoOr r g n d a b) 3
    ∧ amo (.amoXor r g n d a b) 4 ∧ amo (.amoMax r g n d a b) 5 ∧ amo (.amoMin r g n d a b) 6 ∧ amo (.amoCas r g n d a b) 7
    ∧ pro (.amoSwapPromote r g n d a b) 0 ∧ pro (.amoAddPromote r g n d a b) 1 ∧ pro (.amoCasPromote r g n d a b) 7
    ∧ red (.redAdd r g n a b) 0 w ∧ red (.redAnd r g n a b) 1 w ∧ red (.redOr r g n a b) 2 w ∧ red (.redXor r g n a b) 3 w
    ∧ red (.redMax r g n a b) 4 w ∧ red (.redMin r g n a b) 5 w ∧ fadd (.redFaddF32 r g n a b) 6 4 ∧ fadd (.redFaddF64 r g n a b) 7 8

/-- R155–R157: the acquiring loads and the releasing store issue their accesses at ra; a FENCE joins the accesses of its
sequencer in order, and does nothing where none is outstanding. -/
def Obligations.AcquireReleaseFence : Prop :=
  ∀ (s : State) (r : BitVec 4) (g : BitVec 3) (n : BitVec 1) (d a b : BitVec 5) (sc : BitVec 3),
    let w : Nat := match s.pfx.extM with | some (_, _, _, w) => (if w = 1#2 then 4 else 8) | none => 8
    let ld : Access := { plainAccess s (.load false) w d.toNat 0#64 with acq := true, scope := sc.toNat }
    let st : Access := { plainAccess s .store w 0 (s.r5 b) with rel := true, scope := sc.toNat }
    let fence : Access := { plainAccess s .fence 0 0 0#64 with acq := true, rel := true, scope := sc.toNat }
    accesses s (.ldAcq r d a sc) (s.r5 a) 0 0 ld ∧ accesses s (.ldAcqPromote r d a sc) (s.r5 a) 0 0 { ld with promote := true }
    ∧ accesses s (.stRel r g n sc a b) (s.r5 a) 1 1 st
    ∧ does s (.fence r sc) (fun s => drain (s.mapCore (fun c => { c with pend := c.pend ++ [fence] })))
    ∧ (s.core.pend = [] → s.core.vpend = [] → s.waiting = [] → s.dirtyRemote = [] → does s (.fence r sc) id)

/-- R131, R142: the buffer words issue their access to a local buffer, or, for an AE, a read through a window or a posted
write of one packet; the first check of R131 that fails decides their fault. -/
def Obligations.BufferAccesses : Prop :=
  ∀ (s : State) (r : BitVec 4) (d a : BitVec 5) (m : BitVec 9),
    let at' (size : Nat) : Word := s.r5 a + BitVec.ofInt 64 (s.immS m * size)
    let bad (b : Word) (size : Nat) (write : Bool) (f : Flt) : Prop :=
      let space := b.toNat / 2 ^ 28 % 16
      let off := b.toNat % 2 ^ 28
      if 2 ^ 32 ≤ b.toNat then f = ⟨0x03, 0x11, b⟩
      else if bufRight s.unit space write = false then f = ⟨0x03, 0x12, b⟩
      else if space < 8 then
        (if spaceSize space < off + size then f = ⟨0x03, 0x13, b⟩
         else if off % size ≠ 0 then f = ⟨0x04, 0, b⟩ else s.core.bufMark space off size = some f)
      else checkWin s.core (space - 8) off size size (if write then s.hyp else 0#8) b = .error f
    let good (b : Word) (size : Nat) (write : Bool) : Prop := ∀ f, ¬bad b size write f
    let space (size : Nat) : Nat := (at' size).toNat / 2 ^ 28 % 16
    let off (size : Nat) : Nat := (at' size).toNat % 2 ^ 28
    let acc (k : AccessKind) (size rd : Nat) (v : Word) : Access :=
      { plainAccess s k size rd v with place := .buf (space size) (off size), kindSO := true }
    let ld (i : Instr) (size : Nat) : Prop :=
      (∀ f, bad (at' size) size false f → faults s i f)
      ∧ (good (at' size) size false → 65535 ≤ s.core.cntLd → blocks s i 8)
      ∧ (good (at' size) size false → s.core.cntLd < 65535 → does s i (fun s => s.mapCore (fun c => { c with
          pend := c.pend ++ [acc (.load false) size d.toNat (if 8 ≤ space size then c.win.get (space size - 8) else 0#64)],
          cntLd := c.cntLd + 1 })))
    let st (i : Instr) (size : Nat) : Prop :=
      (∀ f, bad (at' size) size true f → faults s i f)
      ∧ (good (at' size) size true → 65535 ≤ s.core.cntSt → blocks s i 8)
      ∧ (good (at' size) size true → space size < 8 → s.core.cntSt < 65535 → does s i (fun s => s.mapCore (fun c => { c with
          pend := c.pend ++ [acc .store size 0 (s.r5 d)], cntSt := c.cntSt + 1 })))
      ∧ (good (at' size) size true → 8 ≤ space size → s.core.cntSt < 65535 →
          (∀ x ∈ s.core.pend, x.unit = s.unit → x.kind ≠ .fence ∧ x.acq = false ∧ (x.pid = 0 → ∀ m o, x.place ≠ .buf m o)) →
          let k := space size - 8
          let w := s.core.win.get k
          (s.core.out k < (w.toNat / 2 ^ 44 % 256) → does s i (fun s =>
            (send (s.mapCore (fun c => { c.addOut k with cntSt := c.cntSt + 1 })) (w.toNat / 2 ^ 22 % 1024) (w.toNat / 2 ^ 13 % 512)
              (w.toNat / 2 ^ 32 % 4096) (.winWrite (w.toNat / 2 ^ 52 % 4) (off size) (natToBytes size (s.r5 d).toNat) none) (.window k true)).2))
          ∧ (w.toNat / 2 ^ 44 % 256 ≤ s.core.out k → blocks s i 8))
    ld (.bldN8 r d a m) 1 ∧ ld (.bldN16 r d a m) 2 ∧ ld (.bldN32 r d a m) 4 ∧ ld (.bldN64 r d a m) 8
    ∧ st (.bstN8 r d a m) 1 ∧ st (.bstN16 r d a m) 2 ∧ st (.bstN32 r d a m) 4 ∧ st (.bstN64 r d a m) 8

/-- R351: an address that translates leaves every byte of memory but those of the leaf entries of its walk (all sixteen of a
CONT group), and the registers, buffers and accesses; what it answers is mapped and permits the access.
Where the spec is silent it rests on choices of the model: assumptions 42 and 43. -/
def Obligations.TranslationFrame : Prop :=
  ∀ (s t : State) (tenant acc pa : Nat) (va leaf : Word), translate s tenant va acc = .ok (pa, leaf, t) →
    t.core.x = s.core.x ∧ t.core.pend = s.core.pend ∧ t.core.ctx = s.core.ctx ∧ t.unit = s.unit ∧ t.dev = s.dev
    ∧ t.core.pc = s.core.pc ∧ t.core.ae = s.core.ae ∧ t.core.me = s.core.me ∧ t.core.se = s.core.se ∧ t.core.ve = s.core.ve
    ∧ t.core.wb = s.core.wb ∧ t.core.ab = s.core.ab ∧ t.core.as = s.core.as ∧ t.hyps = s.hyps ∧ t.vers = s.vers
    ∧ (t.mem ≠ s.mem → ∃ level entry size e,
        walk s ((s.roots.get tenant).toNat / 2 ^ 13 % 2 ^ 39 * 8192) (va.toNat % 2 ^ 57) 4 = .leaf level entry size e
        ∧ ∀ x, (¬(pteCont e = true ∧ entry - entry % 128 ≤ x ∧ x < entry - entry % 128 + 128) ∧ ¬(entry ≤ x ∧ x < entry + 8) →
            Tab.get t.mem x = Tab.get s.mem x))
    ∧ (pteAllows leaf acc = true) ∧ (t.isLocal pa = true → paHasMem pa = true)

/-- R117, R123, R137, R140, R143: a load or an atomic of this device is performed in one step: the old value of its bytes goes to its
register, ld falls, an atomic writes its new value, and every other byte of memory stays. An ordering has first had the dirty lines
that it must clean written back.
Where the spec is silent it rests on choices of the model: assumptions 46 and 47. -/
def Obligations.ReturningAccesses : Prop :=
  ∀ (s : State) (k : Nat) (a : Access) (va pa : Nat),
    s.core.mode = .running → s.core.pend[k]? = some a → s.canPerform k = true → a.place = .mem va pa →
    1 ≤ a.size → s.isLocal pa = true → s.memMark pa a.size = none → a.hyp = 0#8 → s.mustSend a = false →
    let old := readLE s.mem pa a.size
    let wide := 2 ^ (8 * a.size)
    let v (x : Word) : Nat := x.toNat % wide
    let sg (x : Nat) : Int := if x < wide / 2 then x else x - wide
    let new (op : Nat) (x c : Word) : Nat :=
      if op = 0 then v x else if op = 1 then (old + v x) % wide else if op = 2 then old &&& v x else if op = 3 then old ||| v x
      else if op = 4 then old ^^^ v x else if op = 5 then (if sg old < sg (v x) then v x else old)
      else if op = 6 then (if sg (v x) < sg old then v x else old) else (if old = v c then v x else old)
    let moved (t : State) (value : Word) : Prop :=
      t.core.reg a.unit a.rd = (if a.rd = 0 then 0#64 else value) ∧ t.core.cntLd = s.core.cntLd - 1 ∧ t.core.cntSt = s.core.cntSt
      ∧ (∀ u n, u ≠ a.unit ∨ n ≠ a.rd → t.core.reg u n = s.core.reg u n) ∧ t.core.g = s.core.g ∧ t.core.pc = s.core.pc
      ∧ t.core.pend.filter (fun x => x.kind.isAccess) = (s.core.pend.eraseIdx k).filter (fun x => x.kind.isAccess)
    (∀ sgn, a.kind = .load sgn → ∃ t, exec (.loadValueReturn s.lnum k) s = .next t ∧ t.mem = s.mem
        ∧ moved t (if sgn then BitVec.ofInt 64 (sg old) else BitVec.ofNat 64 old))
    ∧ (∀ op x c, a.kind = .amo op x c → ∃ t, exec (.loadValueReturn s.lnum k) s = .next t ∧ moved t (BitVec.ofNat 64 old)
        ∧ readLE t.mem pa a.size = new op x c ∧ ∀ y, ¬(pa ≤ y ∧ y < pa + a.size) → Tab.get t.mem y = Tab.get s.mem y)

/-- R117, R123, R137, R141, R144: a store or a reduction of this device is performed in one step: st falls, its bytes hold the new value,
and every other byte and every register stay. A release has first had the dirty lines that it must clean written back.
Where the spec is silent it rests on choices of the model: assumptions 46 and 47. -/
def Obligations.StoresPerformed : Prop :=
  ∀ (s : State) (k : Nat) (a : Access) (va pa : Nat),
    s.core.mode = .running → s.core.pend[k]? = some a → s.canPerform k = true → a.place = .mem va pa →
    s.isLocal pa = true → s.memMark pa a.size = none → a.hyp = 0#8 → s.mustSend a = false →
    let old := readLE s.mem pa a.size
    let wide := 2 ^ (8 * a.size)
    let v (x : Word) : Nat := x.toNat % wide
    let sg (x : Nat) : Int := if x < wide / 2 then x else x - wide
    let new (op : Nat) (x : Word) : Nat :=
      if op = 0 then (old + v x) % wide else if op = 1 then old &&& v x else if op = 2 then old ||| v x else if op = 3 then old ^^^ v x
      else if op = 4 then (if sg old < sg (v x) then v x else old) else if op = 5 then (if sg (v x) < sg old then v x else old)
      else if op = 6 then (f32.addC .rne old (v x)).1 % wide else (f64.addC .rne old (v x)).1 % wide
    let done (value : Nat) : Prop := ∃ t, exec (.storePerformed s.lnum k) s = .next t
      ∧ readLE t.mem pa a.size = value ∧ (∀ y, ¬(pa ≤ y ∧ y < pa + a.size) → Tab.get t.mem y = Tab.get s.mem y)
      ∧ t.core.cntSt = s.core.cntSt - 1 ∧ t.core.cntLd = s.core.cntLd ∧ (∀ u n, t.core.reg u n = s.core.reg u n)
      ∧ t.core.g = s.core.g ∧ t.core.pc = s.core.pc
      ∧ t.core.pend.filter (fun x => x.kind.isAccess) = (s.core.pend.eraseIdx k).filter (fun x => x.kind.isAccess)
    (a.kind = .store → done (a.data.toNat % wide)) ∧ (∀ op x, a.kind = .red op x → done (new op x))

/-- R166–R169: on a barrier of the core's AB or in this device's memory, with nothing of its sequencer outstanding, no
dirty line of another device and no uncorrectable word in the barrier, INIT,
ARRIVE and EXPECT update the barrier in one step and answer the old phase; WAIT stands while the phase is the awaited
one; TEST answers whether it has passed. The refused updates fault with F.QUEUE after the word has issued.
Where the spec is silent it rests on choices of the model: assumption 16. -/
def Obligations.BarrierWords : Prop :=
  ∀ (s : State) (r : BitVec 4) (d a b : BitVec 5) (p : BarPlace) (i : Instr) (t : State),
    barPlace (takeRing i s) s.unit (s.r5 a) (i = .tbarArrive r d a b) = .ok (p, t) → p.remote t = false →
    s.core.pend = [] → s.waiting = [] → s.dirtyRemote = [] → s.core.vpend = [] → t.marked = [] → t.core.marks = [] →
    let x := readBar t p
    let v := (s.r5 b).toNat
    let phase (y : Bar) : Bar := if y.arr = 0 ∧ y.sec = 0 then { y with phase := (y.phase + 1) % 16, arr := y.arl, sec := y.srl } else y
    let queue : Prop := issues s i → ∃ u, exec i s = .next (raiseAt u s.unit (raisedBy s s.unit ⟨0x15, 0, s.r5 a⟩)) ∧ still u = still t
    let n := if b = 0#5 then 1 else v
    (i = .tbarInit r a b →
      (v / 2 ^ 55 ≠ 0 ∨ v % 2 ^ 20 = 0 → queue)
      ∧ (¬(v / 2 ^ 55 ≠ 0 ∨ v % 2 ^ 20 = 0) → issues s i → completes s i .next
          (writeBar t p ⟨x.phase, v % 2 ^ 20, ((v / 2 ^ 20 % 2 ^ 35 : Nat) : Int), false, v % 2 ^ 20, v / 2 ^ 20 % 2 ^ 35⟩)))
    ∧ (i = .tbarArrive r d a b →
      (x.arr < n → queue)
      ∧ (n ≤ x.arr → issues s i → completes s i .next
          ((writeBar t p (if n = 0 then x else phase { x with arr := x.arr - n })).w5 d (BitVec.ofNat 64 x.phase))))
    ∧ (i = .tbarExpect r d a b →
      (2 ^ 35 - 1 < x.sec + v → queue)
      ∧ (x.sec + v ≤ 2 ^ 35 - 1 → issues s i → completes s i .next
          ((writeBar t p (phase { x with sec := x.sec + v })).w5 d (BitVec.ofNat 64 x.phase))))
    ∧ (i = .tbarWait r a b →
      (x.ovf = true → faults s i ⟨0x15, 0, s.r5 a⟩) ∧ (x.ovf = false → x.phase = v % 16 → blocks s i 8)
      ∧ (x.ovf = false → x.phase ≠ v % 16 → issues s i → completes s i .next t))
    ∧ (i = .tbarTest r d a b →
      (x.ovf = true → faults s i ⟨0x15, 0, s.r5 a⟩)
      ∧ (x.ovf = false → issues s i → completes s i .next (t.w5 d (if x.phase = v % 16 then 0#64 else 1#64))))

/-! ### Fetching, decoding and issuing -/

/-- R33, R44, R48, R85: a step runs the instruction that is decoded from the word where the sequencer of the turn fetches: the
instruction memory at the micro-PC, or memory at the translated PC, past the prefixes already read, where the CC's instruction
cache holds no older word. Around `exec` the step notes the word for a fault frame, fills the cache, and passes the turn, which stays
where the word is a prefix. A word that does not decode faults with F.ILLEGAL or F.STREAM and the step of R48; a malformed EXT first
joins its group. A CC word under way runs on. A scheduled event is run too. No word of the device has an error of one bit here: where
one has, the step also corrects what it reads (R396).
Where the spec is silent it rests on choices of the model: assumptions 8, 11, 18 and 54. -/
def Obligations.StepRunsDecodedWord : Prop :=
  ∀ (s : State) (u : Sqr) (i : Instr),
    let n := (s.core.pfx.get (sqIx u)).count
    let s1 : State := { s with unit := u, turn := turnAfter u }
    let noted (t : State) (w : BitVec 32) : State :=
      { t with core := { t.core with curWord := t.core.curWord.set (sqIx u) w }, turn := if isPrefix i then .seq u else turnAfter u }
    let a := (s.core.eng u).upc + 4 * n
    let p := s.core.pc + BitVec.ofNat 64 (4 * n)
    let x := (s.core.eng u).imem.get (a / 4)
    let fetches : Prop := u ≠ .cc ∧ (s.core.eng u).run.isSome = true ∧ (s.core.eng u).ending = none ∧ a < 0x10000
      ∧ s.core.markHit .imem (engIx u * 0x10000 + a) 4 = none
    let noted1 : State := { s1 with core := { s1.core with curWord := s1.core.curWord.set (sqIx u) x } }
    (s.noUpsets = true → s.agenda = [] → s.dues = [] → s.turn = .seq u → s.core.mode = .running →
      (fetches → decodeIn u (s.core.pfx.get (sqIx u)) x.toNat = .ok i → step s = exec i (noted s1 x))
      ∧ (fetches → ∀ e, decodeIn u (s.core.pfx.get (sqIx u)) x.toNat = .error (.step e) →
        (e = 6 → majorOf x.toNat ≠ 2) →
        step s = .next (faultOf noted1 u (if e = 3 ∨ e = 5 then ⟨0x02, e, 0#64⟩ else ⟨0x01, e, 0#64⟩)))
      ∧ (fetches → decodeIn u (s.core.pfx.get (sqIx u)) x.toNat = .error (.step 6) → majorOf x.toNat = 2 →
        step s = .next (joinBad x { noted1 with turn := .seq u }))
      ∧ (u = .cc → s.core.underway = true → decodeIn .cc (s.core.pfx.get 0) (s.core.curWord.get 0).toNat = .ok i →
        step s = exec i (noted s1 (s.core.curWord.get 0)))
      ∧ (u = .cc → s.core.underway = false → s.core.orphanPending = false → canonical p = true → p.toNat % 4 = 0 →
        s1.fetchHeld = false → ∀ pa leaf t,
        translate s1 s.core.tenant p 2 = .ok (pa, leaf, t) → t.isLocal pa = true → t.memMark pa 4 = none →
        let w := BitVec.ofNat 32 (readLE t.mem pa 4)
        let cached := Tab.find? t.core.icache.words (pa / 4)
        cached = none ∨ cached = some w → decodeIn .cc (s.core.pfx.get 0) w.toNat = .ok i →
        step s = exec i (noted (t.setICache (if cached = none then fillLine t pa t.core.icache else t.core.icache)) w)))
    ∧ (∀ rest, s.noUpsets = true → s.agenda = i :: rest → encode i = none → step s = exec i { s with agenda := rest })

/-- R48, R49 and the worked encodings of the spec: words that it prints decode to the instructions that it names. -/
def Obligations.DecodeSampleWords : Prop :=
  decodeIn .cc {} 0x02D4000A = .ok (.movi 0 10 10) ∧ decodeIn .cc {} 0x0640C002 = .ok (.bqEnq 0 0 12)
  ∧ decodeIn .cc {} 0x06029605 = .ok (.engCmd 0 0 10 11 5) ∧ decodeIn .cc {} 0x065AE003 = .ok (.rqDeq 0 13 14)
  ∧ decodeIn .ae {} 0x06C84002 = .ok (.loopReg 0 0 1 2) ∧ decodeIn .ae {} 0x06800104 = .ok (.bqBrn 0 2)
  ∧ decodeIn .ae {} 0x06814001 = .ok (.argWrite 0 0 4 0) ∧ decodeIn .ae {} 0x01063100 = .ok (.add 0 3 3 2)
  ∧ decodeIn .cc {} 0x05403203 = .ok (.tbarWait 0 3 4) ∧ decodeIn .cc {} 0x05000018 = .ok (.fence 0 3)
  ∧ decodeIn .cc {} 0x05008532 = .ok (.stRel 0 0 0 4 5 6) ∧ decodeIn .cc {} 0x00080002 = .ok (.sysr 0 4 0)
  ∧ decodeIn .cc {} 0x0F400001 = .ok (.frameBegin 0 0) ∧ decodeIn .cc {} 0xFFFFFFFF = .error (.step 2)
  ∧ decodeIn .ae {} 0x02D4000A = .ok (.movi 0 10 10) ∧ decodeIn .ae {} 0x065AE003 = .error (.step 3)

/-- R35–R51: decoding and encoding agree, in both directions: the word of a well-formed instruction decodes to it with every
operand, and a word that decodes is the word of its instruction. -/
def Obligations.DecodeEncodeRoundTrip : Prop :=
  (∀ (i : Instr) (w : Nat), i.wf = true → encode i = some w → w < 2 ^ 32 ∧ decodeRaw w = .ok i)
  ∧ (∀ (w : Nat) (i : Instr), w < 2 ^ 32 → decodeRaw w = .ok i → encode i = some w ∧ i.wf = true)

/-- R24, R17, R403: the machine right after reset, as software would read it on every core.
Where the spec is silent it rests on choices of the model: assumptions 2 and 3. -/
def Obligations.ResetState : Prop :=
  ∀ (n : Nat),
    let s := focus n State.reset
    let c := s.core
    c.mode = .halted ∧ c.pc = 0#64 ∧ (∀ u r, c.reg u r = 0#64) ∧ (∀ r, r < 8 → c.guard r = (r == 0))
    ∧ (∀ u, (c.eng u).upc = 0 ∧ (c.eng u).run = none ∧ (c.eng u).cmdq.items = [] ∧ (c.eng u).bq.items = []
        ∧ (∀ k, (c.eng u).imem.get k = 0#32 ∧ (c.eng u).rtab.get k = 0#32))
    ∧ (∀ u k, ((c.eng u).loops.get k).a = false ∧ ((c.eng u).loops.get k).count = 0#24)
    ∧ c.fmtq.items = [] ∧ c.sclq.items = [] ∧ c.rq.items = [] ∧ (∀ k, (c.tokens.get k).toks = [])
    ∧ c.cntLd = 0 ∧ c.cntSt = 0 ∧ c.cntCp = 0 ∧ c.cntTl = 0
    ∧ (∀ k, c.c.get k = 0#384 ∧ c.t.get k = 0#128 ∧ c.w.get k = 0#128 ∧ c.d.get k = 0#128 ∧ (c.opd.get k).loaded = false)
    ∧ (∀ space k, Tab.get (c.buf space) k = 0#8) ∧ (∀ k, c.srf.get k = 0#8 ∧ c.slots.get k = .free)
    ∧ c.hyp = 0#8 ∧ c.aflags = 0#6 ∧ (∀ k, c.win.get k = 0#64 ∧ c.scratch.get k = 0#64)
    ∧ s.gtc = 0#64 ∧ s.dev = 0#10 ∧ s.faultq = [] ∧ (∀ h, (s.hyps.get h).state = 0) ∧ (∀ d, s.pools.get d = []) ∧ s.boot = .rom

/-- R39: a word whose guard is false takes its ring waits, gives its ring signals and advances, and does nothing else; an
atomic or a RED.FADD in Calm mode is excepted (R143, R144). -/
def Obligations.GuardFalseOnlyAdvances : Prop :=
  ∀ (s : State) (i : Instr),
    let calmBound : Bool := match i with
      | .amoSwap .. => true | .amoAdd .. => true | .amoAnd .. => true | .amoOr .. => true | .amoXor .. => true | .amoMax .. => true
      | .amoMin .. => true | .amoCas .. => true | .amoSwapPromote .. => true | .amoAddPromote .. => true | .amoCasPromote .. => true
      | .redFaddF32 .. => true | .redFaddF64 .. => true | _ => false
    s.ready i = true → s.guarded i = false → (calmBound = true → s.core.calm = false) → completes s i .next (takeRing i s)

/-- R48, R49: a word of a major that its stream does not accept faults with F.STREAM, and a word whose fields the stream or
its EXT does not allow faults with F.ILLEGAL, whatever else holds. -/
def Obligations.StreamAndFieldFaults : Prop :=
  ∀ (s : State) (i : Instr) (w : Nat), encode i = some w → isPrefix i = false → s.active = true → s.midWord = false →
    s.resumes i = false →
    (majorIn (majorOf w) s.unit = false → exec i s = .next (faultOf s s.unit ⟨0x02, 3, 0#64⟩))
    ∧ (majorIn (majorOf w) s.unit = true → functIn w s.unit = false → exec i s = .next (faultOf s s.unit ⟨0x02, 5, 0#64⟩))
    ∧ (majorIn (majorOf w) s.unit = true → functIn w s.unit = true →
        i.wf = false ∨ streamFieldsOk i s.unit = false ∨ extOk i s.pfx = false →
        exec i s = .next (faultOf s s.unit ⟨0x01, 6, 0#64⟩))

/-- R387, R388: in Calm mode, a stamped group waits before its count and changes nothing, faults with F.STAMP after it or
outside a frame, and in its own cycle faults where an interlock or a division holds it up. It has not met its count before, with only its
own memory work left. The first group after a restart is exempt where its count has come.
Where the spec is silent it rests on choices of the model: assumptions 10, 18 and 60. -/
def Obligations.StampRules : Prop :=
  ∀ (s : State) (i : Instr) (w : Nat) (c : BitVec 22), encode i = some w → isPrefix i = false → s.active = true →
    s.midWord = false → s.resumes i = false → majorOf w ≠ 0x33 → majorOf w ≠ 0x34 → earlyFault i s = none → s.core.calm = true → s.pfx.stamp = some c → s.pfx.met = false →
    let n := s.core.frameCount.toNat
    let exempt : Prop := s.core.exempt.get (sqIx s.unit) = true ∧ c.toNat ≤ n
    let stamp : Prop := exec i s = .next (faultOf s s.unit ⟨0x0A, 0, 0#64⟩)
    (¬exempt → s.core.frameRun = false → stamp)
    ∧ (¬exempt → s.core.frameRun = true → n < c.toNat → exec i s = .next s)
    ∧ (¬exempt → s.core.frameRun = true → c.toNat < n → stamp)
    ∧ (¬exempt → s.core.frameRun = true → c.toNat = n → s.dividing i = true ∨ s.interlocked i = true → stamp)

/-- R115, R20: a NOP with ring bits pops one token from each FIFO that it waits on and, with nothing of its sequencer
outstanding, pushes one with its hypothesis into each that it signals; it stands with cause 0 on an empty FIFO and with cause
1 where a FIFO has no free place.
Where the spec is silent it rests on a choice of the model: assumption 60. -/
def Obligations.RingTokens : Prop :=
  ∀ (s : State) (r : BitVec 4),
    let u := s.unit
    let waitB := match u with | .cc => 4 | .ae => 0 | .me => 1 | .se => 2 | .ve => 3
    let waitA := match u with | .cc => 5 | .ae => 6 | .me => 7 | .se => 8 | .ve => 9
    let sigB := match u with | .cc => 9 | .ae => 5 | .me => 6 | .se => 7 | .ve => 8
    let sigA := match u with | .cc => 0 | .ae => 1 | .me => 2 | .se => 3 | .ve => 4
    let waits (k : Nat) : Bool := (r.getLsbD 3 && k == waitB) || (r.getLsbD 2 && k == waitA)
    let signals (k : Nat) : Bool := (r.getLsbD 1 && k == sigB) || (r.getLsbD 0 && k == sigA)
    let toks (s : State) (k : Nat) : List (BitVec 8) := (s.core.tokens.get k).toks
    let h : BitVec 8 := if u = .cc then s.core.hyp else ((s.core.eng u).run.getD default).hyp
    let free : Prop := s.active = true ∧ s.midWord = false ∧ earlyFault (.nop r) s = none ∧ stampState s = .free
      ∧ s.dividing (.nop r) = false ∧ (u = .ve → s.core.windowWaits = false)
    let room (k : Nat) : Prop := (toks s k).length + (s.core.tokens.get k).reserved < 32
    (free → (∀ k, waits k = true → toks s k ≠ []) → (∀ k, signals k = true → room k) →
      s.core.pend = [] → s.waiting = [] → s.core.vpend = [] → s.core.vretire = [] →
      ∃ t, exec (.nop r) s = .next t
        ∧ ∀ k, toks t k = (if waits k then (toks s k).tail else toks s k) ++ (if signals k then [h] else []))
    ∧ (free → (∃ k, waits k = true ∧ toks s k = []) → exec (.nop r) s = .next (noteBlocked s 0))
    ∧ (free → (∀ k, waits k = true → toks s k ≠ []) → (∃ k, signals k = true ∧ ¬room k) → exec (.nop r) s = .next (noteBlocked s 1))

/-- R112: a word of an engine that transfers no control ends the loops whose END it is, the most recently entered first: a
loop with a count goes back to its START, a loop without one becomes inactive. -/
def Obligations.LoopIteration : Prop :=
  ∀ (s : State) (r : BitVec 4) (n m : Nat), s.unit ≠ .cc → issues s (.nop r) → n ≠ m →
    let e := s.core.eng s.unit
    let a := s.baseAddr
    let after (f : Engine → Prop) : Prop := ∃ t, exec (.nop r) s = .next t ∧ f (t.core.eng s.unit)
    let at' (k : Nat) : Prop := (e.loops.get k).stop.toNat = a
    let more (k : Nat) : Prop := (e.loops.get k).count ≠ 0#24
    (e.loopOrder = [] → after (fun t => t.upc = a + 4 ∧ t.loops = e.loops))
    ∧ (e.loopOrder = [n] → ¬at' n → after (fun t => t.upc = a + 4 ∧ t.loops = e.loops))
    ∧ (e.loopOrder = [n] → at' n → more n → after (fun t => t.upc = (e.loops.get n).start.toNat
        ∧ t.loops.get n = { e.loops.get n with count := (e.loops.get n).count - 1 } ∧ ∀ k, k ≠ n → t.loops.get k = e.loops.get k))
    ∧ (e.loopOrder = [n] → at' n → ¬more n → after (fun t => t.upc = a + 4 ∧ (t.loops.get n).a = false ∧ t.loopOrder = []
        ∧ ∀ k, k ≠ n → t.loops.get k = e.loops.get k))
    ∧ (e.loopOrder = [n, m] → at' n → at' m → ¬more n → more m → after (fun t => t.upc = (e.loops.get m).start.toNat
        ∧ (t.loops.get n).a = false ∧ t.loops.get m = { e.loops.get m with count := (e.loops.get m).count - 1 }))

/-! ### Relocated commands, copies and tiles -/

/-- R197: the oldest relocatable command of a core whose ME runs is pulled by the lowest sibling that qualifies, which runs it
with e1 and e2 from the command, e3 to e15, the loops and t0 to t7 at 0, and its own ME state set aside. -/
def Obligations.RelocatedPull : Prop :=
  ∀ (s : State) (issuer n : Nat) (c : Command) (rest : List Command),
    let i := s.coreAt issuer
    let p := s.coreAt n
    i.mode = .running → i.me.run.isSome = true → i.me.cmdq.items = c :: rest → c.reloc = true →
    i.pend = [] →
    n / 8 = issuer / 8 → n ≠ issuer → canPull s issuer n = true → (∀ m, m / 8 = issuer / 8 → m < n → canPull s issuer m = false) →
    (p.me.rtab.get c.entry.toNat).getLsbD 31 = true →
    ∃ t, exec (.relocCommandPull issuer) s = .next t
      ∧ (t.coreAt issuer).me.cmdq.items = rest ∧ (t.coreAt issuer).me.run = i.me.run ∧ (t.coreAt issuer).me.e = i.me.e
      ∧ (t.coreAt n).me.run = some c ∧ (t.coreAt n).reg .me 1 = c.a ∧ (t.coreAt n).reg .me 2 = c.b
      ∧ (∀ r, 3 ≤ r → (t.coreAt n).reg .me r = 0#64) ∧ (∀ k, (t.coreAt n).t.get k = 0#128)
      ∧ (∀ k, ((t.coreAt n).me.loops.get k).a = false) ∧ (t.coreAt n).meOwn = some p.me ∧ (t.coreAt n).tOwn = p.t
      ∧ (t.coreAt n).me.upc = (p.me.rtab.get c.entry.toNat).toNat / 4 % 2 ^ 14 * 4
      ∧ (∀ u r, u ≠ .me → (t.coreAt n).reg u r = p.reg u r) ∧ t.mem = s.mem

/-- R176, R180, R182–R186, R181: a copy word is accepted with its descriptor and raises cp, or moves nothing and raises cp for
one cycle, faults by the checks of R176, or stands while its buffer is full; the timed forms say in their status register whether they were
accepted. PREF does nothing, and CD.SET writes one dword of a descriptor.
Where the spec is silent it rests on choices of the model: assumption 45. -/
def Obligations.CopyWords : Prop :=
  ∀ (s : State) (r c d t x : BitVec 4) (f : BitVec 6),
    let desc := s.core.c.get c.toNat
    let nothing (k : CopyKind) : Prop := desc.toNat / 2 ^ 112 % 2 ^ 16 = 0 ∨ desc.toNat / 2 ^ 64 % 2 ^ 32 = 0
      ∨ (k = .mcast ∧ desc.toNat / 2 ^ 128 % 2 ^ 8 = 0)
    let copy (s : State) (k : CopyKind) (timed : Bool) (time : Word) : Copy :=
      ⟨time, timed, s.hyp, k, !timed || decide (time.toNat ≤ s.gtc.toNat), 0, 0, desc, s.core.copySeq + 1, [], 0, none, 0, none, none, []⟩
    let accept (s : State) (k : CopyKind) (timed : Bool) (time : Word) : State := (s.mapCore (fun q =>
      { q with copies := q.copies ++ [copy s k timed time], copySeq := q.copySeq + 1, cntCp := q.cntCp + 1 })).pushGate
        (copyGate (s.core.copySeq + 1))
    let once (s : State) : State := s.mapCore (fun q => { q with cntCp := q.cntCp + 1, cpZero := q.cpZero + 1 })
    let untimed (i : Instr) (k : CopyKind) : Prop :=
      (s.core.calm = true → faults s i ⟨0x0B, 0, 0#64⟩)
      ∧ (s.core.calm = false → nothing k → s.core.cntCp < 65535 → does s i once)
      ∧ (s.core.calm = false → nothing k → 65535 ≤ s.core.cntCp → blocks s i 8)
      ∧ (s.core.calm = false → ¬nothing k → ∀ f, copyChecks (takeRing i s) k desc = .error f → faults s i f)
      ∧ (s.core.calm = false → ¬nothing k → ∀ t, copyChecks (takeRing i s) k desc = .ok t →
          let room : Prop := (s.core.copies.filter (fun y => !y.timed)).length < 16 ∧ s.core.cntCp < 65535
          (room → issues s i → completes s i .next (accept t k false 0#64)) ∧ (¬room → blocks s i 8))
    let timed (i : Instr) (k : CopyKind) : Prop :=
      (nothing k → s.core.cntCp < 65535 → does s i (fun s => (once s).w5 d 1#64))
      ∧ (nothing k → 65535 ≤ s.core.cntCp → blocks s i 8)
      ∧ (¬nothing k → ∀ f, copyChecks (takeRing i s) k desc = .error f → faults s i f)
      ∧ (¬nothing k → ∀ u, copyChecks (takeRing i s) k desc = .ok u →
          let full : Prop := 64 ≤ (s.core.copies.filter (·.timed)).length
          (full → issues s i → completes s i .next (u.w5 d 0#64))
          ∧ (¬full → s.core.cntCp < 65535 → issues s i → completes s i .next ((accept u k true (s.r5 t)).w5 d 1#64))
          ∧ (¬full → 65535 ≤ s.core.cntCp → blocks s i 8))
    untimed (.cpy r c) .cpy ∧ untimed (.gath r c) .gath ∧ untimed (.scat r c) .scat ∧ untimed (.mcast r c) .mcast
    ∧ untimed (.sclLd r c) .sclLd
    ∧ timed (.cpyT r c d t) .cpyT ∧ timed (.gathT r c d t) .gath ∧ timed (.scatT r c d t) .scat ∧ timed (.mcastT r c d t) .mcast
    ∧ timed (.sclLdT r c d t) .sclLd
    ∧ does s (.pref r c) id
    ∧ (∃ e : BitVec 384, does s (.cdSet r c x f) (fun s => s.mapCore (fun q => { q with c := q.c.set c.toNat e }))
        ∧ (f.toNat < 6 → e.toNat / 2 ^ (320 - 64 * f.toNat) % 2 ^ 64 = (s.r5 x).toNat)
        ∧ (∀ k, k < 6 → k ≠ f.toNat → e.toNat / 2 ^ (320 - 64 * k) % 2 ^ 64 = desc.toNat / 2 ^ (320 - 64 * k) % 2 ^ 64))

/-- R173: every timed copy whose TIME has come becomes due, and nothing else changes. R174, R123: a burst of the one untimed copy
between two local buffers, in a row of at most 4096 bytes and no barrier, moves that row and no other byte; cp falls with
the last row. R185: a scale load pushes the next 64 bytes into the SCLQ.
Where the spec is silent it rests on choices of the model: assumption 46. -/
def Obligations.CopyEngineEvents : Prop :=
  (∀ (s : State),
      let due (x : Copy) : Copy := if x.timed = true ∧ x.time.toNat ≤ s.gtc.toNat then { x with due := true } else x
      exec (.timedCopyDue s.lnum) s = .next (s.mapCore (fun c => { c with copies := c.copies.map due })))
  ∧ (∀ (s : State) (cp : Copy) (src dst : Word), s.core.mode = .running → s.core.copies = [cp] → cp.kind = .cpy → cp.timed = false →
      cp.fetch = 0 → cp.got = none → cp.idx = none → cp.off = 0 → cp.row < cdRows cp.desc → cdBar cp.desc = 0#64 →
      cp.mayStart s.core = true → cp.acked = [] → (cdSrc cp.desc).toNat < 2 ^ 32 → (cdDst cp.desc).toNat < 2 ^ 32 →
      let len := cdLen cp.desc
      let a := src.toNat / 2 ^ 28 % 16
      let b := dst.toNat / 2 ^ 28 % 16
      let o := src.toNat % 2 ^ 28
      let p := dst.toNat % 2 ^ 28
      1 ≤ len → len ≤ 4096 → copyRowSrc .cpy cp.desc 0 cp.row = some src → copyRowDst .cpy cp.desc 0 cp.row = some dst →
      src.toNat < 2 ^ 32 → dst.toNat < 2 ^ 32 → bufSpace (cdDst cp.desc).toNat < 8 →
      (a = 1 ∨ a = 2) → (b = 0 ∨ b = 1) → a ≠ b → o + len ≤ spaceSize a → p + len ≤ spaceSize b → s.core.marks = [] →
      ∃ t, exec (.copyBurst s.lnum) s = .next t
        ∧ (∀ k < len, Tab.get (t.core.buf b) (p + k) = Tab.get (s.core.buf a) (o + k))
        ∧ (∀ x, ¬(p ≤ x ∧ x < p + len) → Tab.get (t.core.buf b) x = Tab.get (s.core.buf b) x)
        ∧ (∀ z, z ≠ b → t.core.buf z = s.core.buf z) ∧ t.mem = s.mem ∧ (∀ u n, t.core.reg u n = s.core.reg u n)
        ∧ (cp.row + 1 = cdRows cp.desc → cp.waiting = 0 → t.core.copies = [] ∧ t.core.cntCp = s.core.cntCp - 1)
        ∧ (cp.row + 1 < cdRows cp.desc → ∃ q, t.core.copies = [q] ∧ q.row = cp.row + 1 ∧ q.off = 0 ∧ q.seq = cp.seq
            ∧ t.core.cntCp = s.core.cntCp))
  ∧ (∀ (s : State) (cp : Copy) (src : Word), s.core.mode = .running → s.core.copies = [cp] → cp.kind = .sclLd → cp.timed = false →
      cp.fetch = 0 → cp.got = none → cp.row < cdRows cp.desc → cp.mayStart s.core = true → s.core.sclq.items.length < 64 →
      (cdSrc cp.desc).toNat < 2 ^ 32 → cdDst cp.desc = 0#64 →
      rowAddr (cdSrc cp.desc) (cdSstr cp.desc) cp.row = some src → src.toNat < 2 ^ 32 →
      let a := src.toNat / 2 ^ 28 % 16
      let o := src.toNat % 2 ^ 28
      (a = 1 ∨ a = 2) → o + 64 ≤ spaceSize a → s.core.marks = [] →
      ∃ t, exec (.scaleGroupPush s.lnum) s = .next t
        ∧ t.core.sclq.items = s.core.sclq.items ++ [⟨(List.range 64).map (fun k => Tab.get (s.core.buf a) (o + k)), cp.hyp⟩]
        ∧ (cp.row + 1 = cdRows cp.desc → cp.waiting = 0 → t.core.copies = [] ∧ t.core.cntCp = s.core.cntCp - 1)
        ∧ (cp.row + 1 < cdRows cp.desc → (∃ q, t.core.copies = [q] ∧ q.row = cp.row + 1) ∧ t.core.cntCp = s.core.cntCp)
        ∧ t.mem = s.mem ∧ t.core.wb = s.core.wb ∧ t.core.ab = s.core.ab ∧ t.core.as = s.core.as)

/-- R192–R194, R425, R200: with room for it, a tile command pops its format word and its scale entries, passes its checks and
joins the tile commands, and tl rises; without a word, or where a check fails, it faults, having consumed the word. TD.SET
writes a descriptor.
Where the spec is silent it rests on choices of the model: assumptions 19 and 60. -/
def Obligations.MatrixWords : Prop :=
  ∀ (s : State) (r c a b : BitVec 4) (k z y x : BitVec 1) (ix : BitVec 3),
    let tile (i : Instr) : Prop :=
      s.inReloc = false → s.core.meOwn = none → s.core.tileReplay = none → (∀ e ∈ s.core.pend, e.kind ≠ .gate 8) →
      s.tilesInFlight < 4 → s.indexWaits i s.core = false → s.core.cntTl < 65535 → (∀ y ∈ s.core.tiles, y.asked = true) →
      let after := s.core.afterTiles s.core.latch s.lnum
      (s.core.fmtq.items = [] → faults s i ⟨0x07, 0, 0#64⟩)
      ∧ (∀ w h rest, s.core.fmtq.items = (w, h) :: rest →
          (∀ f, tileChecks s.core after i w false s.core.t = .error f → issues s i → ∃ u, exec i s = .next (faultOf u s.unit f)
            ∧ u.core.fmtq.items = rest ∧ u.core.tileReplay.map (·.fmt) = some w ∧ u.core.tiles = s.core.tiles)
          ∧ (∀ rows, tileChecks s.core after i w false s.core.t = .ok rows →
              let need := scalesNeeded i w (((tileDescs i s.core.t).getD 1 0#128).toNat / 2 ^ 48 % 2 ^ 16)
              (need ≤ s.core.sclq.items.length → does s i (fun s => s.mapCore (fun q => { q with
                fmtq := ⟨(q.fmtq.head + 1) % 16, rest⟩, sclq := if need = 0 then q.sclq else ⟨(q.sclq.head + need) % 64, q.sclq.items.drop need⟩, cntTl := q.cntTl + 1,
                tiles := q.tiles ++ [⟨i, w, tileDescs i q.t, rows, (q.sclq.items.take need).map (·.bytes), s.lnum, false,
                  [], [], false, q.latch.gen, true, s.core.groupWord .me⟩] })))
              ∧ (s.core.sclq.items.length < need → (∀ q ∈ s.core.copies, q.kind ≠ .sclLd) → issues s i →
                  ∃ u, exec i s = .next (faultOf u s.unit ⟨0x08, 0, 0#64⟩) ∧ u.core.fmtq.items = rest ∧ u.core.sclq.items = [])))
    tile (.mm r c a b k z y x) ∧ tile (.mmG r c a b ix z y) ∧ tile (.accZero r c) ∧ tile (.accRd r c a) ∧ tile (.accWr r c a)
    ∧ does s (.tdSet r c a b) (fun s => s.mapCore (fun q => { q with t := q.t.set c.toNat (s.r5 a ++ s.r5 b) }))

/-- R194, R201–R204: the oldest tile command commits, and tl falls. ACC.ZERO clears the two planes and begins a sequence; ACC.WR
writes the converted source into the even plane; MM changes nothing but its tile, and nothing at K = 0 without Z; ACC.RD changes
no byte of AS, and of AB only its output lines.
Where the spec is silent it rests on choices of the model: assumption 19. -/
def Obligations.TileCommits : Prop :=
  ∀ (s : State) (q : Tile) (rest : List Tile), s.core.mode = .running → s.core.tiles = q :: rest → q.ready = true → q.mark s.core = none →
    (∀ y ∈ rest, y.asked = true) →
    let acc := q.fmt.toNat / 2 ^ 54 % 4
    let tt := if acc = 1 then 24 else 48
    let w := if acc = 1 then 8 else 4
    let plane := tt * tt * w
    let base (n : Nat) : Nat := (q.descs.getD n 0#128).toNat / 2 ^ 96 % 2 ^ 28
    let z := base 0
    let done (f : State → Prop) : Prop := ∃ t, exec (.tileCommit s.lnum) s = .next t ∧ t.core.tiles = rest ∧ t.core.cntTl = s.core.cntTl - 1
      ∧ t.mem = s.mem ∧ t.core.wb = s.core.wb ∧ (∀ u n, t.core.reg u n = s.core.reg u n) ∧ f t
    let only (t : State) : Prop := t.core.ab = s.core.ab
      ∧ ∀ o, ¬(z ≤ o ∧ o < z + 2 * plane + 8) → Tab.get t.core.as o = Tab.get s.core.as o
    let even (t : State) (i j : Nat) : Nat := readLE t.core.as (z + (i * tt + j) * w) w
    let odd (t : State) (i j : Nat) : Nat := readLE t.core.as (z + plane + (i * tt + j) * w) w
    (∀ r c, q.cmd = .accZero r c → done (fun t => only t ∧ readLE t.core.as (z + 2 * plane) 8 = acc * 2 ^ 62
        ∧ t.core.aflags = s.core.aflags ∧ ∀ i < tt, ∀ j < tt, even t i j = 0 ∧ odd t i j = 0))
    ∧ (∀ r c a, q.cmd = .accWr r c a → done (fun t => only t ∧ readLE t.core.as (z + 2 * plane) 8 = acc * 2 ^ 62
        ∧ ∀ i < tt, ∀ j < tt, odd t i j = 0 ∧ even t i j = (cvtAcc q.fmt (elemVal (q.fmt.toNat / 2 ^ 60) false
            (lineElem (s.core.buf (bufSpace (tdBase (q.descs.getD 1 0#128)))) (lineOff (q.descs.getD 1 0#128) i) (q.fmt.toNat / 2 ^ 60) j))).1 % 2 ^ (8 * w)))
    ∧ (∀ r c a b k zz y x, q.cmd = .mm r c a b k zz y x →
        let kk := (q.descs.getD 1 0#128).toNat / 2 ^ 48 % 2 ^ 16
        done (fun t => only t ∧ (zz = 0#1 → kk = 0 → t.core.as = s.core.as)
          ∧ (k = 0#1 → (s.coreAt q.me).latch.gen = q.gen → runBytes (fwAfmt q.fmt) (tt * kk) ≤ 24576 →
              ∃ old, (t.coreAt q.me).latch.tag = some (q.descs.getD 1 0#128, x == 1#1, old))))
    ∧ (∀ r c a b ix zz y, q.cmd = .mmG r c a b ix zz y → done (fun t => only t ∧ (t.coreAt q.me).latch.tag = none))
    ∧ (∀ r d c, q.cmd = .accRd r d c → done (fun t => t.core.as = s.core.as
        ∧ ∀ o, (∀ i < tt, ¬(lineOff (q.descs.getD 0 0#128) i ≤ o ∧ o < lineOff (q.descs.getD 0 0#128) i + runBytes (fwOfmt q.fmt) tt)) →
            Tab.get t.core.ab o = Tab.get s.core.ab o))

/-! ### The vector engine -/

/-- R206–R211, R215–R219, R214: outside a chain and with nothing pending, an element-wise word whose elements fit one step
leaves one pending write for each element, in order: the element's place, its result in the destination format, and the
steps that are left, 3 for an ordinary word and 8 for a special function. It does nothing at COUNT 0, faults by the first
check of R207 that fails, the destination's first, and stands while its window's allowance has no room (R362).
Where the spec is silent it rests on choices of the model: assumptions 20 and 60. -/
def Obligations.VectorElementWords : Prop :=
  ∀ (s : State) (r d a b : BitVec 4) (t : BitVec 3),
    let rd := regionOf (s.core.d.get d.toNat)
    let n := rd.count
    let run (i : Instr) (ct : Nat) (old exact : Bool) (left : Nat) (src : List (BitVec 4)) (f : List Nat → Nat) : Prop :=
      s.core.chain = none → s.core.vpend = [] → s.core.vretire = [] → issues s i →
      let rs := src.map (fun x => regionOf (s.core.d.get x.toNat))
      let c := (takeRing i s).core
      let bad : Option Flt := (checkRegion c rd true old ct n s.hyp).or
        (rs.findSome? (fun x => checkRegion c x false (!exact) ct n s.hyp))
      let value (x : Region) (k : Nat) : Nat := (readCt ct x.fmt x.u (x.code (s.core.buf x.space) k)).1
      (∀ e, n ≠ 0 → bad = some e → exec i s = .next (faultOf s s.unit e))
      ∧ (n = 0 → ∃ u, exec i s = .next u ∧ u.core.vpend = [] ∧ u.core.wb = s.core.wb ∧ u.core.ab = s.core.ab ∧ u.core.as = s.core.as)
      ∧ (n ≠ 0 → bad = none → rd.noRoom s.core = true → blocks s i 8)
      ∧ (1 ≤ n → bad = none → rd.noRoom s.core = false → n ≤ rateOf (rd :: rs) (ct == 1) → ∃ u, exec i s = .next u ∧ u.core.vpend.length = n
          ∧ (∀ k < n, ∃ w, u.core.vpend[k]? = some w ∧ w.addr = rd.space * 2 ^ 28 + (rd.place k).1 ∧ w.nibble = (rd.place k).2
              ∧ w.left = left ∧ w.sf = (left == 8)
              ∧ w.bytes = natToBytes rd.size (if exact then (rd.out (elemVal (rs.headD default).fmt (rs.headD default).u
                    ((rs.headD default).code (s.core.buf (rs.headD default).space) k))).1
                  else (rd.outCt ct (f (rs.map (fun x => value x k) ++ (if old then [value rd k] else [])))).1))
          ∧ u.core.wb = s.core.wb ∧ u.core.ab = s.core.ab ∧ u.core.as = s.core.as ∧ u.mem = s.mem ∧ u.core.aflags = s.core.aflags
          ∧ (∀ v m, u.core.reg v m = s.core.reg v m))
    let ct := t.toNat
    let g := if ct = 1 then f64 else f32
    let sg (x : Nat) : Int := if ct = 2 then (BitVec.ofNat 32 x).toInt else ((x % 2 ^ 32 : Nat) : Int)
    let lo (v : Int) : Nat := (v % 4294967296).toNat
    let two (fl : Nat → Nat → Nat × FlagSet) (int : Int → Int → Int) (l : List Nat) : Nat :=
      if ct < 2 then (fl (l.getD 0 0) (l.getD 1 0)).1 else lo (int (sg (l.getD 0 0)) (sg (l.getD 1 0)))
    let bitsOp (f : Nat → Nat → Nat) (l : List Nat) : Nat := f (l.getD 0 0 % 2 ^ 32) (l.getD 1 0 % 2 ^ 32)
    let none2 : Nat → Nat → Nat × FlagSet := fun _ _ => (0, 0#6)
    run (.vadd r d a b 0 0 0 t) ct false false 3 [a, b] (two (g.addC .rne) (· + ·))
    ∧ run (.vsub r d a b 0 0 0 t) ct false false 3 [a, b] (two (g.subC .rne) (· - ·))
    ∧ run (.vmul r d a b 0 0 0 t) ct false false 3 [a, b] (two (g.mulC .rne) (· * ·))
    ∧ run (.vdiv r d a b 0 0 0 t) ct false false 3 [a, b] (two (g.divC .rne) (fun x y => if y = 0 then -1 else x.tdiv y))
    ∧ run (.vmin r d a b 0 0 0 t) ct false false 3 [a, b] (two g.minC (fun x y => min x y))
    ∧ run (.vmax r d a b 0 0 0 t) ct false false 3 [a, b] (two g.maxC (fun x y => max x y))
    ∧ (2 ≤ ct → run (.vand r d a b 0 0 0 t) ct false false 3 [a, b] (bitsOp (· &&& ·)))
    ∧ (2 ≤ ct → run (.vor r d a b 0 0 0 t) ct false false 3 [a, b] (bitsOp (· ||| ·)))
    ∧ (2 ≤ ct → run (.vxor r d a b 0 0 0 t) ct false false 3 [a, b] (bitsOp (· ^^^ ·)))
    ∧ (2 ≤ ct → run (.vshl r d a b 0 0 0 t) ct false false 3 [a, b] (two none2 (fun x y => x * 2 ^ (y % 32).toNat)))
    ∧ (2 ≤ ct → run (.vshr r d a b 0 0 0 t) ct false false 3 [a, b] (two none2 (fun x y => x / 2 ^ (y % 32).toNat)))
    ∧ run (.vnot r d a 0 0 t) ct false false 3 [a] (fun l => if ct < 2 then (VKind.not.result ct l).1 else lo (-1 - sg (l.getD 0 0)))
    ∧ run (.vabs r d a 0 0 t) ct false false 3 [a] (fun l => if ct < 2 then (VKind.abs.result ct l).1
        else if ct = 2 then lo (sg (l.getD 0 0)).natAbs else l.getD 0 0)
    ∧ run (.vneg r d a 0 0 t) ct false false 3 [a] (fun l => if ct < 2 then (VKind.neg.result ct l).1 else lo (-sg (l.getD 0 0)))
    ∧ run (.vmov r d a 0 0 t) ct false false 3 [a] (fun l => l.getD 0 0)
    ∧ run (.vcvt r d a 0) 0 false true 3 [a] (fun l => l.getD 0 0)
    ∧ run (.vfma r d a b 0 0 t) ct true false 3 [a, b] (fun l => if ct < 2 then (VKind.three 0 |>.result ct l).1
        else lo (sg (l.getD 0 0) * sg (l.getD 1 0) + sg (l.getD 2 0)))
    ∧ run (.vfms r d a b 0 0 t) ct true false 3 [a, b] (fun l => if ct < 2 then (VKind.three 1 |>.result ct l).1
        else lo (sg (l.getD 0 0) * sg (l.getD 1 0) - sg (l.getD 2 0)))
    ∧ run (.vfnma r d a b 0 0 t) ct true false 3 [a, b] (fun l => if ct < 2 then (VKind.three 2 |>.result ct l).1
        else lo (sg (l.getD 2 0) - sg (l.getD 0 0) * sg (l.getD 1 0)))
    ∧ run (.vsel r d a b 0 0 t) ct true false 3 [a, b] (fun l =>
        if (if ct < 2 then !(g.decode (l.getD 2 0)).isZero else l.getD 2 0 % 2 ^ 32 != 0) then l.getD 0 0 else l.getD 1 0)
    ∧ run (.vclamp r d a b 0 0 t) ct true false 3 [a, b] (fun l => if ct < 2 then (g.minC (g.maxC (l.getD 2 0) (l.getD 0 0)).1 (l.getD 1 0)).1
        else lo (min (max (sg (l.getD 2 0)) (sg (l.getD 0 0))) (sg (l.getD 1 0))))
    ∧ (2 ≤ ct → run (.vcmpEq r d a b 0 0 0 t) ct false false 3 [a, b] (two none2 (fun x y => if x = y then 1 else 0)))
    ∧ (2 ≤ ct → run (.vcmpLt r d a b 0 0 0 t) ct false false 3 [a, b] (two none2 (fun x y => if x < y then 1 else 0)))
    ∧ (2 ≤ ct → run (.vcmpLe r d a b 0 0 0 t) ct false false 3 [a, b] (two none2 (fun x y => if x ≤ y then 1 else 0)))
    ∧ (ct < 2 → run (.vcmpEq r d a b 0 0 0 t) ct false false 3 [a, b] (fun l =>
        if (g.decode (l.getD 0 0)).eqNum (g.decode (l.getD 1 0)) then (g.arith .rne (.fin false 1 0)).1 else 0))
    ∧ (ct < 2 → run (.vcmpLt r d a b 0 0 0 t) ct false false 3 [a, b] (fun l =>
        if (g.decode (l.getD 0 0)).ltNum (g.decode (l.getD 1 0)) then (g.arith .rne (.fin false 1 0)).1 else 0))
    ∧ run (.vexp2 r d a 0 0) 0 false false 8 [a] (fun l => (SpFn.exp2.apply (l.getD 0 0)).1)
    ∧ run (.vlog2 r d a 0 0) 0 false false 8 [a] (fun l => (SpFn.log2.apply (l.getD 0 0)).1)
    ∧ run (.vrcp r d a 0 0) 0 false false 8 [a] (fun l => (f32.divC .rne 0x3F800000 (l.getD 0 0)).1)
    ∧ run (.vrsq r d a 0 0) 0 false false 8 [a] (fun l => (SpFn.rsq.apply (l.getD 0 0)).1)
    ∧ run (.vsqrt r d a 0 0) 0 false false 8 [a] (fun l => (SpFn.sqrt.apply (l.getD 0 0)).1)
    ∧ run (.vsin r d a 0 0) 0 false false 8 [a] (fun l => (SpFn.sin.apply (l.getD 0 0)).1)
    ∧ run (.vcos r d a 0 0) 0 false false 8 [a] (fun l => (SpFn.cos.apply (l.getD 0 0)).1)
    ∧ run (.vtanh r d a 0 0) 0 false false 8 [a] (fun l => (SpFn.tanh.apply (l.getD 0 0)).1)
    ∧ does s (.rgnSet r d a b) (fun s => s.mapCore (fun c => { c with d := c.d.set d.toNat (s.r5 a ++ s.r5 b) }))

/-- R218, R219: the special functions at their special inputs: the value, and the flags NV and VRANGE.
Where the spec is silent it rests on choices of the model: assumption 49. -/
def Obligations.SpecialFunctionTable : Prop :=
  let pinf := 0x7F800000
  let ninf := 0xFF800000
  let nan := 0x7FC00000
  let one := 0x3F800000
  let mone := 0xBF800000
  let mzero := 0x80000000
  (∀ fn : SpFn, fn.apply nan = (nan, 0#6) ∧ fn.apply 0x7F800001 = (nan, flNV))
  ∧ SpFn.exp2.apply pinf = (pinf, 0#6) ∧ SpFn.exp2.apply ninf = (0, 0#6) ∧ SpFn.exp2.apply 0 = (one, 0#6)
  ∧ SpFn.exp2.apply 0x43000000 = (pinf, flOF ||| flNX)
  ∧ SpFn.log2.apply 0 = (ninf, 0#6) ∧ SpFn.log2.apply mzero = (ninf, 0#6) ∧ SpFn.log2.apply pinf = (pinf, 0#6)
  ∧ SpFn.log2.apply mone = (nan, flNV) ∧ SpFn.log2.apply one = (0, 0#6)
  ∧ SpFn.rcp.apply 0 = (pinf, 0#6) ∧ SpFn.rcp.apply mzero = (ninf, 0#6) ∧ SpFn.rcp.apply pinf = (0, 0#6) ∧ SpFn.rcp.apply ninf = (mzero, 0#6)
  ∧ SpFn.rsq.apply 0 = (pinf, 0#6) ∧ SpFn.rsq.apply mzero = (ninf, 0#6) ∧ SpFn.rsq.apply pinf = (0, 0#6) ∧ SpFn.rsq.apply mone = (nan, flNV)
  ∧ SpFn.sqrt.apply mzero = (mzero, 0#6) ∧ SpFn.sqrt.apply pinf = (pinf, 0#6) ∧ SpFn.sqrt.apply mone = (nan, flNV)
  ∧ (∀ fn ∈ [SpFn.sin, SpFn.cos], fn.apply pinf = (nan, flVR) ∧ fn.apply ninf = (nan, flVR) ∧ fn.apply 0x49800000 = (nan, flVR))
  ∧ SpFn.sin.apply 0 = (0, 0#6) ∧ SpFn.sin.apply mzero = (mzero, 0#6) ∧ SpFn.cos.apply 0 = (one, 0#6)
  ∧ SpFn.tanh.apply 0 = (0, 0#6) ∧ SpFn.tanh.apply mzero = (mzero, 0#6) ∧ SpFn.tanh.apply pinf = (one, 0#6) ∧ SpFn.tanh.apply ninf = (mone, 0#6)

/-- R209, R210, R220, R76: outside a chain and with nothing pending, a reduction whose elements fit one step leaves one pending
write, of the reduced value of its leaves.
Where the spec is silent it rests on choices of the model: assumption 20. -/
def Obligations.VectorReductions : Prop :=
  ∀ (s : State) (r d a : BitVec 4) (t : BitVec 3),
    let rd := regionOf (s.core.d.get d.toNat)
    let ra := regionOf (s.core.d.get a.toNat)
    let n := ra.count
    let ct := t.toNat
    let leaf (k : Nat) : Nat := (readCt ct ra.fmt ra.u (ra.code (s.core.buf ra.space) k)).1
    let leaves : List Nat := (List.range n).map leaf
    let run (i : Instr) (code : Nat) : Prop :=
      s.core.chain = none → s.core.vpend = [] → s.core.vretire = [] → issues s i →
      let c := (takeRing i s).core
      let bad : Option Flt := (checkRegion c rd true false ct 1 s.hyp).or (checkRegion c ra false true ct n s.hyp)
      (∀ e, n ≠ 0 → rd.count ≠ 0 → bad = some e → exec i s = .next (faultOf s s.unit e))
      ∧ (n = 0 ∨ rd.count = 0 → ∃ u, exec i s = .next u ∧ u.core.vpend = [] ∧ u.core.ab = s.core.ab ∧ u.core.as = s.core.as)
      ∧ (n ≠ 0 → rd.count ≠ 0 → bad = none → rd.noRoom s.core = true → blocks s i 8)
      ∧ (1 ≤ n → rd.count ≠ 0 → bad = none → rd.noRoom s.core = false → n ≤ rateOf [rd, ra] (ct == 1) → ∃ u w, exec i s = .next u ∧ u.core.vpend = [w]
          ∧ w.addr = rd.space * 2 ^ 28 + (rd.place 0).1 ∧ w.left = 3 ∧ w.bytes = natToBytes rd.size code
          ∧ u.core.ab = s.core.ab ∧ u.core.as = s.core.as ∧ u.mem = s.mem)
    let g := if ct = 1 then f64 else f32
    let sg (x : Nat) : Int := if ct = 2 then (BitVec.ofNat 32 x).toInt else ((x % 2 ^ 32 : Nat) : Int)
    let lo (v : Int) : Nat := (v % 4294967296).toNat
    let out (node : Nat → Nat → Nat) (l : List Nat) : Nat :=
      (rd.outCt ct (((treeReduce (fun x y => (node x y, 0#6)) (· ||| ·) 17 l 0#6).1).getD 0)).1
    run (.vrsum r d a t) (out (fun x y => if ct < 2 then (g.addC .rne x y).1 else lo (sg x + sg y)) leaves)
    ∧ run (.vrmax r d a t) (out (fun x y => if ct < 2 then (g.maxC x y).1 else lo (max (sg x) (sg y))) leaves)
    ∧ run (.vrmin r d a t) (out (fun x y => if ct < 2 then (g.minC x y).1 else lo (min (sg x) (sg y))) leaves)
    ∧ run (.vrsumsq r d a t) (out (fun x y => if ct < 2 then (g.addC .rne x y).1 else lo (sg x + sg y))
        (leaves.map (fun x => if ct < 2 then (g.mulC .rne x x).1 else lo (sg x * sg x))))
    ∧ (∀ m, 2 ≤ ct → intFmt rd.fmt = false → m < n → (∀ k < n, sg (leaf k) ≤ sg (leaf m)) → (∀ k < m, sg (leaf k) < sg (leaf m)) →
        run (.vrargmax r d a t) (rd.out (.ofInt m)).1)

/-- R222, R224, R225: VCH.BEGIN and VDRAIN open a chain when their ring waits are there; inside it a slot word joins the slots
and does nothing else; VCH.END with an empty chain length closes the chain without effect. VCH.END of any chain, of N slots, VDEFER
among them, over the elements of a region or the entries of a drained queue, ends it with the bytes that its run leaves, and with the
waits and signals of its head taken; a drained queue with no entry does nothing.
That the ring waits of the word that opens a chain are taken at VCH.END, where the chain runs, is the model's choice against
R222's 'taken when the chain begins': assumption 60. Where the spec is silent it rests on choices of the model: assumptions 20, 22
and 23. -/
def Obligations.ChainWords : Prop :=
  ∀ (s : State) (r d a b q p : BitVec 4) (x y z : BitVec 1) (t k : BitVec 3),
    let opens (i : Instr) : Prop := issues s i → s.core.chain = none →
      ∃ u, exec i s = .next u ∧ u.core.chain = some ⟨i, s.groupAddr, []⟩ ∧ u.core.ve.run = s.core.ve.run
        ∧ u.core.ab = s.core.ab ∧ u.core.vpend = s.core.vpend ∧ u.core.ring = s.core.ring ∧ u.core.tokens = s.core.tokens
    let joins (i : Instr) : Prop := ∀ ch, issues s i → s.core.chain = some ch →
      ∃ u, exec i s = .next u ∧ u.core.chain = some { ch with slots := ch.slots ++ [i] } ∧ u.core.ab = s.core.ab ∧ u.core.as = s.core.as
        ∧ u.core.vpend = s.core.vpend ∧ u.core.ring = s.core.ring
    opens (.vchBegin r d) ∧ opens (.vdrain r q p)
    ∧ joins (.vadd r d a b x y z t) ∧ joins (.vfma r d a b x y t) ∧ joins (.vmov r d a x z t) ∧ joins (.vexp2 r d a x z) ∧ joins (.vdefer r q k p)
    ∧ (∀ ch e, issues s (.vchEnd r) → s.core.chain = some ch → ch.head = .vchBegin e d → s.core.veprog = 0#64 → s.core.vpend = [] →
        e = 0#4 → (regionOf (s.core.d.get d.toNat)).count = 0 →
        (∀ sl ∈ ch.slots.filterMap (fun i => slotOf i s.core.d), sl.d.noRoom s.core = false) →
        ∃ u, exec (.vchEnd r) s = .next u ∧ u.core.chain = none ∧ u.core.ab = s.core.ab ∧ u.core.as = s.core.as ∧ u.core.vpend = [])
    ∧ (∀ ch e m, issues s (.vchEnd r) → s.core.chain = some ch → ch.head = .vchBegin e d → s.core.veprog = 0#64 → s.core.vpend = [] →
        s.core.vretire = [] → e = 0#4 → ch.slots = [.vmov 0 m a 0 0 t] → (regionOf (s.core.d.get d.toNat)).count = 1 →
        let rd := regionOf (s.core.d.get m.toNat)
        let ra := regionOf (s.core.d.get a.toNat)
        let v := (readCt t.toNat ra.fmt ra.u (ra.code (s.core.buf ra.space) 0)).1
        checkRegion (takeRing (.vchEnd r) s).core rd true false t.toNat 1 s.hyp = none → checkRegion (takeRing (.vchEnd r) s).core ra false true t.toNat 1 s.hyp = none → rd.count = 1 →
        rd.noRoom s.core = false →
        ∃ u w, exec (.vchEnd r) s = .next u ∧ u.core.chain = none ∧ u.core.vpend = [w] ∧ w.addr = rd.space * 2 ^ 28 + (rd.place 0).1
          ∧ w.left = 3 ∧ w.bytes = natToBytes rd.size (rd.outCt t.toNat v).1 ∧ u.core.ab = s.core.ab ∧ u.core.as = s.core.as)
    ∧ (∀ ch, issues s (.vchEnd r) → s.core.chain = some ch → s.core.vpend = [] → s.core.vretire = [] →
        let taken := takeRing (.vchEnd r) s
        let run := chainRun taken ch
        let resumed := s.core.veprog.getLsbD 16
        (resumed = true ∨ taken.core.waitsReady .ve ch.waits = true) → (taken.core.reserveSignals .ve r).signalsReady .ve ch.waits = true →
        (∀ sl ∈ ch.slots.filterMap (fun i => slotOf i s.core.d), sl.d.noRoom s.core = false) → run.fault = none → run.done ≠ 0 →
        ∃ u, exec (.vchEnd r) s = .next u ∧ u.core.chain = none ∧ u.core.veprog = 0#64 ∧ u.core.ring = run.ring ∧ u.mem = s.mem
          ∧ u.core.wb = run.core.wb ∧ u.core.ab = run.core.ab ∧ u.core.as = run.core.as ∧ (∀ v n, u.core.reg v n = s.core.reg v n))
    ∧ (∀ ch, issues s (.vchEnd r) → s.core.chain = some ch → ch.head = .vdrain 0 q p → s.core.veprog = 0#64 → s.core.vpend = [] →
        s.core.vretire = [] → (∀ sl ∈ ch.slots.filterMap (fun i => slotOf i s.core.d), sl.d.noRoom s.core = false) →
        let rq := regionOf (s.core.d.get q.toNat)
        queueFault rq = none → s.core.marks = [] → readLE s.core.ab rq.off 4 = 0 →
        ∃ u, exec (.vchEnd r) s = .next u ∧ u.core.chain = none ∧ u.core.veprog = 0#64 ∧ u.core.vpend = [] ∧ u.core.ab = s.core.ab
          ∧ u.core.as = s.core.as ∧ u.core.wb = s.core.wb ∧ u.mem = s.mem)

/-- R213, R222, R224: what chains forbid. Outside a chain RA, RB and ND fault with F.ILLEGAL, detail 11, when the word would issue, and VDEFER
and VCH.END with detail 12; inside one every word but a slot without ring bits or VCH.END faults with detail 12, and so does a ninth
slot.
Where the spec is silent it rests on choices of the model: assumption 21. -/
def Obligations.ChainStructure : Prop :=
  ∀ (s : State) (i : Instr) (w : Nat), encode i = some w → isPrefix i = false → s.active = true → s.unit = .ve →
    decodeCheck i .ve s.pfx = none →
    let slot : Prop := 0x28 ≤ w / 2 ^ 22 % 64 ∧ w / 2 ^ 22 % 64 ≤ 0x2B
    let stops (n : Nat) : Prop := exec i s = .next (faultOf s .ve ⟨0x01, n, 0#64⟩)
    (s.core.chain = none → isDefer i = true ∨ isChainEnd i = true → stops 12)
    ∧ (s.core.chain = none → slot → w / 8 % 8 ≠ 0 → issues s i → stops 11)
    ∧ (∀ ch, s.core.chain = some ch → isChainEnd i = false → ¬slot ∧ isDefer i = false ∨ w / 2 ^ 28 ≠ 0 ∨ 8 ≤ ch.slots.length → stops 12)

/-- R210, R211, R107: while an ENDR waits, a step of the VE passes: every pending write comes one step nearer, one that
comes due lands, and with the last ones the routine ends.
Where the spec is silent it rests on choices of the model: assumptions 10 and 20. -/
def Obligations.PendingWritesLand : Prop :=
  ∀ (s : State) (w : VWrite) (rest : List VWrite) (g : Nat), s.core.mode = .running → s.core.ve.ending = some g → s.core.vretire = [] →
    s.core.vpend = w :: rest → (∀ v ∈ w :: rest, bufSpace v.addr < 3) →
    let last : Prop := ∀ v ∈ w :: rest, v.left = 1
    ∃ t, exec (.sfWriteLand s.lnum) s = .next t
      ∧ t.core.vpend = ((w :: rest).filter (fun v => v.left != 1 && v.left != 0)).map (fun v => { v with left := v.left - 1 })
      ∧ (rest = [] → w.left = 1 → w.nibble = none → w.landed = false →
          (∀ k, k < w.bytes.length → Tab.get (t.core.buf (w.addr / 2 ^ 28 % 16)) (w.addr % 2 ^ 28 + k) = w.bytes.getD k 0#8)
          ∧ (∀ o, ¬(w.addr % 2 ^ 28 ≤ o ∧ o < w.addr % 2 ^ 28 + w.bytes.length) →
              Tab.get (t.core.buf (w.addr / 2 ^ 28 % 16)) o = Tab.get (s.core.buf (w.addr / 2 ^ 28 % 16)) o))
      ∧ (last → t.core.ve.run = none ∧ t.core.ve.ending = none)
      ∧ (¬last → (∃ v ∈ w :: rest, 1 < v.left) → t.core.ve.run = s.core.ve.run ∧ t.core.ve.ending = some g)
      ∧ t.mem = s.mem ∧ (∀ u n, t.core.reg u n = s.core.reg u n)

/-! ### The state register file and local scans -/

/-- R230, R241, R243: SW.SET writes a window. SRF.ALLOC makes free slots primary and clears them; SRF.FREE frees primary slots
and their versions; both fault with F.SRF under a hypothesis, on a slot in the wrong state, or over the quota. -/
def Obligations.SlotWords : Prop :=
  ∀ (s : State) (r w a b : BitVec 4),
    let i := Instr.srfAlloc r w
    let j := Instr.srfFree r w
    let x := swinOf (s.core.w.get w.toNat)
    let lo := x.slot
    let hi := x.slot + x.slots
    let inside (k : Nat) : Prop := lo ≤ k ∧ k < hi
    let quota : Nat := match s.core.ctx with | some c => c.srfQuota | none => 0
    let held := (s.core.slots.filter (fun p => p.2 != .free)).length
    let same (t : State) : Prop := t.mem = s.mem ∧ t.core.ab = s.core.ab ∧ (∀ u n, t.core.reg u n = s.core.reg u n) ∧ t.core.aflags = s.core.aflags
    does s (.swSet r w a b) (fun s => s.mapCore (fun c => { c with w := c.w.set w.toNat (s.r5 a ++ s.r5 b) }))
    ∧ (∀ f, x.slotsFault = some f → faults s i f ∧ faults s j f)
    ∧ (x.slotsFault = none → s.hyp ≠ 0#8 ∨ (∃ k, inside k ∧ s.core.slots.get k ≠ .free) ∨ quota < held + x.slots → faults s i ⟨0x12, 0, 0#64⟩)
    ∧ (x.slotsFault = none → s.hyp = 0#8 → (∀ k, inside k → s.core.slots.get k = .free) → held + x.slots ≤ quota → issues s i →
        ∃ t, exec i s = .next t ∧ same t ∧ (∀ k, t.core.slots.get k = if lo ≤ k ∧ k < hi then .primary else s.core.slots.get k)
          ∧ (∀ o, Tab.get t.core.srf o = if 256 * lo ≤ o ∧ o < 256 * hi then 0#8 else Tab.get s.core.srf o))
    ∧ (x.slotsFault = none → s.hyp ≠ 0#8 ∨ (∃ k, inside k ∧ s.core.slots.get k ≠ .primary) → faults s j ⟨0x12, 0, 0#64⟩)
    ∧ (x.slotsFault = none → s.hyp = 0#8 → (∀ k, inside k → s.core.slots.get k = .primary) → issues s j →
        ∃ t, exec j s = .next t ∧ same t ∧ t.core.srf = s.core.srf
          ∧ ∀ p, p ∈ t.core.slots ↔ p ∈ s.core.slots ∧ p.2 ≠ .free ∧ ¬(p.2 = .primary ∧ inside p.1) ∧ ∀ k g d, p.2 = .version k g d → ¬inside k)

/-- R237, R242: OPD.LD loads a descriptor from an image in AB, or faults by the first check that fails and leaves it.
Where the spec is silent it rests on choices of the model: assumptions 26 and 60. -/
def Obligations.OperatorLoad : Prop :=
  ∀ (s : State) (r k a : BitVec 4),
    let i := Instr.opdLd r k a
    let v := s.r5 a
    let o := v.toNat % 2 ^ 28
    let ab : Prop := v.toNat / 2 ^ 28 = 1
    let img := (List.range 16).map (fun n => BitVec.ofNat 64 (readLE s.core.ab (o + 8 * n) 8))
    s.core.marks = [] →
    (2 ^ 32 ≤ v.toNat → faults s i ⟨0x03, 0x81, v⟩)
    ∧ (v.toNat < 2 ^ 32 → ¬ab → faults s i ⟨0x03, 0x82, v⟩)
    ∧ (ab → 0x100000 < o + 128 → faults s i ⟨0x03, 0x83, v⟩)
    ∧ (ab → o + 128 ≤ 0x100000 → o % 128 ≠ 0 → faults s i ⟨0x04, 0, v⟩)
    ∧ (ab → o + 128 ≤ 0x100000 → o % 128 = 0 → opdOk img = false → faults s i ⟨0x13, 0, 0#64⟩)
    ∧ (ab → o + 128 ≤ 0x100000 → o % 128 = 0 → opdOk img = true → does s i (fun s => s.mapCore (fun c =>
        { c with opd := c.opd.set k.toNat ⟨true, img⟩ })))

/-- R228, R244: with the checks passed, at the root and with no versions, SRF.LD, SRF.ST and SRF.ZERO issue and, executed to their last
element, have moved or cleared the elements of their windows, where no two elements share a byte, and no other byte.
Where the spec is silent it rests on choices of the model: assumptions 23 and 60. -/
def Obligations.StateMoves : Prop :=
  ∀ (s : State) (r w x : BitVec 4),
    let ws := swinOf (s.core.w.get w.toNat)
    let wx := swinOf (s.core.w.get x.toNat)
    let n := stSize ws.fmt
    let cell (v : SWin) (o p t e : Nat) : Prop := p < v.planes ∧ t < v.pos ∧ e < v.elems ∧ v.elemOff p t e ≤ o ∧ o < v.elemOff p t e + n
    let apart (v : SWin) : Prop := ∀ o p t e p' t' e', cell v o p t e → cell v o p' t' e' → (p, t, e) = (p', t', e')
    let agree : Prop := ws.elems = wx.elems ∧ ws.pos = wx.pos ∧ ws.planes = wx.planes ∧ ws.fmt = wx.fmt
    let plain : Prop := s.hyp = 0#8 ∧ (∀ q ∈ s.core.slots, q.2 = .primary ∨ q.2 = .free) ∧ s.core.marks = [] ∧ s.core.seFlags = 0#6
    let same (t : State) : Prop := t.mem = s.mem ∧ (∀ u m, t.core.reg u m = s.core.reg u m) ∧ t.core.aflags = s.core.aflags ∧ t.core.slots = s.core.slots
    let ends (i : Instr) (f : State → Prop) : Prop := issues s i → ∃ u n t, exec i s = .next u ∧ turns i n u t ∧ retired s t ∧ same t ∧ f t
    (checkWindows (takeRing (.srfLd r w x) s).core [(ws, true), (wx, false)] = none → ¬agree → faults s (.srfLd r w x) ⟨0x12, 0, 0#64⟩)
    ∧ (checkWindows (takeRing (.srfSt r x w) s).core [(wx, false), (ws, true)] = none → ¬agree → faults s (.srfSt r x w) ⟨0x12, 0, 0#64⟩)
    ∧ (∀ f, checkWindows (takeRing (.srfLd r w x) s).core [(ws, true), (wx, false)] = some f → faults s (.srfLd r w x) f)
    ∧ (checkWindows (takeRing (.srfLd r w x) s).core [(ws, true), (wx, false)] = none → agree → plain → apart ws →
        ends (.srfLd r w x) (fun t => t.core.ab = s.core.ab
          ∧ (∀ o p tt e, cell ws o p tt e → Tab.get t.core.srf o = Tab.get s.core.ab (wx.elemOff p tt e + (o - ws.elemOff p tt e)))
          ∧ (∀ o, (∀ p tt e, ¬cell ws o p tt e) → Tab.get t.core.srf o = Tab.get s.core.srf o)))
    ∧ (∀ f, checkWindows (takeRing (.srfSt r x w) s).core [(wx, false), (ws, true)] = some f → faults s (.srfSt r x w) f)
    ∧ (checkWindows (takeRing (.srfSt r x w) s).core [(wx, false), (ws, true)] = none → agree → plain → apart wx →
        ends (.srfSt r x w) (fun t => t.core.srf = s.core.srf
          ∧ (∀ o p tt e, cell wx o p tt e → Tab.get t.core.ab o = Tab.get s.core.srf (ws.elemOff p tt e + (o - wx.elemOff p tt e)))
          ∧ (∀ o, (∀ p tt e, ¬cell wx o p tt e) → Tab.get t.core.ab o = Tab.get s.core.ab o)))
    ∧ (∀ f, checkWindows (takeRing (.srfZero r w) s).core [(ws, true)] = some f → faults s (.srfZero r w) f)
    ∧ (checkWindows (takeRing (.srfZero r w) s).core [(ws, true)] = none → plain →
        ends (.srfZero r w) (fun t => t.core.ab = s.core.ab
          ∧ (∀ o p tt e, cell ws o p tt e → Tab.get t.core.srf o = 0#8)
          ∧ (∀ o, (∀ p tt e, ¬cell ws o p tt e) → Tab.get t.core.srf o = Tab.get s.core.srf o)))

/-- R227, R228, R230: under a hypothesis of depth 1 to 3, an SRF.ZERO of one position and plane of a primary slot without versions
takes the lowest free slot for its version, within the quota, which begins as a copy and takes the write; the primary keeps its
bytes. Deeper, or with no free slot or no quota left, it faults with F.SRF. That the slot is the lowest is the model's choice:
assumption 60. -/
def Obligations.StateVersions : Prop :=
  ∀ (s : State) (r w : BitVec 4),
    let i := Instr.srfZero r w
    let ws := swinOf (s.core.w.get w.toNat)
    let h := s.hyp.toNat
    let depth := (hypPath s h 5).length
    let n := ws.elems * stSize ws.fmt
    let at' := ws.elemOff 0 0 0
    let quota : Nat := match s.core.ctx with | some c => c.srfQuota | none => 0
    let held := (s.core.slots.filter (fun p => p.2 != .free)).length
    h ≠ 0 → checkWindows (takeRing i s).core [(ws, true)] = none → ws.slots = 1 → ws.pos = 1 → ws.planes = 1 → 1 ≤ ws.elems →
    (∀ q ∈ s.core.slots, q.2 = .primary ∨ q.2 = .free) → s.core.marks = [] →
    (3 < depth → faults s i ⟨0x12, 0, 0#64⟩)
    ∧ (depth ≤ 3 → quota < held + 1 → faults s i ⟨0x12, 0, 0#64⟩)
    ∧ (depth ≤ 3 → (∀ k < 2048, s.core.slots.get k ≠ .free) → faults s i ⟨0x12, 0, 0#64⟩)
    ∧ (∀ k, depth ≤ 3 → held + 1 ≤ quota → k < 2048 → s.core.slots.get k = .free → (∀ m < k, s.core.slots.get m ≠ .free) → issues s i →
        ∃ u m t, exec i s = .next u ∧ turns i m u t ∧ retired s t ∧ t.core.slots.get k = .version ws.slot s.hyp depth ∧ (∀ m, m ≠ k → t.core.slots.get m = s.core.slots.get m)
          ∧ (∀ o < 256, Tab.get t.core.srf (256 * k + o) =
              if at' ≤ 256 * ws.slot + o ∧ 256 * ws.slot + o < at' + n then 0#8 else Tab.get s.core.srf (256 * ws.slot + o))
          ∧ (∀ o, ¬(256 * k ≤ o ∧ o < 256 * k + 256) → Tab.get t.core.srf o = Tab.get s.core.srf o) ∧ t.core.ab = s.core.ab ∧ t.mem = s.mem)

/-- R77, R245–R248: the local scans. A scan word faults by the first check that fails and does nothing on an empty window. Where
its checks pass executed to its last node it has changed only the elements of its chunk, and with SW or as SCAN.RED its position of wS; on one element per
row, at the root and with no versions, the nodes are those of the tree.
Where the spec is silent it rests on choices of the model: assumptions 23 and 60. -/
def Obligations.ScanWords : Prop :=
  ∀ (s : State) (r x w k : BitVec 4),
    let wx := swinOf (s.core.w.get x.toNat)
    let ws := swinOf (s.core.w.get w.toNat)
    let n := stSize wx.fmt
    let tuple (c : Core) (t : Nat) : List Nat := (List.range wx.planes).map (fun p => readLE c.ab (wx.elemOff p t 0) n)
    let state (c : Core) (t : Nat) : List Nat := (List.range ws.planes).map (fun p => readLE c.srf (ws.elemOff p t 0) n)
    let cell (v : SWin) (o p t e : Nat) : Prop := p < v.planes ∧ t < v.pos ∧ e < v.elems ∧ v.elemOff p t e ≤ o ∧ o < v.elemOff p t e + n
    let apart (v : SWin) : Prop := ∀ o p t e p' t' e', cell v o p t e → cell v o p' t' e' → (p, t, e) = (p', t', e')
    let plain : Prop := s.hyp = 0#8 ∧ (∀ q ∈ s.core.slots, q.2 = .primary ∨ q.2 = .free) ∧ s.core.marks = [] ∧ s.core.seFlags = 0#6
    let op (d : List Word) (e l : List Nat) : List Nat := (List.range wx.planes).map (fun p => (applyOp d e l).1.getD p 0 % 2 ^ (8 * n))
    let word (i : Instr) (arg : Option (SWin × Nat)) (chunk : Prop) (result : List Word → State → Prop) : Prop :=
      (∀ f, scanChecks (takeRing i s) wx arg k = .error f → faults s i f)
      ∧ (scanChecks (takeRing i s) wx arg k = .ok none → does s i id)
      ∧ (∀ d, scanChecks (takeRing i s) wx arg k = .ok (some d) →
          (¬chunk → faults s i ⟨0x12, 0, 0#64⟩)
          ∧ (chunk → plain → issues s i → ∃ u n t, exec i s = .next u ∧ turns i n u t ∧ retired s t ∧ t.mem = s.mem ∧ (∀ u m, t.core.reg u m = s.core.reg u m)
              ∧ t.core.wb = s.core.wb ∧ t.core.as = s.core.as ∧ t.core.slots = s.core.slots
              ∧ (∀ o, (∀ p tt e, ¬cell wx o p tt e) → Tab.get t.core.ab o = Tab.get s.core.ab o)
              ∧ (∀ o, (∀ p tt e, ¬cell ws o p tt e) → Tab.get t.core.srf o = Tab.get s.core.srf o)
              ∧ (arg = none → t.core.srf = s.core.srf)
              ∧ (wx.elems = 1 → apart wx → apart ws → result d t)))
    let whole : Prop := 1 ≤ wx.clog ∧ wx.pos ≤ 2 ^ wx.clog ∧ (wx.clog = 1 ∨ 2 ^ (wx.clog - 1) < wx.pos)
    let part : Prop := 1 ≤ wx.clog ∧ wx.pos ≤ 2 ^ wx.clog
    let x0 := tuple s.core
    let tree (d : List Word) (t : State) : Prop :=
      (wx.pos = 1 → tuple t.core 0 = x0 0)
      ∧ (wx.pos = 2 → tuple t.core 0 = x0 0 ∧ tuple t.core 1 = op d (x0 0) (x0 1))
      ∧ (wx.pos = 4 → tuple t.core 0 = x0 0 ∧ tuple t.core 1 = op d (x0 0) (x0 1)
          ∧ tuple t.core 2 = op d (op d (x0 0) (x0 1)) (x0 2) ∧ tuple t.core 3 = op d (op d (x0 0) (x0 1)) (op d (x0 2) (x0 3)))
    word (.scan r x k) none whole tree
    ∧ word (.scanSw r x w k) (some (ws, 1)) whole (fun d t => tree d t ∧ state t.core 0 = tuple t.core (wx.pos - 1))
    ∧ word (.scanRed r x w k) (some (ws, 2)) part (fun d t =>
        (wx.pos = 2 → wx.clog = 1 → tuple t.core 0 = x0 0 ∧ tuple t.core 1 = op d (x0 0) (x0 1) ∧ state t.core 1 = tuple t.core 1)
        ∧ (wx.pos < 2 ^ wx.clog → state t.core 1 = (List.range wx.planes).map (opIdent d)) ∧ state t.core 0 = state s.core 0)
    ∧ word (.scanApply r x w k) (some (ws, 2)) part (fun d t => t.core.srf = s.core.srf
        ∧ (wx.pos = 2 → wx.clog = 1 → tuple t.core 0 = op d (state s.core 0) (x0 0) ∧ tuple t.core 1 = state s.core 1)
        ∧ (wx.pos = 1 → wx.clog = 1 → tuple t.core 0 = op d (state s.core 0) (x0 0)))
    ∧ word (.scanApplyFirst r x w k) (some (ws, 2)) part (fun _ t => t.core.srf = s.core.srf
        ∧ (wx.pos = 2 → wx.clog = 1 → tuple t.core 0 = x0 0 ∧ tuple t.core 1 = state s.core 1) ∧ (wx.pos = 1 → wx.clog = 1 → tuple t.core 0 = x0 0))

/-! ### The scan network -/

/-- R253, R254, R259, R260, R262: an NSCAN word arms its tag, faults on a group word or a window that does not fit, and stands
at its Front. An operation of two ranks forms when both stand there: both words retire, with the nodes of the sweeps, or, of
different shapes, both fault. STEP advances the state through the positions.
Where the spec is silent it rests on choices of the model: assumptions 23, 38 and 60. -/
def Obligations.FrontScansAndSteps : Prop :=
  (∀ (s : State) (up : Bool) (r w g k : BitVec 4),
    let i := if up then Instr.nscanUp r w g k else Instr.nscanDown r w g k
    let gw := s.r5 g
    let tag := BitVec.ofNat 16 (bits gw 63 48)
    let ws := swinOf (s.core.w.get w.toNat)
    let od := s.core.opd.get k.toNat
    let armed : State := { s with core := { s.core with ctag := tag } }
    let clash : Prop := tag ≠ s.core.ctag ∧ s.core.inbox ≠ []
    let opd : Prop := od.loaded = true ∧ opFmt od.dwords = ws.fmt ∧ opPlanes od.dwords = ws.planes
    let group : Prop := tag ≠ 0#16 ∧ 1 ≤ bits gw 47 44 ∧ bits gw 47 44 ≤ 8 ∧ bits gw 41 0 = 0
    let ranks : Option Nat := match s.frontWords (clusterIx s.lnum) with
      | [] => if coreOf s.lnum < bits gw 47 44 then some (bits gw 47 44) else none
      | (_, tn, f) :: _ => if bits f.group 63 48 = bits gw 63 48 ∧ f.up = up ∧ tn = s.core.tenant ∧ coreOf s.lnum < f.ranks then some f.ranks else none
    let refused (f : Flt) : Prop := exec i s = .next (faultOf armed s.unit f)
    issues s i → stampState s = .free → s.core.front = none →
      (clash → faults s i ⟨0x15, 0, 0#64⟩)
      ∧ (¬clash → ∀ f, ws.form (takeRing i s).core true = some f → refused f)
      ∧ (¬clash → ws.form (takeRing i s).core true = none → ¬opd → refused ⟨0x13, 0, 0#64⟩)
      ∧ (¬clash → ws.form (takeRing i s).core true = none → opd → ws.pos ≠ 2 ∨ ¬group ∨ ranks = none → refused ⟨0x12, 0, 0#64⟩)
      ∧ (¬clash → ws.form (takeRing i s).core true = none → opd → ws.pos = 2 → group → ∀ n, ranks = some n →
          exec i s = .next (noteBlocked { armed with core := { armed.core with front := some ⟨i, up, w.toNat, k.toNat, gw, n⟩ } } 10)))
  ∧ (∀ (s : State) (cl : Nat) (up : Bool) (f0 f1 : FrontWord) (r0 w0 g0 k0 r1 w1 g1 k1 : BitVec 4),
    let at' (s : State) (r : Nat) : Core := s.coreAt (8 * cl + r)
    let asSe (r : Nat) : State := { focus (8 * cl + r) s with unit := .se }
    let v (c : Core) (f : FrontWord) : SWin := swinOf (c.w.get f.wS)
    let v0 := v (at' s 0) f0
    let v1 := v (at' s 1) f1
    let n := stSize v0.fmt
    let d := ((at' s 0).opd.get f0.k).dwords
    let tuple (c : Core) (w : SWin) (t : Nat) : List Nat := (List.range w.planes).map (fun p => readLE c.srf (w.elemOff p t 0) n)
    let op (e l : List Nat) : List Nat := (List.range v0.planes).map (fun p => (applyOp d e l).1.getD p 0 % 2 ^ (8 * n))
    let cell (w : SWin) (o p t : Nat) : Prop := p < w.planes ∧ t < 2 ∧ w.elemOff p t 0 ≤ o ∧ o < w.elemOff p t 0 + n
    let apart (w : SWin) : Prop := ∀ o p t p' t', cell w o p t → cell w o p' t' → (p, t) = (p', t')
    let in0 := tuple (at' s 0) v0 0
    let out0 := tuple (at' s 0) v0 1
    let out1 := tuple (at' s 1) v1 1
    let first : Prop := bits f0.group 43 43 = 1
    let one := if up then Instr.nscanUp r0 w0 g0 k0 else Instr.nscanDown r0 w0 g0 k0
    let two := if up then Instr.nscanUp r1 w1 g1 k1 else Instr.nscanDown r1 w1 g1 k1
    (at' s 0).front = some f0 → (at' s 1).front = some f1 → (∀ r, 2 ≤ r → r < 8 → (at' s r).front = none) →
    f0.word = one → f1.word = two → f0.up = up → f1.up = up → f0.ranks = 2 → f1.ranks = 2 → bits f0.group 47 44 = 2 →
    (asSe 0).ready one = true → (asSe 1).ready two = true →
    let alike : Prop := bits f1.group 47 42 = bits f0.group 47 42 ∧ v1.elems = v0.elems ∧ v1.fmt = v0.fmt ∧ v1.planes = v0.planes
      ∧ ((at' s 1).opd.get f1.k).dwords = d
    let fault (r : Nat) (s : State) : State := asRank cl r (fun s => faultOf s .se ⟨0x12, 0, 0#64⟩) s
    (¬alike → exec (.frontFormation cl) s = .next (fault 1 (fault 0 s)))
    ∧ (alike → v0.elems = 1 → apart v0 → apart v1 → bits f0.group 42 42 = 0 →
      (∀ r, r < 2 → (at' s r).marks = [] ∧ (at' s r).hypOf .se = 0#8 ∧ (∀ q ∈ (at' s r).slots, q.2 = .primary ∨ q.2 = .free)) →
      ∃ t, exec (.frontFormation cl) s = .next t
        ∧ (∀ r, r < 2 → (at' t r).front = none ∧ standing (at' t r) = standing ((at' s r).advance .se (asSe r).baseAddr .next))
        ∧ (up = true → (at' t 0).srf = (at' s 0).srf ∧ tuple (at' t 1) v1 1 = op out0 out1 ∧ tuple (at' t 1) v1 0 = tuple (at' s 1) v1 0)
        ∧ (up = false →
            let e0 := if first then out0 else op in0 out0
            tuple (at' t 0) v0 1 = e0 ∧ tuple (at' t 0) v0 0 = in0 ∧ tuple (at' t 1) v1 0 = e0
              ∧ tuple (at' t 1) v1 1 = if first then out1 else op in0 out1)))
  ∧ (∀ (s : State) (r h x k : BitVec 4) (y : BitVec 3) (withY : Bool),
    let i := if withY then Instr.stepY r h x k y else Instr.step r h x k
    let wh := swinOf (s.core.w.get h.toNat)
    let wx := swinOf (s.core.w.get x.toNat)
    let wy := swinOf (s.core.w.get y.toNat)
    let arg := if withY then some wy else none
    let od := s.core.opd.get k.toNat
    let d := od.dwords
    let f := stFmt (opFmt d)
    let n := stSize (opFmt d)
    let checked : Option Flt := checkWindows (takeRing i s).core ((wh, true) :: (wx, false) :: (if withY then [(wy, false)] else []))
    let opd : Prop := od.loaded = true ∧ opKind d = 3 ∧ wh.fmt = opFmt d ∧ wx.fmt = opFmt d ∧ (withY = true → wy.fmt = opFmt d) ∧ wx.planes = 2
    let shape : Prop := wh.planes = 1 ∧ wh.pos = 1 ∧ wh.elems = wx.elems
      ∧ (withY = true → wy.elems = wx.elems ∧ wy.planes = 1 ∧ wy.pos = wx.pos)
    let cell (v : SWin) (o p t e : Nat) : Prop := p < v.planes ∧ t < v.pos ∧ e < v.elems ∧ v.elemOff p t e ≤ o ∧ o < v.elemOff p t e + n
    let apart : Prop := (∀ o p t e p' t' e', cell wy o p t e → cell wy o p' t' e' → (p, t, e) = (p', t', e'))
      ∧ ∀ o p t e p' t' e', cell wy o p t e → ¬cell wx o p' t' e'
    let value (a b : Nat) (z : Nat) : Nat := (opRound d (FVal.fma (rndOf (opRnd d)) (f.decode a) (f.decode z) (f.decode b))).1 % 2 ^ (8 * n)
    let chain (e : Nat) : Nat → Nat := fun t => (List.range t).foldl
      (fun z t => value (readLE s.core.ab (wx.elemOff 0 t e) n) (readLE s.core.ab (wx.elemOff 1 t e) n) z) (readLE s.core.srf (wh.elemOff 0 0 e) n)
    (∀ g, checked = some g → faults s i g)
    ∧ (checked = none → ¬opd → faults s i ⟨0x13, 0, 0#64⟩)
    ∧ (checked = none → opd → ¬shape → faults s i ⟨0x12, 0, 0#64⟩)
    ∧ (checked = none → opd → shape → wx.pos = 0 ∨ wx.elems = 0 → does s i id)
    ∧ (checked = none → opd → shape → 0 < wx.pos → 0 < wx.elems → s.hyp = 0#8 → (∀ q ∈ s.core.slots, q.2 = .primary ∨ q.2 = .free) →
        s.core.marks = [] → (withY = true → apart) → issues s i →
        ∃ t, exec i s = .next t ∧ t.mem = s.mem ∧ (∀ u m, t.core.reg u m = s.core.reg u m) ∧ t.core.slots = s.core.slots
          ∧ (∀ e < wx.elems, readLE t.core.srf (wh.elemOff 0 0 e) n = chain e wx.pos)
          ∧ (∀ o, (∀ e, ¬cell wh o 0 0 e) → Tab.get t.core.srf o = Tab.get s.core.srf o)
          ∧ (withY = true → ∀ e < wx.elems, ∀ p < wx.pos, readLE t.core.ab (wy.elemOff 0 p e) n = chain e (p + 1))
          ∧ (∀ o, (arg = none ∨ ∀ p e, ¬cell wy o 0 p e) → Tab.get t.core.ab o = Tab.get s.core.ab o)))

/-- R256–R261: CARRY.SEND sends a position of its window on a credit, and asks for one otherwise; CARRY.RECV takes the carry
that it names from the inbox into a position, combined where it says so; the destination grants credits, and a carry, whose last packet
has come, lands in the entry that its credit reserved (R364 step 5 answers one whose target is gone).
Where the spec is silent it rests on choices of the model: assumption 37. -/
def Obligations.CarryWords : Prop :=
  (∀ (s : State) (out : Bool) (r w g q : BitVec 4),
    let i := if out then Instr.carrySendOut r w g q else Instr.carrySendIn r w g q
    let pos := if out then 1 else 0
    let gw := s.r5 g
    let pw := s.r5 q
    let peer := bits pw 31 22 * 512 + bits pw 8 0
    let tag := bits gw 63 48
    let ws := swinOf (s.core.w.get w.toNat)
    let n := stSize ws.fmt
    let armed (s : State) : State := { s with core := { s.core with ctag := BitVec.ofNat 16 tag } }
    let clash : Prop := BitVec.ofNat 16 tag ≠ s.core.ctag ∧ s.core.inbox ≠ []
    let refused (f : Flt) : Prop := exec i s = .next (faultOf (armed s) s.unit f)
    let bytes := (List.range ws.planes).flatMap (fun p => (List.range ws.elems).flatMap (fun e => readBytes s.core.srf (ws.elemOff p pos e) n))
    let flow := s.lnum * 1024 + bits pw 31 22
    let packet : Packet := { id := s.packetId + 1, srcDev := s.dev.toNat, srcLnum := s.lnum, srcUnit := .se, dstDev := bits pw 31 22,
                             dstLnum := bits pw 8 0, tenant := s.core.tenant, key := s.core.tenant, viaDev := s.dev.toNat,
                             viaLnum := s.lnum, flowSeq := s.flowSeq.get flow, foreign := false,
                             req := .carry tag (bits gw 41 37) (bits gw 36 36 == 1) ws.elems ws.planes ws.fmt bytes }
    let die := dieOf s.lnum + 1
    let flight : Flight := ⟨packet, die, 64 + s.lnum / 8, s.leastOccupied die (s.nextStops die packet), 0⟩
    let fits := carryChecks (takeRing i s) ws none true gw pw
    let far : Prop := bits pw 31 22 ≠ s.dev.toNat ∧ s.hyp ≠ 0#8
    issues s i → s.core.marks = [] →
      (clash → faults s i ⟨0x15, 0, 0#64⟩)
      ∧ (¬clash → ∀ f, fits = some f → refused f)
      ∧ (¬clash → fits = none → 4096 < ws.planes * ws.elems * n → refused ⟨0x12, 0, 0#64⟩)
      ∧ (¬clash → fits = none → ws.planes * ws.elems * n ≤ 4096 → far → refused ⟨0x0D, 0, 0#64⟩)
      ∧ (¬clash → fits = none → ws.planes * ws.elems * n ≤ 4096 → ¬far → (peer, tag) ∉ s.core.credits →
          exec i s = .next (if stampState s = .now then faultOf (armed s) s.unit ⟨0x0A, 0, 0#64⟩
            else noteBlocked ((armed s).mapCore (fun c => { c with carryAsk := some (peer, tag) })) 10))
      ∧ (¬clash → fits = none → ws.planes * ws.elems * n ≤ 4096 → s.hyp = 0#8 → (∀ x ∈ s.core.slots, x.2 = .primary ∨ x.2 = .free) →
          (peer, tag) ∈ s.core.credits →
          let t := armed (takeRing i s)
          let core := { t.core with credits := s.core.credits.erase (peer, tag), carryAsk := none }
          completes s i .next (sendCarry { t with core := core } peer packet.req)
          ∧ (ws.planes * ws.elems * n ≤ 256 → completes s i .next
              { t with packetId := t.packetId + 1, packets := t.packets ++ [flight],
                       waiting := t.waiting ++ [⟨packet, .carry, s.gtc, s.core.task, s.core.groupWord s.unit, none⟩],
                       flowSeq := t.flowSeq.set flow ((s.flowSeq.get flow + 1) % 65536), core := core })))
  ∧ (∀ (s : State) (form : Fin 4) (r w g q k : BitVec 4),
    let i := match form with
      | 0 => Instr.carryRecvIn r w g q
      | 1 => Instr.carryRecvOut r w g q
      | 2 => Instr.carryRecvCombIn r w g q k
      | 3 => Instr.carryRecvCombOut r w g q k
    let pos := form.val % 2
    let comb : Option Nat := if form.val < 2 then none else some k.toNat
    let gw := s.r5 g
    let pw := s.r5 q
    let peer := bits pw 31 22 * 512 + bits pw 8 0
    let ws := swinOf (s.core.w.get w.toNat)
    let n := stSize ws.fmt
    let armed : State := { s with core := { s.core with ctag := BitVec.ofNat 16 (bits gw 63 48) } }
    let clash : Prop := BitVec.ofNat 16 (bits gw 63 48) ≠ s.core.ctag ∧ s.core.inbox ≠ []
    let fits := carryChecks (takeRing i s) ws comb false gw pw
    let named (e : InboxEntry) : Prop := e.srcDev * 512 + e.src = peer ∧ ∃ l p f v,
      e.packet = some (.carry (bits gw 63 48) (bits gw 41 37) (bits gw 36 36 == 1) l p f v)
    let cell (o p t e : Nat) : Prop := p < ws.planes ∧ t < ws.pos ∧ e < ws.elems ∧ ws.elemOff p t e ≤ o ∧ o < ws.elemOff p t e + n
    let apart : Prop := ∀ o p t e p' t' e', cell o p t e → cell o p' t' e' → (p, t, e) = (p', t', e')
    let tuple (c : Core) (e : Nat) : List Nat := (List.range ws.planes).map (fun p => readLE c.srf (ws.elemOff p pos e) n)
    issues s i → s.core.marks = [] →
      (clash → faults s i ⟨0x15, 0, 0#64⟩)
      ∧ (¬clash → ∀ f, fits = some f → exec i s = .next (faultOf armed s.unit f))
      ∧ (¬clash → fits = none → (∀ e ∈ s.core.inbox, ¬named e) →
          exec i s = .next (if stampState s = .now then faultOf armed s.unit ⟨0x0A, 0, 0#64⟩ else noteBlocked armed 10))
      ∧ (¬clash → fits = none → ∀ l e m elems planes fmt v, s.core.inbox = l ++ e :: m → (∀ x ∈ l, ¬named x) → named e →
          e.packet = some (.carry (bits gw 63 48) (bits gw 41 37) (bits gw 36 36 == 1) elems planes fmt v) →
          let took (e : Nat) : List Nat := (List.range ws.planes).map (fun p => bytesToNat ((v.drop ((p * ws.elems + e) * n)).take n))
          let result (e : Nat) : List Nat := match comb with
            | none => took e
            | some j => (List.range ws.planes).map (fun p => (applyOp (s.core.opd.get j).dwords (took e) (tuple s.core e)).1.getD p 0 % 2 ^ (8 * n))
          (elems ≠ ws.elems ∨ planes ≠ ws.planes ∨ fmt ≠ ws.fmt → exec i s = .next (faultOf armed s.unit ⟨0x12, 0, 0#64⟩))
          ∧ (elems = ws.elems → planes = ws.planes → fmt = ws.fmt → s.hyp = 0#8 → (∀ x ∈ s.core.slots, x.2 = .primary ∨ x.2 = .free) → apart →
              ∃ t, exec i s = .next t ∧ t.mem = s.mem ∧ (∀ u m, t.core.reg u m = s.core.reg u m) ∧ t.core.ab = s.core.ab ∧ t.core.slots = s.core.slots
                ∧ t.core.inbox = l ++ m ∧ (∀ e < ws.elems, tuple t.core e = result e)
                ∧ (∀ o, (∀ p e, ¬cell o p pos e) → Tab.get t.core.srf o = Tab.get s.core.srf o))))
  ∧ (∀ (s : State) (n d tag tenant' tag' : Nat), (s.coreAt n).carryAsk = some (s.dev.toNat * 512 + d, tag) → n < 512 → d < 512 → n ≠ d →
    let src := s.coreAt n
    let dst := s.coreAt d
    (dst.ctx ≠ none → dst.mode = .running → dst.inbox.length < 8 → dst.tenant = src.tenant → dst.ctag.toNat = tag →
      ∃ t, exec (.carryCreditGrant ⟨s.dev.toNat * 512 + n, tenant', tag'⟩) s = .next t
        ∧ t.coreAt n = { src with credits := src.credits ++ [(s.dev.toNat * 512 + d, tag)], carryAsk := none }
        ∧ t.coreAt d = { dst with inbox := dst.inbox ++ [⟨n, s.dev.toNat, src.tenant, tag, none, false⟩] }
        ∧ ∀ m, m ≠ n → m ≠ d → t.coreAt m = s.coreAt m)
    ∧ (dst.ctx = none ∨ 8 ≤ dst.inbox.length ∨ dst.tenant ≠ src.tenant ∨ dst.ctag.toNat ≠ tag →
        exec (.carryCreditGrant ⟨s.dev.toNat * 512 + n, tenant', tag'⟩) s = .next s))
  ∧ (∀ (s : State) (src tenant tag : Nat), src / 512 ≠ s.dev.toNat →
    let c := s.core
    let free : Prop := c.ctx ≠ none ∧ (c.mode = .running ∨ c.mode = .held ∨ c.mode = .stopping ∨ c.mode = .restarting) ∧ c.inbox.length < 8
    let fits : Prop := c.tenant = tenant ∧ c.ctag.toNat = tag ∧ tag ≠ 0
    (free ∧ fits → exec (.carryCreditGrant ⟨src, tenant, tag⟩) s = .next
      { s with core := { c with inbox := c.inbox ++ [⟨src % 512, src / 512, tenant, tag, none, false⟩] } })
    ∧ (¬(free ∧ fits) → exec (.carryCreditGrant ⟨src, tenant, tag⟩) s = .next s))
  ∧ (∀ (s : State) (p : Packet) (tag level : Nat) (dir : Bool) (elems planes fmt : Nat) (v : List Byte) (l m : List InboxEntry) (e : InboxEntry),
    let waits (x : InboxEntry) : Prop := x.src = p.srcLnum ∧ x.srcDev = p.srcDev ∧ x.tenant = p.tenant ∧ x.tag = tag ∧ x.packet = none
    let lead := s.assembly.get (gatherKey p)
    let answered (t : State) (cause : Nat) : Prop := ∃ f ∈ t.packets, f.pkt.req = .resp cause [] ∧ f.pkt.id = p.id ∧ f.pkt.dstDev = p.srcDev
    p.req = .carry tag level dir elems planes fmt v → p.dstDev = s.dev.toNat → s.flowFirst p = true →
      (s.takes p = true → (lead ++ v).length = elems * planes * stSize fmt →
        (s.coreAt p.dstLnum).inbox = l ++ e :: m → (∀ x ∈ l, ¬waits x) → waits e →
        ∃ t, exec (.carryPacketDeliver p) s = .next t ∧ answered t 0
          ∧ t.coreAt p.dstLnum = { s.coreAt p.dstLnum with inbox := l ++ { e with packet := some (.carry tag level dir elems planes fmt (lead ++ v)) } :: m }
          ∧ ∀ k, k ≠ p.dstLnum → t.coreAt k = s.coreAt k)
      ∧ (s.takes p = false → ∃ t, exec (.carryPacketDeliver p) s = .next t ∧ answered t 5 ∧ ∀ k, t.coreAt k = s.coreAt k))

/-! ### Generation and sampling -/

/-- R267–R278: QR.SEED keeps the 49 bits of its register; QR.PT gives a coordinate of a point, which without a scramble is the
parity of the direction numbers that the Gray code of the index selects, and for which a later group waits 3 cycles (R83); QR.DIRLD
loads rows of the direction table, after the CC's earlier accesses, each row by the checks of R131 or R133, and a row that fails
leaves those before it; QR.GEN writes the points of its region.
Where the spec is silent it rests on choices of the model: assumptions 10, 35 and 53. -/
def Obligations.PointGeneration : Prop :=
  ∀ (s : State) (r : BitVec 4) (d a b : BitVec 5) (e f g h : BitVec 4),
    let x := s.r5 b
    let out := bits x 9 8
    let dim := bits x 7 0
    let bad : Prop := bits x 63 10 ≠ 0 ∨ out = 3
    let i := (s.r5 a).setWidth 32
    does s (.qrSeed r a) (fun s => s.mapCore (fun c => { c with qrseed := s.r5 a &&& 0x1FFFFFFFFFFFF#64 }))
    ∧ (bad → faults s (.qrPt r d a b) ⟨0x15, 0, 0#64⟩)
    ∧ (¬bad → does s (.qrPt r d a b) (fun s => (s.w5 d (BitVec.ofNat 64 (formOut out (s.core.point i dim)))).mapCore (fun c =>
        { c with divs := c.divs.set (sqIx s.unit) (⟨3, d.toNat, false⟩ :: c.divs.get (sqIx s.unit)) })))
    ∧ (bits s.core.qrseed 48 48 = 0 → ∀ m < 32, (s.core.point i dim).getLsbD m = (((List.range 32).countP (fun j =>
        (i ^^^ (i >>> 1)).getLsbD j && (s.core.ldsTab.get (32 * dim + j)).getLsbD m)) % 2 == 1))
    ∧ (let w := Instr.qrDirld r a b
       let va := s.r5 a
       let n := bits x 16 8
       let range : Prop := bits x 63 17 = 0 ∧ n ≤ 256 ∧ dim + n ≤ 256
       let load (m : Tab (BitVec 32)) (k : Nat) (bs : List Byte) : Tab (BitVec 32) :=
         (List.range 32).foldl (fun m j => m.set (32 * (dim + k) + j) (BitVec.ofNat 32 (bytesToNat ((bs.drop (4 * j)).take 4)))) m
       let row (t : State) (k : Nat) (bs : List Byte) : State := t.mapCore (fun c => { c with ldsTab := load c.ldsTab k bs })
       (¬range → faults s w ⟨0x15, 0, 0#64⟩)
       ∧ (range → n = 0 → does s w id)
       ∧ (range → n ≠ 0 → s.unitPending .cc = true → issues s w → exec w s = .next (stayUnderway s))
       ∧ (range → n ≠ 0 → s.unitPending .cc = false → s.core.bulk = [] →
           bits va 63 32 = 0 ∨ va.toNat % 128 ≠ 0 ∨ remoteParts (takeRing w s) (blockOf va 128) = [] →
           ∀ f, ccBlock (takeRing w s) va 128 128 = .error f → faults s w f)
       ∧ (range → n ≠ 0 → s.unitPending .cc = false → s.core.bulk = [] →
           ∀ (st : Nat → State) (u : Nat → State) (bs : Nat → List Byte), st 0 = takeRing w s →
           let at' (k : Nat) : Word := va + BitVec.ofNat 64 (128 * k)
           (∀ k < n, remoteParts (st k) (blockOf (at' k) 128) = [] ∧ ccBlock (st k) (at' k) 128 128 = .ok (bs k, u k)
             ∧ st (k + 1) = row (u k) k (bs k)) →
           issues s w → completes s w .next (st n)))
    ∧ (let w := Instr.qrGen e f g h
       let rd := regionOf (s.core.d.get f.toNat)
       let v := s.r5 g
       let y := s.r5 h
       let d0 := bits y 7 0
       let nd := bits y 16 8
       let range : Prop := bits y 63 17 = 0 ∧ nd ≠ 0 ∧ d0 + nd ≤ 256
       let bad := checkRegion (takeRing w s).core rd true false 0 rd.count s.hyp
       let point (k : Nat) : BitVec 32 :=
         s.core.point (v.setWidth 32 + BitVec.ofNat 32 (k / nd) * BitVec.ofNat 32 (bits v 63 32)) (d0 + k % nd)
       s.core.chain = none → s.core.vpend = [] → s.core.vretire = [] →
       (rd.count = 0 → issues s w → ∃ t, exec w s = .next t ∧ t.core.vpend = [] ∧ t.core.wb = s.core.wb ∧ t.core.ab = s.core.ab ∧ t.core.as = s.core.as)
       ∧ (rd.count ≠ 0 → ¬range → faults s w ⟨0x15, 0, 0#64⟩)
       ∧ (rd.count ≠ 0 → range → ∀ q, bad = some q → faults s w q)
       ∧ (rd.count ≠ 0 → range → bad = none → rd.fmt ≠ 1 → rd.fmt ≠ 2 → rd.fmt ≠ 9 → faults s w ⟨0x03, 0x81, rd.addr⟩)
       ∧ (rd.count ≠ 0 → range → bad = none → rd.fmt = 1 ∨ rd.fmt = 2 ∨ rd.fmt = 9 → rd.noRoom s.core = true → blocks s w 8)
       ∧ (rd.count ≠ 0 → range → bad = none → rd.fmt = 1 ∨ rd.fmt = 2 ∨ rd.fmt = 9 → rd.noRoom s.core = false → rd.count ≤ (if rd.full then 16 else 8) → issues s w →
           ∃ t, exec w s = .next t ∧ t.core.vpend.length = rd.count ∧ t.core.wb = s.core.wb ∧ t.core.ab = s.core.ab ∧ t.core.as = s.core.as ∧ t.mem = s.mem
             ∧ ∀ k < rd.count, ∃ v, t.core.vpend[k]? = some v ∧ v.addr = rd.space * 2 ^ 28 + (rd.place k).1 ∧ v.left = 3
               ∧ v.bytes = natToBytes rd.size (formOut (if rd.fmt = 9 then 0 else rd.fmt) (point k))))

/-- R280–R292: the sampling words and the logit filter. A word is refused on operands out of range, waits where the RQ is full,
and otherwise reserves a place of the RQ and is pending with its snapshot. A draw on a completed row answers the token that its
kept set and its uniform choose, consumes the row and retires the slot on a stop token. The shortlist of a row is in order.
Where the spec is silent it rests on choices of the model: assumption 35. -/
def Obligations.SamplingWords : Prop :=
  (∀ (s : State) (r : BitVec 4) (a b : BitVec 5),
    let x := s.r5 a
    let y := s.r5 b
    let set (k : Nat) : Prop := (s.core.smp.get k).state ≠ 0
    let slot := bits x 5 0
    let dim := (slotRec (s.core.smp.get slot).record).dim
    let word (kind : Nat) (rb : Word) : SmpWord :=
      ⟨kind, s.core.curWord.get 0, x, rb, s.core.qrseed, (List.range 3).map (fun k => ldsRow s.core.ldsTab ((dim + k) % 256)), (s.core.smp.get slot).stop⟩
    let draft (row : Nat) : Prop := bits x 63 14 = 0 ∧ bits x 7 6 = 0 ∧ set slot ∧ set (bits x 13 8)
      ∧ row < (slotRec (s.core.smp.get (bits x 13 8)).record).nrows
    let pends (i : Instr) (ok : Prop) (w : SmpWord) : Prop :=
      (¬ok → faults s i ⟨0x15, 0, 0#64⟩)
      ∧ (ok → 16 ≤ s.core.rq.items.length → blocks s i 5)
      ∧ (ok → s.core.rq.items.length < 16 → does s i (fun s => s.mapCore (fun c => { c with smpq := c.smpq ++ [w], rq := c.rq.push ⟨none, 0, 0#8⟩ })))
    pends (.smpDraw r a) (bits x 63 6 = 0 ∧ set slot) (word 0 0#64)
    ∧ pends (.smpCheck r a b) (bits y 63 35 = 0 ∧ draft (bits y 34 32)) (word 1 y)
    ∧ pends (.smpResid r a b) (bits y 63 3 = 0 ∧ draft (bits y 2 0)) (word 2 y)
    ∧ (let i := Instr.smpStop r a b
       let k := bits y 5 0
       let n := bits y 12 8
       let ok : Prop := bits y 63 13 = 0 ∧ bits y 7 6 = 0 ∧ n ≤ 16 ∧ set k
       (¬ok → faults s i ⟨0x15, 0, 0#64⟩)
       ∧ (ok → s.unitPending .cc = true → issues s i → exec i s = .next (noteBlocked (metStamp (leaveWord s)) 8))
       ∧ (ok → s.unitPending .cc = false → remoteParts (takeRing i s) (blockOf x (4 * n)) = [] → ∀ f, ccBlock (takeRing i s) x (4 * n) 4 = .error f → faults s i f)
       ∧ (ok → s.unitPending .cc = false → remoteParts (takeRing i s) (blockOf x (4 * n)) = [] → ∀ bs t, ccBlock (takeRing i s) x (4 * n) 4 = .ok (bs, t) → issues s i →
           let tokens := (List.range n).map (fun j => BitVec.ofNat 32 (bytesToNat ((bs.drop (4 * j)).take 4)))
           completes s i .next (t.mapCore (fun c => { c with smp := c.smp.put k { c.smp.get k with stop := tokens } }))))
    ∧ (let i := Instr.smpCfg r a b
       let k := y.toNat
       (63 < k → faults s i ⟨0x15, 0, 0#64⟩)
       ∧ (k ≤ 63 → s.unitPending .cc = true → issues s i → exec i s = .next (stayUnderway s))
       ∧ (k ≤ 63 → s.unitPending .cc = false → remoteParts (takeRing i s) (blockOf x 64) = [] →
           (∀ f, ccBlock (takeRing i s) x 64 64 = .error f → faults s i f)
           ∧ ∀ bs t, ccBlock (takeRing i s) x 64 64 = .ok (bs, t) →
             let rc := slotRec bs
             (rc.ok = false → faults s i ⟨0x15, 0, 0#64⟩)
             ∧ (rc.ok = true → ∀ rows u, slotRows t rc 0 rc.nrows = .ok (rows, u) →
                 ((∃ p ∈ rows, ∃ q ∈ u.otherRows k, rowsClash p q = true) → faults s i ⟨0x15, 0, 0#64⟩)
                 ∧ ((∀ p ∈ rows, ∀ q ∈ u.otherRows k, rowsClash p q = false) → (∀ w ∈ u.core.smpq, w.target ≠ k) → issues s i →
                     completes s i .next (u.mapCore (fun c => { c with smp := c.smp.put k ⟨1, bs, BitVec.ofNat 32 rc.step0, [], none, rows⟩ })))))))
  ∧ (∀ (s : State) (w : SmpWord) (ws : List SmpWord) (sl : SmpSlot) (row : LogitRow) (x : RowResult),
    let rc := slotRec sl.record
    let n := sl.step.toNat % max 1 rc.nrows
    let e := Instr.smpWordPerform s.lnum
    let act (t : State) : Prop := exec e s = .next t ∧ t.core.smpq = ws ∧ t.mem = s.mem ∧ t.core.ab = s.core.ab
      ∧ (∀ k, k ≠ w.target → t.core.smp.get k = s.core.smp.get k)
    let answers (t : State) (v : Nat) : Prop := ∀ l q m, s.core.rq.items = l ++ q :: m → (∀ p ∈ l, p.val ≠ none) → q.val = none →
      t.core.rq.items = l ++ { q with val := some (BitVec.ofNat 64 v) } :: m
    s.core.mode = .running → s.core.smpq = w :: ws → s.core.smp.get w.target = sl → rc.toka = 0 → rc.bara = 0 →
    (sl.state ≠ 1 → ∃ t, act t ∧ answers t (2 ^ 60 + sl.step.toNat % 2 ^ 24 * 2 ^ 32 + 0xFFFFFFFF)
      ∧ (t.core.smp.get w.target).step = sl.step ∧ (t.core.smp.get w.target).rows = sl.rows)
    ∧ (sl.state = 1 → w.kind = 0 → sl.rows[n]? = some row → row.complete = false ∨ row.fresh = false → exec e s = .next s)
    ∧ (sl.state = 1 → w.kind = 0 → sl.rows[n]? = some row → row.complete = true → row.fresh = true → row.last = some x → x.empty = false →
        let u := (pointOf (w.rows.getD 0 []) w.seed (BitVec.ofNat 32 rc.ibase + sl.step) (rc.dim % 256)).toNat
        let token := (keptOf rc x).pick u
        let stopped : Bool := w.stop.any (fun t => t.toNat == token)
        ∃ t, act t
          ∧ answers t ((if row.late then 2 ^ 63 else 0) + (if x.nanl then 2 ^ 61 else 0) + (if stopped then 2 ^ 59 else 0)
              + sl.step.toNat % 2 ^ 24 * 2 ^ 32 + token)
          ∧ (t.core.smp.get w.target).step = sl.step + 1 ∧ (t.core.smp.get w.target).state = (if stopped then 2 else 1)
          ∧ (∀ q, (t.core.smp.get w.target).rows[n]? = some q → q.complete = false ∧ q.fresh = false ∧ q.written = [])
          ∧ (∀ m, m ≠ n → (t.core.smp.get w.target).rows[m]? = sl.rows[m]?)))
  ∧ (∀ (s : State) (k j : Nat) (sl : SmpSlot) (row : LogitRow), s.core.smp.find? k = some sl → sl.rows[j]? = some row →
    let put (q : LogitRow) : State := { s with core := { s.core with smp := s.core.smp.put k { sl with rows := sl.rows.set j q } } }
    (row.complete = true → row.fresh = false → row.pending = none →
      exec (.logitRowComplete s.lnum k j) s = .next (put { row with pending := some (rowResults (slotRec sl.record) row.snap), snap := [] }))
    ∧ (∀ x, row.pending = some x → exec (.logitResultsDeliver s.lnum k j) s = .next (put { row with pending := none, last := some x, fresh := true })))
  ∧ (∀ (rc : SlotRec) (bs : List Byte),
    let x := rowResults rc bs
    let num (i : Nat) : FVal := f32.decode (logitAt rc bs i)
    (x.nanl = true ↔ ∃ i < rc.v, (num i).isNaN = true) ∧ (x.empty = true ↔ ∀ i < rc.v, (num i).isNaN = true)
    ∧ x.sl.length = min 64 ((List.range rc.v).countP (fun i => !(num i).isNaN))
    ∧ (∀ j k a b : Nat, j < k → x.sl[j]? = some a → x.sl[k]? = some b → (num a).ltNum (num b) = false ∧ ((num b).ltNum (num a) = false → a < b)))

/-! ### Hypotheses -/

/-- R296, R303–R306, R310–R315: the hypothesis words, the orphan trap and the freeing of identifiers. HYP.OPEN takes the lowest
free identifier or faults with F.HYPFULL; HYP.ENTER moves the CC; HYP.OK and HYP.NO wait for earlier accesses and resolve an
open hypothesis, and give 0 for any other; HYP.QUERY gives the word of an identifier. A confirmation under the root commits the
bytes of all its versions and hands its children to its parent, HOPEN falling at every RCB that counted it; a version under a parent
that has none of its line becomes the parent's; a refuted subtree drains, and its CC is an orphan.
Where the spec is silent it rests on choices of the model: assumptions 39 and 40. -/
def Obligations.HypothesisWords : Prop :=
  (∀ (s : State) (r : BitVec 4) (d a : BitVec 5) (x : Context),
    let h := (s.r5 a).toNat
    let id := BitVec.ofNat 8 h
    let mine (k : Nat) : Prop := (s.hyps.get k).state ≠ 0 ∧ (s.hyps.get k).tenant = s.core.tenant
    let isOpen (k : Nat) : Prop := (s.hyps.get k).state = 1 ∧ (s.hyps.get k).tenant = s.core.tenant
    let depth (k : Nat) : Nat := if k = 0 then 0 else (s.hyps.get k).depth
    let o := Instr.hypOpen r d a
    let y := Instr.hypOk r d a
    let n := Instr.hypNo r d a
    let full : Prop := ∃ p ∈ x.chain, p.2.2 ≤ hopenAt (takeRing o s) x.tenant p.1
    let free (k : Nat) : Prop := 1 ≤ k ∧ k ≤ 255 ∧ (s.hyps.get k).state = 0 ∧ ∀ m, 1 ≤ m → m < k → (s.hyps.get m).state ≠ 0
    let place : Prop := h ≤ 255 ∧ (h = 0 ∨ isOpen h)
    let named : Prop := 1 ≤ h ∧ h ≤ 255
    s.core.ctx = some x →
    (¬place → faults s o ⟨0x15, 0, 0#64⟩)
    ∧ (place → depth h = 3 → faults s o ⟨0x0C, 3, 0#64⟩)
    ∧ (place → depth h ≠ 3 → full → faults s o ⟨0x0C, 2, 0#64⟩)
    ∧ (place → depth h ≠ 3 → ¬full → (∀ k, ¬free k) → faults s o ⟨0x0C, 1, 0#64⟩)
    ∧ (∀ k, place → depth h ≠ 3 → ¬full → free k → issues s o →
        let t := addHopen (takeRing o s) x (· + 1)
        let e : Hyp := ⟨1, id, depth h + 1, x.tenant, x.spill, x.spillN, x.chain.map (·.1), 0#8, 0#8⟩
        completes s o .next ({ t with hyps := t.hyps.set k e }.w5 d (BitVec.ofNat 64 k)))
    ∧ (255 < h ∨ (h ≠ 0 ∧ ¬mine h) → faults s (.hypEnter r a) ⟨0x15, 0, 0#64⟩)
    ∧ (h ≤ 255 → h = 0 ∨ mine h → does s (.hypEnter r a) (fun s => s.mapCore (fun c =>
        { c with hyp := id, hypDepth := BitVec.ofNat 2 (depth h),
                 orphan := if h ≠ 0 ∧ (s.hyps.get h).state = 2 then some ⟨(s.hyps.get h).top, (s.hyps.get h).up, id⟩ else c.orphan })))
    ∧ (¬named → faults s y ⟨0x15, 0, 0#64⟩ ∧ faults s n ⟨0x15, 0, 0#64⟩)
    ∧ (named → s.unitPending .cc = true → (issues s y → exec y s = .next (stayUnderway s)) ∧ (issues s n → exec n s = .next (stayUnderway s)))
    ∧ (named → s.unitPending .cc = false → ¬isOpen h → writesReg s y d 0#64 ∧ writesReg s n d 0#64)
    ∧ (named → s.unitPending .cc = false → isOpen h → confirmOverflows (takeRing y s) id = false → does s y (fun s => (confirmHyp s id).w5 d 1#64))
    ∧ (named → s.unitPending .cc = false → isOpen h → does s n (fun s => (refuteHyp s id).w5 d 1#64))
    ∧ (255 < h → faults s (.hypQuery r d a) ⟨0x15, 0, 0#64⟩)
    ∧ (h = 0 → writesReg s (.hypQuery r d a) d 1#64)
    ∧ (named → ¬mine h → writesReg s (.hypQuery r d a) d 0#64)
    ∧ (named → mine h → ∃ kids : Nat, writesReg s (.hypQuery r d a) d (BitVec.ofNat 64
        ((s.hyps.get h).state + (s.hyps.get h).depth * 4 + (s.hyps.get h).parent.toNat * 256 + (kids % 256) * 65536))
        ∧ kids = s.hyps.countP (fun q => q.2.state == 1 && q.2.parent.toNat == h)))
  ∧ (∀ (s : State) (h : BitVec 8),
    let e := s.hyps.get h.toNat
    let t := confirmHyp s h
    let mine := s.vers.filter (fun v => v.hyp == h)
    let holds (v : Version) (k : Nat) : Prop := v.line = k / 128 ∧ v.mask / 2 ^ (k % 128) % 2 = 1
    let freed (m : State) : State := e.chain.foldl (fun m a => pokeAs m e.tenant (at' a 0x52) 2 (hopenAt m e.tenant a - 1)) m
    e.state = 1 → e.parent ≠ h →
    (t.hyps.get h.toNat).state = 0
    ∧ t.core.hyp = (if s.core.hyp = h then e.parent else s.core.hyp)
    ∧ (∀ g, g < 256 → g ≠ h.toNat → (s.hyps.get g).state ≠ 0 → (s.hyps.get g).parent = h →
        (t.hyps.get g).parent = e.parent ∧ (t.hyps.get g).depth = (s.hyps.get g).depth - 1 ∧ (t.hyps.get g).state = (s.hyps.get g).state)
    ∧ ((∀ v ∈ s.vers, v.spilled = none) → mine.Pairwise (fun v w => v.line ≠ w.line) → e.parent = 0#8 →
        t.vers = s.vers.filter (fun v => v.hyp != h)
        ∧ ∃ m : State, m.roots = s.roots ∧ t.mem = (freed m).mem
          ∧ (∀ v ∈ mine, ∀ k, holds v k → Tab.get m.mem k = v.data.get (k % 128))
          ∧ (∀ k, (∀ v ∈ mine, ¬holds v k) → Tab.get m.mem k = Tab.get s.mem k))
    ∧ (∀ v, s.vers = [v] → v.hyp = h → v.spilled = none → e.parent ≠ 0#8 →
        ∃ w ∈ t.vers, w.hyp = e.parent ∧ w.line = v.line ∧ w.mask = v.mask ∧ w.data = v.data))
  ∧ (∀ (s : State) (h : BitVec 8),
    let hs := h :: (hypBelow s h).filter (fun g => (s.hyps.get g.toNat).state == 1)
    let t := refuteHyp s h
    (s.hyps.get h.toNat).state = 1 →
    ((t.hyps.get h.toNat).state = 0 ∨ (t.hyps.get h.toNat).state = 2)
    ∧ (∀ g ∈ hs, (t.hyps.get g.toNat).state = 0 ∨ (t.hyps.get g.toNat).state = 2)
    ∧ (s.core.ctx ≠ none → s.core.hyp ∈ hs → t.core.orphan = some ⟨h, (s.hyps.get h.toNat).parent, s.core.hyp⟩))
  ∧ (∀ (s : State) (h : Nat) (o : Orphan),
    (s.core.mode = .running → s.core.underway = false → s.core.orphan = some o →
      exec (.orphanTrap s.lnum) s = .next (focus s.lnum (takeFault (s.mapCore Core.clearOrphans) ⟨.seq .cc, 0x0E, o.top.toNat, 0#64, s.core.groupWord .cc, o.hyp⟩)))
    ∧ (s.core.orphanPending = false → exec (.orphanTrap s.lnum) s = .next s)
    ∧ ((s.hyps.get h).state = 2 → s.refers (BitVec.ofNat 8 h) = false → ∃ t, exec (.hypIdFree h) s = .next t ∧ (t.hyps.get h).state = 0
        ∧ (∀ g, g ≠ h → t.hyps.get g = s.hyps.get g) ∧ ((s.hyps.get h).chain = [] → t = { s with hyps := s.hyps.erase h }))
    ∧ ((s.hyps.get h).state ≠ 2 ∨ s.refers (BitVec.ofNat 8 h) = true → exec (.hypIdFree h) s = .next s))

/-! ### Tasks -/

/-- R326–R332, R401: TASK.ENQ and TASKENQ put a record that passes its checks into the pool of a die; TASK.DONE frees the core
once all is quiet and its successors are released; CKPT and TASK.YIELD check their table, wait until all is quiet, and go on or
save the context, which joins the pool bound to its core; a pool dispatches its pick (R321), to a core whose state R25 and R424 give;
a request sets a deadline, at which a Squall saves the context.
Where the spec is silent it rests on choices of the model: assumptions 31, 36, 44 and 51. -/
def Obligations.TaskWords : Prop :=
  (∀ (s : State) (r : BitVec 4) (a b : BitVec 5) (x : Context), s.core.ctx = some x →
    let i := Instr.taskEnq r a b
    let task := s.r5 a
    let d := s.r5 b
    let die := if bits d 2 0 = 7 then s.lnum / 96 else bits d 2 0
    let range : Prop := bits d 63 3 = 0 ∧ die ≤ 3
    let away := unfetched (takeRing i s) (recordBlocks (takeRing i s) task)
    (∀ f, checkMem (takeRing i s) task 64 3 = .error f → faults s i f)
    ∧ (∀ m, checkMem (takeRing i s) task 64 3 = .ok m → ¬range → faults s i ⟨0x15, 0, 0#64⟩)
    ∧ (∀ m, checkMem (takeRing i s) task 64 3 = .ok m → range →
        (s.unitPending .cc = true → issues s i → exec i s = .next (noteBlocked (metStamp (leaveWord s)) 8))
        ∧ (s.unitPending .cc = false → away ≠ [] → issues s i → exec i s = .next (stayUnderway (askParts away s)))
        ∧ (s.unitPending .cc = false → away = [] → ∀ f, enqCheck (takeRing i s) x.tenant true task = .error f → faults s i f)
        ∧ (s.unitPending .cc = false → away = [] → ∀ y entry t, enqCheck (takeRing i s) x.tenant true task = .ok (y, entry, t) →
          let u := pokeAs t y.tenant (y.task + 0x35#64) 1 1
          y.task = task ∧ y.tenant = x.tenant
          ∧ (4096 ≤ (t.pools.get die).length → blocks s i 8)
          ∧ ((t.pools.get die).length < 4096 → issues s i →
              completes s i .next { u with pools := u.pools.set die (u.pools.get die ++ [⟨y, entry, u.arrivals, none, true⟩]), arrivals := u.arrivals + 1 }))))
  ∧ (∀ (s : State) (w : Word) (tenant : Nat),
    let task := BitVec.ofNat 64 (bits w 63 6 * 64)
    let die := bits w 2 0
    let refused : State := { s with unposted := s.unposted ++ [⟨0#64, 0x15#64, task, 0#64, 0, 0#64, s.gtc⟩] }
    s.boot = .running →
    (3 < die → exec (.taskenq w tenant) s = .next refused)
    ∧ (die ≤ 3 → ∀ f, enqCheck s tenant false task = .error f → exec (.taskenq w tenant) s = .next refused)
    ∧ (die ≤ 3 → ∀ y entry t, enqCheck s tenant false task = .ok (y, entry, t) → 4096 ≤ (t.pools.get die).length → exec (.taskenq w tenant) s = .next refused)
    ∧ (die ≤ 3 → ∀ y entry t, enqCheck s tenant false task = .ok (y, entry, t) → (t.pools.get die).length < 4096 →
        let u := pokeAs t y.tenant (y.task + 0x35#64) 1 1
        exec (.taskenq w tenant) s = .next { u with pools := u.pools.set die (u.pools.get die ++ [⟨y, entry, u.arrivals, none, true⟩]), arrivals := u.arrivals + 1 }))
  ∧ (∀ (s : State) (r : BitVec 4) (a : BitVec 5) (x : Context), s.core.ctx = some x →
    let i := Instr.taskDone r a
    let own : Prop := s.r5 a = x.task ∧ s.hyp = 0#8
    let still : Prop := (takeRing i s).quiet = true ∧ s.core.smpq = [] ∧ s.unitPending .cc = false ∧ ∀ a ∈ s.core.pend, a.kind ≠ .pred
    let asked : Prop := ∃ a ∈ s.core.pend, a.kind = .pred
    let again (t : State) : State := ((releaseAll x t).map Release.state).toOption.getD t
    (¬own → faults s i ⟨0x15, 0, 0#64⟩)
    ∧ (own → asked → issues s i → exec i s = .next (noteBlocked (metStamp (leaveWord s)) 8))
    ∧ (own → ¬asked → ¬still → blocks s i 7)
    ∧ (own → still → ∀ f, releaseAll x (takeRing i s) = .error f → faults s i f)
    ∧ (own → still → unfetched (takeRing i s) [(x.task, 64)] = [] → ∀ b u, readAs (takeRing i s) x.tenant x.task 64 64 = .ok (b, u) →
        (releaseAll x (takeRing i s) = .ok (releaseFrom x (BitVec.ofNat 64 (blockField b 0x38 8)) (blockField b 0x34 1 - u.core.succDone) u.core.succDone u))
        ∧ (blockField b 0x34 1 ≤ u.core.succDone → issues s i → completes s i .pending (finishTask u x)))
    ∧ (own → still → ∀ u, releaseAll x (takeRing i s) = .ok (.done u) → issues s i →
        let done := finishTask u x
        completes s i .pending done ∧ done.core.mode = .halted ∧ done.core.ctx = none ∧ done.core.lastTenant = some x.tenant ∧ done.core.slots = [])
    ∧ (own → still → ∀ u, releaseAll x (takeRing i s) = .ok (.full u) ∨ releaseAll x (takeRing i s) = .ok (.ask u) → issues s i →
        exec i s = .next (noteBlocked (again (metStamp (leaveWord s))) 8)))
  ∧ (∀ (s : State) (x : Context) (list : Word) (k n : Nat),
    (∀ u, releaseAt s x list k = .done u →
      releaseFrom x list (n + 1) k s = releaseFrom x list n (k + 1) (u.mapCore (fun c => { c with succDone := k + 1, succPred := none, bulk := [] })))
    ∧ ((∀ u, releaseAt s x list k ≠ .done u) → releaseFrom x list (n + 1) k s = releaseAt s x list k))
  ∧ (∀ (s : State) (x : Context) (succ : Word),
    let pred := peekAs s x.tenant (succ + 0x30#64) 4
    let rcb := BitVec.ofNat 64 (peekAs s x.tenant succ 8)
    let legal : Prop := peekAs s x.tenant (rcb + 8#64) 2 = x.tenant ∧ pred ≠ 0 ∧ peekAs s x.tenant (succ + 0x35#64) 1 = 0
    (¬legal → releaseSuccessor s x succ = .done (failSuccessor s x succ))
    ∧ (legal → ∀ pa leaf t, translate s x.tenant (succ + 0x30#64) 3 = .ok (pa, leaf, t) → s.isLocal pa = true →
        (2 ≤ t.readPhys pa 4 → releaseSuccessor s x succ = .done (t.writePhysLE pa 4 (t.readPhys pa 4 - 1)))
        ∧ (t.readPhys pa 4 = 1 → (∀ f, enqCheck (t.writePhysLE pa 4 0) x.tenant true succ = .error f →
              releaseSuccessor s x succ = .done (failSuccessor (t.writePhysLE pa 4 0) x succ))
            ∧ ∀ y entry u, enqCheck (t.writePhysLE pa 4 0) x.tenant true succ = .ok (y, entry, u) →
              releaseSuccessor s x succ = if 4096 ≤ (u.pools.get (u.lnum / 96)).length
                then .full (u.mapCore (fun c => { c with succWait := some (y, entry) }))
                else .done ((enqueue u (u.lnum / 96) y entry).mapCore (fun c => { c with succWait := none })))))
  ∧ (∀ (s : State) (yields : Bool) (r : BitVec 4) (a : BitVec 5) (x : Context), s.core.ctx = some x →
    let i := if yields then Instr.taskYield r a else Instr.ckpt r a
    let table := if a = 0#5 then .ok ([], takeRing i s) else liveTable (takeRing i s) (s.r5 a)
    let here : Prop := a = 0#5 ∨ remoteParts (takeRing i s) (tableBlocks (takeRing i s) (s.r5 a)) = []
    let leaves (t : State) : Prop := t.core.preempt ≠ none ∨ (yields = true ∧ t.yieldsTo = true)
    let keeps (t : State) : Prop := yields = false ∧ t.core.context.keep = true
    let quiet (t : State) : Prop := t.quiet = true ∧ (leaves t ∨ keeps t → t.core.inboxLanded = true)
    (s.unitPending .cc = true → blocks s i 7)
    ∧ (s.unitPending .cc = false → here → (∀ f, table = .error f → faults s i f)
    ∧ (∀ ranges t, table = .ok (ranges, t) → ¬quiet t → blocks s i 7)
    ∧ (∀ ranges t, table = .ok (ranges, t) → quiet t → issues s i →
        (leaves t → exec i s = .next (saveContext (retire i t .next t) ranges))
        ∧ (¬leaves t → keeps t → exec i s = .next (keepSave (retire i t .next t) ranges))
        ∧ (¬leaves t → ¬keeps t → completes s i .next t))))
  ∧ (∀ (s : State) (ranges : List (Nat × Nat × Nat)) (x : Context) (t : State), s.core.ctx = some x → s.core.primary = none →
    writeBlock ((endPull s).mapCore (fun c => { c with saved := false })) ranges = .ok t →
    let u := saveContext s ranges
    let p := pokeAs t x.tenant (x.task + 0x35#64) 1 3
    (t.saveOut = true → u = t.mapCore (fun c => { c with mode := .saving, parking := some (.context ranges true) }))
    ∧ (t.saveOut = false → u.core.mode = .halted ∧ u.core.ctx = none ∧ u.core.preempt = none
      ∧ u.pools = p.pools.set (p.lnum / 96) (p.pools.get (p.lnum / 96) ++ [⟨x, 0#64, p.arrivals, some p.lnum, true⟩])
      ∧ u.saves = p.saves ++ [⟨x.task, p.lnum, { p.core with preempt := none, parking := none }, [], ranges⟩] ∧ u.mem = p.mem))
  ∧ (∀ (s : State) (die : Nat) (p : PoolEntry) (n k : Nat), s.boot = .running → s.pickEntry die = some p → s.entryCore die p = some n → p.bound = none →
    let u := focus n { dropEntry s die p with dispatched := true, arrivals := s.arrivals + 1, dispatches := s.dispatches.set n (s.arrivals + 1) }
    let x : Context := { p.ctx with saveIx := k }
    let s1 := pokeAs (pokeAs u x.tenant (x.task + 0x35#64) 1 2) x.tenant (x.task + 0x36#64) 2 k
    let s2 := addRun (setSmap s1 x (smapOf s1 x + 2 ^ k)) x (· + 1)
    let w : State := { s2 with core := { u.core.freshFor x.tenant with ctx := some x } }
    freeBlock u p.ctx = some k → ∀ v, (if u.core.hasImage x then .ok w else loadImage w x) = .ok v →
    ∃ t, exec (.taskDispatch die) s = .next t ∧ t.mem = v.mem ∧ t.pools = s.pools.set die ((s.pools.get die).filter (fun q => q.arrival != p.arrival))
      ∧ t.coreAt n = { (v.core.setReg .cc 1 x.task).setReg .cc 2 x.rcb with pc := p.entry, mode := .running, lastTenant := some x.tenant })
  ∧ (∀ (s : State) (die : Nat), s.pickEntry die = none → exec (.taskDispatch die) s = .next s)
  ∧ (∀ (c : Core) (tenant : Nat),
    let f := c.freshFor tenant
    (c.lastTenant ≠ some tenant → (∀ u r, f.reg u r = 0#64) ∧ f.g = 1#8 ∧ f.wb = [] ∧ f.ab = [] ∧ f.as = [] ∧ f.srf = [] ∧ f.ldsTab = [])
    ∧ (c.lastTenant = some tenant → (∀ r, f.reg .cc r = c.reg .cc r) ∧ f.g = c.g ∧ f.wb = c.wb ∧ f.ab = c.ab ∧ f.as = c.as ∧ f.srf = [] ∧ f.slots = []
        ∧ f.hyp = 0#8 ∧ f.ve.upc = 0 ∧ f.ve.run = none))
  ∧ (∀ (s : State) (die v : Nat) (x : Context), (s.coreAt v).ctx = some x → (s.coreAt v).mode = .running →
    ((s.coreAt v).preempt = none → ∃ t, exec (.preemptRequest die (some v)) s = .next t
        ∧ t.coreAt v = { s.coreAt v with preempt := some (s.gtc + BitVec.ofNat 64 x.ckw) } ∧ ∀ m, m ≠ v → t.coreAt m = s.coreAt m)
    ∧ (s.poolVictim die = some v → exec (.preemptRequest die none) s = exec (.preemptRequest die (some v)) s)
    ∧ (s.poolVictim die = none → exec (.preemptRequest die none) s = .next s))
  ∧ (∀ (s : State),
    (s.core.preempt = none → exec (.squall s.lnum) s = .next s)
    ∧ (s.core.underway = true → exec (.squall s.lnum) s = .next s)
    ∧ (∀ d, s.core.preempt = some d → d.toNat ≤ s.gtc.toNat → s.core.mode = .running → s.core.underway = false →
        exec (.squall s.lnum) s = .next (focus s.lnum (finishSquall (beginSquall s))))
    ∧ (s.core.mode = .saving → exec (.squallSaveComplete s.lnum) s = .next (focus s.lnum (finishSquall (settle s))))
    ∧ (s.core.mode = .saving → s.core.parking = none → s.core.saveReady = true → finishSquall s = saveContext (adoptFault s) [(0, 0, 0x180000), (1, 0, 0x100000), (2, 0, 0xC0000)])
    ∧ (s.core.mode ≠ .saving → exec (.squallSaveComplete s.lnum) s = .next s))

/-! ### Faults -/

/-- R337–R347, R127, R387: a fault of a running core stops its units and its relocations, settles its accepted work, writes the
frame and the register area, holds the core and reports the frame; F.ORPHAN with a handler resumes the CC there. A further fault
of a stopping core joins the causes; a fault of a held core waits. Stalls that are due in the cycle of a fault join it in ring order;
where the save block lies on another device the core is held once its writes are acknowledged. The frame has its fields in order. The IOD posts records, and
a host core resumes, fails or saves the context.
Where the spec is silent it rests on choices of the model: assumptions 9, 12, 14 and 31. -/
def Obligations.FaultEvents : Prop :=
  (∀ (s : State) (r : Raised) (x : Context),
    let w := stopRelocation { s with core := { s.core.stopUnits with mode := .stopping, primary := some r, causes := [r], multi := false, frameGtc := s.gtc } }
    let v := settle w
    let alone : Prop := s.core.mode = .running ∧ s.core.parking = none ∧ ∀ u, s.stallDue u = false
    r.code ≠ 0x11 →
    (alone → v.core.settled = false → takeFault s r = v)
    ∧ (s.core.mode = .running → takeFault s r = stopFor s (s.sameCycle r))
    ∧ (∀ a b, r.unit = .seq a → a ≠ b → s.stallDue b = true → (∀ z, z ≠ b → s.stallDue z = false) → s.core.meOwn = none →
        s.sameCycle r = if sqIx b < sqIx a then [s.stallOf b, r] else [r, s.stallOf b])
    ∧ (alone → v.core.settled = true → v.core.ctx = some x → v.core.primary = some r → ∀ t, writeArea v = .ok t → t.saveOut = true →
        takeFault s r = t.mapCore (fun c => { c with parking := some .frame }))
    ∧ (alone → v.core.settled = true → v.core.ctx = some x → v.core.primary = some r → ∀ t, writeArea v = .ok t → t.saveOut = false →
        (r.code ≠ 0x0E →
          let h : State := { t with core := { t.core with mode := .held, answered := false } }
          takeFault s r = { h with unposted := h.unposted ++ [⟨h.core.frameAddr, BitVec.ofNat 64 h.cause, x.task, x.rcb, x.domain, x.handler, h.core.frameGtc⟩] })
        ∧ (r.code = 0x0E → x.orphanVec ≠ 0#64 → (takeFault s r).core.mode = .running ∧ (takeFault s r).core.pc = x.orphanVec
            ∧ (takeFault s r).core.reg .cc 31 = t.core.frameAddr ∧ (takeFault s r).unposted = t.unposted))
    ∧ (s.core.mode = .stopping → s.core.parking = none → takeFault s r = s.mapCore (fun c => c.addCause r))
    ∧ (s.core.mode = .held → takeFault s r = { s with core := { s.core with heldFaults := s.core.heldFaults ++ [r] } })
    ∧ (s.core.mode = .halted → takeFault s r = s))
  ∧ (∀ (s : State) (r : Raised), s.core.primary = some r →
    let f := frameTab s
    let flag (b : Bool) (n : Nat) : Nat := if b then 2 ^ n else 0
    let unit : Nat := match r.unit with
      | .seq .cc => 0 | .seq .ae => 1 | .seq .me => 2 | .seq .se => 3 | .seq .ve => 4
      | .copyEngine => 5 | .sampling => 6 | .spillEngine => 7 | .relocated => 8
    s.cause = r.code + r.hyp.toNat * 2 ^ 8 + s.lnum * 2 ^ 16 + unit * 2 ^ 32 + flag s.core.handled 36 + flag (s.core.replays ≠ []) 37
        + flag s.core.multi 38 + flag s.core.saved 39 + r.detail % 65536 * 2 ^ 48
    ∧ readLE f 0x00 8 = s.cause % 2 ^ 64 ∧ readLE f 0x08 8 = r.addr.toNat ∧ readLE f 0x10 8 = s.core.pc.toNat ∧ readLE f 0x18 8 = r.word.toNat
    ∧ readLE f 0x20 8 = s.core.frameGtc.toNat ∧ readLE f 0x38 8 = s.core.aflags.toNat)
  ∧ (∀ (n : Nat) (img : Tab Byte) (c d : Core), reloadCore n img c = some d →
    let f := Tab.slice img 0 0x400 0
    let cause := readLE f 0 8
    d.pc = BitVec.ofNat 64 (readLE f 0x10 8) ∧ d.aflags = BitVec.ofNat 6 (readLE f 0x38 8)
    ∧ d.fcause = BitVec.ofNat 64 (cause % 2 ^ 8 + c.causeNow n / 2 ^ 8 % 2 ^ 40 * 2 ^ 8 + cause / 2 ^ 48 % 2 ^ 16 * 2 ^ 48)
    ∧ (∀ r, c.primary = some r → d.faddr = r.addr))
  ∧ (∀ (s : State) (u : Sqr) (unit : FUnit) (code detail : Nat) (addr : Word),
    let r : Raised := match unit with
      | .seq v => ⟨unit, code, detail, addr, s.core.groupWord v, s.core.hypOf v⟩
      | _ => ⟨unit, code, detail, addr, 0#64, s.unitHyp unit⟩
    let as (s : State) : State := { s with unit := u }
    let count := s.core.blocked.get (sqIx u)
    ((1 ≤ code ∧ code ≤ 0x15) ∨ code = 0x20 → exec (.faultStop s.lnum unit code detail addr) s = .next (focus s.lnum (takeFault s r)))
    ∧ (¬((1 ≤ code ∧ code ≤ 0x15) ∨ code = 0x20) → exec (.faultStop s.lnum unit code detail addr) s = .next s)
    ∧ (∀ x, s.core.ctx = some x → s.core.mode = .running → x.stall ≠ 0#32 → x.stall.toNat < count →
        exec (.stallLimitExpiry s.lnum u) s = .next (focus s.lnum { faultOf (as s) u ⟨0x09, (s.core.cause.get (sqIx u)).getD 0, 0#64⟩ with unit := s.unit }))
    ∧ (∀ x, s.core.ctx = some x → x.stall = 0#32 ∨ count ≤ x.stall.toNat → exec (.stallLimitExpiry s.lnum u) s = .next s)
    ∧ ((as s).active = true → stampState (as s) = .overrun →
        exec (.stampOverrun s.lnum u) s = .next (focus s.lnum { faultOf (as s) u ⟨0x0A, 0, 0#64⟩ with unit := s.unit }))
    ∧ ((as s).active = true → stampState (as s) = .free ∨ stampState (as s) = .wait → exec (.stampOverrun s.lnum u) s = .next s))
  ∧ (∀ (s : State) (r : FaultRecord) (rest : List FaultRecord) (v : Word), s.unposted = r :: rest →
    let bytes := [r.frame, r.cause, r.task, r.rcb, BitVec.ofNat 64 r.domain, r.handler, r.gtc, 0#64].flatMap (fun w => natToBytes 8 w.toNat)
    (s.faultq.length < 4096 → ∃ t, exec .faultRecordPost s = .next t ∧ t.unposted = rest ∧ t.faultq = s.faultq ++ [r] ∧ t.fqTail = (s.fqTail + 1) % 4096
        ∧ t.hostIrqs = s.hostIrqs + 1 ∧ t.mem = writeBytes s.mem (s.fqBase.toNat + 64 * s.fqTail) bytes)
    ∧ (4096 ≤ s.faultq.length → exec .faultRecordPost s = .next s)
    ∧ (let h := v.toNat % 4096
       s.boot = .running → exec (.fqheadWrite v) s = .next { s with fqHead := h, faultq := s.faultq.drop ((h + 4096 - s.fqHead) % 4096) }))
  ∧ (∀ (s : State) (w : Word) (x : Context), s.boot = .running → s.core.ctx = some x → s.core.mode = .held → s.core.answered = false → w.toNat / 64 = x.task.toNat / 64 →
    (exec (.frespFail w) s = .next (focus s.lnum (failContext s)))
    ∧ (failContext s).core.mode = .halted ∧ (failContext s).core.ctx = none ∧ (∀ u n, (failContext s).core.reg u n = 0#64)
    ∧ (let all := [(0, 0, 0x180000), (1, 0, 0x100000), (2, 0, 0xC0000)]
       (s.core.inboxLanded = false → exec (.frespSave w) s = .next (focus s.lnum { s with core := { s.core with preempt := some (s.core.preempt.getD s.gtc) } }))
       ∧ (s.core.inboxLanded = true → ∀ u f, writeStores s all = .error (u, f) → exec (.frespSave w) s = .next (focus s.lnum (failSave s u f)))
       ∧ (s.core.inboxLanded = true → ∀ t, writeStores s all = .ok t →
           let c := peekAs t x.tenant t.core.frameAddr 8
           let m := if c / 2 ^ 39 % 2 = 1 then t else pokeAs t x.tenant t.core.frameAddr 8 (c + 2 ^ 39)
           ∀ u, saveInbox { m with core := { m.core with saved := true } } = .ok u →
             let p := parkContext u x all u.core.answered
             (u.saveOut = false → exec (.frespSave w) s = .next (focus s.lnum p) ∧ p.core.mode = .halted ∧ p.core.ctx = none)
             ∧ (u.saveOut = true → exec (.frespSave w) s = .next (focus s.lnum (u.mapCore (fun c =>
                 { c with mode := .saving, parking := some (.context all u.core.answered) }))))))
    ∧ (let marked := markHandled { s with core := { s.core with handled := true, answered := true } } x.tenant s.core.frameAddr
       exec (.frespResume w) s = .next (focus s.lnum (restartInPlace marked))
       ∧ (∀ u, reloadArea marked = .ok u → u.core.replays = [] → u.core.tiles = [] → u.core.tileReplay = none → u.core.heldFaults = [] → u.core.log = [] →
           u.unitPending .cc = false → u.unitPending .ae = false →
           let t := restartInPlace marked
           t.core.mode = .running ∧ t.core.pc = u.core.pc ∧ t.core.primary = none ∧ t.core.causes = [] ∧ (∀ n, t.core.blocked.get n = 0)
             ∧ (∀ n < 5, t.core.exempt.get n = true) ∧ ∀ v n, t.core.reg v n = u.core.reg v n)))
  ∧ (∀ (s : State) (w : Word), exec (.frespNoAction w) s = .next s
    ∧ (s.heldCore w = none → exec (.frespSave w) s = .next s)
    ∧ (s.heldCore w = none → s.savedFor w = none → exec (.frespFail w) s = .next s ∧ exec (.frespResume w) s = .next s)
    ∧ (s.boot = .running → s.heldCore w = none → ∀ v, s.savedFor w = some v → exec (.frespFail w) s = .next (failSaved s v)
        ∧ exec (.frespResume w) s = .next (resumeSavedTask s v)))

/-! ### Collectives and the log -/

/-- R293, R372–R382: the collective words and events, and LOG.APPEND. A word is refused under a hypothesis and on operands out of
range; COLL.LOAD takes a graph that passes its checks, COLL.RUN starts it with its bases and generation, COLL.WAIT waits for its
end or takes its abort, TRIG.ADD raises a counter. Records fire in order on their counters; PUTs are accepted, refused, sent
again, or abort the run. A log record goes to the ring, or is counted as dropped.
Where the spec is silent it rests on choices of the model: assumptions 28, 29 and 30. -/
def Obligations.CollectiveEvents : Prop :=
  (∀ (s : State) (r : BitVec 4) (a b : BitVec 5),
    let load := Instr.collLoad r a b
    let start := Instr.collRun r a b
    let wait := Instr.collWait r a
    let add := Instr.trigAdd r a b
    let flushed (i : Instr) : State := flushUnit .cc (2 * (takeRing i s).core.pend.length + 1) (takeRing i s)
    let root : Prop := s.hyp = 0#8
    let x := s.r5 a
    let y := s.r5 b
    (¬root → faults s load ⟨0x0D, 0, 0#64⟩ ∧ faults s start ⟨0x0D, 0, 0#64⟩ ∧ faults s wait ⟨0x0D, 0, 0#64⟩ ∧ faults s add ⟨0x0D, 0, 0#64⟩)
    ∧ (let t := flushed load
       let h := y.toNat
       (root → 7 < h ∨ t.handleRuns h = true → faults s load ⟨0x15, 0, 0#64⟩)
       ∧ (root → h ≤ 7 → t.handleRuns h = false → t.unitPending .cc = true → issues s load → exec load s = .next (stayUnderway s))
       ∧ (root → h ≤ 7 → t.handleRuns h = false → t.unitPending .cc = false → ∀ run d, t.handle h = some run → run.aborted = some d →
           run.raised = false → issues s load →
           exec load s = .next (faultOf (s.setHandle h { run with raised := true }) s.unit ⟨0x0F, d.toNat, 0#64⟩))
       ∧ (root → h ≤ 7 → t.handleRuns h = false → t.unitPending .cc = false →
           (∀ run, t.handle h = some run → run.aborted = none ∨ run.raised = true) → remoteParts t (graphBlocks t x) = [] →
           (∀ f, readGraph t x = .error f → faults s load f)
           ∧ ∀ g u, readGraph t x = .ok (g, u) →
             (g.rank u.dev.toNat u.lnum = none → faults s load ⟨0x15, 0, 0#64⟩)
             ∧ ∀ k, g.rank u.dev.toNat u.lnum = some k → issues s load →
               completes s load .next (u.setHandle h { (default : CollRun) with
                 lnum := u.lnum, handle := h, ctx := u.core.context, ncnt := blockField g.header 6 1, etype := blockField g.header 7 1,
                 op := blockField g.header 8 1, rank := k, sig := g.sig, members := g.peers.map (BitVec.ofNat 32), records := g.records,
                 generation := ((u.handle h).map (·.generation)).getD 0#16 })))
    ∧ (let t := takeRing start s
       let h := x.toNat
       (root → 7 < h ∨ s.handle h = none ∨ s.handleRuns h = true → faults s start ⟨0x15, 0, 0#64⟩)
       ∧ (root → h ≤ 7 → ∀ run, s.handle h = some run → run.running = false → s.unitPending .cc = true → issues s start →
           exec start s = .next (noteBlocked (metStamp (leaveWord s)) 8))
       ∧ (root → h ≤ 7 → ∀ run d, s.handle h = some run → run.running = false → s.unitPending .cc = false → run.aborted = some d →
           run.raised = false → issues s start →
           exec start s = .next (faultOf (s.setHandle h { run with raised := true }) s.unit ⟨0x0F, d.toNat, 0#64⟩))
       ∧ (root → h ≤ 7 → ∀ run, s.handle h = some run → run.running = false → s.unitPending .cc = false →
           run.aborted = none ∨ run.raised = true → remoteParts t (blockOf y 64) = [] →
           (∀ f, ccBlock t y 64 64 = .error f → faults s start f)
           ∧ ∀ bs u, ccBlock t y 64 64 = .ok (bs, u) →
             let bases := (chunks 8 bs 8).map (fun d => BitVec.ofNat 64 (bytesToNat d))
             ((∃ v ∈ bases, v.toNat < 2 ^ 32) → faults s start ⟨0x03, 0, y⟩)
             ∧ ((∀ v ∈ bases, 2 ^ 32 ≤ v.toNat) →
                 let v := flushUnit .cc (2 * u.core.pend.length + 1) u
                 v.released = true → issues s start →
                 let q : CollRun := { run with running := true, bases := bases, counters := [],
                                               generation := run.generation + 1, fired := [], refused := [], out := [], sentTo := [], aborted := none,
                                               raised := false, bulk := [] }
                 completes s start .next (mapRuns (v.setHandle h (q.queueFrom 0)) id))))
    ∧ (let h := x.toNat
       (root → 7 < h ∨ s.handle h = none → faults s wait ⟨0x15, 0, 0#64⟩)
       ∧ (root → h ≤ 7 → ∀ run, s.handle h = some run →
           (run.running = true → blocks s wait 8)
           ∧ (run.running = false → run.aborted = none ∨ run.raised = true → does s wait observe)
           ∧ (run.running = false → ∀ d, run.aborted = some d → run.raised = false → issues s wait →
               exec wait s = .next (faultOf (s.setHandle h { run with raised := true }) s.unit ⟨0x0F, d.toNat, 0#64⟩))))
    ∧ (let h := bits x 2 0
       let c := bits x 13 8
       let range : Prop := bits x 7 3 = 0 ∧ bits x 63 14 = 0 ∧ bits y 63 32 = 0
       (root → ¬range ∨ s.handle h = none → faults s add ⟨0x15, 0, 0#64⟩)
       ∧ (root → range → ∀ run, s.handle h = some run →
           (run.running = false ∨ run.ncnt ≤ c → faults s add ⟨0x15, 0, 0#64⟩)
           ∧ (run.running = true → c < run.ncnt → (flushed add).released = true → issues s add →
               completes s add .next ((flushed add).setHandle h (run.count c (y.setWidth 32)))))))
  ∧ (∀ (q : CollRun) (c k : Nat) (n : BitVec 32),
    let mine (i : Nat) : Prop := i < q.records.length ∧ recRank (q.records.getD i []) = q.rank
    let u := q.queueFrom k
    ((∀ i, k ≤ i → ¬mine i) → u.queued = none)
    ∧ (∀ i, k ≤ i → mine i → (∀ j, k ≤ j → j < i → ¬mine j) → u.queued = some i
        ∧ (u.met = true ↔ recWen (q.records.getD i []) = false ∨ recThr (q.records.getD i []) ≤ (q.counters.get (recWait (q.records.getD i []))).toNat))
    ∧ (q.count c n).counters.get c = q.counters.get c + n ∧ (∀ m, m ≠ c → (q.count c n).counters.get m = q.counters.get m)
    ∧ (q.count c n).queued = q.queued)
  ∧ (∀ (s : State) (n k : Nat) (r : CollRun), s.colls[n]? = some r →
    let x := r.records.getD k []
    let fired := { r with fired := r.fired ++ [k] }.queueFrom (k + 1)
    let fire := exec (.collRecordFire n) s
    let complete := exec (.collRecordComplete n k) s
    let retry := exec (.collPutRetry n k) s
    let late := exec (.collRefusalTimeout n k) s
    (r.queued = some k → r.met = true → r.running = true → r.aborted = none →
        let t : State := { s with colls := s.colls.set n fired }
        fire = .next (if recKind x = 1 then putStart t n k fired else t))
    ∧ (r.met = false ∨ r.running = false ∨ r.aborted ≠ none → fire = .next s)
    ∧ (k ∉ r.fired → complete = .next s)
    ∧ (k ∈ r.fired → recKind x ≠ 1 → s.writing r k = true → complete = .next s)
    ∧ (k ∈ r.fired → recKind x ≠ 1 → s.writing r k = false →
        complete = .next (if missing s r k = [] then recordEnd s n k r else askRun s n k r (missing s r k)))
    ∧ (∀ va d u, recKind x = 1 → missing s r k = [] → r.addr (recSrcb x) (recSoff x) = some va →
        runRead s r k va (recNel x * r.esize) = .ok (d, u) →
        let p := putPacket s r k d
        let sent (t : State) (seq : Nat) : State := { t with
          packetId := t.packetId + 1, puts := t.puts ++ [{ p with flowSeq := seq }], colls := t.colls.set n { r with
            sentTo := if r.sentTo.any (fun q => q.1 == recPeer x) then r.sentTo else (recPeer x, k) :: r.sentTo,
            out := (k, s.gtc) :: r.out.filter (fun q => q.1 != k), bulk := r.bulk.filter (fun b => b.1 != k) } }
        (let l := s.launch r.lnum (PutPacket.packet p) true
         putStart s n k r = sent l.2 l.1.flowSeq)
        ∧ (d.length ≤ 256 → putStart s n k r = sent
            (State.enter { s with flowSeq := s.flowSeq.set (r.lnum * 1024 + p.dstDev) ((p.flowSeq + 1) % 65536) } 0 commStop (PutPacket.packet p))
            p.flowSeq))
    ∧ (∀ q, k ∈ r.fired → recKind x = 1 → r.refused.find? (fun q => q.1 == k) = some q → s.putOut r k = false →
        retry = .next (if (s.gtc - q.2.2).toNat < 940 then s else putStart s n k r))
    ∧ (∀ q, r.refused.find? (fun q => q.1 == k) = some q → r.aborted = none →
        late = .next (if 1880000 ≤ (s.gtc - q.2.1).toNat then
          abortFrom (dropFired s n r k) r 2 0 else s))
    ∧ (∀ p (cause : Nat), r.aborted = none → s.puts = [p] → s.waiting = [] → s.colls = [r] → putSender s p = some 0 → p.record = k →
        p.srcDev = s.dev.toNat → p.dstDev ≠ s.dev.toNat → 1 ≤ cause → cause ≤ 5 →
        exec (.remoteNegativeResponse p.id cause 0) s = .next (abortFrom (dropFired { s with puts := [], left := s.left.filter (fun l => l.2 != p.id) } 0 r k) r 3 cause))
    ∧ (∀ d, r.aborted = some d → r.raised = false → s.hasRun r = true → (s.coreAt r.lnum).mode = .running →
        exec (.collFaultRaise n) s = .next (within r.lnum (fun s => takeFault s ⟨.seq .cc, 0x0F, d.toNat, 0#64, 0#64, s.core.hyp⟩)
          { s with colls := s.colls.set n { r with raised := true } }))
    ∧ (r.aborted = none ∨ r.raised = true → exec (.collFaultRaise n) s = .next s))
  ∧ (∀ (s : State) (port : Nat) (p : PutPacket),
    let flow := p.srcDev * 512 + p.srcLnum
    let due := s.flowDone.get flow
    p.dstDev = s.dev.toNat → p.srcDev ≠ s.dev.toNat → p.flowSeq = due → s.reorder = [] → s.flowLost = [] → s.marked = [] →
    let key := gatherKey (PutPacket.packet p)
    let lead := s.assembly.get key
    let q : PutPacket := { p with data := lead ++ p.data }
    let k := s.keys.get (port * 4096 + p.key)
    let next : State := { s with flowDone := s.flowDone.set flow ((due + 1) % 65536), assembly := s.assembly.set key [] }
    let refused (cause : Nat) : State :=
      { next with responses := s.responses ++ [(p.srcDev, p.id, cause, [])], drops := s.drops.set port (s.drops.get port + 1) }
    let arrive := exec (.collPutReceive port p) s
    let one : Prop := p.foreign = false ∧ p.data.length ≤ 256
    (¬one → arrive = .next { s with portErrors := s.portErrors.set port (s.portErrors.get port + 1) })
    ∧ (one → k.getLsbD 127 = false → arrive = .next (refused 1))
    ∧ (one → k.getLsbD 127 = true → nbits k.toNat 119 108 ≠ p.tenant → arrive = .next (refused 2))
    ∧ (one → k.getLsbD 127 = true → nbits k.toNat 119 108 = p.tenant → k.getLsbD 125 = false → arrive = .next (refused 3))
    ∧ (one → k.getLsbD 127 = true → nbits k.toNat 119 108 = p.tenant → k.getLsbD 125 = true → q.data.length ≠ p.len → arrive = .next next)
    ∧ (one → k.getLsbD 127 = true → nbits k.toNat 119 108 = p.tenant → k.getLsbD 125 = true → q.data.length = p.len →
        (putTarget next p = none → arrive = .next { next with responses := s.responses ++ [(p.srcDev, p.id, 9, [])] })
        ∧ (∀ n r, putTarget next p = some n → s.colls[n]? = some r →
            let place := r.addr (p.dst / 2 ^ 64) (p.dst % 2 ^ 64)
            let known : Prop := p.sig = none ∨ p.sig = some r.sig
            let page (pa : Nat) : Nat := pa % 2 ^ 42 / 4096
            let range : Prop := ∀ dst, place = some dst → ∀ a ∈ putParts next q r dst,
              a.1 % 2 ^ 42 < 2 ^ 41 ∧ nbits k.toNat 107 78 ≤ page a.1 ∧ page a.1 ≤ nbits k.toNat 77 48
            let ended (t : State) : State := { t with responses := t.responses ++ [(p.srcDev, p.id, 0, [])] }
            (¬range → arrive = .next (refused 4))
            ∧ (range → ¬known → arrive = .next (ended (abortFrom next r 1 0)))
            ∧ (range → known → place = none → arrive = .next (ended (abortFrom next r 4 0)))
            ∧ (range → known → ∀ dst, place = some dst →
                let wrote := withinE next r.lnum (fun s => runWrite s r (.collLand q) dst q.data (q.data.length / 256 + 2))
                (∀ f, wrote = .error f → arrive = .next (ended (abortFrom next r 4 0)))
                ∧ ∀ t, wrote = .ok t →
                  arrive = .next (if ∃ w ∈ t.waiting, w.kind = .collLand q then t else ended (match p.counter with
                    | some c => putRun t n (r.count c 1#32)
                    | none => t))))))
  ∧ (∀ (s : State) (lnum tenant handle generation : Nat) (d : BitVec 16),
    let named (r : CollRun) : Prop := r.lnum = lnum ∧ r.ctx.tenant = tenant ∧ r.handle = handle
    let hit (r : CollRun) : Prop := named r ∧ ((r.generation.toNat = generation ∧ r.aborted = none)
      ∨ (r.running = false ∧ (r.generation.toNat + 1) % 65536 = generation))
    (∀ r ∈ s.colls, r.finished = false ∧ (r.running = true → r.fired ≠ [] ∨ r.queued ≠ none)) →
      ∃ t, exec (.collAbortReceive ⟨lnum, tenant⟩ handle generation d) s = .next t
      ∧ t.colls.length = s.colls.length ∧ ∀ (n : Nat) (r : CollRun), s.colls[n]? = some r → ∃ u, t.colls[n]? = some u ∧ (¬hit r → u = r)
          ∧ (hit r → u.aborted = some d ∧ u.raised = false ∧ u.queued = none ∧ u.met = false ∧ u.fired = r.fired
              ∧ (u.running = true ↔ r.running = true ∧ r.fired ≠ [])))
  ∧ (∀ (s : State) (r : BitVec 4) (d a : BitVec 5),
    let i := Instr.logAppend r d a
    let ra := s.r5 a
    let slot := bits ra 5 0
    let ok : Prop := bits ra 63 6 = 0 ∧ (s.core.smp.get slot).state ≠ 0
    let ring := s.core.logring
    let idle : Prop := ∀ w ∈ s.core.smpq, w.target ≠ slot
    (¬ok → faults s i ⟨0x15, 0, 0#64⟩)
    ∧ (ok → s.hyp ≠ 0#8 → faults s i ⟨0x0D, 0, 0#64⟩)
    ∧ (ok → s.hyp = 0#8 → ¬idle → blocks s i 8)
    ∧ (ok → s.hyp = 0#8 → idle → (s.core.smp.get slot).latest = none → faults s i ⟨0x15, 0, 0#64⟩)
    ∧ (ok → s.hyp = 0#8 → idle → ∀ x, (s.core.smp.get slot).latest = some x → s.unitPending .cc = true → issues s i →
        exec i s = .next (noteBlocked (metStamp (leaveWord s)) 8))
    ∧ (ok → s.hyp = 0#8 → idle → ∀ x, (s.core.smp.get slot).latest = some x → s.unitPending .cc = false →
        (∀ f, checkMem (takeRing i s) ring 64 3 = .error f → faults s i f)
        ∧ ∀ pa leaf t, checkMem (takeRing i s) ring 64 3 = .ok (pa, leaf, t) →
          let a := (t.access (.log (logBytes s.lnum slot x)) 64 d.toNat 0#64).withLeaf ring pa leaf
          (t.noRoom a = true → blocks s i 8)
          ∧ (t.noRoom a = false → t.isLocal pa = false → issues s i → completes s i .next (t.pushAccess a))
          ∧ (t.noRoom a = false → t.isLocal pa = true → ∀ f, t.memMark pa 64 = some f → faults s i f)
          ∧ (t.noRoom a = false → t.isLocal pa = true → t.memMark pa 64 = none →
            let field (o n : Nat) : Nat := t.readPhys (pa + o) n
            let cap := field 8 4
            let base := field 0 8
            let fits : Prop := 1 ≤ cap ∧ cap ≤ 2 ^ 24 ∧ 2 ^ Nat.log2 cap = cap ∧ base % 64 = 0
            let k := field 0x10 8
            let room : Prop := (k + 2 ^ 64 - field 0x18 8) % 2 ^ 64 < cap
            let va := BitVec.ofNat 64 (base + 64 * (k % cap))
            let counted (t : State) : State := t.mapCore (fun c => { c with cntSt := c.cntSt + 1 })
            (¬fits → faults s i ⟨0x15, 0, 0#64⟩)
            ∧ (fits → ¬room → issues s i → completes s i .next
                ((counted (t.writePhysLE (pa + 0x20) 8 (field 0x20 8 + 1))).storeDone.mapCore (fun c => c.setReg a.unit d.toNat 0#64)))
            ∧ (fits → room → ∀ f, checkMem (counted (t.writePhysLE (pa + 0x10) 8 (k + 1))) va 64 1 = .error f → faults s i f)
            ∧ (fits → room → ∀ rp rl u, checkMem (counted (t.writePhysLE (pa + 0x10) 8 (k + 1))) va 64 1 = .ok (rp, rl, u) →
                let seq : Access := { a with kind := .store, size := 8, rd := 0, data := BitVec.ofNat 64 (k + 1), rel := true, scope := 4, pid := 0 }.withLeaf
                  va rp rl
                issues s i → completes s i .next
                  ((putHome { u.source with unit := a.unit } u (rp + 8) (pteKey rl) (logBytes s.lnum slot x)).mapCore (fun c =>
                    { c.setReg a.unit d.toNat 1#64 with pend := c.pend ++ [seq] }))))))

/-! ### Time and remote access -/

/-- R17, R355, R386, R389–R391: FRAME.BEGIN sets the frame counter from the next cycle on, a cycle advances it up to its top, and
only on a core that is resident and not stopped; DIGEST writes the CRC-64 of what its table names; sys.gtc rises by one in a
period, and is aligned once before the first dispatch and by one in 2^16 periods.
Where the spec is silent it rests on choices of the model: assumption 41. -/
def Obligations.TimeAndDigest : Prop :=
  (∀ (s : State) (r : BitVec 4) (d a b : BitVec 5),
    let i := Instr.digest r d a b
    let t := flushUnit .cc (2 * (takeRing i s).core.pend.length + 1) (takeRing i s)
    let va := t.r5 a
    (bits (s.r5 a) 63 32 ≠ 0 → faults s (.frameBegin r a) ⟨0x15, 0, 0#64⟩)
    ∧ (bits (s.r5 a) 63 32 = 0 → does s (.frameBegin r a) (fun s => s.mapCore (fun c => { c with frameNext := some ((s.r5 a).setWidth 32) })))
    ∧ (t.unitPending .cc = true → issues s i → exec i s = .next (stayUnderway s))
    ∧ (t.unitPending .cc = false → remoteParts t (digestBlocks t va) = [] →
        (∀ f, digestTable t va = .error f → faults s i f)
        ∧ ∀ es u, digestTable t va = .ok (es, u) →
          (∀ f, digestAll (u.r5 b) u es = .error f → faults s i f)
          ∧ ∀ c v, digestAll (u.r5 b) u es = .ok (c, v) → issues s i → completes s i .next (v.w5 d c)))
  ∧ (∀ (c : Word) (x y : List Byte), crc64 c [] = c ∧ crc64 c (x ++ y) = crc64 (crc64 c x) y
    ∧ crc64 0#64 [0x80#8] = crcBits 8 0x8000000000000000#64 ∧ crc64 0#64 [1#8] = 0x42F0E1EBA9EA3693#64)
  ∧ (∀ (s : State) (v : Word),
    let c := s.core
    let ticked (run : Bool) (n : BitVec 32) : State := { s with core := { c.divTick with
      cycle := c.cycle + 1, frameRun := run, frameCount := n, frameNext := none, cntCp := c.cntCp - c.cpZero, cpZero := 0 } }
    (c.mode ≠ .running → exec (.frameCountAdvance s.lnum) s = .next s)
    ∧ (∀ n, c.mode = .running → c.frameNext = some n → exec (.frameCountAdvance s.lnum) s = .next (ticked true n))
    ∧ (c.mode = .running → c.frameNext = none → exec (.frameCountAdvance s.lnum) s =
        .next (ticked c.frameRun (if c.frameRun = true ∧ c.frameCount ≠ BitVec.allOnes 32 then c.frameCount + 1 else c.frameCount)))
    ∧ exec .gtcPeriodIncrement s = .next { s with gtc := s.gtc + 1#64 }
    ∧ (s.dispatched = false → s.gtcStepped = false → s.gtc.toNat < v.toNat → exec (.gtcBringupStep v) s = .next
        { s with gtc := v, gtcStepped := true, lastCorrection := s.lastCorrection.map (fun l => l + (v - s.gtc)) })
    ∧ (s.dispatched = true ∨ s.gtcStepped = true ∨ v.toNat ≤ s.gtc.toNat → exec (.gtcBringupStep v) s = .next s)
    ∧ ((∀ l, s.lastCorrection = some l → 65535 ≤ (s.gtc - l).toNat) →
        exec (.gtcDriftCorrection true) s = .next { s with lastCorrection := some s.gtc }
        ∧ (s.dispatched = true ∨ s.gtcStepped = true →
            exec (.gtcDriftCorrection false) s = .next { s with gtc := s.gtc + 2#64, lastCorrection := some (s.gtc + 2#64) }))
    ∧ (s.dispatched = false → s.gtcStepped = false → exec (.gtcDriftCorrection false) s = .next s)
    ∧ (∀ l, s.lastCorrection = some l → (s.gtc - l).toNat < 65535 → ∀ leads, exec (.gtcDriftCorrection leads) s = .next s))

/-- R359–R371: STC, WIN.DRAIN, and the remote events. STC reads its record and sends to its first peer; WIN.DRAIN waits for the
windows and the stores that it names. A port refuses a request by its key entry and counts it, or passes it on, each
flow in order; its target performs and answers it; a gap of 64 µs drops what waits behind it; a peer of a chain writes and forwards. At the sender an answer ends
what waited, and a refusal or 2 ms of silence is F.REMOTE.
Where the spec is silent it rests on choices of the model: assumptions 24, 25, 26 and 28. -/
def Obligations.RemoteEvents : Prop :=
  (∀ (s : State) (r : BitVec 4) (a b : BitVec 5),
    let i := Instr.stc r a b
    let t := holdRecord (bufOff (s.r5 a).toNat) (flushUnit s.unit (2 * (takeRing i s).core.pend.length + 1) (takeRing i s))
    let full (t : State) : Prop := 64 ≤ t.storesOut s.unit ∨ counterMax ≤ t.core.cntSt ∨ t.ordered = true
    let m := s.r5 a
    let drained : Prop := (∀ k < 8, m.getLsbD k = true → s.core.out k = 0) ∧ (m.getLsbD 8 = true → s.storesOut s.unit = 0)
    (t.bufPending = true → blocks s i 8)
    ∧ (t.bufPending = false → ∀ f, stcChecks t (t.r5 a) = .error f → faults s i f)
    ∧ (t.bufPending = false → ∀ x, stcChecks t (t.r5 a) = .ok x →
        (full t → blocks s i 8)
        ∧ (¬full t → ∀ p ps, x.peers = p :: ps → issues s i →
            let u := t.mapCore (fun c => { c with cntSt := c.cntSt + 1 })
            completes s i .next (send u (peerDev p) (peerLnum p) (peerKey p) (.stc x.space x.off x.size (t.r5 b) x.peers 0) .stc).2))
    ∧ (bits m 63 9 ≠ 0 → faults s (.winDrain r a) ⟨0x15, 0, 0#64⟩)
    ∧ (bits m 63 9 = 0 → drained → does s (.winDrain r a) id)
    ∧ (bits m 63 9 = 0 → ¬drained → blocks s (.winDrain r a) 8))
  ∧ (∀ (s : State) (b : Word) (x : StcRec), stcChecks s b = .ok x →
    let o := b.toNat % 2 ^ 28
    let h := readLE s.core.ab o 8
    1 ≤ x.count ∧ x.count ≤ 16 ∧ x.count = h % 32 ∧ x.size = 2 ^ (h / 32 % 4) ∧ x.space = h / 256 % 4 ∧ x.space ≤ 2
    ∧ x.off = readLE s.core.ab (o + 8) 8 % 2 ^ 28 ∧ x.off % x.size = 0 ∧ x.off + x.size ≤ spaceSize x.space ∧ x.peers.length = x.count
    ∧ s.hyp = 0#8 ∧ b.toNat % 16 = 0)
  ∧ (∀ (s : State) (w : Waiting) (data : List Byte) (cause peer : Nat),
    let id := w.pkt.id
    let ended : State := { s with waiting := s.waiting.filter (fun x => x.pkt.id != id), left := s.left.filter (fun l => l.2 != id) }
    s.waiting.find? (fun x => x.pkt.id == id) = some w → s.ownAnswer id = none → s.outside w = true →
    w.pkt.srcLnum = s.lnum → s.core.ctx ≠ none → s.core.task = w.task → s.core.mode = .running →
    (s.core.pend = [] → w.kind = .store ∨ w.kind = .stc →
        exec (.remoteWriteAck id) s = .next { ended with core := { s.core with cntSt := s.core.cntSt - 1 } })
    ∧ (∀ k, s.core.pend = [] → w.kind = .window k false → exec (.remoteWriteAck id) s = .next { ended with core := s.core.subOut k })
    ∧ (∀ a sgn, w.kind = .load → s.core.pend = [a] → a.pid = id → a.kind = .load sgn → a.acq = false →
        ∃ t, exec (.remoteReadResponse id data) s = .next t ∧ t.core.pend = [] ∧ t.core.cntLd = s.core.cntLd - 1
          ∧ t.core.reg a.unit a.rd = (if a.rd = 0 then 0#64 else extend sgn a.size (bytesToNat data))
          ∧ (∀ u n, u ≠ a.unit ∨ n ≠ a.rd → t.core.reg u n = s.core.reg u n) ∧ t.mem = s.mem)
    ∧ (∀ pa d, s.core.pend = [] → w.kind = .store → w.pkt.req = .memWrite pa d → w.pkt.srcUnit = .cc → 1 ≤ cause → cause ≤ 8 → peer < 16 →
        let kept : List Replay := (w.access.map (fun a => (⟨a, false, 0x10, none⟩ : Replay))).toList
        let u : State := { ended with core := { s.core with cntSt := s.core.cntSt - 1, replays := s.core.replays ++ kept } }
        let failed (detail : Nat) : State := focus s.lnum (takeFault u ⟨.seq .cc, 0x10, detail, BitVec.ofNat 64 pa, w.word, s.core.hyp⟩)
        exec (.remoteNegativeResponse id cause peer) s = .next (failed (cause + 16 * peer))
        ∧ (1880000 ≤ (s.gtc - w.since).toNat → exec (.remoteResponseTimeout id) s = .next (failed 7)))
    ∧ ((s.gtc - w.since).toNat < 1880000 → exec (.remoteResponseTimeout id) s = .next s))
  ∧ (∀ (s : State) (port : Nat) (p : Packet), p.viaDev ≠ s.dev.toNat → p.dstDev = s.dev.toNat → p.flowSeq < 65536 → s.inside p = false →
    let flow := p.viaDev * 512 + p.viaLnum
    let due := s.flowDone.get flow
    let k := s.keys.get (port * 4096 + p.key)
    let next : State := { s with flowDone := s.flowDone.set flow ((due + 1) % 65536) }
    let answered (s : State) (cause : Nat) : State := { s with responses := s.responses ++ [(p.srcDev, p.id, cause + hopOf p, [])] }
    let refused (cause : Nat) : State := { answered next cause with drops := s.drops.set port (s.drops.get port + 1) }
    let passed : State := State.enter next 0 (portStop port) p
    let arrive := exec (.portRequestCheck port p) s
    (unsupported p = true → arrive = .next { s with portErrors := s.portErrors.set port (s.portErrors.get port + 1) })
    ∧ (unsupported p = false → due < p.flowSeq → p.flowSeq < due + 32768 → s.reorder.length < 512 →
        arrive = .next { s with reorder := s.reorder ++ [(port, .req p, s.gtc)] })
    ∧ (unsupported p = false → p.flowSeq < due → due ≤ p.flowSeq + 32768 → arrive = .next s)
    ∧ (unsupported p = false → p.flowSeq = due → s.reorder = [] → s.flowLost = [] →
        (k.getLsbD 127 = false → arrive = .next (refused 1))
        ∧ (k.getLsbD 127 = true → nbits k.toNat 119 108 ≠ p.tenant → arrive = .next (refused 2))
        ∧ (∀ pa d, p.req = .memWrite pa d → k.getLsbD 127 = true → nbits k.toNat 119 108 = p.tenant →
            let first := pa % 2 ^ 42 / 4096
            let last := (pa % 2 ^ 42 + d.length - 1) / 4096
            let range : Prop := pa % 2 ^ 42 < 2 ^ 41 ∧ nbits k.toNat 107 78 ≤ first ∧ last ≤ nbits k.toNat 77 48
            (k.getLsbD 125 = false → arrive = .next (refused 3))
            ∧ (k.getLsbD 125 = true → ¬range → arrive = .next (refused 4))
            ∧ (k.getLsbD 125 = true → range → arrive = .next passed))
        ∧ (keyCheck k p = none → reqIsBuf p.req = true → s.takes p = false → arrive = .next (refused 5))
        ∧ (keyCheck k p = none → reqIsBuf p.req = true → s.takes p = true → arrive = .next passed)
        ∧ (keyCheck k p = none → reqIsBuf p.req = false → (∀ d, p.req ≠ .part false d) → arrive = .next passed)
        ∧ (∀ d, keyCheck k p = none → p.req = .part false d → arrive = .next
            { next with assembly := s.assembly.set (gatherKey p) (s.assembly.get (gatherKey p) ++ d) })))
  ∧ (∀ (s : State) (port : Nat) (p : Packet), p.dstDev = s.dev.toNat → s.flowFirst p = true → s.marked = [] → (s.coreAt p.dstLnum).marks = [] →
    let t := s.landed p
    let answered (t : State) (cause : Nat) (data : List Byte) : State := State.enter t (endDie p) (endStop p)
      { p with dstDev := p.srcDev, dstLnum := p.srcLnum, viaDev := s.dev.toNat, viaLnum := p.dstLnum, flowSeq := 0, req := .resp cause data }
    let arrive := exec (.portRequestCheck port p) s
    (∀ pa d, p.req = .memWrite pa d → arrive = .next (answered (t.writePhys pa d) 0 []))
    ∧ (∀ pa n, p.req = .memRead pa n → arrive = .next (answered t 0 (readBytes s.mem pa n)))
    ∧ (∀ space off d, p.req = .winWrite space off d none →
        ((s.coreAt p.dstLnum).resident p.tenant = false → arrive = .next (answered t 5 []))
        ∧ ((s.coreAt p.dstLnum).resident p.tenant = true → ∃ u, arrive = .next u
            ∧ u.coreAt p.dstLnum = (s.coreAt p.dstLnum).putBytes space off d ∧ (∀ m, m ≠ p.dstLnum → u.coreAt m = s.coreAt m)
            ∧ u.packets = (answered t 0 []).packets ∧ u.responses = s.responses ∧ u.mem = s.mem))
    ∧ (∀ cause data, p.req = .resp cause data → arrive = .next { t with responses := s.responses ++ [(p.srcDev, p.id, cause, data)] })
    ∧ (∀ space off size v peers k, p.req = .stc space off size v peers (k + 1) → (s.coreAt p.dstLnum).resident p.tenant = true →
      ∃ u, exec (.stcPeerForward port p) s = .next u ∧ u.coreAt p.dstLnum = (s.coreAt p.dstLnum).putBytes space off (natToBytes size v.toNat)
      ∧ u.responses = s.responses
      ∧ (∀ q, peers[k + 2]? = some q →
          let dev := q.toNat % 1024
          let on : Packet := { p with
            dstDev := dev, dstLnum := q.toNat / 1024 % 512, key := q.toNat / 2 ^ 19 % 4096, req := Request.stc space off size v peers (k + 2),
            viaDev := s.dev.toNat, viaLnum := p.dstLnum, flowSeq := s.flowSeq.get (p.dstLnum * 1024 + dev) }
          ∃ out, u.packets = t.packets ++ [⟨on, p.dstLnum / 96 + 1, 64 + p.dstLnum / 8, out, 0⟩])
      ∧ (peers[k + 2]? = none → u.packets = (answered t 0 []).packets)))
  ∧ (∀ (s : State) (port : Nat) (p : Packet) (since : Word), s.reorder = [(port, .req p, since)] →
    let flow := p.viaDev * 512 + p.viaLnum
    let due := s.flowDone.get flow
    let gap := exec (.reorderGapTimeout p.viaDev p.viaLnum) s
    ((s.gtc - since).toNat < 60160 → gap = .next s)
    ∧ (60160 ≤ (s.gtc - since).toNat → s.flowLost = [] → due < 65536 → ∃ t, gap = .next t ∧ t.reorder = [] ∧ t.flowLost = []
        ∧ t.responses = s.responses ++ [(p.srcDev, p.id, 8 + hopOf p, [])] ∧ t.flowDone.get flow = (due + (p.flowSeq + 65536 - due) % 65536 + 1) % 65536
        ∧ t.mem = s.mem ∧ t.core = s.core))

/-! ### Platform and health -/

/-- R24, R353, R356–R358, R394–R406: device reset keeps only the fused counter; the boot takes its images in order and stops at
the first refusal; a report holds its fields; the port registers load key tables, slot tables and drop translations, and count what
they refuse; a router swaps its banks and sends by its slot; heat slows a cluster and then asks its tasks to leave; an error that a
scrub finds is counted or marked; a core, a channel pair and a lane are put out of service.
Where the spec is silent it rests on choices of the model: assumptions 5, 27, 28, 32, 33, 34, 50 and 59. -/
def Obligations.PlatformAndHealth : Prop :=
  (∀ (s : State) (v : ImageVerdict) (vs : List ImageVerdict) (n : Nat) (cert : ClientCert) (m : MgmtRequest),
    let ok : Prop := v.rsa = true ∧ v.slh = true ∧ v.keyHashes = true ∧ s.svn.toNat ≤ v.version
    let admitted : Prop := cert.chain = true ∧ cert.root = s.operatorRoot
    exec .deviceReset s = .next { State.reset with svn := s.svn, operatorRoot := s.operatorRoot }
    ∧ exec (.bootSequence []) s = .next s
    ∧ (s.boot = .rom → ok → exec (.bootSequence (v :: vs)) s = exec (.bootSequence vs) { s with boot := .images 1, measurements := s.measurements ++ [v.measurement] })
    ∧ (s.boot = .images n → n < 4 → ok → exec (.bootSequence (v :: vs)) s =
        exec (.bootSequence vs) { (if n = 1 then loadFirmware v s else s) with
          boot := if n = 3 then .os else .images (n + 1), measurements := s.measurements ++ [v.measurement] })
    ∧ (s.boot = .os → ok → exec (.bootSequence (v :: vs)) s = .next { s with boot := .running })
    ∧ (s.boot = .rom → ¬ok → exec (.bootSequence (v :: vs)) s = .next { s with boot := .refused 0, replies := s.replies ++ [[0#64]] })
    ∧ (s.boot = .images n → ¬ok → exec (.bootSequence (v :: vs)) s = .next { s with boot := .refused n, replies := s.replies ++ [[BitVec.ofNat 64 n]] })
    ∧ (s.boot = .os → ¬ok → exec (.bootSequence (v :: vs)) s = .next { s with boot := .refused 4, replies := s.replies ++ [[4#64]] })
    ∧ (s.boot = .refused n ∨ s.boot = .running → exec (.bootSequence (v :: vs)) s = .next s)
    ∧ (s.boot = .running → ok → exec (.imageVerify v) s = .next (loadFirmware v { s with images := s.images ++ [v.measurement] }))
    ∧ (¬ok → exec (.imageVerify v) s = .next s)
    ∧ (v.firmware = none → loadFirmware v s = s)
    ∧ (∀ bs, v.firmware = some bs → { loadFirmware v s with comms := s.comms } = s
        ∧ ∀ k < 24, (loadFirmware v s).comms.get k = { (default : CommProc) with sram := writeBytes [] 0 (bs.take 262144), firmware := some v.measurement })
    ∧ (s.boot = .refused n → exec (.attestationReport 5) s = .next s
        ∧ (ok → exec (.mgmtRequest ⟨cert, .recovery v⟩) s = .next { s with boot := .rom, measurements := [] })
        ∧ (¬ok → exec (.mgmtRequest ⟨cert, .recovery v⟩) s = .next s))
    ∧ (s.boot = .running → ∀ nonce, ∃ r, exec (.attestationReport nonce) s = .next { s with reports := s.reports ++ [r] }
        ∧ (admitted → exec (.mgmtRequest ⟨cert, .attest nonce⟩) s = .next { s with reports := s.reports ++ [r] })
        ∧ r.nonce = nonce ∧ r.devid = Config.deviceId ∧ r.svn = s.svn ∧ r.spare = s.spareMap
        ∧ r.meas.length = 8 ∧ ∀ k < 8, r.meas.getD k 0#384 = s.measurements.getD k 0#384)
    ∧ (s.boot = .running → ¬admitted → exec (.mgmtRequest ⟨cert, m⟩) s = .next s)
    ∧ (s.boot = .running → admitted → ∀ c,
        let reads (core n : Nat) : Word := ((focus (8 * c + core) s).sysreg n).getD 0#64
        exec (.mgmtRequest ⟨cert, .readMonitors c⟩) s = .next { s with replies := s.replies ++
          [[0x100, 0x101, 0x102, 0x103, 0x104, 0x105].map (reads 0) ++ [0, 1, 2, 3, 4, 5, 6, 7].map (fun k => reads k 0x106)] })
    ∧ (s.boot = .running → admitted → ∀ c a b, exec (.mgmtRequest ⟨cert, .setLimits c a b⟩) s =
        .next { s with clusters := s.clusters.set c { s.clusters.get c with throttleLimit := a, criticalLimit := b } }))
  ∧ (∀ (s : State) (w v : Word) (off n : Nat), s.boot ≠ .running →
    exec (.devidWrite w) s = .next s ∧ exec (.iodRegisterWrite ⟨off, n⟩ v) s = .next s ∧ exec (.taskenq w n) s = .next s ∧ exec (.fqheadWrite n) s = .next s
    ∧ exec (.taskDispatch n) s = .next s ∧ exec (.keyLoad w) s = .next s ∧ exec (.fabLoadBank w) s = .next s ∧ exec (.xltAll w) s = .next s)
  ∧ (∀ (s : State) (w : Word) (off size : Nat), s.boot = .running →
    let drops (hit : TlbEntry → Bool) : Tab (List TlbEntry) := s.tlbs.map (fun c => (c.1, c.2.filter (fun t => !hit t)))
    (s.dispatched = false → exec (.devidWrite w) s = .next { s with dev := w.setWidth 10 })
    ∧ (s.dispatched = true → exec (.devidWrite w) s = .next s)
    ∧ exec (.iodRegisterWrite ⟨0x10, 8⟩ w) s = .next { s with fqBase := w &&& ~~~0x3FFFF#64 }
    ∧ (size ≠ 8 ∨ off ≠ 0x10 → exec (.iodRegisterWrite ⟨off, size⟩ w) s = .next s)
    ∧ (∀ n, n ≠ 8 → s.iodRead off n = 0#64)
    ∧ s.iodRead 0x10 8 = s.fqBase ∧ s.iodRead 0x18 8 = BitVec.ofNat 64 s.fqHead ∧ s.iodRead 0x20 8 = BitVec.ofNat 64 s.fqTail
    ∧ s.iodRead 0x40 8 = s.xltDone ∧ s.iodRead 0x48 8 = s.dev.setWidth 64 ∧ s.iodRead 0x50 8 = s.portDone ∧ s.iodRead 0x58 8 = s.portErr
    ∧ (off ∉ [0x10, 0x18, 0x20, 0x40, 0x48, 0x50, 0x58] → s.iodRead off 8 = 0#64)
    ∧ (portOp w = 0 → ∀ c, keyPort w s = .error c → exec (.keyLoad w) s = .next { s with portErr := portErrWord s.portErr 0 c, portDone := portDoneWord s.portDone 0 })
    ∧ (portOp w = 1 → ∀ t, keyPort w s = .ok t → exec (.keyInvalidate w) s = .next { t with portDone := portDoneWord t.portDone 0 })
    ∧ (portOp w = 0 → ∀ t, keyPort w s = .ok t → exec (.keyLoad w) s = .next { t with portDone := portDoneWord t.portDone 0 })
    ∧ (portOp w = 0 → ∀ t, fabPort w s = .ok t → exec (.fabLoadBank w) s = .next { t with portDone := portDoneWord t.portDone 1 })
    ∧ (portOp w = 1 → ∀ t, fabPort w s = .ok t → exec (.fabSwap w) s = .next { t with portDone := portDoneWord t.portDone 1 })
    ∧ (∀ r, r < 5 → portOp w = 1 → portShape s w 2 2 = none → portDword s w 0 = 2 ^ r →
        exec (.fabSwap w) s = .next { s with slotTables := s.slotTables.set r { s.slotTables.get r with swapAt := (s.slotTables.get r).swapAt ++ [s.frameStart (portDword s w 1)] },
                                             portDone := portDoneWord s.portDone 1 })
    ∧ (portOp w ≠ 1 → portOp w ≠ 2 → ∀ hit, xltPort w s = .ok hit →
        exec (.xltRange w) s = .next { s with tlbs := drops hit, xltPending := s.xltPending + 1 })
    ∧ (portOp w = 1 → portShape s w 3 1 = none → portDword s w 0 < 4096 →
        exec (.xltTenant w) s = .next { s with tlbs := drops (fun t => t.tenant == portDword s w 0), xltPending := s.xltPending + 1 })
    ∧ (portOp w = 2 → portShape s w 3 0 = none → exec (.xltAll w) s = .next { s with tlbs := drops (fun _ => true), xltPending := s.xltPending + 1 })
    ∧ (s.xltPending ≠ 0 → s.xltQuiet = true → exec .xltInvalidationComplete s = .next { s with xltPending := s.xltPending - 1, xltDone := s.xltDone + 1 })
    ∧ (s.xltPending = 0 ∨ s.xltQuiet = false → exec .xltInvalidationComplete s = .next s)
    ∧ bits (portErrWord w 2 .field) 63 32 = min (bits w 63 32 + 1) (2 ^ 32 - 1) ∧ bits (portErrWord w 2 .field) 7 0 = 0x32)
  ∧ (∀ (s : State) (v : Nat), s.frameStart v % 768 = 0 ∧ v ≤ s.frameStart v ∧ s.gtc.toNat ≤ s.frameStart v ∧ s.frameStart v < max v s.gtc.toNat + 768)
  ∧ (∀ (s : State) (r o v : Nat) (f : Flight),
    let t := s.slotTables.get r
    let k := t.bank.get (32 * (s.gtc.toNat / 3 % 256) + o)
    (∀ later, t.swapAt = v :: later → v ≤ s.gtc.toNat → (∀ u ∈ later, s.gtc.toNat < u) →
        exec (.slotBankSwap r) s = .next { s with slotTables := s.slotTables.set r { t with active := !t.active, swapAt := later } })
    ∧ ((∀ u ∈ t.swapAt, s.gtc.toNat < u) → exec (.slotBankSwap r) s = .next s)
    ∧ (let send := exec (.fabricSlotSend r o) s
       let goes (n : Nat) : Prop := ∃ u, send = .next u ∧ u.core = s.core
         ∧ (f.sent + 1 < s.slotsFor f.pkt n → u.packets = [{ f with sent := f.sent + 1 }])
         ∧ (s.slotsFor f.pkt n ≤ f.sent + 1 →
             (n ≤ 4 → ∃ q, u.packets = [⟨f.pkt, n, r, q, 0⟩]) ∧ (4 < n → n < 64 → u.packets = []) ∧ (64 ≤ n → u.packets = [⟨f.pkt, n, r, 63, f.sent⟩]))
       let circuit : Prop := connV k = true ∧ (Config.inputOf r f.src).toNat = connInput k
         ∧ (if isCarry f.pkt then connCar k = true else connCar k = false ∧ connTenant k = f.pkt.tenant)
       s.packets = [f] → f.stop = r →
       (∀ n, circuit → f.along s r o = some n → goes n)
       ∧ (¬circuit → isCarry f.pkt = false → (Config.outputOf r f.out).toNat = o → goes f.out)
       ∧ (¬circuit → isCarry f.pkt = true → send = .next s)
       ∧ (f.along s r o = none → (Config.outputOf r f.out).toNat ≠ o → send = .next s)))
  ∧ (∀ (s : State) (c : Nat) (x : Sensors),
    let k := s.clusters.get c
    let at' (f : Cluster → Cluster) : State := { s with clusters := s.clusters.set c (f (k.sample s.gtc x)) }
    let hot : Prop := ∃ t ∈ x.temp, k.throttleLimit.toInt ≤ t.toInt
    (hot → exec (.thermalThrottle c x) s = .next (at' (fun k => { k with lowered := min (k.lowered + 1) 12 })))
    ∧ (¬hot → exec (.thermalThrottle c x) s = .next (at' id))
    ∧ (hot → exec (.hotSensorsClear c x) s = .next (at' id))
    ∧ (¬hot → exec (.hotSensorsClear c x) s = .next (at' (fun k => { k with lowered := 0, critHold := false })))
    ∧ (k.droopEvents ≠ BitVec.allOnes 32 → exec (.droopStretch c x) s = .next (at' (fun k => { k with droopEvents := k.droopEvents + 1, stretched := true })))
    ∧ (k.droopEvents = BitVec.allOnes 32 → exec (.droopStretch c x) s = .next (at' (fun k => { k with stretched := true })))
    ∧ (∀ j t, x.temp[j]? = some t → (k.sample s.gtc x).critSince[j]? =
        some (if k.criticalLimit.toInt ≤ t.toInt then some ((k.critSince.getD j none).getD s.gtc) else none))
    ∧ ((∀ t, some t ∈ k.critSince → (s.gtc - t).toNat < 940000) → exec (.thermalCritical c) s = .next s)
    ∧ (∀ since, some since ∈ k.critSince → 940000 ≤ (s.gtc - since).toNat →
        ∃ t, exec (.thermalCritical c) s = .next t ∧ (t.clusters.get c).critHold = true))
  ∧ (∀ (s : State) (st : Store) (n a : Nat),
    let word := (if st = .comm then 2 ^ 18 * n else 0) + a / 8 * 8
    let counted (s : State) (u : Bool) : State :=
      if st = .hbm then { s with pairErrors := s.pairErrors ++ [(paStack word, Config.channelPair word, s.gtc, u)] } else s
    let put (l : List (Store × Nat)) : List (Store × Nat) := (st, word) :: l.filter (· != (st, word))
    let told : State := { s with mgmtReports := s.mgmtReports ++ [(st, n, word)] }
    (coreStore st = true → n = s.lnum → exec (.scrubPass st n a .corrected) s = .next { s with core := s.core.countCorr })
    ∧ (coreStore st = true → n = s.lnum → exec (.scrubPass st n a .uncorrectable) s = .next { told with core := { s.core with marks := put s.core.marks } })
    ∧ (coreStore st = true → n = s.lnum → exec (.scrubPass st n a .upset) s = .next { s with core := { s.core with upsets := put s.core.upsets } })
    ∧ (coreStore st = false → exec (.scrubPass st n a .corrected) s = .next (counted s false))
    ∧ (coreStore st = false → exec (.scrubPass st n a .uncorrectable) s = .next (counted { told with marked := put s.marked } true))
    ∧ (coreStore st = false → exec (.scrubPass st n a .upset) s = .next { s with upset := put s.upset }))
  ∧ (∀ (s : State) (n c k : Nat),
    let cl := n / 8
    let x := s.clusters.get cl
    let stands (t : State) (n : Nat) : Prop :=
      let old := s.coreAt n
      t.coreAt n = (if old.mode = .halted then old.cleared none else old).withEcc (s.clusters.get (n / 8)).away ∧ ∀ m, m ≠ n → t.coreAt m = s.coreAt m
    (s.boot = .running → n = s.lnum → s.core.ctx = none → s.core.mode = .halted → x.spare = none → x.spareBad = false → x.unavailable = [] →
      s.retiring = [] → s.physOf n ≠ 8 →
        ∃ t, exec (.coreRetirement n) s = .next t ∧ t.retired = s.retired ++ [(cl, s.physOf n)] ∧ t.phys = s.phys.set n 9 ∧ stands t n
          ∧ t.clusters.get cl = { x with spare := some n, away := s.core.ecc } ∧ t.retiring = [] ∧ t.mem = s.mem)
    ∧ (s.boot = .rom → exec (.coreRetirement n) s = .next s)
    ∧ (let spares := s.hbmSpares.filter (fun p => p.1 == c)
       let mine := s.pairErrors.filter (fun e => e.1 == c && e.2.1 == k)
       let recent := mine.filter (fun e => !e.2.2.2 && decide ((s.gtc - e.2.2.1).toNat < 940000000))
       let due : Prop := (16 ≤ recent.length ∨ ∃ e ∈ mine, e.2.2.2 = true) ∧ spares.length < 2 ∧ (c, k, false) ∉ s.hbmSpares
       (due → exec (.hbmChannelSpare c k) s = .next { s with hbmSpares := s.hbmSpares ++ [(c, k, false)],
                                                             pairErrors := s.pairErrors.filter (fun e => !(e.1 == c && e.2.1 == k)) })
       ∧ (¬due → exec (.hbmChannelSpare c k) s = .next s))
    ∧ (s.hbmSpares = [(c, k, false)] → exec (.hbmSpareCopyDone c k) s = .next { s with hbmSpares := [(c, k, true)] })
    ∧ (s.lanes.get n + 1 < 3 → exec (.laneDrop n) s = .next { s with lanes := s.lanes.set n (s.lanes.get n + 1) })
    ∧ (3 ≤ s.lanes.get n → exec (.laneDrop n) s = .next { s with lanes := s.lanes.set n 3 })
    ∧ (n < 24 → s.lanes.get n = 2 → (∀ l ∈ s.left, l.1 = n → Config.onLink s.gtc.toNat l.2 = false) →
        ∃ t, exec (.laneDrop n) s = .next t ∧ t.lanes = s.lanes.set n 3 ∧ t.portWorks n = false
        ∧ t.packets.map (·.pkt) = s.packets.map (·.pkt) ∧ { t with packets := s.packets, lanes := s.lanes } = s
        ∧ ∀ f ∈ t.packets, f.stop = 0 → f.out ≠ 32 + n ∧ (f ∉ s.packets → f.out = 63 ∨ f.out ∈ t.nextStops 0 f.pkt))
    ∧ (∀ id w, s.lanes.get n = 2 → s.left = [(n, id)] → Config.onLink s.gtc.toNat id = true → s.waiting.find? (fun w => w.pkt.id == id) = some w →
        exec (.laneDrop n) s = .next (failPacket w 8 0 (State.reroute { s with lanes := s.lanes.set n 3 } n)))
    ∧ ((s.clusters.get c).spare = none → (s.clusters.get c).spareBad = false → k < 8 →
        ∃ t, exec (.recomputeSpareBind c ⟨k, []⟩) s = .next t ∧ t.phys = s.phys.set (8 * c + k) 9 ∧ stands t (8 * c + k)
          ∧ t.clusters.get c = { s.clusters.get c with spare := some (8 * c + k), recompute := true, away := (s.coreAt (8 * c + k)).ecc })
    ∧ (∀ ws, (s.clusters.get c).spare ≠ none ∨ (s.clusters.get c).spareBad = true ∨ 8 ≤ k → exec (.recomputeSpareBind c ⟨k, ws⟩) s = .next s)
    ∧ ((s.clusters.get c).spare = some n → n / 8 = c → (s.clusters.get c).recompute = true →
        ∃ t, exec (.recomputeSpareRelease ⟨c, [], none⟩) s = .next t ∧ t.phys = s.phys.set n 0 ∧ stands t n
          ∧ t.clusters.get c = { s.clusters.get c with spare := none, recompute := false, away := (s.coreAt n).ecc })
    ∧ ((s.clusters.get c).spare = none → exec (.recomputeSpareRelease ⟨c, [], none⟩) s = .next s
        ∧ ∀ tenant root, exec (.recomputeSpareRelease ⟨c, [], some (tenant, root)⟩) s = .next { s with
            unposted := s.unposted ++ [⟨0#64, 0#64, 0#64, root, peekAs s tenant (root + 0x24#64) 4,
                                        BitVec.ofNat 64 (peekAs s tenant (root + 0x28#64) 8), s.gtc⟩],
            noMajority := s.noMajority ++ [(tenant, root)] }))

/-- Every step keeps the canonical form of the memory: the listed addresses rise strictly, and no listed byte equals what an
unlisted address reads as.
Where the spec is silent it rests on choices of the model: assumption 2. -/
def Obligations.MemoryStaysCanonical : Prop :=
  ∀ s t : State, Memory.wf s.mem = true → step s = .next t → Memory.wf t.mem = true

end
end

