-- ==== Sys2Proof/Laws/Tab.lean ====
section
/-! SUPPORT. The laws of tables: reading after a write, the canonical form and what keeps it, and the same of memory. -/
namespace Sys2Proof.Laws
open Sys2Proof.Machine

variable {α : Type}

/-! ### Reading after a write -/

@[simp] theorem find?_nil (k : Nat) : Tab.find? ([] : Tab α) k = none := rfl

theorem find?_cons (a : Nat) (v : α) (m : Tab α) (k : Nat) :
    Tab.find? ((a, v) :: m) k = if a = k then some v else Tab.find? m k := rfl

theorem find?_filter_key (m : Tab α) (p : Nat → Bool) (k : Nat) :
    Tab.find? (m.filter (fun x => p x.1)) k = if p k then Tab.find? m k else none := by
  induction m with
  | nil => simp
  | cons x t ih =>
    obtain ⟨a, v⟩ := x
    simp only [List.filter_cons]
    by_cases h : a = k
    · subst h; cases hp : p a <;> simp [hp, find?_cons, ih]
    · cases hp : p a <;> simp [find?_cons, h, ih]

theorem find?_erase (m : Tab α) (k j : Nat) : Tab.find? (Tab.erase m k) j = if j = k then none else Tab.find? m j := by
  have h := find?_filter_key m (fun a => decide (a ≠ k)) j
  simp only [Tab.erase]
  rw [h]; by_cases hj : j = k <;> simp [hj]

theorem find?_insert (k : Nat) (v : α) (m : Tab α) (hk : Tab.find? m k = none) (j : Nat) :
    Tab.find? (Tab.insert k v m) j = if j = k then some v else Tab.find? m j := by
  induction m with
  | nil => simp [Tab.insert, find?_cons, eq_comm]
  | cons x t ih =>
    obtain ⟨a, w⟩ := x
    have hak : a ≠ k := by intro h; simp [find?_cons, h] at hk
    simp only [find?_cons, hak, if_false] at hk
    simp only [Tab.insert]
    split
    · simp only [find?_cons, ih hk]
      by_cases h : a = j
      · subst h; simp [hak]
      · simp [h]
    · simp only [find?_cons]
      by_cases h : k = j
      · subst h; simp
      · simp [h, Ne.symm h]

/-- A write is read where it was made, and nowhere else. -/
theorem get_set [Inhabited α] [DecidableEq α] (m : Tab α) (k : Nat) (v : α) (j : Nat) :
    Tab.get (Tab.set m k v) j = if j = k then v else Tab.get m j := by
  simp only [Tab.get, Tab.set]
  split
  · rename_i h; rw [find?_erase]; by_cases hj : j = k <;> simp [hj, h]
  · rw [Tab.put, find?_insert _ _ _ (by rw [find?_erase]; simp), find?_erase]
    by_cases hj : j = k <;> simp [hj]

@[simp] theorem get_set_same [Inhabited α] [DecidableEq α] (m : Tab α) (k : Nat) (v : α) : Tab.get (Tab.set m k v) k = v := by
  simp [get_set]

theorem get_set_other [Inhabited α] [DecidableEq α] (m : Tab α) {k j : Nat} (v : α) (h : j ≠ k) :
    Tab.get (Tab.set m k v) j = Tab.get m j := by
  simp [get_set, h]

/-! ### The canonical form -/

theorem rising_iff (m : Tab α) : Tab.rising m = true ↔ m.Pairwise (fun x y => x.1 < y.1) := by
  induction m with
  | nil => simp [Tab.rising]
  | cons x t ih =>
    cases t with
    | nil => simp [Tab.rising]
    | cons y t =>
      obtain ⟨a, v⟩ := x
      obtain ⟨b, w⟩ := y
      simp only [Tab.rising, Bool.and_eq_true, decide_eq_true_eq, ih, List.pairwise_cons, List.mem_cons]
      constructor
      · rintro ⟨h, h1, h2⟩
        refine ⟨?_, h1, h2⟩
        rintro z (rfl | hz)
        · exact h
        · exact lt_trans h (h1 z hz)
      · rintro ⟨h, h1, h2⟩
        exact ⟨h _ (Or.inl rfl), h1, h2⟩

/-- The canonical form: the keys rise, and no listed value is the default. -/
theorem wf_iff [Inhabited α] [DecidableEq α] (m : Tab α) :
    Tab.wf m = true ↔ m.Pairwise (fun x y => x.1 < y.1) ∧ ∀ x ∈ m, x.2 ≠ default := by
  simp [Tab.wf, rising_iff, List.all_eq_true]

@[simp] theorem wf_nil [Inhabited α] [DecidableEq α] : Tab.wf ([] : Tab α) = true := rfl

theorem wf_filter [Inhabited α] [DecidableEq α] {m : Tab α} (p : Nat × α → Bool) (h : Tab.wf m = true) :
    Tab.wf (m.filter p) = true := by
  rw [wf_iff] at *
  exact ⟨h.1.sublist List.filter_sublist, fun x hx => h.2 x (List.mem_filter.mp hx).1⟩

theorem mem_insert (k : Nat) (v : α) (m : Tab α) (x : Nat × α) : x ∈ Tab.insert k v m ↔ x = (k, v) ∨ x ∈ m := by
  induction m with
  | nil => simp [Tab.insert]
  | cons y t ih =>
    obtain ⟨a, w⟩ := y
    simp only [Tab.insert]
    split
    · simp only [List.mem_cons, ih]; tauto
    · simp only [List.mem_cons]

theorem pairwise_insert (k : Nat) (v : α) (m : Tab α) (h : m.Pairwise (fun x y => x.1 < y.1)) (hk : ∀ x ∈ m, x.1 ≠ k) :
    (Tab.insert k v m).Pairwise (fun x y => x.1 < y.1) := by
  induction m with
  | nil => simp [Tab.insert]
  | cons y t ih =>
    obtain ⟨a, w⟩ := y
    simp only [List.pairwise_cons] at h
    have hne : a ≠ k := hk (a, w) (by simp)
    simp only [Tab.insert]
    split
    · rename_i hlt
      refine List.pairwise_cons.mpr ⟨?_, ih h.2 (fun x hx => hk x (by simp [hx]))⟩
      intro x hx
      rcases (mem_insert k v t x).mp hx with rfl | hx
      · exact hlt
      · exact h.1 x hx
    · rename_i hlt
      have hka : k < a := by omega
      refine List.pairwise_cons.mpr ⟨?_, List.pairwise_cons.mpr h⟩
      intro x hx
      rcases List.mem_cons.mp hx with rfl | hx
      · exact hka
      · exact lt_trans hka (h.1 x hx)

/-- A write keeps the canonical form. -/
theorem wf_set [Inhabited α] [DecidableEq α] {m : Tab α} (k : Nat) (v : α) (h : Tab.wf m = true) : Tab.wf (Tab.set m k v) = true := by
  have he : Tab.wf (Tab.erase m k) = true := wf_filter _ h
  simp only [Tab.set]
  split
  · exact he
  · rename_i hv
    rw [wf_iff] at *
    refine ⟨pairwise_insert k v _ he.1 ?_, ?_⟩
    · intro x hx
      have := (List.mem_filter.mp hx).2
      simpa using this
    · intro x hx
      rcases (mem_insert k v _ x).mp hx with rfl | hx
      · exact hv
      · exact he.2 x hx

theorem wf_foldl_set [Inhabited α] [DecidableEq α] (l : List (Nat × α)) (m : Tab α) (h : Tab.wf m = true) :
    Tab.wf (l.foldl (fun t p => Tab.set t p.1 p.2) m) = true := by
  induction l generalizing m with
  | nil => exact h
  | cons x t ih => exact ih _ (wf_set _ _ h)

@[simp] theorem wf_clean [Inhabited α] [DecidableEq α] (m : Tab α) : Tab.wf (Tab.clean m) = true := by
  simp only [Tab.clean]
  split
  · assumption
  · exact wf_foldl_set _ _ rfl

theorem mem_set [Inhabited α] [DecidableEq α] {m : Tab α} {k : Nat} {v : α} {x : Nat × α} (h : x ∈ Tab.set m k v) :
    x = (k, v) ∨ x ∈ m := by
  simp only [Tab.set] at h
  split at h
  · exact Or.inr (List.mem_filter.mp h).1
  · rcases (mem_insert _ _ _ _).mp h with h | h
    · exact Or.inl h
    · exact Or.inr (List.mem_filter.mp h).1

/-- Cleaning lists no entry of its own. -/
theorem mem_clean [Inhabited α] [DecidableEq α] {m : Tab α} {x : Nat × α} (h : x ∈ Tab.clean m) : x ∈ m := by
  have key : ∀ (l : List (Nat × α)) (t : Tab α), x ∈ l.foldl (fun t p => Tab.set t p.1 p.2) t → x ∈ l ∨ x ∈ t := by
    intro l
    induction l with
    | nil => intro t h; exact Or.inr h
    | cons y l ih =>
      intro t h
      rcases ih _ h with h | h
      · exact Or.inl (by simp [h])
      · rcases mem_set h with rfl | h
        · exact Or.inl (by simp)
        · exact Or.inr h
  simp only [Tab.clean] at h
  split at h
  · exact h
  · simpa using key m [] h

/-- The keys of a slice lie where it was moved to. -/
theorem mem_slice {m : Tab α} {lo hi b : Nat} {x : Nat × α} (h : x ∈ Tab.slice m lo hi b) : b ≤ x.1 ∧ x.1 < b + (hi - lo) := by
  simp only [Tab.slice, List.mem_map, List.mem_filter, decide_eq_true_eq] at h
  obtain ⟨y, ⟨_, h1, h2⟩, rfl⟩ := h
  exact ⟨Nat.le_add_left _ _, by simp only; omega⟩

/-- A splice of a canonical part keeps the canonical form. -/
theorem wf_splice [Inhabited α] [DecidableEq α] {m p : Tab α} {lo hi : Nat} (h : Tab.wf m = true) (hp : Tab.wf p = true)
    (hk : ∀ x ∈ p, lo ≤ x.1 ∧ x.1 < hi) (hl : lo ≤ hi) : Tab.wf (Tab.splice m lo hi p) = true := by
  rw [wf_iff] at *
  simp only [Tab.splice]
  constructor
  · rw [List.pairwise_append, List.pairwise_append]
    refine ⟨⟨h.1.sublist List.filter_sublist, hp.1, ?_⟩, h.1.sublist List.filter_sublist, ?_⟩
    · intro x hx y hy
      have h1 := (List.mem_filter.mp hx).2
      have h2 := hk y hy
      simp only [decide_eq_true_eq] at h1
      omega
    · intro x hx y hy
      have h2 := (List.mem_filter.mp hy).2
      simp only [decide_eq_true_eq] at h2
      rcases List.mem_append.mp hx with hx | hx
      · have h1 := (List.mem_filter.mp hx).2
        simp only [decide_eq_true_eq] at h1
        omega
      · have h1 := hk x hx
        omega
  · intro x hx
    simp only [List.mem_append, List.mem_filter] at hx
    rcases hx with (hx | hx) | hx
    · exact h.2 x hx.1
    · exact hp.2 x hx
    · exact h.2 x hx.1

/-- Two canonical tables that read alike are equal. -/
theorem wf_ext [Inhabited α] [DecidableEq α] {m n : Tab α} (hm : Tab.wf m = true) (hn : Tab.wf n = true)
    (h : ∀ k, Tab.get m k = Tab.get n k) : m = n := by
  rw [wf_iff] at hm hn
  have found : ∀ (t : Tab α), t.Pairwise (fun x y => x.1 < y.1) → ∀ x ∈ t, Tab.find? t x.1 = some x.2 := by
    intro t
    induction t with
    | nil => intro _ x hx; simp at hx
    | cons y t ih =>
      intro ht x hx
      obtain ⟨a, w⟩ := y
      rw [List.pairwise_cons] at ht
      rcases List.mem_cons.mp hx with rfl | hx
      · simp [find?_cons]
      · have : a < x.1 := ht.1 x hx
        rw [find?_cons, if_neg (by omega)]
        exact ih ht.2 x hx
  have listed : ∀ (t : Tab α) (k : Nat) (v : α), Tab.find? t k = some v → (k, v) ∈ t := by
    intro t
    induction t with
    | nil => intro k v h; simp at h
    | cons y t ih =>
      intro k v h
      obtain ⟨a, w⟩ := y
      rw [find?_cons] at h
      split at h
      · rename_i hak; obtain rfl := Option.some.inj h; simp [hak]
      · exact List.mem_cons.mpr (Or.inr (ih k v h))
  have sub : ∀ (s t : Tab α), (∀ x ∈ s, x.2 ≠ default) → s.Pairwise (fun x y => x.1 < y.1) →
      (∀ k, Tab.get s k = Tab.get t k) → ∀ x ∈ s, x ∈ t := by
    intro s t hd hs h x hx
    have h1 : (Tab.find? s x.1).getD default = (Tab.find? t x.1).getD default := h x.1
    rw [found s hs x hx] at h1
    cases h2 : Tab.find? t x.1 with
    | none => rw [h2] at h1; exact absurd h1 (hd x hx)
    | some v => rw [h2] at h1; have := listed t x.1 v h2; rw [show x = (x.1, v) from Prod.ext rfl h1]; exact this
  have h1 := sub m n hm.2 hm.1 h
  have h2 := sub n m hn.2 hn.1 (fun k => (h k).symm)
  have nd : ∀ t : Tab α, t.Pairwise (fun x y => x.1 < y.1) → t.Nodup := by
    intro t ht
    refine ht.imp ?_
    rintro x y hxy rfl
    exact lt_irrefl _ hxy
  have perm := (List.perm_ext_iff_of_nodup (nd m hm.1) (nd n hn.1)).mpr (fun x => ⟨h1 x, h2 x⟩)
  exact perm.eq_of_pairwise (fun a b _ _ h1 h2 => absurd (lt_trans h1 h2) (lt_irrefl _)) hm.1 hn.1

/-! ### Bytes -/

theorem get_writeBytes (bs : List Byte) (m : Tab Byte) (a x : Nat) :
    Tab.get (writeBytes m a bs) x = if a ≤ x ∧ x < a + bs.length then bs.getD (x - a) 0#8 else Tab.get m x := by
  induction bs generalizing m a with
  | nil => simp only [writeBytes, List.length_nil]; rw [if_neg (by omega)]
  | cons b t ih =>
    simp only [writeBytes, ih, get_set, List.length_cons]
    by_cases h1 : x = a
    · subst h1; simp
    · by_cases h2 : a + 1 ≤ x ∧ x < a + 1 + t.length
      · rw [if_pos h2, if_pos (by omega)]
        have : x - a = (x - (a + 1)) + 1 := by omega
        rw [this, List.getD_cons_succ]
      · rw [if_neg h2, if_neg h1, if_neg (by omega)]

theorem get_writeLE (n v : Nat) (m : Tab Byte) (a x : Nat) :
    Tab.get (writeLE m a n v) x = if a ≤ x ∧ x < a + n then BitVec.ofNat 8 (v / 256 ^ (x - a)) else Tab.get m x := by
  induction n generalizing m a v with
  | zero => simp only [writeLE]; rw [if_neg (by omega)]
  | succ n ih =>
    simp only [writeLE, ih, get_set]
    by_cases h1 : x = a
    · subst h1
      rw [if_neg (by omega), if_pos rfl, if_pos (by omega)]
      simp
    · by_cases h2 : a + 1 ≤ x ∧ x < a + 1 + n
      · rw [if_pos h2, if_pos (by omega)]
        have : x - a = (x - (a + 1)) + 1 := by omega
        rw [this, pow_succ, mul_comm, Nat.div_div_eq_div_mul]
      · rw [if_neg h2, if_neg h1, if_neg (by omega)]

theorem readLE_lt (m : Tab Byte) (a n : Nat) : readLE m a n < 256 ^ n := by
  induction n generalizing a with
  | zero => simp [readLE]
  | succ n ih =>
    have h1 := (Tab.get m a).isLt
    have h2 := ih (a + 1)
    simp only [readLE, pow_succ]
    omega

/-- A number reads the bytes that it covers, and no others. -/
theorem readLE_congr {m m' : Tab Byte} {a n : Nat} (h : ∀ x, a ≤ x → x < a + n → Tab.get m x = Tab.get m' x) :
    readLE m a n = readLE m' a n := by
  induction n generalizing a with
  | zero => rfl
  | succ n ih =>
    simp only [readLE]
    rw [h a (le_refl _) (by omega), ih (fun x h1 h2 => h x (by omega) (by omega))]

/-- A number is read back as it was written (R3). -/
theorem readLE_writeLE (m : Tab Byte) (a n v : Nat) : readLE (writeLE m a n v) a n = v % 256 ^ n := by
  induction n generalizing m a v with
  | zero => simp [readLE, Nat.mod_one]
  | succ n ih =>
    have h1 : Tab.get (writeLE m a (n + 1) v) a = BitVec.ofNat 8 v := by
      rw [get_writeLE, if_pos (by omega)]; simp
    simp only [readLE, h1]
    have h2 : (256 : Nat) ^ (n + 1) = 256 * 256 ^ n := by rw [pow_succ, mul_comm]
    have h3 := ih (Tab.set m a (BitVec.ofNat 8 v)) (a + 1) (v / 256)
    simp only [writeLE] at h3 ⊢
    rw [h3, h2, Nat.mod_mul]
    simp

theorem wf_writeBytes (bs : List Byte) {m : Tab Byte} (a : Nat) (h : Tab.wf m = true) : Tab.wf (writeBytes m a bs) = true := by
  induction bs generalizing m a with
  | nil => exact h
  | cons b t ih => exact ih _ (wf_set _ _ h)

theorem wf_writeLE (n v : Nat) {m : Tab Byte} (a : Nat) (h : Tab.wf m = true) : Tab.wf (writeLE m a n v) = true := by
  induction n generalizing m a v with
  | zero => exact h
  | succ n ih => exact ih _ _ (wf_set _ _ h)

/-! ### Memory -/

/-- Nothing is listed right after reset. -/
@[simp] theorem reset_mem_wf : Memory.wf State.reset.mem = true := rfl

/-- A committed write keeps the canonical form. -/
theorem wf_writePhys (s : State) (pa : Nat) (bs : List Byte) (h : Memory.wf s.mem = true) : Memory.wf (s.writePhys pa bs).mem = true :=
  wf_writeBytes bs pa h

theorem wf_writePhysLE (s : State) (pa n v : Nat) (h : Memory.wf s.mem = true) : Memory.wf (s.writePhysLE pa n v).mem = true :=
  wf_writePhys s pa _ h

/-- A save's part of memory keeps the canonical form. -/
theorem wf_spliced {m : Tab Byte} (img : Tab Byte) (pa off k : Nat) (h : Tab.wf m = true) :
    Tab.wf (Tab.splice m pa (pa + k) (Tab.clean (Tab.slice img off (off + k) pa))) = true := by
  refine wf_splice h (wf_clean _) ?_ (by omega)
  intro x hx
  have := mem_slice (mem_clean hx)
  omega

/-- A committed write changes the bytes that it covers, and no others (R137). -/
theorem get_writePhys (s : State) (pa : Nat) (bs : List Byte) (x : Nat) :
    Tab.get (s.writePhys pa bs).mem x = if pa ≤ x ∧ x < pa + bs.length then bs.getD (x - pa) 0#8 else Tab.get s.mem x :=
  get_writeBytes bs s.mem pa x

end Sys2Proof.Laws
end

