-- ==== Sys2Proof/Laws/Focus.lean ====
section
/-! SUPPORT. What bringing a core into focus does, said once: it moves the record of one core and changes nothing else. -/
namespace Sys2Proof.Laws
open Sys2Proof.Machine

@[simp] theorem focus_self (s : State) : focus s.lnum s = s := by simp [focus]

@[simp] theorem focus_lnum (n : Nat) (s : State) : (focus n s).lnum = n := by
  simp only [focus]; split
  · rename_i h; exact h.symm
  · rfl

theorem within_self (f : State → State) (s : State) : within s.lnum f s = focus s.lnum (f s) := by simp [within]

@[simp] theorem focus_core (n : Nat) (s : State) : (focus n s).core = s.coreAt n := by
  simp only [focus, State.coreAt]; split <;> simp_all

@[simp] theorem coreAt_lnum (s : State) : s.coreAt s.lnum = s.core := by simp [State.coreAt]

/-- Every core keeps its record, wherever the focus is. -/
@[simp] theorem coreAt_focus (n m : Nat) (s : State) : (focus n s).coreAt m = s.coreAt m := by
  by_cases hn : n = s.lnum
  · subst hn; simp
  · by_cases hm : m = n
    · subst hm; simp [State.coreAt]
    · have h1 : (focus n s).coreAt m = (Tab.find? (Tab.put (Tab.erase s.others n) s.lnum s.core) m).getD Core.reset := by
        simp only [focus, if_neg hn, State.coreAt, if_neg hm]
      rw [h1, Tab.put, find?_insert _ _ _ (by simp [find?_erase]), find?_erase, find?_erase]
      by_cases hl : m = s.lnum
      · subst hl; simp
      · simp [State.coreAt, hl, hm]

@[simp] theorem focus_mem (n : Nat) (s : State) : (focus n s).mem = s.mem := by simp only [focus]; split <;> rfl
@[simp] theorem focus_gtc (n : Nat) (s : State) : (focus n s).gtc = s.gtc := by simp only [focus]; split <;> rfl
@[simp] theorem focus_dev (n : Nat) (s : State) : (focus n s).dev = s.dev := by simp only [focus]; split <;> rfl
@[simp] theorem focus_unit (n : Nat) (s : State) : (focus n s).unit = s.unit := by simp only [focus]; split <;> rfl
@[simp] theorem focus_waiting (n : Nat) (s : State) : (focus n s).waiting = s.waiting := by simp only [focus]; split <;> rfl
@[simp] theorem focus_packets (n : Nat) (s : State) : (focus n s).packets = s.packets := by simp only [focus]; split <;> rfl
@[simp] theorem focus_hyps (n : Nat) (s : State) : (focus n s).hyps = s.hyps := by simp only [focus]; split <;> rfl
@[simp] theorem focus_pools (n : Nat) (s : State) : (focus n s).pools = s.pools := by simp only [focus]; split <;> rfl
@[simp] theorem focus_saves (n : Nat) (s : State) : (focus n s).saves = s.saves := by simp only [focus]; split <;> rfl
@[simp] theorem focus_clusters (n : Nat) (s : State) : (focus n s).clusters = s.clusters := by simp only [focus]; split <;> rfl
@[simp] theorem focus_unposted (n : Nat) (s : State) : (focus n s).unposted = s.unposted := by simp only [focus]; split <;> rfl

/-- An operation on another core that keeps the memory in canonical form keeps it. -/
theorem wf_within {n : Nat} {f : State → State} {s : State} (hf : ∀ t : State, Memory.wf t.mem = true → Memory.wf (f t).mem = true)
    (h : Memory.wf s.mem = true) : Memory.wf (within n f s).mem = true := by
  simp only [within, focus_mem]
  exact hf _ (by simpa using h)

end Sys2Proof.Laws
end

