-- ==== Sys2Proof/Laws/Issue.lean ====
section
/-! SUPPORT. What issuing and retiring a word does, said once: the state after its ring waits, what `retire` leaves as it
is, and that a ready word whose effect is an issue completes. -/
namespace Sys2Proof.Laws
open Sys2Proof.Machine Sys2Proof.Safety

/-! ### Ring waits and signals leave everything else as it is -/

@[simp] theorem stillCore_popToken (c : Core) (n : Nat) : stillCore (c.popToken n) = stillCore c := rfl
@[simp] theorem stillCore_pushToken (c : Core) (n : Nat) (h : BitVec 8) : stillCore (c.pushToken n h) = stillCore c := rfl
@[simp] theorem stillCore_reserveToken (c : Core) (n : Nat) : stillCore (c.reserveToken n) = stillCore c := rfl
@[simp] theorem stillCore_unreserveToken (c : Core) (n : Nat) : stillCore (c.unreserveToken n) = stillCore c := rfl

@[simp] theorem stillCore_takeWaits (c : Core) (u : Sqr) (r : BitVec 4) : stillCore (c.takeWaits u r) = stillCore c := by
  simp only [Core.takeWaits]; split <;> split <;> rfl
@[simp] theorem stillCore_giveSignals (c : Core) (u : Sqr) (r : BitVec 4) (h : BitVec 8) :
    stillCore (c.giveSignals u r h) = stillCore c := by
  simp only [Core.giveSignals]; split <;> split <;> rfl
@[simp] theorem stillCore_reserveSignals (c : Core) (u : Sqr) (r : BitVec 4) :
    stillCore (c.reserveSignals u r) = stillCore c := by
  simp only [Core.reserveSignals]; split <;> split <;> rfl

theorem standing_of_still {c d : Core} (h : c.pc = d.pc ∧ c.ae = d.ae ∧ c.me = d.me ∧ c.se = d.se ∧ c.ve = d.ve) :
    standing c = standing d := by
  obtain ⟨h0, h1, h2, h3, h4⟩ := h
  simp [standing, engineStanding, h0, h1, h2, h3, h4]

@[simp] theorem standing_giveSignals (c : Core) (u : Sqr) (r : BitVec 4) (h : BitVec 8) :
    standing (c.giveSignals u r h) = standing c := by
  simp only [Core.giveSignals]; split <;> split <;> rfl

/-! ### Retirement -/

theorem still_giveRing (i : Instr) (u : Sqr) (h : BitVec 8) (s : State) : still (giveRing i u h s) = still s := by
  simp only [giveRing]
  split
  · rfl
  · split
    · simp only [still, Core.reserveSignals]; split <;> split <;> rfl
    · split
      · simp only [still, Core.reserveSignals]
        split <;> split <;>
          simp [stillCore, Core.reserveToken, List.filter_append, noSignal, signalEntry]
      · simp [still]

/-- The engines of a core, and the PC, as the ring signals leave them. -/
theorem giveRing_engines (i : Instr) (u : Sqr) (h : BitVec 8) (s : State) :
    (giveRing i u h s).core.pc = s.core.pc ∧ (giveRing i u h s).core.ae = s.core.ae ∧ (giveRing i u h s).core.me = s.core.me
      ∧ (giveRing i u h s).core.se = s.core.se ∧ (giveRing i u h s).core.ve = s.core.ve := by
  simp only [giveRing]
  split
  · simp
  · split
    · simp only [Core.reserveSignals]; split <;> split <;> simp [Core.reserveToken]
    · split
      · simp only [Core.reserveSignals]; split <;> split <;> simp [Core.reserveToken]
      · simp only [Core.giveSignals]; split <;> split <;> simp [Core.pushToken]

/-- Advancing moves nothing but where sequencers stand. -/
theorem stillCore_advance (c : Core) (u : Sqr) (a : Nat) (k : Ctl) : stillCore ((c.issued u).advance u a k) = stillCore c := by
  have key : ∀ (c : Core) (f : Engine → Engine), (∀ e, stillEngine (f e) = stillEngine e) →
      stillCore (c.mapEng u f) = stillCore c := by
    intro c f hf
    cases u <;> simp [Core.mapEng, Core.setEng, Core.eng, stillCore, hf]
  have adv : ∀ (l : List Nat) (e : Engine) (a : Nat), stillEngine (loopsAt e a l).1 = stillEngine e := by
    intro l
    induction l with
    | nil => intro e a; rfl
    | cons n t ih =>
      intro e a
      simp only [loopsAt]
      split
      · exact ih e a
      · split
        · rw [ih]; rfl
        · rfl
  have adv' : ∀ (e : Engine) (a t : Nat), stillEngine (e.advance a t) = stillEngine e := by
    intro e a t
    have h := adv e.loopOrder e a
    have : stillEngine (e.advance a t) = stillEngine (loopsAt e a e.loopOrder).1 := rfl
    rw [this, h]
  have iss : stillCore (c.issued u) = stillCore c := by
    simp only [Core.issued, stillCore]
  cases k <;> cases u <;> simp only [Core.advance] <;>
    first
    | exact iss
    | (rw [key _ _ (fun e => adv' e _ _)]; exact iss)

/-- The engines and the PC of a core decide where its sequencers stand after an advance. -/
theorem standing_advance_congr {c d : Core} (u : Sqr) (a : Nat) (k : Ctl)
    (h : c.pc = d.pc ∧ c.ae = d.ae ∧ c.me = d.me ∧ c.se = d.se ∧ c.ve = d.ve) :
    standing ((c.issued u).advance u a k) = standing (d.advance u a k) := by
  obtain ⟨h0, h1, h2, h3, h4⟩ := h
  cases k <;> cases u <;>
    simp [Core.advance, Core.issued, Core.mapEng, Core.setEng, Core.eng, standing, engineStanding, h0, h1, h2, h3, h4]

/-! ### Completion -/

theorem issueWith_ready {pre : State → Option Flt} {i : Instr} {body : State → WordResult} {s : State}
    (h : issues s i) (hp : pre s = none) : issueWith pre i body s = finishWord i s (body (takeRing i s)) := by
  obtain ⟨hr, hg⟩ := h
  simp only [State.ready, Bool.and_eq_true, Bool.or_eq_true, Bool.not_eq_true', Option.isNone_iff_eq_none, beq_iff_eq] at hr
  obtain ⟨⟨⟨⟨⟨⟨ha, hm⟩, he⟩, hs⟩, hd⟩, hb⟩, hn⟩ := hr
  simp only [issueWith, ha, hm, hn, Bool.not_true, Bool.false_eq_true, if_false, he]
  rcases hs with hs | hs <;> simp [hs, hd, hp, hb, guardedBody, hg]

/-- The places of the engines and the PC that a core keeps. -/
def sameUnits (c d : Core) : Prop := c.pc = d.pc ∧ c.ae = d.ae ∧ c.me = d.me ∧ c.se = d.se ∧ c.ve = d.ve

theorem sameUnits_trans {a b c : Core} (h : sameUnits a b) (k : sameUnits b c) : sameUnits a c :=
  ⟨h.1.trans k.1, h.2.1.trans k.2.1, h.2.2.1.trans k.2.2.1, h.2.2.2.1.trans k.2.2.2.1, h.2.2.2.2.trans k.2.2.2.2⟩

theorem sameUnits_foldl {α : Type} (f : Core → α → Core) (hf : ∀ c a, sameUnits (f c a) c) (l : List α) (c : Core) :
    sameUnits (l.foldl f c) c := by
  induction l generalizing c with
  | nil => exact ⟨rfl, rfl, rfl, rfl, rfl⟩
  | cons a t ih => exact sameUnits_trans (ih _) (hf c a)

theorem sameUnits_setBuf (c : Core) (space : Nat) (m : Tab Byte) : sameUnits (c.setBuf space m) c := by
  unfold Core.setBuf; split <;> exact ⟨rfl, rfl, rfl, rfl, rfl⟩

theorem sameUnits_landWrite (c : Core) (w : VWrite) : sameUnits (c.landWrite w) c := by
  unfold Core.landWrite Core.putNibble Core.putBytes
  simp only []
  split <;> exact sameUnits_setBuf _ _ _

theorem sameUnits_fillSignals (c : Core) (u : Sqr) (sb sa : Bool) (h : BitVec 8) : sameUnits (c.fillSignals u sb sa h) c := by
  have hp (c : Core) (n : Nat) : sameUnits ((c.unreserveToken n).pushToken n h) c :=
    sameUnits_trans (b := c.unreserveToken n) ⟨rfl, rfl, rfl, rfl, rfl⟩ ⟨rfl, rfl, rfl, rfl, rfl⟩
  have hr (c : Core) : sameUnits c c := ⟨rfl, rfl, rfl, rfl, rfl⟩
  cases sb <;> cases sa
  · exact hr c
  · exact hp c _
  · exact hp c _
  · exact sameUnits_trans (hp _ _) (hp c _)

theorem sameUnits_vRetire (c : Core) : sameUnits c.vRetire c := by
  unfold Core.vRetire
  refine sameUnits_trans (sameUnits_foldl _ (fun c r => ?_) _ _) ⟨rfl, rfl, rfl, rfl, rfl⟩
  exact sameUnits_trans (sameUnits_fillSignals _ _ _ _ _) ⟨rfl, rfl, rfl, rfl, rfl⟩

theorem sameUnits_landAll (c : Core) (ws : List VWrite) : sameUnits (c.landAll ws) c := by
  have h := sameUnits_foldl Core.landWrite sameUnits_landWrite
    ((ws.filter (fun w => !w.windowed && !w.landed)).filter (fun w => !w.sf) ++ (ws.filter (fun w => !w.windowed && !w.landed)).filter (·.sf)) c
  exact sameUnits_trans ⟨rfl, rfl, rfl, rfl, rfl⟩ h

/-- A step of the vector engine moves no sequencer. -/
theorem sameUnits_vStep (c : Core) : sameUnits c.vStep c :=
  sameUnits_trans (sameUnits_vRetire _) (sameUnits_trans (sameUnits_landAll _ _) ⟨rfl, rfl, rfl, rfl, rfl⟩)

theorem sameUnits_stepAfter (u : Sqr) (s : State) : sameUnits (stepAfter u s).core s.core := by
  unfold stepAfter
  split
  · exact sameUnits_vStep _
  · exact ⟨rfl, rfl, rfl, rfl, rfl⟩

theorem still_advance (s : State) (u : Sqr) (a : Nat) (k : Ctl) :
    still { s with core := (s.core.issued u).advance u a k } = still s :=
  congrArg (fun c => { s with core := c }) (stillCore_advance s.core u a k)

/-- The instruction cache is all that `noteFetch` changes. -/
theorem stillCore_noteFetch (i : Instr) (b : State) (k : Ctl) (c : Core) : stillCore (noteFetch i b k c) = stillCore c := by
  unfold noteFetch; split <;> rfl

theorem standing_noteFetch (i : Instr) (b : State) (k : Ctl) (c : Core) : standing (noteFetch i b k c) = standing c := by
  unfold noteFetch; split <;> rfl

/-- An issue, seen through `noteFetch`, moves nothing else. -/
theorem still_issued (i : Instr) (b : State) (k : Ctl) (s : State) (u : Sqr) (a : Nat) :
    still { s with core := noteFetch i b k ((s.core.issued u).advance u a k) } = still s :=
  (congrArg (fun c => { s with core := c }) (stillCore_noteFetch i b k _)).trans (still_advance s u a k)

/-- What `retire` leaves: everything but what an issue moves, and control advanced. -/
theorem still_retire (i : Instr) (b : State) (k : Ctl) (s : State) : still (retire i b k s) = still s := by
  cases k <;> first
    | exact still_issued i b _ s _ _
    | exact (still_issued i b _ (giveRing i b.unit _ s) _ _).trans (still_giveRing _ _ _ _)

theorem standing_retire (i : Instr) (b : State) (k : Ctl) (s : State) :
    standing (retire i b k s).core = standing (s.core.advance b.unit b.baseAddr k) := by
  cases k <;> simp only [retire] <;>
    first
    | exact (standing_noteFetch _ _ _ _).trans (standing_advance_congr _ _ _ ⟨rfl, rfl, rfl, rfl, rfl⟩)
    | exact (standing_noteFetch _ _ _ _).trans (standing_advance_congr _ _ _ (giveRing_engines _ _ _ _))

theorem standing_advance_same {c d : Core} (h : sameUnits c d) (u : Sqr) (a : Nat) (k : Ctl) :
    standing (c.advance u a k) = standing (d.advance u a k) := by
  obtain ⟨h0, h1, h2, h3, h4⟩ := h
  cases k <;> cases u <;>
    simp [Core.advance, Core.mapEng, Core.setEng, Core.eng, standing, engineStanding, h0, h1, h2, h3, h4]

/-- A word whose meaning is an issue completes with the effect of its body. -/
theorem completes_issue {i : Instr} {body : State → WordResult} {s e : State} {k : Ctl} (h : issues s i)
    (hx : exec i s = .next (issue i body s)) (hb : body (takeRing i s) = .ok e k) : completes s i k e := by
  have hf : issue i body s = retire i s k (stepAfter s.unit e) := by
    refine (issueWith_ready h rfl).trans ?_
    simp only [hb]
    rfl
  refine ⟨_, hx, ?_, ?_⟩
  · rw [hf, still_retire]
  · rw [hf, standing_retire]
    exact standing_advance_same (sameUnits_stepAfter _ _) _ _ _

/-- The same for a word with a check of its own before its ring waits. -/
theorem completes_issueWith {pre : State → Option Flt} {i : Instr} {body : State → WordResult} {s e t : State} {k : Ctl}
    (h : issues s i) (hx : exec i s = .next (issueWith pre i body s)) (hp : pre s = none)
    (hb : body (takeRing i s) = .ok t k) (ht : t = stepAfter s.unit e) : completes s i k e := by
  have hf : issueWith pre i body s = retire i s k (stepAfter s.unit e) := by
    rw [issueWith_ready h hp, hb, ht]; rfl
  refine ⟨_, hx, ?_, ?_⟩
  · rw [hf, still_retire]
  · rw [hf, standing_retire]
    exact standing_advance_same (sameUnits_stepAfter _ _) _ _ _

/-! ### The state after the ring waits -/

theorem takeWaits_fields (c : Core) (u : Sqr) (r : BitVec 4) :
    (c.takeWaits u r).x = c.x ∧ sameUnits (c.takeWaits u r) c ∧ (c.takeWaits u r).g = c.g ∧ (c.takeWaits u r).pfx = c.pfx := by
  unfold Core.takeWaits sameUnits
  split <;> split <;> simp [Core.popToken]

@[simp] theorem takeRing_unit (i : Instr) (s : State) : (takeRing i s).unit = s.unit := rfl
@[simp] theorem takeRing_mem (i : Instr) (s : State) : (takeRing i s).mem = s.mem := rfl

theorem sameUnits_takeRing (i : Instr) (s : State) : sameUnits (takeRing i s).core s.core := by
  have h := (takeWaits_fields s.core s.unit i.ring).2.1
  simp only [takeRing]
  split
  · exact sameUnits_trans ⟨rfl, rfl, rfl, rfl, rfl⟩ h
  · exact h

theorem takeRing_x (i : Instr) (s : State) : (takeRing i s).core.x = s.core.x := by
  have h := (takeWaits_fields s.core s.unit i.ring).1
  simp only [takeRing]
  split <;> exact h

@[simp] theorem takeRing_reg (i : Instr) (s : State) (n : Nat) : (takeRing i s).reg n = s.reg n := by
  obtain ⟨_, h1, h2, h3, h4⟩ := sameUnits_takeRing i s
  have hx := takeRing_x i s
  simp only [State.reg, Core.reg, takeRing_unit]
  split
  · rfl
  · cases s.unit <;> simp [Core.eng, hx, h1, h2, h3, h4]

@[simp] theorem takeRing_r5 (i : Instr) (s : State) {n : Nat} (f : BitVec n) : (takeRing i s).r5 f = s.r5 f :=
  takeRing_reg i s f.toNat

@[simp] theorem takeRing_pfx (i : Instr) (s : State) : (takeRing i s).pfx = s.pfx := by
  have h := (takeWaits_fields s.core s.unit i.ring).2.2.2
  have : (takeRing i s).core.pfx = s.core.pfx := by
    simp only [takeRing]; split <;> exact h
  simp [State.pfx, this]

@[simp] theorem takeRing_immS (i : Instr) (s : State) {n : Nat} (b : BitVec n) : (takeRing i s).immS b = s.immS b := by
  simp [State.immS]
@[simp] theorem takeRing_immU (i : Instr) (s : State) {n : Nat} (b : BitVec n) : (takeRing i s).immU b = s.immU b := by
  simp [State.immU]

theorem takeRing_g (i : Instr) (s : State) : (takeRing i s).core.g = s.core.g := by
  have h := (takeWaits_fields s.core s.unit i.ring).2.2.1
  simp only [takeRing]; split <;> exact h

@[simp] theorem takeRing_gd (i : Instr) (s : State) (n : BitVec 5) : (takeRing i s).gd n = s.gd n := by
  simp [State.gd, Core.guard, takeRing_g]

/-- Waiting on the ring leaves everything but what an issue moves. -/
@[simp] theorem still_takeRing (i : Instr) (s : State) : still (takeRing i s) = still s := by
  have h := stillCore_takeWaits s.core s.unit i.ring
  simp only [takeRing, still]
  split
  · exact congrArg (fun c => { s with core := c }) (Eq.trans rfl h)
  · exact congrArg (fun c => { s with core := c }) h

end Sys2Proof.Laws
end

