-- ==== Sys2Proof/Laws/PerInstr.lean ====
section
/-! SUPPORT. One lemma for each constructor: the word of an instruction has 32 bits (R32). -/
namespace Sys2Proof.Laws.EncodeFits

/-- The word of an instruction has 32 bits; an event has no word. -/
def Statement (i : Instr) : Prop := ∀ w, encode i = some w → w < 2 ^ 32

/-- A word below 2^32 is the only one that its instruction has. -/
theorem of_some {i : Instr} {n : Nat} (h : encode i = some n) (hn : n < 2 ^ 32) : Statement i := by
  intro w hw
  rw [h] at hw
  exact Option.some.inj hw ▸ hn

/-- An event has no word. -/
theorem of_none {i : Instr} (h : encode i = none) : Statement i := by
  intro w hw
  rw [h] at hw
  exact nomatch hw

theorem nop v0 : Statement (.nop v0) := of_some rfl (by omega)
theorem trap v0 v1 : Statement (.trap v0 v1) := of_some rfl (by omega)
theorem sysr v0 v1 v2 : Statement (.sysr v0 v1 v2) := of_some rfl (by omega)
theorem sysw v0 v1 v2 : Statement (.sysw v0 v1 v2) := of_some rfl (by omega)
theorem ckpt v0 v1 : Statement (.ckpt v0 v1) := of_some rfl (by omega)
theorem stamp v0 : Statement (.stamp v0) := of_some rfl (by omega)
theorem extI v0 : Statement (.extI v0) := of_some rfl (by omega)
theorem extM v0 v1 v2 v3 : Statement (.extM v0 v1 v2 v3) := of_some rfl (by omega)
theorem add v0 v1 v2 v3 : Statement (.add v0 v1 v2 v3) := of_some rfl (by omega)
theorem sub v0 v1 v2 v3 : Statement (.sub v0 v1 v2 v3) := of_some rfl (by omega)
theorem and v0 v1 v2 v3 : Statement (.and v0 v1 v2 v3) := of_some rfl (by omega)
theorem or v0 v1 v2 v3 : Statement (.or v0 v1 v2 v3) := of_some rfl (by omega)
theorem xor v0 v1 v2 v3 : Statement (.xor v0 v1 v2 v3) := of_some rfl (by omega)
theorem andn v0 v1 v2 v3 : Statement (.andn v0 v1 v2 v3) := of_some rfl (by omega)
theorem minI64 v0 v1 v2 v3 : Statement (.minI64 v0 v1 v2 v3) := of_some rfl (by omega)
theorem maxI64 v0 v1 v2 v3 : Statement (.maxI64 v0 v1 v2 v3) := of_some rfl (by omega)
theorem minN64 v0 v1 v2 v3 : Statement (.minN64 v0 v1 v2 v3) := of_some rfl (by omega)
theorem maxN64 v0 v1 v2 v3 : Statement (.maxN64 v0 v1 v2 v3) := of_some rfl (by omega)
theorem addI32 v0 v1 v2 v3 : Statement (.addI32 v0 v1 v2 v3) := of_some rfl (by omega)
theorem subI32 v0 v1 v2 v3 : Statement (.subI32 v0 v1 v2 v3) := of_some rfl (by omega)
theorem clz v0 v1 v2 : Statement (.clz v0 v1 v2) := of_some rfl (by omega)
theorem ctz v0 v1 v2 : Statement (.ctz v0 v1 v2) := of_some rfl (by omega)
theorem popc v0 v1 v2 : Statement (.popc v0 v1 v2) := of_some rfl (by omega)
theorem addsI64 v0 v1 v2 v3 : Statement (.addsI64 v0 v1 v2 v3) := of_some rfl (by omega)
theorem addi v0 v1 v2 v3 : Statement (.addi v0 v1 v2 v3) := of_some rfl (by omega)
theorem andi v0 v1 v2 v3 : Statement (.andi v0 v1 v2 v3) := of_some rfl (by omega)
theorem ori v0 v1 v2 v3 : Statement (.ori v0 v1 v2 v3) := of_some rfl (by omega)
theorem xori v0 v1 v2 v3 : Statement (.xori v0 v1 v2 v3) := of_some rfl (by omega)
theorem slti v0 v1 v2 v3 : Statement (.slti v0 v1 v2 v3) := of_some rfl (by omega)
theorem sltiu v0 v1 v2 v3 : Statement (.sltiu v0 v1 v2 v3) := of_some rfl (by omega)
theorem sll v0 v1 v2 v3 : Statement (.sll v0 v1 v2 v3) := of_some rfl (by omega)
theorem srl v0 v1 v2 v3 : Statement (.srl v0 v1 v2 v3) := of_some rfl (by omega)
theorem sra v0 v1 v2 v3 : Statement (.sra v0 v1 v2 v3) := of_some rfl (by omega)
theorem ror v0 v1 v2 v3 : Statement (.ror v0 v1 v2 v3) := of_some rfl (by omega)
theorem slli v0 v1 v2 v3 v4 : Statement (.slli v0 v1 v2 v3 v4) := of_some rfl (by omega)
theorem srli v0 v1 v2 v3 v4 : Statement (.srli v0 v1 v2 v3 v4) := of_some rfl (by omega)
theorem srai v0 v1 v2 v3 v4 : Statement (.srai v0 v1 v2 v3 v4) := of_some rfl (by omega)
theorem rori v0 v1 v2 v3 v4 : Statement (.rori v0 v1 v2 v3 v4) := of_some rfl (by omega)
theorem mul v0 v1 v2 v3 : Statement (.mul v0 v1 v2 v3) := of_some rfl (by omega)
theorem mulhI64 v0 v1 v2 v3 : Statement (.mulhI64 v0 v1 v2 v3) := of_some rfl (by omega)
theorem mulhN64 v0 v1 v2 v3 : Statement (.mulhN64 v0 v1 v2 v3) := of_some rfl (by omega)
theorem divI64 v0 v1 v2 v3 : Statement (.divI64 v0 v1 v2 v3) := of_some rfl (by omega)
theorem divN64 v0 v1 v2 v3 : Statement (.divN64 v0 v1 v2 v3) := of_some rfl (by omega)
theorem remI64 v0 v1 v2 v3 : Statement (.remI64 v0 v1 v2 v3) := of_some rfl (by omega)
theorem remN64 v0 v1 v2 v3 : Statement (.remN64 v0 v1 v2 v3) := of_some rfl (by omega)
theorem cmpEq v0 v1 v2 v3 : Statement (.cmpEq v0 v1 v2 v3) := of_some rfl (by omega)
theorem cmpNe v0 v1 v2 v3 : Statement (.cmpNe v0 v1 v2 v3) := of_some rfl (by omega)
theorem cmpLtI64 v0 v1 v2 v3 : Statement (.cmpLtI64 v0 v1 v2 v3) := of_some rfl (by omega)
theorem cmpGeI64 v0 v1 v2 v3 : Statement (.cmpGeI64 v0 v1 v2 v3) := of_some rfl (by omega)
theorem cmpLtN64 v0 v1 v2 v3 : Statement (.cmpLtN64 v0 v1 v2 v3) := of_some rfl (by omega)
theorem cmpGeN64 v0 v1 v2 v3 : Statement (.cmpGeN64 v0 v1 v2 v3) := of_some rfl (by omega)
theorem tst v0 v1 v2 v3 : Statement (.tst v0 v1 v2 v3) := of_some rfl (by omega)
theorem gand v0 v1 v2 v3 : Statement (.gand v0 v1 v2 v3) := of_some rfl (by omega)
theorem gor v0 v1 v2 v3 : Statement (.gor v0 v1 v2 v3) := of_some rfl (by omega)
theorem gxor v0 v1 v2 v3 : Statement (.gxor v0 v1 v2 v3) := of_some rfl (by omega)
theorem gandn v0 v1 v2 v3 : Statement (.gandn v0 v1 v2 v3) := of_some rfl (by omega)
theorem gmov v0 v1 v2 : Statement (.gmov v0 v1 v2) := of_some rfl (by omega)
theorem gnot v0 v1 v2 : Statement (.gnot v0 v1 v2) := of_some rfl (by omega)
theorem gset v0 v1 : Statement (.gset v0 v1) := of_some rfl (by omega)
theorem gclr v0 v1 : Statement (.gclr v0 v1) := of_some rfl (by omega)
theorem sel v0 v1 v2 v3 v4 : Statement (.sel v0 v1 v2 v3 v4) := of_some rfl (by omega)
theorem movi v0 v1 v2 : Statement (.movi v0 v1 v2) := of_some rfl (by omega)
theorem lih v0 v1 v2 : Statement (.lih v0 v1 v2) := of_some rfl (by omega)
theorem br v0 v1 v2 v3 : Statement (.br v0 v1 v2 v3) := of_some rfl (by omega)
theorem jal v0 v1 v2 : Statement (.jal v0 v1 v2) := of_some rfl (by omega)
theorem jr v0 v1 v2 : Statement (.jr v0 v1 v2) := of_some rfl (by omega)
theorem lea1 v0 v1 v2 v3 : Statement (.lea1 v0 v1 v2 v3) := of_some rfl (by omega)
theorem lea2 v0 v1 v2 v3 : Statement (.lea2 v0 v1 v2 v3) := of_some rfl (by omega)
theorem lea4 v0 v1 v2 v3 : Statement (.lea4 v0 v1 v2 v3) := of_some rfl (by omega)
theorem lea8 v0 v1 v2 v3 : Statement (.lea8 v0 v1 v2 v3) := of_some rfl (by omega)
theorem ldI8 v0 v1 v2 v3 : Statement (.ldI8 v0 v1 v2 v3) := of_some rfl (by omega)
theorem ldN8 v0 v1 v2 v3 : Statement (.ldN8 v0 v1 v2 v3) := of_some rfl (by omega)
theorem ldI16 v0 v1 v2 v3 : Statement (.ldI16 v0 v1 v2 v3) := of_some rfl (by omega)
theorem ldN16 v0 v1 v2 v3 : Statement (.ldN16 v0 v1 v2 v3) := of_some rfl (by omega)
theorem ldI32 v0 v1 v2 v3 : Statement (.ldI32 v0 v1 v2 v3) := of_some rfl (by omega)
theorem ldN32 v0 v1 v2 v3 : Statement (.ldN32 v0 v1 v2 v3) := of_some rfl (by omega)
theorem ldN64 v0 v1 v2 v3 : Statement (.ldN64 v0 v1 v2 v3) := of_some rfl (by omega)
theorem stN8 v0 v1 v2 v3 v4 v5 : Statement (.stN8 v0 v1 v2 v3 v4 v5) := of_some rfl (by omega)
theorem stN16 v0 v1 v2 v3 v4 v5 : Statement (.stN16 v0 v1 v2 v3 v4 v5) := of_some rfl (by omega)
theorem stN32 v0 v1 v2 v3 v4 v5 : Statement (.stN32 v0 v1 v2 v3 v4 v5) := of_some rfl (by omega)
theorem stN64 v0 v1 v2 v3 v4 v5 : Statement (.stN64 v0 v1 v2 v3 v4 v5) := of_some rfl (by omega)
theorem amoSwap v0 v1 v2 v3 v4 v5 : Statement (.amoSwap v0 v1 v2 v3 v4 v5) := of_some rfl (by omega)
theorem amoAdd v0 v1 v2 v3 v4 v5 : Statement (.amoAdd v0 v1 v2 v3 v4 v5) := of_some rfl (by omega)
theorem amoAnd v0 v1 v2 v3 v4 v5 : Statement (.amoAnd v0 v1 v2 v3 v4 v5) := of_some rfl (by omega)
theorem amoOr v0 v1 v2 v3 v4 v5 : Statement (.amoOr v0 v1 v2 v3 v4 v5) := of_some rfl (by omega)
theorem amoXor v0 v1 v2 v3 v4 v5 : Statement (.amoXor v0 v1 v2 v3 v4 v5) := of_some rfl (by omega)
theorem amoMax v0 v1 v2 v3 v4 v5 : Statement (.amoMax v0 v1 v2 v3 v4 v5) := of_some rfl (by omega)
theorem amoMin v0 v1 v2 v3 v4 v5 : Statement (.amoMin v0 v1 v2 v3 v4 v5) := of_some rfl (by omega)
theorem amoCas v0 v1 v2 v3 v4 v5 : Statement (.amoCas v0 v1 v2 v3 v4 v5) := of_some rfl (by omega)
theorem redAdd v0 v1 v2 v3 v4 : Statement (.redAdd v0 v1 v2 v3 v4) := of_some rfl (by omega)
theorem redAnd v0 v1 v2 v3 v4 : Statement (.redAnd v0 v1 v2 v3 v4) := of_some rfl (by omega)
theorem redOr v0 v1 v2 v3 v4 : Statement (.redOr v0 v1 v2 v3 v4) := of_some rfl (by omega)
theorem redXor v0 v1 v2 v3 v4 : Statement (.redXor v0 v1 v2 v3 v4) := of_some rfl (by omega)
theorem redMax v0 v1 v2 v3 v4 : Statement (.redMax v0 v1 v2 v3 v4) := of_some rfl (by omega)
theorem redMin v0 v1 v2 v3 v4 : Statement (.redMin v0 v1 v2 v3 v4) := of_some rfl (by omega)
theorem redFaddF32 v0 v1 v2 v3 v4 : Statement (.redFaddF32 v0 v1 v2 v3 v4) := of_some rfl (by omega)
theorem redFaddF64 v0 v1 v2 v3 v4 : Statement (.redFaddF64 v0 v1 v2 v3 v4) := of_some rfl (by omega)
theorem fence v0 v1 : Statement (.fence v0 v1) := of_some rfl (by omega)
theorem ldAcq v0 v1 v2 v3 : Statement (.ldAcq v0 v1 v2 v3) := of_some rfl (by omega)
theorem stRel v0 v1 v2 v3 v4 v5 : Statement (.stRel v0 v1 v2 v3 v4 v5) := of_some rfl (by omega)
theorem ldAcqPromote v0 v1 v2 v3 : Statement (.ldAcqPromote v0 v1 v2 v3) := of_some rfl (by omega)
theorem amoSwapPromote v0 v1 v2 v3 v4 v5 : Statement (.amoSwapPromote v0 v1 v2 v3 v4 v5) := of_some rfl (by omega)
theorem amoAddPromote v0 v1 v2 v3 v4 v5 : Statement (.amoAddPromote v0 v1 v2 v3 v4 v5) := of_some rfl (by omega)
theorem amoCasPromote v0 v1 v2 v3 v4 v5 : Statement (.amoCasPromote v0 v1 v2 v3 v4 v5) := of_some rfl (by omega)
theorem tbarInit v0 v1 v2 : Statement (.tbarInit v0 v1 v2) := of_some rfl (by omega)
theorem tbarArrive v0 v1 v2 v3 : Statement (.tbarArrive v0 v1 v2 v3) := of_some rfl (by omega)
theorem tbarExpect v0 v1 v2 v3 : Statement (.tbarExpect v0 v1 v2 v3) := of_some rfl (by omega)
theorem tbarWait v0 v1 v2 : Statement (.tbarWait v0 v1 v2) := of_some rfl (by omega)
theorem tbarTest v0 v1 v2 v3 : Statement (.tbarTest v0 v1 v2 v3) := of_some rfl (by omega)
theorem bldN8 v0 v1 v2 v3 : Statement (.bldN8 v0 v1 v2 v3) := of_some rfl (by omega)
theorem bldN16 v0 v1 v2 v3 : Statement (.bldN16 v0 v1 v2 v3) := of_some rfl (by omega)
theorem bldN32 v0 v1 v2 v3 : Statement (.bldN32 v0 v1 v2 v3) := of_some rfl (by omega)
theorem bldN64 v0 v1 v2 v3 : Statement (.bldN64 v0 v1 v2 v3) := of_some rfl (by omega)
theorem bstN8 v0 v1 v2 v3 : Statement (.bstN8 v0 v1 v2 v3) := of_some rfl (by omega)
theorem bstN16 v0 v1 v2 v3 : Statement (.bstN16 v0 v1 v2 v3) := of_some rfl (by omega)
theorem bstN32 v0 v1 v2 v3 : Statement (.bstN32 v0 v1 v2 v3) := of_some rfl (by omega)
theorem bstN64 v0 v1 v2 v3 : Statement (.bstN64 v0 v1 v2 v3) := of_some rfl (by omega)
theorem engCmd v0 v1 v2 v3 v4 : Statement (.engCmd v0 v1 v2 v3 v4) := of_some rfl (by omega)
theorem engCmdReloc v0 v1 v2 v3 : Statement (.engCmdReloc v0 v1 v2 v3) := of_some rfl (by omega)
theorem engFence v0 v1 : Statement (.engFence v0 v1) := of_some rfl (by omega)
theorem engBusy v0 v1 : Statement (.engBusy v0 v1) := of_some rfl (by omega)
theorem bqEnq v0 v1 v2 : Statement (.bqEnq v0 v1 v2) := of_some rfl (by omega)
theorem rqDeq v0 v1 v2 : Statement (.rqDeq v0 v1 v2) := of_some rfl (by omega)
theorem fmtEnq v0 v1 : Statement (.fmtEnq v0 v1) := of_some rfl (by omega)
theorem endr v0 : Statement (.endr v0) := of_some rfl (by omega)
theorem arg v0 v1 v2 : Statement (.arg v0 v1 v2) := of_some rfl (by omega)
theorem argWrite v0 v1 v2 v3 : Statement (.argWrite v0 v1 v2 v3) := of_some rfl (by omega)
theorem rqEnq v0 v1 : Statement (.rqEnq v0 v1) := of_some rfl (by omega)
theorem bqBr v0 v1 : Statement (.bqBr v0 v1) := of_some rfl (by omega)
theorem bqBrn v0 v1 : Statement (.bqBrn v0 v1) := of_some rfl (by omega)
theorem loopImm v0 v1 v2 v3 : Statement (.loopImm v0 v1 v2 v3) := of_some rfl (by omega)
theorem loopReg v0 v1 v2 v3 : Statement (.loopReg v0 v1 v2 v3) := of_some rfl (by omega)
theorem waitc v0 v1 v2 v3 v4 : Statement (.waitc v0 v1 v2 v3 v4) := of_some rfl (by omega)
theorem taskEnq v0 v1 v2 : Statement (.taskEnq v0 v1 v2) := of_some rfl (by omega)
theorem taskDone v0 v1 : Statement (.taskDone v0 v1) := of_some rfl (by omega)
theorem taskYield v0 v1 : Statement (.taskYield v0 v1) := of_some rfl (by omega)
theorem hypOpen v0 v1 v2 : Statement (.hypOpen v0 v1 v2) := of_some rfl (by omega)
theorem hypEnter v0 v1 : Statement (.hypEnter v0 v1) := of_some rfl (by omega)
theorem hypOk v0 v1 v2 : Statement (.hypOk v0 v1 v2) := of_some rfl (by omega)
theorem hypNo v0 v1 v2 : Statement (.hypNo v0 v1 v2) := of_some rfl (by omega)
theorem hypQuery v0 v1 v2 : Statement (.hypQuery v0 v1 v2) := of_some rfl (by omega)
theorem cpy v0 v1 : Statement (.cpy v0 v1) := of_some rfl (by omega)
theorem cpyT v0 v1 v2 v3 : Statement (.cpyT v0 v1 v2 v3) := of_some rfl (by omega)
theorem cdSet v0 v1 v2 v3 : Statement (.cdSet v0 v1 v2 v3) := of_some rfl (by omega)
theorem gath v0 v1 : Statement (.gath v0 v1) := of_some rfl (by omega)
theorem gathT v0 v1 v2 v3 : Statement (.gathT v0 v1 v2 v3) := of_some rfl (by omega)
theorem scat v0 v1 : Statement (.scat v0 v1) := of_some rfl (by omega)
theorem scatT v0 v1 v2 v3 : Statement (.scatT v0 v1 v2 v3) := of_some rfl (by omega)
theorem mcast v0 v1 : Statement (.mcast v0 v1) := of_some rfl (by omega)
theorem mcastT v0 v1 v2 v3 : Statement (.mcastT v0 v1 v2 v3) := of_some rfl (by omega)
theorem sclLd v0 v1 : Statement (.sclLd v0 v1) := of_some rfl (by omega)
theorem sclLdT v0 v1 v2 v3 : Statement (.sclLdT v0 v1 v2 v3) := of_some rfl (by omega)
theorem pref v0 v1 : Statement (.pref v0 v1) := of_some rfl (by omega)
theorem mm v0 v1 v2 v3 v4 v5 v6 v7 : Statement (.mm v0 v1 v2 v3 v4 v5 v6 v7) := of_some rfl (by omega)
theorem mmG v0 v1 v2 v3 v4 v5 v6 : Statement (.mmG v0 v1 v2 v3 v4 v5 v6) := of_some rfl (by omega)
theorem accZero v0 v1 : Statement (.accZero v0 v1) := of_some rfl (by omega)
theorem accRd v0 v1 v2 : Statement (.accRd v0 v1 v2) := of_some rfl (by omega)
theorem accWr v0 v1 v2 : Statement (.accWr v0 v1 v2) := of_some rfl (by omega)
theorem tdSet v0 v1 v2 v3 : Statement (.tdSet v0 v1 v2 v3) := of_some rfl (by omega)
theorem vadd v0 v1 v2 v3 v4 v5 v6 v7 : Statement (.vadd v0 v1 v2 v3 v4 v5 v6 v7) := of_some rfl (by omega)
theorem vsub v0 v1 v2 v3 v4 v5 v6 v7 : Statement (.vsub v0 v1 v2 v3 v4 v5 v6 v7) := of_some rfl (by omega)
theorem vmul v0 v1 v2 v3 v4 v5 v6 v7 : Statement (.vmul v0 v1 v2 v3 v4 v5 v6 v7) := of_some rfl (by omega)
theorem vdiv v0 v1 v2 v3 v4 v5 v6 v7 : Statement (.vdiv v0 v1 v2 v3 v4 v5 v6 v7) := of_some rfl (by omega)
theorem vmin v0 v1 v2 v3 v4 v5 v6 v7 : Statement (.vmin v0 v1 v2 v3 v4 v5 v6 v7) := of_some rfl (by omega)
theorem vmax v0 v1 v2 v3 v4 v5 v6 v7 : Statement (.vmax v0 v1 v2 v3 v4 v5 v6 v7) := of_some rfl (by omega)
theorem vand v0 v1 v2 v3 v4 v5 v6 v7 : Statement (.vand v0 v1 v2 v3 v4 v5 v6 v7) := of_some rfl (by omega)
theorem vor v0 v1 v2 v3 v4 v5 v6 v7 : Statement (.vor v0 v1 v2 v3 v4 v5 v6 v7) := of_some rfl (by omega)
theorem vxor v0 v1 v2 v3 v4 v5 v6 v7 : Statement (.vxor v0 v1 v2 v3 v4 v5 v6 v7) := of_some rfl (by omega)
theorem vshl v0 v1 v2 v3 v4 v5 v6 v7 : Statement (.vshl v0 v1 v2 v3 v4 v5 v6 v7) := of_some rfl (by omega)
theorem vshr v0 v1 v2 v3 v4 v5 v6 v7 : Statement (.vshr v0 v1 v2 v3 v4 v5 v6 v7) := of_some rfl (by omega)
theorem vfma v0 v1 v2 v3 v4 v5 v6 : Statement (.vfma v0 v1 v2 v3 v4 v5 v6) := of_some rfl (by omega)
theorem vfms v0 v1 v2 v3 v4 v5 v6 : Statement (.vfms v0 v1 v2 v3 v4 v5 v6) := of_some rfl (by omega)
theorem vfnma v0 v1 v2 v3 v4 v5 v6 : Statement (.vfnma v0 v1 v2 v3 v4 v5 v6) := of_some rfl (by omega)
theorem vsel v0 v1 v2 v3 v4 v5 v6 : Statement (.vsel v0 v1 v2 v3 v4 v5 v6) := of_some rfl (by omega)
theorem vclamp v0 v1 v2 v3 v4 v5 v6 : Statement (.vclamp v0 v1 v2 v3 v4 v5 v6) := of_some rfl (by omega)
theorem vcmpEq v0 v1 v2 v3 v4 v5 v6 v7 : Statement (.vcmpEq v0 v1 v2 v3 v4 v5 v6 v7) := of_some rfl (by omega)
theorem vcmpLt v0 v1 v2 v3 v4 v5 v6 v7 : Statement (.vcmpLt v0 v1 v2 v3 v4 v5 v6 v7) := of_some rfl (by omega)
theorem vcmpLe v0 v1 v2 v3 v4 v5 v6 v7 : Statement (.vcmpLe v0 v1 v2 v3 v4 v5 v6 v7) := of_some rfl (by omega)
theorem vcvt v0 v1 v2 v3 : Statement (.vcvt v0 v1 v2 v3) := of_some rfl (by omega)
theorem vnot v0 v1 v2 v3 v4 v5 : Statement (.vnot v0 v1 v2 v3 v4 v5) := of_some rfl (by omega)
theorem vabs v0 v1 v2 v3 v4 v5 : Statement (.vabs v0 v1 v2 v3 v4 v5) := of_some rfl (by omega)
theorem vneg v0 v1 v2 v3 v4 v5 : Statement (.vneg v0 v1 v2 v3 v4 v5) := of_some rfl (by omega)
theorem vmov v0 v1 v2 v3 v4 v5 : Statement (.vmov v0 v1 v2 v3 v4 v5) := of_some rfl (by omega)
theorem vexp2 v0 v1 v2 v3 v4 : Statement (.vexp2 v0 v1 v2 v3 v4) := of_some rfl (by omega)
theorem vlog2 v0 v1 v2 v3 v4 : Statement (.vlog2 v0 v1 v2 v3 v4) := of_some rfl (by omega)
theorem vrcp v0 v1 v2 v3 v4 : Statement (.vrcp v0 v1 v2 v3 v4) := of_some rfl (by omega)
theorem vrsq v0 v1 v2 v3 v4 : Statement (.vrsq v0 v1 v2 v3 v4) := of_some rfl (by omega)
theorem vsqrt v0 v1 v2 v3 v4 : Statement (.vsqrt v0 v1 v2 v3 v4) := of_some rfl (by omega)
theorem vsin v0 v1 v2 v3 v4 : Statement (.vsin v0 v1 v2 v3 v4) := of_some rfl (by omega)
theorem vcos v0 v1 v2 v3 v4 : Statement (.vcos v0 v1 v2 v3 v4) := of_some rfl (by omega)
theorem vtanh v0 v1 v2 v3 v4 : Statement (.vtanh v0 v1 v2 v3 v4) := of_some rfl (by omega)
theorem vrsum v0 v1 v2 v3 : Statement (.vrsum v0 v1 v2 v3) := of_some rfl (by omega)
theorem vrmax v0 v1 v2 v3 : Statement (.vrmax v0 v1 v2 v3) := of_some rfl (by omega)
theorem vrmin v0 v1 v2 v3 : Statement (.vrmin v0 v1 v2 v3) := of_some rfl (by omega)
theorem vrsumsq v0 v1 v2 v3 : Statement (.vrsumsq v0 v1 v2 v3) := of_some rfl (by omega)
theorem vrargmax v0 v1 v2 v3 : Statement (.vrargmax v0 v1 v2 v3) := of_some rfl (by omega)
theorem vchBegin v0 v1 : Statement (.vchBegin v0 v1) := of_some rfl (by omega)
theorem vchEnd v0 : Statement (.vchEnd v0) := of_some rfl (by omega)
theorem vdefer v0 v1 v2 v3 : Statement (.vdefer v0 v1 v2 v3) := of_some rfl (by omega)
theorem vdrain v0 v1 v2 : Statement (.vdrain v0 v1 v2) := of_some rfl (by omega)
theorem rgnSet v0 v1 v2 v3 : Statement (.rgnSet v0 v1 v2 v3) := of_some rfl (by omega)
theorem qrGen v0 v1 v2 v3 : Statement (.qrGen v0 v1 v2 v3) := of_some rfl (by omega)
theorem srfAlloc v0 v1 : Statement (.srfAlloc v0 v1) := of_some rfl (by omega)
theorem srfFree v0 v1 : Statement (.srfFree v0 v1) := of_some rfl (by omega)
theorem srfLd v0 v1 v2 : Statement (.srfLd v0 v1 v2) := of_some rfl (by omega)
theorem srfSt v0 v1 v2 : Statement (.srfSt v0 v1 v2) := of_some rfl (by omega)
theorem srfZero v0 v1 : Statement (.srfZero v0 v1) := of_some rfl (by omega)
theorem opdLd v0 v1 v2 : Statement (.opdLd v0 v1 v2) := of_some rfl (by omega)
theorem scan v0 v1 v2 : Statement (.scan v0 v1 v2) := of_some rfl (by omega)
theorem scanSw v0 v1 v2 v3 : Statement (.scanSw v0 v1 v2 v3) := of_some rfl (by omega)
theorem scanRed v0 v1 v2 v3 : Statement (.scanRed v0 v1 v2 v3) := of_some rfl (by omega)
theorem scanApply v0 v1 v2 v3 : Statement (.scanApply v0 v1 v2 v3) := of_some rfl (by omega)
theorem scanApplyFirst v0 v1 v2 v3 : Statement (.scanApplyFirst v0 v1 v2 v3) := of_some rfl (by omega)
theorem nscanUp v0 v1 v2 v3 : Statement (.nscanUp v0 v1 v2 v3) := of_some rfl (by omega)
theorem nscanDown v0 v1 v2 v3 : Statement (.nscanDown v0 v1 v2 v3) := of_some rfl (by omega)
theorem carrySendIn v0 v1 v2 v3 : Statement (.carrySendIn v0 v1 v2 v3) := of_some rfl (by omega)
theorem carrySendOut v0 v1 v2 v3 : Statement (.carrySendOut v0 v1 v2 v3) := of_some rfl (by omega)
theorem carryRecvIn v0 v1 v2 v3 : Statement (.carryRecvIn v0 v1 v2 v3) := of_some rfl (by omega)
theorem carryRecvOut v0 v1 v2 v3 : Statement (.carryRecvOut v0 v1 v2 v3) := of_some rfl (by omega)
theorem carryRecvCombIn v0 v1 v2 v3 v4 : Statement (.carryRecvCombIn v0 v1 v2 v3 v4) := of_some rfl (by omega)
theorem carryRecvCombOut v0 v1 v2 v3 v4 : Statement (.carryRecvCombOut v0 v1 v2 v3 v4) := of_some rfl (by omega)
theorem step v0 v1 v2 v3 : Statement (.step v0 v1 v2 v3) := of_some rfl (by omega)
theorem stepY v0 v1 v2 v3 v4 : Statement (.stepY v0 v1 v2 v3 v4) := of_some rfl (by omega)
theorem swSet v0 v1 v2 v3 : Statement (.swSet v0 v1 v2 v3) := of_some rfl (by omega)
theorem qrDirld v0 v1 v2 : Statement (.qrDirld v0 v1 v2) := of_some rfl (by omega)
theorem qrSeed v0 v1 : Statement (.qrSeed v0 v1) := of_some rfl (by omega)
theorem qrPt v0 v1 v2 v3 : Statement (.qrPt v0 v1 v2 v3) := of_some rfl (by omega)
theorem smpDraw v0 v1 : Statement (.smpDraw v0 v1) := of_some rfl (by omega)
theorem smpCheck v0 v1 v2 : Statement (.smpCheck v0 v1 v2) := of_some rfl (by omega)
theorem smpResid v0 v1 v2 : Statement (.smpResid v0 v1 v2) := of_some rfl (by omega)
theorem smpCfg v0 v1 v2 : Statement (.smpCfg v0 v1 v2) := of_some rfl (by omega)
theorem smpStop v0 v1 v2 : Statement (.smpStop v0 v1 v2) := of_some rfl (by omega)
theorem logAppend v0 v1 v2 : Statement (.logAppend v0 v1 v2) := of_some rfl (by omega)
theorem collLoad v0 v1 v2 : Statement (.collLoad v0 v1 v2) := of_some rfl (by omega)
theorem collRun v0 v1 v2 : Statement (.collRun v0 v1 v2) := of_some rfl (by omega)
theorem collWait v0 v1 : Statement (.collWait v0 v1) := of_some rfl (by omega)
theorem trigAdd v0 v1 v2 : Statement (.trigAdd v0 v1 v2) := of_some rfl (by omega)
theorem stc v0 v1 v2 : Statement (.stc v0 v1 v2) := of_some rfl (by omega)
theorem winDrain v0 v1 : Statement (.winDrain v0 v1) := of_some rfl (by omega)
theorem digest v0 v1 v2 v3 : Statement (.digest v0 v1 v2 v3) := of_some rfl (by omega)
theorem frameBegin v0 v1 : Statement (.frameBegin v0 v1) := of_some rfl (by omega)
theorem deviceReset : Statement (.deviceReset) := of_none rfl
theorem bootSequence v0 : Statement (.bootSequence v0) := of_none rfl
theorem imageVerify v0 : Statement (.imageVerify v0) := of_none rfl
theorem gtcBringupStep v0 : Statement (.gtcBringupStep v0) := of_none rfl
theorem gtcDriftCorrection v0 : Statement (.gtcDriftCorrection v0) := of_none rfl
theorem engineCommandTake v0 v1 : Statement (.engineCommandTake v0 v1) := of_none rfl
theorem relocCommandPull v0 : Statement (.relocCommandPull v0) := of_none rfl
theorem loadValueReturn v0 v1 : Statement (.loadValueReturn v0 v1) := of_none rfl
theorem storePerformed v0 v1 : Statement (.storePerformed v0 v1) := of_none rfl
theorem timedCopyDue v0 : Statement (.timedCopyDue v0) := of_none rfl
theorem copyBurst v0 : Statement (.copyBurst v0) := of_none rfl
theorem scaleGroupPush v0 : Statement (.scaleGroupPush v0) := of_none rfl
theorem tileCommit v0 : Statement (.tileCommit v0) := of_none rfl
theorem sfWriteLand v0 : Statement (.sfWriteLand v0) := of_none rfl
theorem frontFormation v0 : Statement (.frontFormation v0) := of_none rfl
theorem carryCreditGrant v0 : Statement (.carryCreditGrant v0) := of_none rfl
theorem carryPacketDeliver v0 : Statement (.carryPacketDeliver v0) := of_none rfl
theorem stallLimitExpiry v0 v1 : Statement (.stallLimitExpiry v0 v1) := of_none rfl
theorem stampOverrun v0 v1 : Statement (.stampOverrun v0 v1) := of_none rfl
theorem faultStop v0 v1 v2 v3 v4 : Statement (.faultStop v0 v1 v2 v3 v4) := of_none rfl
theorem faultRecordPost : Statement (.faultRecordPost) := of_none rfl
theorem frespResume v0 : Statement (.frespResume v0) := of_none rfl
theorem frespFail v0 : Statement (.frespFail v0) := of_none rfl
theorem frespSave v0 : Statement (.frespSave v0) := of_none rfl
theorem frespNoAction v0 : Statement (.frespNoAction v0) := of_none rfl
theorem orphanTrap v0 : Statement (.orphanTrap v0) := of_none rfl
theorem hypIdFree v0 : Statement (.hypIdFree v0) := of_none rfl
theorem logitRowComplete v0 v1 v2 : Statement (.logitRowComplete v0 v1 v2) := of_none rfl
theorem logitResultsDeliver v0 v1 v2 : Statement (.logitResultsDeliver v0 v1 v2) := of_none rfl
theorem smpWordPerform v0 : Statement (.smpWordPerform v0) := of_none rfl
theorem taskDispatch v0 : Statement (.taskDispatch v0) := of_none rfl
theorem preemptRequest v0 v1 : Statement (.preemptRequest v0 v1) := of_none rfl
theorem squall v0 : Statement (.squall v0) := of_none rfl
theorem squallSaveComplete v0 : Statement (.squallSaveComplete v0) := of_none rfl
theorem taskenq v0 v1 : Statement (.taskenq v0 v1) := of_none rfl
theorem fqheadWrite v0 : Statement (.fqheadWrite v0) := of_none rfl
theorem devidWrite v0 : Statement (.devidWrite v0) := of_none rfl
theorem iodRegisterWrite v0 v1 : Statement (.iodRegisterWrite v0 v1) := of_none rfl
theorem keyLoad v0 : Statement (.keyLoad v0) := of_none rfl
theorem keyInvalidate v0 : Statement (.keyInvalidate v0) := of_none rfl
theorem fabLoadBank v0 : Statement (.fabLoadBank v0) := of_none rfl
theorem fabSwap v0 : Statement (.fabSwap v0) := of_none rfl
theorem xltRange v0 : Statement (.xltRange v0) := of_none rfl
theorem xltTenant v0 : Statement (.xltTenant v0) := of_none rfl
theorem xltAll v0 : Statement (.xltAll v0) := of_none rfl
theorem xltInvalidationComplete : Statement (.xltInvalidationComplete) := of_none rfl
theorem slotBankSwap v0 : Statement (.slotBankSwap v0) := of_none rfl
theorem fabricSlotSend v0 v1 : Statement (.fabricSlotSend v0 v1) := of_none rfl
theorem reorderGapTimeout v0 v1 : Statement (.reorderGapTimeout v0 v1) := of_none rfl
theorem portRequestCheck v0 v1 : Statement (.portRequestCheck v0 v1) := of_none rfl
theorem remoteWriteAck v0 : Statement (.remoteWriteAck v0) := of_none rfl
theorem remoteReadResponse v0 v1 : Statement (.remoteReadResponse v0 v1) := of_none rfl
theorem remoteNegativeResponse v0 v1 v2 : Statement (.remoteNegativeResponse v0 v1 v2) := of_none rfl
theorem remoteResponseTimeout v0 : Statement (.remoteResponseTimeout v0) := of_none rfl
theorem stcPeerForward v0 v1 : Statement (.stcPeerForward v0 v1) := of_none rfl
theorem collRecordFire v0 : Statement (.collRecordFire v0) := of_none rfl
theorem collRecordComplete v0 v1 : Statement (.collRecordComplete v0 v1) := of_none rfl
theorem collPutReceive v0 v1 : Statement (.collPutReceive v0 v1) := of_none rfl
theorem collPutRetry v0 v1 : Statement (.collPutRetry v0 v1) := of_none rfl
theorem collRefusalTimeout v0 v1 : Statement (.collRefusalTimeout v0 v1) := of_none rfl
theorem collAbortReceive v0 v1 v2 v3 : Statement (.collAbortReceive v0 v1 v2 v3) := of_none rfl
theorem collFaultRaise v0 : Statement (.collFaultRaise v0) := of_none rfl
theorem thermalThrottle v0 v1 : Statement (.thermalThrottle v0 v1) := of_none rfl
theorem thermalCritical v0 : Statement (.thermalCritical v0) := of_none rfl
theorem droopStretch v0 v1 : Statement (.droopStretch v0 v1) := of_none rfl
theorem scrubPass v0 v1 v2 v3 : Statement (.scrubPass v0 v1 v2 v3) := of_none rfl
theorem coreRetirement v0 : Statement (.coreRetirement v0) := of_none rfl
theorem hbmChannelSpare v0 v1 : Statement (.hbmChannelSpare v0 v1) := of_none rfl
theorem hbmSpareCopyDone v0 v1 : Statement (.hbmSpareCopyDone v0 v1) := of_none rfl
theorem laneDrop v0 : Statement (.laneDrop v0) := of_none rfl
theorem attestationReport v0 : Statement (.attestationReport v0) := of_none rfl
theorem mgmtRequest v0 : Statement (.mgmtRequest v0) := of_none rfl
theorem gtcPeriodIncrement : Statement (.gtcPeriodIncrement) := of_none rfl
theorem frameCountAdvance v0 : Statement (.frameCountAdvance v0) := of_none rfl
theorem hotSensorsClear v0 v1 : Statement (.hotSensorsClear v0 v1) := of_none rfl
theorem recomputeSpareBind v0 v1 : Statement (.recomputeSpareBind v0 v1) := of_none rfl
theorem recomputeSpareRelease v0 : Statement (.recomputeSpareRelease v0) := of_none rfl

end Sys2Proof.Laws.EncodeFits
end

