-- ==== Sys2Proof/Laws/State.lean ====
section
/-! SUPPORT. One lemma for each field and each update of the state, the core in focus and its registers: what an update
leaves as it is, and what it writes. -/
namespace Sys2Proof.Laws
open Sys2Proof.Machine

/-! ### State.mapCore -/

@[simp] theorem mapCore_core (s : State) (f : Core → Core) : (s.mapCore f).core = f s.core := rfl
@[simp] theorem mapCore_lnum (s : State) (f : Core → Core) : (s.mapCore f).lnum = s.lnum := rfl
@[simp] theorem mapCore_others (s : State) (f : Core → Core) : (s.mapCore f).others = s.others := rfl
@[simp] theorem mapCore_unit (s : State) (f : Core → Core) : (s.mapCore f).unit = s.unit := rfl
@[simp] theorem mapCore_agenda (s : State) (f : Core → Core) : (s.mapCore f).agenda = s.agenda := rfl
@[simp] theorem mapCore_turn (s : State) (f : Core → Core) : (s.mapCore f).turn = s.turn := rfl
@[simp] theorem mapCore_dues (s : State) (f : Core → Core) : (s.mapCore f).dues = s.dues := rfl
@[simp] theorem mapCore_gtc (s : State) (f : Core → Core) : (s.mapCore f).gtc = s.gtc := rfl
@[simp] theorem mapCore_dev (s : State) (f : Core → Core) : (s.mapCore f).dev = s.dev := rfl
@[simp] theorem mapCore_dispatched (s : State) (f : Core → Core) : (s.mapCore f).dispatched = s.dispatched := rfl
@[simp] theorem mapCore_gtcStepped (s : State) (f : Core → Core) : (s.mapCore f).gtcStepped = s.gtcStepped := rfl
@[simp] theorem mapCore_lastCorrection (s : State) (f : Core → Core) : (s.mapCore f).lastCorrection = s.lastCorrection := rfl
@[simp] theorem mapCore_phys (s : State) (f : Core → Core) : (s.mapCore f).phys = s.phys := rfl
@[simp] theorem mapCore_mem (s : State) (f : Core → Core) : (s.mapCore f).mem = s.mem := rfl
@[simp] theorem mapCore_tlbs (s : State) (f : Core → Core) : (s.mapCore f).tlbs = s.tlbs := rfl
@[simp] theorem mapCore_roots (s : State) (f : Core → Core) : (s.mapCore f).roots = s.roots := rfl
@[simp] theorem mapCore_hyps (s : State) (f : Core → Core) : (s.mapCore f).hyps = s.hyps := rfl
@[simp] theorem mapCore_vers (s : State) (f : Core → Core) : (s.mapCore f).vers = s.vers := rfl
@[simp] theorem mapCore_verAge (s : State) (f : Core → Core) : (s.mapCore f).verAge = s.verAge := rfl
@[simp] theorem mapCore_pools (s : State) (f : Core → Core) : (s.mapCore f).pools = s.pools := rfl
@[simp] theorem mapCore_arrivals (s : State) (f : Core → Core) : (s.mapCore f).arrivals = s.arrivals := rfl
@[simp] theorem mapCore_saves (s : State) (f : Core → Core) : (s.mapCore f).saves = s.saves := rfl
@[simp] theorem mapCore_kept (s : State) (f : Core → Core) : (s.mapCore f).kept = s.kept := rfl
@[simp] theorem mapCore_dispatches (s : State) (f : Core → Core) : (s.mapCore f).dispatches = s.dispatches := rfl
@[simp] theorem mapCore_faultq (s : State) (f : Core → Core) : (s.mapCore f).faultq = s.faultq := rfl
@[simp] theorem mapCore_unposted (s : State) (f : Core → Core) : (s.mapCore f).unposted = s.unposted := rfl
@[simp] theorem mapCore_fqBase (s : State) (f : Core → Core) : (s.mapCore f).fqBase = s.fqBase := rfl
@[simp] theorem mapCore_fqHead (s : State) (f : Core → Core) : (s.mapCore f).fqHead = s.fqHead := rfl
@[simp] theorem mapCore_fqTail (s : State) (f : Core → Core) : (s.mapCore f).fqTail = s.fqTail := rfl
@[simp] theorem mapCore_hostIrqs (s : State) (f : Core → Core) : (s.mapCore f).hostIrqs = s.hostIrqs := rfl
@[simp] theorem mapCore_mgmtReports (s : State) (f : Core → Core) : (s.mapCore f).mgmtReports = s.mgmtReports := rfl
@[simp] theorem mapCore_packets (s : State) (f : Core → Core) : (s.mapCore f).packets = s.packets := rfl
@[simp] theorem mapCore_packetId (s : State) (f : Core → Core) : (s.mapCore f).packetId = s.packetId := rfl
@[simp] theorem mapCore_waiting (s : State) (f : Core → Core) : (s.mapCore f).waiting = s.waiting := rfl
@[simp] theorem mapCore_responses (s : State) (f : Core → Core) : (s.mapCore f).responses = s.responses := rfl
@[simp] theorem mapCore_flowSeq (s : State) (f : Core → Core) : (s.mapCore f).flowSeq = s.flowSeq := rfl
@[simp] theorem mapCore_flowDone (s : State) (f : Core → Core) : (s.mapCore f).flowDone = s.flowDone := rfl
@[simp] theorem mapCore_reorder (s : State) (f : Core → Core) : (s.mapCore f).reorder = s.reorder := rfl
@[simp] theorem mapCore_flowLost (s : State) (f : Core → Core) : (s.mapCore f).flowLost = s.flowLost := rfl
@[simp] theorem mapCore_assembly (s : State) (f : Core → Core) : (s.mapCore f).assembly = s.assembly := rfl
@[simp] theorem mapCore_left (s : State) (f : Core → Core) : (s.mapCore f).left = s.left := rfl
@[simp] theorem mapCore_portErrors (s : State) (f : Core → Core) : (s.mapCore f).portErrors = s.portErrors := rfl
@[simp] theorem mapCore_keys (s : State) (f : Core → Core) : (s.mapCore f).keys = s.keys := rfl
@[simp] theorem mapCore_drops (s : State) (f : Core → Core) : (s.mapCore f).drops = s.drops := rfl
@[simp] theorem mapCore_slotTables (s : State) (f : Core → Core) : (s.mapCore f).slotTables = s.slotTables := rfl
@[simp] theorem mapCore_drr (s : State) (f : Core → Core) : (s.mapCore f).drr = s.drr := rfl
@[simp] theorem mapCore_dirtyRemote (s : State) (f : Core → Core) : (s.mapCore f).dirtyRemote = s.dirtyRemote := rfl
@[simp] theorem mapCore_xltPending (s : State) (f : Core → Core) : (s.mapCore f).xltPending = s.xltPending := rfl
@[simp] theorem mapCore_xltDone (s : State) (f : Core → Core) : (s.mapCore f).xltDone = s.xltDone := rfl
@[simp] theorem mapCore_portDone (s : State) (f : Core → Core) : (s.mapCore f).portDone = s.portDone := rfl
@[simp] theorem mapCore_portErr (s : State) (f : Core → Core) : (s.mapCore f).portErr = s.portErr := rfl
@[simp] theorem mapCore_colls (s : State) (f : Core → Core) : (s.mapCore f).colls = s.colls := rfl
@[simp] theorem mapCore_puts (s : State) (f : Core → Core) : (s.mapCore f).puts = s.puts := rfl
@[simp] theorem mapCore_aborts (s : State) (f : Core → Core) : (s.mapCore f).aborts = s.aborts := rfl
@[simp] theorem mapCore_clusters (s : State) (f : Core → Core) : (s.mapCore f).clusters = s.clusters := rfl
@[simp] theorem mapCore_marked (s : State) (f : Core → Core) : (s.mapCore f).marked = s.marked := rfl
@[simp] theorem mapCore_upset (s : State) (f : Core → Core) : (s.mapCore f).upset = s.upset := rfl
@[simp] theorem mapCore_pairErrors (s : State) (f : Core → Core) : (s.mapCore f).pairErrors = s.pairErrors := rfl
@[simp] theorem mapCore_hbmSpares (s : State) (f : Core → Core) : (s.mapCore f).hbmSpares = s.hbmSpares := rfl
@[simp] theorem mapCore_lanes (s : State) (f : Core → Core) : (s.mapCore f).lanes = s.lanes := rfl
@[simp] theorem mapCore_retired (s : State) (f : Core → Core) : (s.mapCore f).retired = s.retired := rfl
@[simp] theorem mapCore_retiring (s : State) (f : Core → Core) : (s.mapCore f).retiring = s.retiring := rfl
@[simp] theorem mapCore_noMajority (s : State) (f : Core → Core) : (s.mapCore f).noMajority = s.noMajority := rfl
@[simp] theorem mapCore_boot (s : State) (f : Core → Core) : (s.mapCore f).boot = s.boot := rfl
@[simp] theorem mapCore_measurements (s : State) (f : Core → Core) : (s.mapCore f).measurements = s.measurements := rfl
@[simp] theorem mapCore_images (s : State) (f : Core → Core) : (s.mapCore f).images = s.images := rfl
@[simp] theorem mapCore_svn (s : State) (f : Core → Core) : (s.mapCore f).svn = s.svn := rfl
@[simp] theorem mapCore_operatorRoot (s : State) (f : Core → Core) : (s.mapCore f).operatorRoot = s.operatorRoot := rfl
@[simp] theorem mapCore_comms (s : State) (f : Core → Core) : (s.mapCore f).comms = s.comms := rfl
@[simp] theorem mapCore_reports (s : State) (f : Core → Core) : (s.mapCore f).reports = s.reports := rfl
@[simp] theorem mapCore_replies (s : State) (f : Core → Core) : (s.mapCore f).replies = s.replies := rfl
@[simp] theorem mapCore_mapCore (s : State) (f g : Core → Core) : (s.mapCore f).mapCore g = s.mapCore (fun c => g (f c)) := rfl

/-! ### State.setReg -/

@[simp] theorem stateSetReg_core (s : State) (n : Nat) (v : Word) : (s.setReg n v).core = s.core.setReg s.unit n v := rfl
@[simp] theorem stateSetReg_lnum (s : State) (n : Nat) (v : Word) : (s.setReg n v).lnum = s.lnum := rfl
@[simp] theorem stateSetReg_others (s : State) (n : Nat) (v : Word) : (s.setReg n v).others = s.others := rfl
@[simp] theorem stateSetReg_unit (s : State) (n : Nat) (v : Word) : (s.setReg n v).unit = s.unit := rfl
@[simp] theorem stateSetReg_agenda (s : State) (n : Nat) (v : Word) : (s.setReg n v).agenda = s.agenda := rfl
@[simp] theorem stateSetReg_turn (s : State) (n : Nat) (v : Word) : (s.setReg n v).turn = s.turn := rfl
@[simp] theorem stateSetReg_dues (s : State) (n : Nat) (v : Word) : (s.setReg n v).dues = s.dues := rfl
@[simp] theorem stateSetReg_gtc (s : State) (n : Nat) (v : Word) : (s.setReg n v).gtc = s.gtc := rfl
@[simp] theorem stateSetReg_dev (s : State) (n : Nat) (v : Word) : (s.setReg n v).dev = s.dev := rfl
@[simp] theorem stateSetReg_dispatched (s : State) (n : Nat) (v : Word) : (s.setReg n v).dispatched = s.dispatched := rfl
@[simp] theorem stateSetReg_gtcStepped (s : State) (n : Nat) (v : Word) : (s.setReg n v).gtcStepped = s.gtcStepped := rfl
@[simp] theorem stateSetReg_lastCorrection (s : State) (n : Nat) (v : Word) : (s.setReg n v).lastCorrection = s.lastCorrection := rfl
@[simp] theorem stateSetReg_phys (s : State) (n : Nat) (v : Word) : (s.setReg n v).phys = s.phys := rfl
@[simp] theorem stateSetReg_mem (s : State) (n : Nat) (v : Word) : (s.setReg n v).mem = s.mem := rfl
@[simp] theorem stateSetReg_tlbs (s : State) (n : Nat) (v : Word) : (s.setReg n v).tlbs = s.tlbs := rfl
@[simp] theorem stateSetReg_roots (s : State) (n : Nat) (v : Word) : (s.setReg n v).roots = s.roots := rfl
@[simp] theorem stateSetReg_hyps (s : State) (n : Nat) (v : Word) : (s.setReg n v).hyps = s.hyps := rfl
@[simp] theorem stateSetReg_vers (s : State) (n : Nat) (v : Word) : (s.setReg n v).vers = s.vers := rfl
@[simp] theorem stateSetReg_verAge (s : State) (n : Nat) (v : Word) : (s.setReg n v).verAge = s.verAge := rfl
@[simp] theorem stateSetReg_pools (s : State) (n : Nat) (v : Word) : (s.setReg n v).pools = s.pools := rfl
@[simp] theorem stateSetReg_arrivals (s : State) (n : Nat) (v : Word) : (s.setReg n v).arrivals = s.arrivals := rfl
@[simp] theorem stateSetReg_saves (s : State) (n : Nat) (v : Word) : (s.setReg n v).saves = s.saves := rfl
@[simp] theorem stateSetReg_kept (s : State) (n : Nat) (v : Word) : (s.setReg n v).kept = s.kept := rfl
@[simp] theorem stateSetReg_dispatches (s : State) (n : Nat) (v : Word) : (s.setReg n v).dispatches = s.dispatches := rfl
@[simp] theorem stateSetReg_faultq (s : State) (n : Nat) (v : Word) : (s.setReg n v).faultq = s.faultq := rfl
@[simp] theorem stateSetReg_unposted (s : State) (n : Nat) (v : Word) : (s.setReg n v).unposted = s.unposted := rfl
@[simp] theorem stateSetReg_fqBase (s : State) (n : Nat) (v : Word) : (s.setReg n v).fqBase = s.fqBase := rfl
@[simp] theorem stateSetReg_fqHead (s : State) (n : Nat) (v : Word) : (s.setReg n v).fqHead = s.fqHead := rfl
@[simp] theorem stateSetReg_fqTail (s : State) (n : Nat) (v : Word) : (s.setReg n v).fqTail = s.fqTail := rfl
@[simp] theorem stateSetReg_hostIrqs (s : State) (n : Nat) (v : Word) : (s.setReg n v).hostIrqs = s.hostIrqs := rfl
@[simp] theorem stateSetReg_mgmtReports (s : State) (n : Nat) (v : Word) : (s.setReg n v).mgmtReports = s.mgmtReports := rfl
@[simp] theorem stateSetReg_packets (s : State) (n : Nat) (v : Word) : (s.setReg n v).packets = s.packets := rfl
@[simp] theorem stateSetReg_packetId (s : State) (n : Nat) (v : Word) : (s.setReg n v).packetId = s.packetId := rfl
@[simp] theorem stateSetReg_waiting (s : State) (n : Nat) (v : Word) : (s.setReg n v).waiting = s.waiting := rfl
@[simp] theorem stateSetReg_responses (s : State) (n : Nat) (v : Word) : (s.setReg n v).responses = s.responses := rfl
@[simp] theorem stateSetReg_flowSeq (s : State) (n : Nat) (v : Word) : (s.setReg n v).flowSeq = s.flowSeq := rfl
@[simp] theorem stateSetReg_flowDone (s : State) (n : Nat) (v : Word) : (s.setReg n v).flowDone = s.flowDone := rfl
@[simp] theorem stateSetReg_reorder (s : State) (n : Nat) (v : Word) : (s.setReg n v).reorder = s.reorder := rfl
@[simp] theorem stateSetReg_flowLost (s : State) (n : Nat) (v : Word) : (s.setReg n v).flowLost = s.flowLost := rfl
@[simp] theorem stateSetReg_assembly (s : State) (n : Nat) (v : Word) : (s.setReg n v).assembly = s.assembly := rfl
@[simp] theorem stateSetReg_left (s : State) (n : Nat) (v : Word) : (s.setReg n v).left = s.left := rfl
@[simp] theorem stateSetReg_portErrors (s : State) (n : Nat) (v : Word) : (s.setReg n v).portErrors = s.portErrors := rfl
@[simp] theorem stateSetReg_keys (s : State) (n : Nat) (v : Word) : (s.setReg n v).keys = s.keys := rfl
@[simp] theorem stateSetReg_drops (s : State) (n : Nat) (v : Word) : (s.setReg n v).drops = s.drops := rfl
@[simp] theorem stateSetReg_slotTables (s : State) (n : Nat) (v : Word) : (s.setReg n v).slotTables = s.slotTables := rfl
@[simp] theorem stateSetReg_drr (s : State) (n : Nat) (v : Word) : (s.setReg n v).drr = s.drr := rfl
@[simp] theorem stateSetReg_dirtyRemote (s : State) (n : Nat) (v : Word) : (s.setReg n v).dirtyRemote = s.dirtyRemote := rfl
@[simp] theorem stateSetReg_xltPending (s : State) (n : Nat) (v : Word) : (s.setReg n v).xltPending = s.xltPending := rfl
@[simp] theorem stateSetReg_xltDone (s : State) (n : Nat) (v : Word) : (s.setReg n v).xltDone = s.xltDone := rfl
@[simp] theorem stateSetReg_portDone (s : State) (n : Nat) (v : Word) : (s.setReg n v).portDone = s.portDone := rfl
@[simp] theorem stateSetReg_portErr (s : State) (n : Nat) (v : Word) : (s.setReg n v).portErr = s.portErr := rfl
@[simp] theorem stateSetReg_colls (s : State) (n : Nat) (v : Word) : (s.setReg n v).colls = s.colls := rfl
@[simp] theorem stateSetReg_puts (s : State) (n : Nat) (v : Word) : (s.setReg n v).puts = s.puts := rfl
@[simp] theorem stateSetReg_aborts (s : State) (n : Nat) (v : Word) : (s.setReg n v).aborts = s.aborts := rfl
@[simp] theorem stateSetReg_clusters (s : State) (n : Nat) (v : Word) : (s.setReg n v).clusters = s.clusters := rfl
@[simp] theorem stateSetReg_marked (s : State) (n : Nat) (v : Word) : (s.setReg n v).marked = s.marked := rfl
@[simp] theorem stateSetReg_upset (s : State) (n : Nat) (v : Word) : (s.setReg n v).upset = s.upset := rfl
@[simp] theorem stateSetReg_pairErrors (s : State) (n : Nat) (v : Word) : (s.setReg n v).pairErrors = s.pairErrors := rfl
@[simp] theorem stateSetReg_hbmSpares (s : State) (n : Nat) (v : Word) : (s.setReg n v).hbmSpares = s.hbmSpares := rfl
@[simp] theorem stateSetReg_lanes (s : State) (n : Nat) (v : Word) : (s.setReg n v).lanes = s.lanes := rfl
@[simp] theorem stateSetReg_retired (s : State) (n : Nat) (v : Word) : (s.setReg n v).retired = s.retired := rfl
@[simp] theorem stateSetReg_retiring (s : State) (n : Nat) (v : Word) : (s.setReg n v).retiring = s.retiring := rfl
@[simp] theorem stateSetReg_noMajority (s : State) (n : Nat) (v : Word) : (s.setReg n v).noMajority = s.noMajority := rfl
@[simp] theorem stateSetReg_boot (s : State) (n : Nat) (v : Word) : (s.setReg n v).boot = s.boot := rfl
@[simp] theorem stateSetReg_measurements (s : State) (n : Nat) (v : Word) : (s.setReg n v).measurements = s.measurements := rfl
@[simp] theorem stateSetReg_images (s : State) (n : Nat) (v : Word) : (s.setReg n v).images = s.images := rfl
@[simp] theorem stateSetReg_svn (s : State) (n : Nat) (v : Word) : (s.setReg n v).svn = s.svn := rfl
@[simp] theorem stateSetReg_operatorRoot (s : State) (n : Nat) (v : Word) : (s.setReg n v).operatorRoot = s.operatorRoot := rfl
@[simp] theorem stateSetReg_comms (s : State) (n : Nat) (v : Word) : (s.setReg n v).comms = s.comms := rfl
@[simp] theorem stateSetReg_reports (s : State) (n : Nat) (v : Word) : (s.setReg n v).reports = s.reports := rfl
@[simp] theorem stateSetReg_replies (s : State) (n : Nat) (v : Word) : (s.setReg n v).replies = s.replies := rfl

/-! ### State.setMem -/

@[simp] theorem setMem_mem (s : State) (m : Tab Byte) (a n : Nat) : (s.setMem m a n).mem = m := rfl
@[simp] theorem setMem_core (s : State) (m : Tab Byte) (a n : Nat) : (s.setMem m a n).core = s.core.markRows m a n := rfl
@[simp] theorem setMem_lnum (s : State) (m : Tab Byte) (a n : Nat) : (s.setMem m a n).lnum = s.lnum := rfl
@[simp] theorem setMem_unit (s : State) (m : Tab Byte) (a n : Nat) : (s.setMem m a n).unit = s.unit := rfl
@[simp] theorem setMem_agenda (s : State) (m : Tab Byte) (a n : Nat) : (s.setMem m a n).agenda = s.agenda := rfl
@[simp] theorem setMem_turn (s : State) (m : Tab Byte) (a n : Nat) : (s.setMem m a n).turn = s.turn := rfl
@[simp] theorem setMem_dues (s : State) (m : Tab Byte) (a n : Nat) : (s.setMem m a n).dues = s.dues := rfl
@[simp] theorem setMem_gtc (s : State) (m : Tab Byte) (a n : Nat) : (s.setMem m a n).gtc = s.gtc := rfl
@[simp] theorem setMem_dev (s : State) (m : Tab Byte) (a n : Nat) : (s.setMem m a n).dev = s.dev := rfl
@[simp] theorem setMem_dispatched (s : State) (m : Tab Byte) (a n : Nat) : (s.setMem m a n).dispatched = s.dispatched := rfl
@[simp] theorem setMem_gtcStepped (s : State) (m : Tab Byte) (a n : Nat) : (s.setMem m a n).gtcStepped = s.gtcStepped := rfl
@[simp] theorem setMem_lastCorrection (s : State) (m : Tab Byte) (a n : Nat) : (s.setMem m a n).lastCorrection = s.lastCorrection := rfl
@[simp] theorem setMem_phys (s : State) (m : Tab Byte) (a n : Nat) : (s.setMem m a n).phys = s.phys := rfl
@[simp] theorem setMem_tlbs (s : State) (m : Tab Byte) (a n : Nat) : (s.setMem m a n).tlbs = s.tlbs := rfl
@[simp] theorem setMem_roots (s : State) (m : Tab Byte) (a n : Nat) : (s.setMem m a n).roots = s.roots := rfl
@[simp] theorem setMem_hyps (s : State) (m : Tab Byte) (a n : Nat) : (s.setMem m a n).hyps = s.hyps := rfl
@[simp] theorem setMem_vers (s : State) (m : Tab Byte) (a n : Nat) : (s.setMem m a n).vers = s.vers := rfl
@[simp] theorem setMem_verAge (s : State) (m : Tab Byte) (a n : Nat) : (s.setMem m a n).verAge = s.verAge := rfl
@[simp] theorem setMem_pools (s : State) (m : Tab Byte) (a n : Nat) : (s.setMem m a n).pools = s.pools := rfl
@[simp] theorem setMem_arrivals (s : State) (m : Tab Byte) (a n : Nat) : (s.setMem m a n).arrivals = s.arrivals := rfl
@[simp] theorem setMem_kept (s : State) (m : Tab Byte) (a n : Nat) : (s.setMem m a n).kept = s.kept := rfl
@[simp] theorem setMem_dispatches (s : State) (m : Tab Byte) (a n : Nat) : (s.setMem m a n).dispatches = s.dispatches := rfl
@[simp] theorem setMem_faultq (s : State) (m : Tab Byte) (a n : Nat) : (s.setMem m a n).faultq = s.faultq := rfl
@[simp] theorem setMem_unposted (s : State) (m : Tab Byte) (a n : Nat) : (s.setMem m a n).unposted = s.unposted := rfl
@[simp] theorem setMem_fqBase (s : State) (m : Tab Byte) (a n : Nat) : (s.setMem m a n).fqBase = s.fqBase := rfl
@[simp] theorem setMem_fqHead (s : State) (m : Tab Byte) (a n : Nat) : (s.setMem m a n).fqHead = s.fqHead := rfl
@[simp] theorem setMem_fqTail (s : State) (m : Tab Byte) (a n : Nat) : (s.setMem m a n).fqTail = s.fqTail := rfl
@[simp] theorem setMem_hostIrqs (s : State) (m : Tab Byte) (a n : Nat) : (s.setMem m a n).hostIrqs = s.hostIrqs := rfl
@[simp] theorem setMem_mgmtReports (s : State) (m : Tab Byte) (a n : Nat) : (s.setMem m a n).mgmtReports = s.mgmtReports := rfl
@[simp] theorem setMem_packets (s : State) (m : Tab Byte) (a n : Nat) : (s.setMem m a n).packets = s.packets := rfl
@[simp] theorem setMem_packetId (s : State) (m : Tab Byte) (a n : Nat) : (s.setMem m a n).packetId = s.packetId := rfl
@[simp] theorem setMem_waiting (s : State) (m : Tab Byte) (a n : Nat) : (s.setMem m a n).waiting = s.waiting := rfl
@[simp] theorem setMem_responses (s : State) (m : Tab Byte) (a n : Nat) : (s.setMem m a n).responses = s.responses := rfl
@[simp] theorem setMem_flowSeq (s : State) (m : Tab Byte) (a n : Nat) : (s.setMem m a n).flowSeq = s.flowSeq := rfl
@[simp] theorem setMem_flowDone (s : State) (m : Tab Byte) (a n : Nat) : (s.setMem m a n).flowDone = s.flowDone := rfl
@[simp] theorem setMem_reorder (s : State) (m : Tab Byte) (a n : Nat) : (s.setMem m a n).reorder = s.reorder := rfl
@[simp] theorem setMem_flowLost (s : State) (m : Tab Byte) (a n : Nat) : (s.setMem m a n).flowLost = s.flowLost := rfl
@[simp] theorem setMem_assembly (s : State) (m : Tab Byte) (a n : Nat) : (s.setMem m a n).assembly = s.assembly := rfl
@[simp] theorem setMem_left (s : State) (m : Tab Byte) (a n : Nat) : (s.setMem m a n).left = s.left := rfl
@[simp] theorem setMem_portErrors (s : State) (m : Tab Byte) (a n : Nat) : (s.setMem m a n).portErrors = s.portErrors := rfl
@[simp] theorem setMem_keys (s : State) (m : Tab Byte) (a n : Nat) : (s.setMem m a n).keys = s.keys := rfl
@[simp] theorem setMem_drops (s : State) (m : Tab Byte) (a n : Nat) : (s.setMem m a n).drops = s.drops := rfl
@[simp] theorem setMem_slotTables (s : State) (m : Tab Byte) (a n : Nat) : (s.setMem m a n).slotTables = s.slotTables := rfl
@[simp] theorem setMem_drr (s : State) (m : Tab Byte) (a n : Nat) : (s.setMem m a n).drr = s.drr := rfl
@[simp] theorem setMem_dirtyRemote (s : State) (m : Tab Byte) (a n : Nat) : (s.setMem m a n).dirtyRemote = s.dirtyRemote := rfl
@[simp] theorem setMem_xltPending (s : State) (m : Tab Byte) (a n : Nat) : (s.setMem m a n).xltPending = s.xltPending := rfl
@[simp] theorem setMem_xltDone (s : State) (m : Tab Byte) (a n : Nat) : (s.setMem m a n).xltDone = s.xltDone := rfl
@[simp] theorem setMem_portDone (s : State) (m : Tab Byte) (a n : Nat) : (s.setMem m a n).portDone = s.portDone := rfl
@[simp] theorem setMem_portErr (s : State) (m : Tab Byte) (a n : Nat) : (s.setMem m a n).portErr = s.portErr := rfl
@[simp] theorem setMem_colls (s : State) (m : Tab Byte) (a n : Nat) : (s.setMem m a n).colls = s.colls := rfl
@[simp] theorem setMem_puts (s : State) (m : Tab Byte) (a n : Nat) : (s.setMem m a n).puts = s.puts := rfl
@[simp] theorem setMem_aborts (s : State) (m : Tab Byte) (a n : Nat) : (s.setMem m a n).aborts = s.aborts := rfl
@[simp] theorem setMem_clusters (s : State) (m : Tab Byte) (a n : Nat) : (s.setMem m a n).clusters = s.clusters := rfl
@[simp] theorem setMem_marked (s : State) (m : Tab Byte) (a n : Nat) : (s.setMem m a n).marked = s.marked := rfl
@[simp] theorem setMem_upset (s : State) (m : Tab Byte) (a n : Nat) : (s.setMem m a n).upset = s.upset := rfl
@[simp] theorem setMem_pairErrors (s : State) (m : Tab Byte) (a n : Nat) : (s.setMem m a n).pairErrors = s.pairErrors := rfl
@[simp] theorem setMem_hbmSpares (s : State) (m : Tab Byte) (a n : Nat) : (s.setMem m a n).hbmSpares = s.hbmSpares := rfl
@[simp] theorem setMem_lanes (s : State) (m : Tab Byte) (a n : Nat) : (s.setMem m a n).lanes = s.lanes := rfl
@[simp] theorem setMem_retired (s : State) (m : Tab Byte) (a n : Nat) : (s.setMem m a n).retired = s.retired := rfl
@[simp] theorem setMem_retiring (s : State) (m : Tab Byte) (a n : Nat) : (s.setMem m a n).retiring = s.retiring := rfl
@[simp] theorem setMem_noMajority (s : State) (m : Tab Byte) (a n : Nat) : (s.setMem m a n).noMajority = s.noMajority := rfl
@[simp] theorem setMem_boot (s : State) (m : Tab Byte) (a n : Nat) : (s.setMem m a n).boot = s.boot := rfl
@[simp] theorem setMem_measurements (s : State) (m : Tab Byte) (a n : Nat) : (s.setMem m a n).measurements = s.measurements := rfl
@[simp] theorem setMem_images (s : State) (m : Tab Byte) (a n : Nat) : (s.setMem m a n).images = s.images := rfl
@[simp] theorem setMem_svn (s : State) (m : Tab Byte) (a n : Nat) : (s.setMem m a n).svn = s.svn := rfl
@[simp] theorem setMem_operatorRoot (s : State) (m : Tab Byte) (a n : Nat) : (s.setMem m a n).operatorRoot = s.operatorRoot := rfl
@[simp] theorem setMem_comms (s : State) (m : Tab Byte) (a n : Nat) : (s.setMem m a n).comms = s.comms := rfl
@[simp] theorem setMem_reports (s : State) (m : Tab Byte) (a n : Nat) : (s.setMem m a n).reports = s.reports := rfl
@[simp] theorem setMem_replies (s : State) (m : Tab Byte) (a n : Nat) : (s.setMem m a n).replies = s.replies := rfl

/-! ### report -/

@[simp] theorem report_unposted (s : State) (r : FaultRecord) : (report s r).unposted = s.unposted ++ [r] := rfl
@[simp] theorem report_core (s : State) (r : FaultRecord) : (report s r).core = s.core := rfl
@[simp] theorem report_lnum (s : State) (r : FaultRecord) : (report s r).lnum = s.lnum := rfl
@[simp] theorem report_others (s : State) (r : FaultRecord) : (report s r).others = s.others := rfl
@[simp] theorem report_unit (s : State) (r : FaultRecord) : (report s r).unit = s.unit := rfl
@[simp] theorem report_agenda (s : State) (r : FaultRecord) : (report s r).agenda = s.agenda := rfl
@[simp] theorem report_turn (s : State) (r : FaultRecord) : (report s r).turn = s.turn := rfl
@[simp] theorem report_dues (s : State) (r : FaultRecord) : (report s r).dues = s.dues := rfl
@[simp] theorem report_gtc (s : State) (r : FaultRecord) : (report s r).gtc = s.gtc := rfl
@[simp] theorem report_dev (s : State) (r : FaultRecord) : (report s r).dev = s.dev := rfl
@[simp] theorem report_dispatched (s : State) (r : FaultRecord) : (report s r).dispatched = s.dispatched := rfl
@[simp] theorem report_gtcStepped (s : State) (r : FaultRecord) : (report s r).gtcStepped = s.gtcStepped := rfl
@[simp] theorem report_lastCorrection (s : State) (r : FaultRecord) : (report s r).lastCorrection = s.lastCorrection := rfl
@[simp] theorem report_phys (s : State) (r : FaultRecord) : (report s r).phys = s.phys := rfl
@[simp] theorem report_mem (s : State) (r : FaultRecord) : (report s r).mem = s.mem := rfl
@[simp] theorem report_tlbs (s : State) (r : FaultRecord) : (report s r).tlbs = s.tlbs := rfl
@[simp] theorem report_roots (s : State) (r : FaultRecord) : (report s r).roots = s.roots := rfl
@[simp] theorem report_hyps (s : State) (r : FaultRecord) : (report s r).hyps = s.hyps := rfl
@[simp] theorem report_vers (s : State) (r : FaultRecord) : (report s r).vers = s.vers := rfl
@[simp] theorem report_verAge (s : State) (r : FaultRecord) : (report s r).verAge = s.verAge := rfl
@[simp] theorem report_pools (s : State) (r : FaultRecord) : (report s r).pools = s.pools := rfl
@[simp] theorem report_arrivals (s : State) (r : FaultRecord) : (report s r).arrivals = s.arrivals := rfl
@[simp] theorem report_saves (s : State) (r : FaultRecord) : (report s r).saves = s.saves := rfl
@[simp] theorem report_kept (s : State) (r : FaultRecord) : (report s r).kept = s.kept := rfl
@[simp] theorem report_dispatches (s : State) (r : FaultRecord) : (report s r).dispatches = s.dispatches := rfl
@[simp] theorem report_faultq (s : State) (r : FaultRecord) : (report s r).faultq = s.faultq := rfl
@[simp] theorem report_fqBase (s : State) (r : FaultRecord) : (report s r).fqBase = s.fqBase := rfl
@[simp] theorem report_fqHead (s : State) (r : FaultRecord) : (report s r).fqHead = s.fqHead := rfl
@[simp] theorem report_fqTail (s : State) (r : FaultRecord) : (report s r).fqTail = s.fqTail := rfl
@[simp] theorem report_hostIrqs (s : State) (r : FaultRecord) : (report s r).hostIrqs = s.hostIrqs := rfl
@[simp] theorem report_mgmtReports (s : State) (r : FaultRecord) : (report s r).mgmtReports = s.mgmtReports := rfl
@[simp] theorem report_packets (s : State) (r : FaultRecord) : (report s r).packets = s.packets := rfl
@[simp] theorem report_packetId (s : State) (r : FaultRecord) : (report s r).packetId = s.packetId := rfl
@[simp] theorem report_waiting (s : State) (r : FaultRecord) : (report s r).waiting = s.waiting := rfl
@[simp] theorem report_responses (s : State) (r : FaultRecord) : (report s r).responses = s.responses := rfl
@[simp] theorem report_flowSeq (s : State) (r : FaultRecord) : (report s r).flowSeq = s.flowSeq := rfl
@[simp] theorem report_flowDone (s : State) (r : FaultRecord) : (report s r).flowDone = s.flowDone := rfl
@[simp] theorem report_reorder (s : State) (r : FaultRecord) : (report s r).reorder = s.reorder := rfl
@[simp] theorem report_flowLost (s : State) (r : FaultRecord) : (report s r).flowLost = s.flowLost := rfl
@[simp] theorem report_assembly (s : State) (r : FaultRecord) : (report s r).assembly = s.assembly := rfl
@[simp] theorem report_left (s : State) (r : FaultRecord) : (report s r).left = s.left := rfl
@[simp] theorem report_portErrors (s : State) (r : FaultRecord) : (report s r).portErrors = s.portErrors := rfl
@[simp] theorem report_keys (s : State) (r : FaultRecord) : (report s r).keys = s.keys := rfl
@[simp] theorem report_drops (s : State) (r : FaultRecord) : (report s r).drops = s.drops := rfl
@[simp] theorem report_slotTables (s : State) (r : FaultRecord) : (report s r).slotTables = s.slotTables := rfl
@[simp] theorem report_drr (s : State) (r : FaultRecord) : (report s r).drr = s.drr := rfl
@[simp] theorem report_dirtyRemote (s : State) (r : FaultRecord) : (report s r).dirtyRemote = s.dirtyRemote := rfl
@[simp] theorem report_xltPending (s : State) (r : FaultRecord) : (report s r).xltPending = s.xltPending := rfl
@[simp] theorem report_xltDone (s : State) (r : FaultRecord) : (report s r).xltDone = s.xltDone := rfl
@[simp] theorem report_portDone (s : State) (r : FaultRecord) : (report s r).portDone = s.portDone := rfl
@[simp] theorem report_portErr (s : State) (r : FaultRecord) : (report s r).portErr = s.portErr := rfl
@[simp] theorem report_colls (s : State) (r : FaultRecord) : (report s r).colls = s.colls := rfl
@[simp] theorem report_puts (s : State) (r : FaultRecord) : (report s r).puts = s.puts := rfl
@[simp] theorem report_aborts (s : State) (r : FaultRecord) : (report s r).aborts = s.aborts := rfl
@[simp] theorem report_clusters (s : State) (r : FaultRecord) : (report s r).clusters = s.clusters := rfl
@[simp] theorem report_marked (s : State) (r : FaultRecord) : (report s r).marked = s.marked := rfl
@[simp] theorem report_upset (s : State) (r : FaultRecord) : (report s r).upset = s.upset := rfl
@[simp] theorem report_pairErrors (s : State) (r : FaultRecord) : (report s r).pairErrors = s.pairErrors := rfl
@[simp] theorem report_hbmSpares (s : State) (r : FaultRecord) : (report s r).hbmSpares = s.hbmSpares := rfl
@[simp] theorem report_lanes (s : State) (r : FaultRecord) : (report s r).lanes = s.lanes := rfl
@[simp] theorem report_retired (s : State) (r : FaultRecord) : (report s r).retired = s.retired := rfl
@[simp] theorem report_retiring (s : State) (r : FaultRecord) : (report s r).retiring = s.retiring := rfl
@[simp] theorem report_noMajority (s : State) (r : FaultRecord) : (report s r).noMajority = s.noMajority := rfl
@[simp] theorem report_boot (s : State) (r : FaultRecord) : (report s r).boot = s.boot := rfl
@[simp] theorem report_measurements (s : State) (r : FaultRecord) : (report s r).measurements = s.measurements := rfl
@[simp] theorem report_images (s : State) (r : FaultRecord) : (report s r).images = s.images := rfl
@[simp] theorem report_svn (s : State) (r : FaultRecord) : (report s r).svn = s.svn := rfl
@[simp] theorem report_operatorRoot (s : State) (r : FaultRecord) : (report s r).operatorRoot = s.operatorRoot := rfl
@[simp] theorem report_comms (s : State) (r : FaultRecord) : (report s r).comms = s.comms := rfl
@[simp] theorem report_reports (s : State) (r : FaultRecord) : (report s r).reports = s.reports := rfl
@[simp] theorem report_replies (s : State) (r : FaultRecord) : (report s r).replies = s.replies := rfl

/-! ### Core.setGuard -/

@[simp] theorem setGuard_pc (c : Core) (n : Nat) (b : Bool) : (c.setGuard n b).pc = c.pc := by simp only [Core.setGuard]; split <;> rfl
@[simp] theorem setGuard_x (c : Core) (n : Nat) (b : Bool) : (c.setGuard n b).x = c.x := by simp only [Core.setGuard]; split <;> rfl
@[simp] theorem setGuard_ae (c : Core) (n : Nat) (b : Bool) : (c.setGuard n b).ae = c.ae := by simp only [Core.setGuard]; split <;> rfl
@[simp] theorem setGuard_me (c : Core) (n : Nat) (b : Bool) : (c.setGuard n b).me = c.me := by simp only [Core.setGuard]; split <;> rfl
@[simp] theorem setGuard_se (c : Core) (n : Nat) (b : Bool) : (c.setGuard n b).se = c.se := by simp only [Core.setGuard]; split <;> rfl
@[simp] theorem setGuard_ve (c : Core) (n : Nat) (b : Bool) : (c.setGuard n b).ve = c.ve := by simp only [Core.setGuard]; split <;> rfl
@[simp] theorem setGuard_pfx (c : Core) (n : Nat) (b : Bool) : (c.setGuard n b).pfx = c.pfx := by simp only [Core.setGuard]; split <;> rfl
@[simp] theorem setGuard_blocked (c : Core) (n : Nat) (b : Bool) : (c.setGuard n b).blocked = c.blocked := by simp only [Core.setGuard]; split <;> rfl
@[simp] theorem setGuard_cause (c : Core) (n : Nat) (b : Bool) : (c.setGuard n b).cause = c.cause := by simp only [Core.setGuard]; split <;> rfl
@[simp] theorem setGuard_exempt (c : Core) (n : Nat) (b : Bool) : (c.setGuard n b).exempt = c.exempt := by simp only [Core.setGuard]; split <;> rfl
@[simp] theorem setGuard_poll (c : Core) (n : Nat) (b : Bool) : (c.setGuard n b).poll = c.poll := by simp only [Core.setGuard]; split <;> rfl
@[simp] theorem setGuard_curWord (c : Core) (n : Nat) (b : Bool) : (c.setGuard n b).curWord = c.curWord := by simp only [Core.setGuard]; split <;> rfl
@[simp] theorem setGuard_underway (c : Core) (n : Nat) (b : Bool) : (c.setGuard n b).underway = c.underway := by simp only [Core.setGuard]; split <;> rfl
@[simp] theorem setGuard_icache (c : Core) (n : Nat) (b : Bool) : (c.setGuard n b).icache = c.icache := by simp only [Core.setGuard]; split <;> rfl
@[simp] theorem setGuard_fetching (c : Core) (n : Nat) (b : Bool) : (c.setGuard n b).fetching = c.fetching := by simp only [Core.setGuard]; split <;> rfl
@[simp] theorem setGuard_bulk (c : Core) (n : Nat) (b : Bool) : (c.setGuard n b).bulk = c.bulk := by simp only [Core.setGuard]; split <;> rfl
@[simp] theorem setGuard_tokens (c : Core) (n : Nat) (b : Bool) : (c.setGuard n b).tokens = c.tokens := by simp only [Core.setGuard]; split <;> rfl
@[simp] theorem setGuard_fmtq (c : Core) (n : Nat) (b : Bool) : (c.setGuard n b).fmtq = c.fmtq := by simp only [Core.setGuard]; split <;> rfl
@[simp] theorem setGuard_sclq (c : Core) (n : Nat) (b : Bool) : (c.setGuard n b).sclq = c.sclq := by simp only [Core.setGuard]; split <;> rfl
@[simp] theorem setGuard_rq (c : Core) (n : Nat) (b : Bool) : (c.setGuard n b).rq = c.rq := by simp only [Core.setGuard]; split <;> rfl
@[simp] theorem setGuard_cntLd (c : Core) (n : Nat) (b : Bool) : (c.setGuard n b).cntLd = c.cntLd := by simp only [Core.setGuard]; split <;> rfl
@[simp] theorem setGuard_cntSt (c : Core) (n : Nat) (b : Bool) : (c.setGuard n b).cntSt = c.cntSt := by simp only [Core.setGuard]; split <;> rfl
@[simp] theorem setGuard_cntCp (c : Core) (n : Nat) (b : Bool) : (c.setGuard n b).cntCp = c.cntCp := by simp only [Core.setGuard]; split <;> rfl
@[simp] theorem setGuard_cpZero (c : Core) (n : Nat) (b : Bool) : (c.setGuard n b).cpZero = c.cpZero := by simp only [Core.setGuard]; split <;> rfl
@[simp] theorem setGuard_cntTl (c : Core) (n : Nat) (b : Bool) : (c.setGuard n b).cntTl = c.cntTl := by simp only [Core.setGuard]; split <;> rfl
@[simp] theorem setGuard_pend (c : Core) (n : Nat) (b : Bool) : (c.setGuard n b).pend = c.pend := by simp only [Core.setGuard]; split <;> rfl
@[simp] theorem setGuard_c (c : Core) (n : Nat) (b : Bool) : (c.setGuard n b).c = c.c := by simp only [Core.setGuard]; split <;> rfl
@[simp] theorem setGuard_t (c : Core) (n : Nat) (b : Bool) : (c.setGuard n b).t = c.t := by simp only [Core.setGuard]; split <;> rfl
@[simp] theorem setGuard_w (c : Core) (n : Nat) (b : Bool) : (c.setGuard n b).w = c.w := by simp only [Core.setGuard]; split <;> rfl
@[simp] theorem setGuard_d (c : Core) (n : Nat) (b : Bool) : (c.setGuard n b).d = c.d := by simp only [Core.setGuard]; split <;> rfl
@[simp] theorem setGuard_opd (c : Core) (n : Nat) (b : Bool) : (c.setGuard n b).opd = c.opd := by simp only [Core.setGuard]; split <;> rfl
@[simp] theorem setGuard_ring (c : Core) (n : Nat) (b : Bool) : (c.setGuard n b).ring = c.ring := by simp only [Core.setGuard]; split <;> rfl
@[simp] theorem setGuard_wb (c : Core) (n : Nat) (b : Bool) : (c.setGuard n b).wb = c.wb := by simp only [Core.setGuard]; split <;> rfl
@[simp] theorem setGuard_ab (c : Core) (n : Nat) (b : Bool) : (c.setGuard n b).ab = c.ab := by simp only [Core.setGuard]; split <;> rfl
@[simp] theorem setGuard_as (c : Core) (n : Nat) (b : Bool) : (c.setGuard n b).as = c.as := by simp only [Core.setGuard]; split <;> rfl
@[simp] theorem setGuard_srf (c : Core) (n : Nat) (b : Bool) : (c.setGuard n b).srf = c.srf := by simp only [Core.setGuard]; split <;> rfl
@[simp] theorem setGuard_slots (c : Core) (n : Nat) (b : Bool) : (c.setGuard n b).slots = c.slots := by simp only [Core.setGuard]; split <;> rfl
@[simp] theorem setGuard_copies (c : Core) (n : Nat) (b : Bool) : (c.setGuard n b).copies = c.copies := by simp only [Core.setGuard]; split <;> rfl
@[simp] theorem setGuard_copySeq (c : Core) (n : Nat) (b : Bool) : (c.setGuard n b).copySeq = c.copySeq := by simp only [Core.setGuard]; split <;> rfl
@[simp] theorem setGuard_copyTurn (c : Core) (n : Nat) (b : Bool) : (c.setGuard n b).copyTurn = c.copyTurn := by simp only [Core.setGuard]; split <;> rfl
@[simp] theorem setGuard_tiles (c : Core) (n : Nat) (b : Bool) : (c.setGuard n b).tiles = c.tiles := by simp only [Core.setGuard]; split <;> rfl
@[simp] theorem setGuard_latch (c : Core) (n : Nat) (b : Bool) : (c.setGuard n b).latch = c.latch := by simp only [Core.setGuard]; split <;> rfl
@[simp] theorem setGuard_vpend (c : Core) (n : Nat) (b : Bool) : (c.setGuard n b).vpend = c.vpend := by simp only [Core.setGuard]; split <;> rfl
@[simp] theorem setGuard_vword (c : Core) (n : Nat) (b : Bool) : (c.setGuard n b).vword = c.vword := by simp only [Core.setGuard]; split <;> rfl
@[simp] theorem setGuard_vretire (c : Core) (n : Nat) (b : Bool) : (c.setGuard n b).vretire = c.vretire := by simp only [Core.setGuard]; split <;> rfl
@[simp] theorem setGuard_chain (c : Core) (n : Nat) (b : Bool) : (c.setGuard n b).chain = c.chain := by simp only [Core.setGuard]; split <;> rfl
@[simp] theorem setGuard_front (c : Core) (n : Nat) (b : Bool) : (c.setGuard n b).front = c.front := by simp only [Core.setGuard]; split <;> rfl
@[simp] theorem setGuard_ctag (c : Core) (n : Nat) (b : Bool) : (c.setGuard n b).ctag = c.ctag := by simp only [Core.setGuard]; split <;> rfl
@[simp] theorem setGuard_inbox (c : Core) (n : Nat) (b : Bool) : (c.setGuard n b).inbox = c.inbox := by simp only [Core.setGuard]; split <;> rfl
@[simp] theorem setGuard_credits (c : Core) (n : Nat) (b : Bool) : (c.setGuard n b).credits = c.credits := by simp only [Core.setGuard]; split <;> rfl
@[simp] theorem setGuard_carryAsk (c : Core) (n : Nat) (b : Bool) : (c.setGuard n b).carryAsk = c.carryAsk := by simp only [Core.setGuard]; split <;> rfl
@[simp] theorem setGuard_ldsTab (c : Core) (n : Nat) (b : Bool) : (c.setGuard n b).ldsTab = c.ldsTab := by simp only [Core.setGuard]; split <;> rfl
@[simp] theorem setGuard_qrseed (c : Core) (n : Nat) (b : Bool) : (c.setGuard n b).qrseed = c.qrseed := by simp only [Core.setGuard]; split <;> rfl
@[simp] theorem setGuard_smp (c : Core) (n : Nat) (b : Bool) : (c.setGuard n b).smp = c.smp := by simp only [Core.setGuard]; split <;> rfl
@[simp] theorem setGuard_smpq (c : Core) (n : Nat) (b : Bool) : (c.setGuard n b).smpq = c.smpq := by simp only [Core.setGuard]; split <;> rfl
@[simp] theorem setGuard_replays (c : Core) (n : Nat) (b : Bool) : (c.setGuard n b).replays = c.replays := by simp only [Core.setGuard]; split <;> rfl
@[simp] theorem setGuard_tileReplay (c : Core) (n : Nat) (b : Bool) : (c.setGuard n b).tileReplay = c.tileReplay := by simp only [Core.setGuard]; split <;> rfl
@[simp] theorem setGuard_meOwn (c : Core) (n : Nat) (b : Bool) : (c.setGuard n b).meOwn = c.meOwn := by simp only [Core.setGuard]; split <;> rfl
@[simp] theorem setGuard_tOwn (c : Core) (n : Nat) (b : Bool) : (c.setGuard n b).tOwn = c.tOwn := by simp only [Core.setGuard]; split <;> rfl
@[simp] theorem setGuard_relocs (c : Core) (n : Nat) (b : Bool) : (c.setGuard n b).relocs = c.relocs := by simp only [Core.setGuard]; split <;> rfl
@[simp] theorem setGuard_seprog (c : Core) (n : Nat) (b : Bool) : (c.setGuard n b).seprog = c.seprog := by simp only [Core.setGuard]; split <;> rfl
@[simp] theorem setGuard_seFlags (c : Core) (n : Nat) (b : Bool) : (c.setGuard n b).seFlags = c.seFlags := by simp only [Core.setGuard]; split <;> rfl
@[simp] theorem setGuard_veprog (c : Core) (n : Nat) (b : Bool) : (c.setGuard n b).veprog = c.veprog := by simp only [Core.setGuard]; split <;> rfl
@[simp] theorem setGuard_frontRank (c : Core) (n : Nat) (b : Bool) : (c.setGuard n b).frontRank = c.frontRank := by simp only [Core.setGuard]; split <;> rfl
@[simp] theorem setGuard_hyp (c : Core) (n : Nat) (b : Bool) : (c.setGuard n b).hyp = c.hyp := by simp only [Core.setGuard]; split <;> rfl
@[simp] theorem setGuard_hypDepth (c : Core) (n : Nat) (b : Bool) : (c.setGuard n b).hypDepth = c.hypDepth := by simp only [Core.setGuard]; split <;> rfl
@[simp] theorem setGuard_aflags (c : Core) (n : Nat) (b : Bool) : (c.setGuard n b).aflags = c.aflags := by simp only [Core.setGuard]; split <;> rfl
@[simp] theorem setGuard_cycle (c : Core) (n : Nat) (b : Bool) : (c.setGuard n b).cycle = c.cycle := by simp only [Core.setGuard]; split <;> rfl
@[simp] theorem setGuard_instret (c : Core) (n : Nat) (b : Bool) : (c.setGuard n b).instret = c.instret := by simp only [Core.setGuard]; split <;> rfl
@[simp] theorem setGuard_scratch (c : Core) (n : Nat) (b : Bool) : (c.setGuard n b).scratch = c.scratch := by simp only [Core.setGuard]; split <;> rfl
@[simp] theorem setGuard_rtbase (c : Core) (n : Nat) (b : Bool) : (c.setGuard n b).rtbase = c.rtbase := by simp only [Core.setGuard]; split <;> rfl
@[simp] theorem setGuard_logring (c : Core) (n : Nat) (b : Bool) : (c.setGuard n b).logring = c.logring := by simp only [Core.setGuard]; split <;> rfl
@[simp] theorem setGuard_win (c : Core) (n : Nat) (b : Bool) : (c.setGuard n b).win = c.win := by simp only [Core.setGuard]; split <;> rfl
@[simp] theorem setGuard_winst (c : Core) (n : Nat) (b : Bool) : (c.setGuard n b).winst = c.winst := by simp only [Core.setGuard]; split <;> rfl
@[simp] theorem setGuard_remoteOut (c : Core) (n : Nat) (b : Bool) : (c.setGuard n b).remoteOut = c.remoteOut := by simp only [Core.setGuard]; split <;> rfl
@[simp] theorem setGuard_frameRun (c : Core) (n : Nat) (b : Bool) : (c.setGuard n b).frameRun = c.frameRun := by simp only [Core.setGuard]; split <;> rfl
@[simp] theorem setGuard_frameCount (c : Core) (n : Nat) (b : Bool) : (c.setGuard n b).frameCount = c.frameCount := by simp only [Core.setGuard]; split <;> rfl
@[simp] theorem setGuard_divs (c : Core) (n : Nat) (b : Bool) : (c.setGuard n b).divs = c.divs := by simp only [Core.setGuard]; split <;> rfl
@[simp] theorem setGuard_frameNext (c : Core) (n : Nat) (b : Bool) : (c.setGuard n b).frameNext = c.frameNext := by simp only [Core.setGuard]; split <;> rfl
@[simp] theorem setGuard_fcause (c : Core) (n : Nat) (b : Bool) : (c.setGuard n b).fcause = c.fcause := by simp only [Core.setGuard]; split <;> rfl
@[simp] theorem setGuard_faddr (c : Core) (n : Nat) (b : Bool) : (c.setGuard n b).faddr = c.faddr := by simp only [Core.setGuard]; split <;> rfl
@[simp] theorem setGuard_eccCorr (c : Core) (n : Nat) (b : Bool) : (c.setGuard n b).eccCorr = c.eccCorr := by simp only [Core.setGuard]; split <;> rfl
@[simp] theorem setGuard_eccUncorr (c : Core) (n : Nat) (b : Bool) : (c.setGuard n b).eccUncorr = c.eccUncorr := by simp only [Core.setGuard]; split <;> rfl
@[simp] theorem setGuard_marks (c : Core) (n : Nat) (b : Bool) : (c.setGuard n b).marks = c.marks := by simp only [Core.setGuard]; split <;> rfl
@[simp] theorem setGuard_upsets (c : Core) (n : Nat) (b : Bool) : (c.setGuard n b).upsets = c.upsets := by simp only [Core.setGuard]; split <;> rfl
@[simp] theorem setGuard_mode (c : Core) (n : Nat) (b : Bool) : (c.setGuard n b).mode = c.mode := by simp only [Core.setGuard]; split <;> rfl
@[simp] theorem setGuard_ctx (c : Core) (n : Nat) (b : Bool) : (c.setGuard n b).ctx = c.ctx := by simp only [Core.setGuard]; split <;> rfl
@[simp] theorem setGuard_lastTenant (c : Core) (n : Nat) (b : Bool) : (c.setGuard n b).lastTenant = c.lastTenant := by simp only [Core.setGuard]; split <;> rfl
@[simp] theorem setGuard_primary (c : Core) (n : Nat) (b : Bool) : (c.setGuard n b).primary = c.primary := by simp only [Core.setGuard]; split <;> rfl
@[simp] theorem setGuard_multi (c : Core) (n : Nat) (b : Bool) : (c.setGuard n b).multi = c.multi := by simp only [Core.setGuard]; split <;> rfl
@[simp] theorem setGuard_causes (c : Core) (n : Nat) (b : Bool) : (c.setGuard n b).causes = c.causes := by simp only [Core.setGuard]; split <;> rfl
@[simp] theorem setGuard_handled (c : Core) (n : Nat) (b : Bool) : (c.setGuard n b).handled = c.handled := by simp only [Core.setGuard]; split <;> rfl
@[simp] theorem setGuard_saved (c : Core) (n : Nat) (b : Bool) : (c.setGuard n b).saved = c.saved := by simp only [Core.setGuard]; split <;> rfl
@[simp] theorem setGuard_answered (c : Core) (n : Nat) (b : Bool) : (c.setGuard n b).answered = c.answered := by simp only [Core.setGuard]; split <;> rfl
@[simp] theorem setGuard_parking (c : Core) (n : Nat) (b : Bool) : (c.setGuard n b).parking = c.parking := by simp only [Core.setGuard]; split <;> rfl
@[simp] theorem setGuard_frameGtc (c : Core) (n : Nat) (b : Bool) : (c.setGuard n b).frameGtc = c.frameGtc := by simp only [Core.setGuard]; split <;> rfl
@[simp] theorem setGuard_preempt (c : Core) (n : Nat) (b : Bool) : (c.setGuard n b).preempt = c.preempt := by simp only [Core.setGuard]; split <;> rfl
@[simp] theorem setGuard_succDone (c : Core) (n : Nat) (b : Bool) : (c.setGuard n b).succDone = c.succDone := by simp only [Core.setGuard]; split <;> rfl
@[simp] theorem setGuard_succPred (c : Core) (n : Nat) (b : Bool) : (c.setGuard n b).succPred = c.succPred := by simp only [Core.setGuard]; split <;> rfl
@[simp] theorem setGuard_succWait (c : Core) (n : Nat) (b : Bool) : (c.setGuard n b).succWait = c.succWait := by simp only [Core.setGuard]; split <;> rfl
@[simp] theorem setGuard_orphan (c : Core) (n : Nat) (b : Bool) : (c.setGuard n b).orphan = c.orphan := by simp only [Core.setGuard]; split <;> rfl
@[simp] theorem setGuard_heldFaults (c : Core) (n : Nat) (b : Bool) : (c.setGuard n b).heldFaults = c.heldFaults := by simp only [Core.setGuard]; split <;> rfl
@[simp] theorem setGuard_listed (c : Core) (n : Nat) (b : Bool) : (c.setGuard n b).listed = c.listed := by simp only [Core.setGuard]; split <;> rfl
@[simp] theorem setGuard_log (c : Core) (n : Nat) (b : Bool) : (c.setGuard n b).log = c.log := by simp only [Core.setGuard]; split <;> rfl

/-! ### Core.setEng and Core.setReg -/

@[simp] theorem setEng_pc (c : Core) (u : Sqr) (e : Engine) : (c.setEng u e).pc = c.pc := by cases u <;> rfl
@[simp] theorem setEng_x (c : Core) (u : Sqr) (e : Engine) : (c.setEng u e).x = c.x := by cases u <;> rfl
@[simp] theorem setEng_g (c : Core) (u : Sqr) (e : Engine) : (c.setEng u e).g = c.g := by cases u <;> rfl
@[simp] theorem setEng_pfx (c : Core) (u : Sqr) (e : Engine) : (c.setEng u e).pfx = c.pfx := by cases u <;> rfl
@[simp] theorem setEng_blocked (c : Core) (u : Sqr) (e : Engine) : (c.setEng u e).blocked = c.blocked := by cases u <;> rfl
@[simp] theorem setEng_cause (c : Core) (u : Sqr) (e : Engine) : (c.setEng u e).cause = c.cause := by cases u <;> rfl
@[simp] theorem setEng_exempt (c : Core) (u : Sqr) (e : Engine) : (c.setEng u e).exempt = c.exempt := by cases u <;> rfl
@[simp] theorem setEng_poll (c : Core) (u : Sqr) (e : Engine) : (c.setEng u e).poll = c.poll := by cases u <;> rfl
@[simp] theorem setEng_curWord (c : Core) (u : Sqr) (e : Engine) : (c.setEng u e).curWord = c.curWord := by cases u <;> rfl
@[simp] theorem setEng_underway (c : Core) (u : Sqr) (e : Engine) : (c.setEng u e).underway = c.underway := by cases u <;> rfl
@[simp] theorem setEng_icache (c : Core) (u : Sqr) (e : Engine) : (c.setEng u e).icache = c.icache := by cases u <;> rfl
@[simp] theorem setEng_fetching (c : Core) (u : Sqr) (e : Engine) : (c.setEng u e).fetching = c.fetching := by cases u <;> rfl
@[simp] theorem setEng_bulk (c : Core) (u : Sqr) (e : Engine) : (c.setEng u e).bulk = c.bulk := by cases u <;> rfl
@[simp] theorem setEng_tokens (c : Core) (u : Sqr) (e : Engine) : (c.setEng u e).tokens = c.tokens := by cases u <;> rfl
@[simp] theorem setEng_fmtq (c : Core) (u : Sqr) (e : Engine) : (c.setEng u e).fmtq = c.fmtq := by cases u <;> rfl
@[simp] theorem setEng_sclq (c : Core) (u : Sqr) (e : Engine) : (c.setEng u e).sclq = c.sclq := by cases u <;> rfl
@[simp] theorem setEng_rq (c : Core) (u : Sqr) (e : Engine) : (c.setEng u e).rq = c.rq := by cases u <;> rfl
@[simp] theorem setEng_cntLd (c : Core) (u : Sqr) (e : Engine) : (c.setEng u e).cntLd = c.cntLd := by cases u <;> rfl
@[simp] theorem setEng_cntSt (c : Core) (u : Sqr) (e : Engine) : (c.setEng u e).cntSt = c.cntSt := by cases u <;> rfl
@[simp] theorem setEng_cntCp (c : Core) (u : Sqr) (e : Engine) : (c.setEng u e).cntCp = c.cntCp := by cases u <;> rfl
@[simp] theorem setEng_cpZero (c : Core) (u : Sqr) (e : Engine) : (c.setEng u e).cpZero = c.cpZero := by cases u <;> rfl
@[simp] theorem setEng_cntTl (c : Core) (u : Sqr) (e : Engine) : (c.setEng u e).cntTl = c.cntTl := by cases u <;> rfl
@[simp] theorem setEng_pend (c : Core) (u : Sqr) (e : Engine) : (c.setEng u e).pend = c.pend := by cases u <;> rfl
@[simp] theorem setEng_c (c : Core) (u : Sqr) (e : Engine) : (c.setEng u e).c = c.c := by cases u <;> rfl
@[simp] theorem setEng_t (c : Core) (u : Sqr) (e : Engine) : (c.setEng u e).t = c.t := by cases u <;> rfl
@[simp] theorem setEng_w (c : Core) (u : Sqr) (e : Engine) : (c.setEng u e).w = c.w := by cases u <;> rfl
@[simp] theorem setEng_d (c : Core) (u : Sqr) (e : Engine) : (c.setEng u e).d = c.d := by cases u <;> rfl
@[simp] theorem setEng_opd (c : Core) (u : Sqr) (e : Engine) : (c.setEng u e).opd = c.opd := by cases u <;> rfl
@[simp] theorem setEng_ring (c : Core) (u : Sqr) (e : Engine) : (c.setEng u e).ring = c.ring := by cases u <;> rfl
@[simp] theorem setEng_wb (c : Core) (u : Sqr) (e : Engine) : (c.setEng u e).wb = c.wb := by cases u <;> rfl
@[simp] theorem setEng_ab (c : Core) (u : Sqr) (e : Engine) : (c.setEng u e).ab = c.ab := by cases u <;> rfl
@[simp] theorem setEng_as (c : Core) (u : Sqr) (e : Engine) : (c.setEng u e).as = c.as := by cases u <;> rfl
@[simp] theorem setEng_srf (c : Core) (u : Sqr) (e : Engine) : (c.setEng u e).srf = c.srf := by cases u <;> rfl
@[simp] theorem setEng_slots (c : Core) (u : Sqr) (e : Engine) : (c.setEng u e).slots = c.slots := by cases u <;> rfl
@[simp] theorem setEng_copies (c : Core) (u : Sqr) (e : Engine) : (c.setEng u e).copies = c.copies := by cases u <;> rfl
@[simp] theorem setEng_copySeq (c : Core) (u : Sqr) (e : Engine) : (c.setEng u e).copySeq = c.copySeq := by cases u <;> rfl
@[simp] theorem setEng_copyTurn (c : Core) (u : Sqr) (e : Engine) : (c.setEng u e).copyTurn = c.copyTurn := by cases u <;> rfl
@[simp] theorem setEng_tiles (c : Core) (u : Sqr) (e : Engine) : (c.setEng u e).tiles = c.tiles := by cases u <;> rfl
@[simp] theorem setEng_latch (c : Core) (u : Sqr) (e : Engine) : (c.setEng u e).latch = c.latch := by cases u <;> rfl
@[simp] theorem setEng_vpend (c : Core) (u : Sqr) (e : Engine) : (c.setEng u e).vpend = c.vpend := by cases u <;> rfl
@[simp] theorem setEng_vword (c : Core) (u : Sqr) (e : Engine) : (c.setEng u e).vword = c.vword := by cases u <;> rfl
@[simp] theorem setEng_vretire (c : Core) (u : Sqr) (e : Engine) : (c.setEng u e).vretire = c.vretire := by cases u <;> rfl
@[simp] theorem setEng_chain (c : Core) (u : Sqr) (e : Engine) : (c.setEng u e).chain = c.chain := by cases u <;> rfl
@[simp] theorem setEng_front (c : Core) (u : Sqr) (e : Engine) : (c.setEng u e).front = c.front := by cases u <;> rfl
@[simp] theorem setEng_ctag (c : Core) (u : Sqr) (e : Engine) : (c.setEng u e).ctag = c.ctag := by cases u <;> rfl
@[simp] theorem setEng_inbox (c : Core) (u : Sqr) (e : Engine) : (c.setEng u e).inbox = c.inbox := by cases u <;> rfl
@[simp] theorem setEng_credits (c : Core) (u : Sqr) (e : Engine) : (c.setEng u e).credits = c.credits := by cases u <;> rfl
@[simp] theorem setEng_carryAsk (c : Core) (u : Sqr) (e : Engine) : (c.setEng u e).carryAsk = c.carryAsk := by cases u <;> rfl
@[simp] theorem setEng_ldsTab (c : Core) (u : Sqr) (e : Engine) : (c.setEng u e).ldsTab = c.ldsTab := by cases u <;> rfl
@[simp] theorem setEng_qrseed (c : Core) (u : Sqr) (e : Engine) : (c.setEng u e).qrseed = c.qrseed := by cases u <;> rfl
@[simp] theorem setEng_smp (c : Core) (u : Sqr) (e : Engine) : (c.setEng u e).smp = c.smp := by cases u <;> rfl
@[simp] theorem setEng_smpq (c : Core) (u : Sqr) (e : Engine) : (c.setEng u e).smpq = c.smpq := by cases u <;> rfl
@[simp] theorem setEng_replays (c : Core) (u : Sqr) (e : Engine) : (c.setEng u e).replays = c.replays := by cases u <;> rfl
@[simp] theorem setEng_tileReplay (c : Core) (u : Sqr) (e : Engine) : (c.setEng u e).tileReplay = c.tileReplay := by cases u <;> rfl
@[simp] theorem setEng_meOwn (c : Core) (u : Sqr) (e : Engine) : (c.setEng u e).meOwn = c.meOwn := by cases u <;> rfl
@[simp] theorem setEng_tOwn (c : Core) (u : Sqr) (e : Engine) : (c.setEng u e).tOwn = c.tOwn := by cases u <;> rfl
@[simp] theorem setEng_relocs (c : Core) (u : Sqr) (e : Engine) : (c.setEng u e).relocs = c.relocs := by cases u <;> rfl
@[simp] theorem setEng_seprog (c : Core) (u : Sqr) (e : Engine) : (c.setEng u e).seprog = c.seprog := by cases u <;> rfl
@[simp] theorem setEng_seFlags (c : Core) (u : Sqr) (e : Engine) : (c.setEng u e).seFlags = c.seFlags := by cases u <;> rfl
@[simp] theorem setEng_veprog (c : Core) (u : Sqr) (e : Engine) : (c.setEng u e).veprog = c.veprog := by cases u <;> rfl
@[simp] theorem setEng_frontRank (c : Core) (u : Sqr) (e : Engine) : (c.setEng u e).frontRank = c.frontRank := by cases u <;> rfl
@[simp] theorem setEng_hyp (c : Core) (u : Sqr) (e : Engine) : (c.setEng u e).hyp = c.hyp := by cases u <;> rfl
@[simp] theorem setEng_hypDepth (c : Core) (u : Sqr) (e : Engine) : (c.setEng u e).hypDepth = c.hypDepth := by cases u <;> rfl
@[simp] theorem setEng_aflags (c : Core) (u : Sqr) (e : Engine) : (c.setEng u e).aflags = c.aflags := by cases u <;> rfl
@[simp] theorem setEng_cycle (c : Core) (u : Sqr) (e : Engine) : (c.setEng u e).cycle = c.cycle := by cases u <;> rfl
@[simp] theorem setEng_instret (c : Core) (u : Sqr) (e : Engine) : (c.setEng u e).instret = c.instret := by cases u <;> rfl
@[simp] theorem setEng_scratch (c : Core) (u : Sqr) (e : Engine) : (c.setEng u e).scratch = c.scratch := by cases u <;> rfl
@[simp] theorem setEng_rtbase (c : Core) (u : Sqr) (e : Engine) : (c.setEng u e).rtbase = c.rtbase := by cases u <;> rfl
@[simp] theorem setEng_logring (c : Core) (u : Sqr) (e : Engine) : (c.setEng u e).logring = c.logring := by cases u <;> rfl
@[simp] theorem setEng_win (c : Core) (u : Sqr) (e : Engine) : (c.setEng u e).win = c.win := by cases u <;> rfl
@[simp] theorem setEng_winst (c : Core) (u : Sqr) (e : Engine) : (c.setEng u e).winst = c.winst := by cases u <;> rfl
@[simp] theorem setEng_remoteOut (c : Core) (u : Sqr) (e : Engine) : (c.setEng u e).remoteOut = c.remoteOut := by cases u <;> rfl
@[simp] theorem setEng_frameRun (c : Core) (u : Sqr) (e : Engine) : (c.setEng u e).frameRun = c.frameRun := by cases u <;> rfl
@[simp] theorem setEng_frameCount (c : Core) (u : Sqr) (e : Engine) : (c.setEng u e).frameCount = c.frameCount := by cases u <;> rfl
@[simp] theorem setEng_divs (c : Core) (u : Sqr) (e : Engine) : (c.setEng u e).divs = c.divs := by cases u <;> rfl
@[simp] theorem setEng_frameNext (c : Core) (u : Sqr) (e : Engine) : (c.setEng u e).frameNext = c.frameNext := by cases u <;> rfl
@[simp] theorem setEng_fcause (c : Core) (u : Sqr) (e : Engine) : (c.setEng u e).fcause = c.fcause := by cases u <;> rfl
@[simp] theorem setEng_faddr (c : Core) (u : Sqr) (e : Engine) : (c.setEng u e).faddr = c.faddr := by cases u <;> rfl
@[simp] theorem setEng_eccCorr (c : Core) (u : Sqr) (e : Engine) : (c.setEng u e).eccCorr = c.eccCorr := by cases u <;> rfl
@[simp] theorem setEng_eccUncorr (c : Core) (u : Sqr) (e : Engine) : (c.setEng u e).eccUncorr = c.eccUncorr := by cases u <;> rfl
@[simp] theorem setEng_marks (c : Core) (u : Sqr) (e : Engine) : (c.setEng u e).marks = c.marks := by cases u <;> rfl
@[simp] theorem setEng_upsets (c : Core) (u : Sqr) (e : Engine) : (c.setEng u e).upsets = c.upsets := by cases u <;> rfl
@[simp] theorem setEng_mode (c : Core) (u : Sqr) (e : Engine) : (c.setEng u e).mode = c.mode := by cases u <;> rfl
@[simp] theorem setEng_ctx (c : Core) (u : Sqr) (e : Engine) : (c.setEng u e).ctx = c.ctx := by cases u <;> rfl
@[simp] theorem setEng_lastTenant (c : Core) (u : Sqr) (e : Engine) : (c.setEng u e).lastTenant = c.lastTenant := by cases u <;> rfl
@[simp] theorem setEng_primary (c : Core) (u : Sqr) (e : Engine) : (c.setEng u e).primary = c.primary := by cases u <;> rfl
@[simp] theorem setEng_multi (c : Core) (u : Sqr) (e : Engine) : (c.setEng u e).multi = c.multi := by cases u <;> rfl
@[simp] theorem setEng_causes (c : Core) (u : Sqr) (e : Engine) : (c.setEng u e).causes = c.causes := by cases u <;> rfl
@[simp] theorem setEng_handled (c : Core) (u : Sqr) (e : Engine) : (c.setEng u e).handled = c.handled := by cases u <;> rfl
@[simp] theorem setEng_saved (c : Core) (u : Sqr) (e : Engine) : (c.setEng u e).saved = c.saved := by cases u <;> rfl
@[simp] theorem setEng_answered (c : Core) (u : Sqr) (e : Engine) : (c.setEng u e).answered = c.answered := by cases u <;> rfl
@[simp] theorem setEng_parking (c : Core) (u : Sqr) (e : Engine) : (c.setEng u e).parking = c.parking := by cases u <;> rfl
@[simp] theorem setEng_frameGtc (c : Core) (u : Sqr) (e : Engine) : (c.setEng u e).frameGtc = c.frameGtc := by cases u <;> rfl
@[simp] theorem setEng_preempt (c : Core) (u : Sqr) (e : Engine) : (c.setEng u e).preempt = c.preempt := by cases u <;> rfl
@[simp] theorem setEng_succDone (c : Core) (u : Sqr) (e : Engine) : (c.setEng u e).succDone = c.succDone := by cases u <;> rfl
@[simp] theorem setEng_succPred (c : Core) (u : Sqr) (e : Engine) : (c.setEng u e).succPred = c.succPred := by cases u <;> rfl
@[simp] theorem setEng_succWait (c : Core) (u : Sqr) (e : Engine) : (c.setEng u e).succWait = c.succWait := by cases u <;> rfl
@[simp] theorem setEng_orphan (c : Core) (u : Sqr) (e : Engine) : (c.setEng u e).orphan = c.orphan := by cases u <;> rfl
@[simp] theorem setEng_heldFaults (c : Core) (u : Sqr) (e : Engine) : (c.setEng u e).heldFaults = c.heldFaults := by cases u <;> rfl
@[simp] theorem setEng_listed (c : Core) (u : Sqr) (e : Engine) : (c.setEng u e).listed = c.listed := by cases u <;> rfl
@[simp] theorem setEng_log (c : Core) (u : Sqr) (e : Engine) : (c.setEng u e).log = c.log := by cases u <;> rfl
@[simp] theorem setReg_pc (c : Core) (u : Sqr) (n : Nat) (v : Word) : (c.setReg u n v).pc = c.pc := by
  simp only [Core.setReg]; split
  · rfl
  · cases u <;> simp [Core.mapEng]
@[simp] theorem setReg_g (c : Core) (u : Sqr) (n : Nat) (v : Word) : (c.setReg u n v).g = c.g := by
  simp only [Core.setReg]; split
  · rfl
  · cases u <;> simp [Core.mapEng]
@[simp] theorem setReg_pfx (c : Core) (u : Sqr) (n : Nat) (v : Word) : (c.setReg u n v).pfx = c.pfx := by
  simp only [Core.setReg]; split
  · rfl
  · cases u <;> simp [Core.mapEng]
@[simp] theorem setReg_blocked (c : Core) (u : Sqr) (n : Nat) (v : Word) : (c.setReg u n v).blocked = c.blocked := by
  simp only [Core.setReg]; split
  · rfl
  · cases u <;> simp [Core.mapEng]
@[simp] theorem setReg_cause (c : Core) (u : Sqr) (n : Nat) (v : Word) : (c.setReg u n v).cause = c.cause := by
  simp only [Core.setReg]; split
  · rfl
  · cases u <;> simp [Core.mapEng]
@[simp] theorem setReg_exempt (c : Core) (u : Sqr) (n : Nat) (v : Word) : (c.setReg u n v).exempt = c.exempt := by
  simp only [Core.setReg]; split
  · rfl
  · cases u <;> simp [Core.mapEng]
@[simp] theorem setReg_poll (c : Core) (u : Sqr) (n : Nat) (v : Word) : (c.setReg u n v).poll = c.poll := by
  simp only [Core.setReg]; split
  · rfl
  · cases u <;> simp [Core.mapEng]
@[simp] theorem setReg_curWord (c : Core) (u : Sqr) (n : Nat) (v : Word) : (c.setReg u n v).curWord = c.curWord := by
  simp only [Core.setReg]; split
  · rfl
  · cases u <;> simp [Core.mapEng]
@[simp] theorem setReg_underway (c : Core) (u : Sqr) (n : Nat) (v : Word) : (c.setReg u n v).underway = c.underway := by
  simp only [Core.setReg]; split
  · rfl
  · cases u <;> simp [Core.mapEng]
@[simp] theorem setReg_icache (c : Core) (u : Sqr) (n : Nat) (v : Word) : (c.setReg u n v).icache = c.icache := by
  simp only [Core.setReg]; split
  · rfl
  · cases u <;> simp [Core.mapEng]
@[simp] theorem setReg_fetching (c : Core) (u : Sqr) (n : Nat) (v : Word) : (c.setReg u n v).fetching = c.fetching := by
  simp only [Core.setReg]; split
  · rfl
  · cases u <;> simp [Core.mapEng]
@[simp] theorem setReg_bulk (c : Core) (u : Sqr) (n : Nat) (v : Word) : (c.setReg u n v).bulk = c.bulk := by
  simp only [Core.setReg]; split
  · rfl
  · cases u <;> simp [Core.mapEng]
@[simp] theorem setReg_tokens (c : Core) (u : Sqr) (n : Nat) (v : Word) : (c.setReg u n v).tokens = c.tokens := by
  simp only [Core.setReg]; split
  · rfl
  · cases u <;> simp [Core.mapEng]
@[simp] theorem setReg_fmtq (c : Core) (u : Sqr) (n : Nat) (v : Word) : (c.setReg u n v).fmtq = c.fmtq := by
  simp only [Core.setReg]; split
  · rfl
  · cases u <;> simp [Core.mapEng]
@[simp] theorem setReg_sclq (c : Core) (u : Sqr) (n : Nat) (v : Word) : (c.setReg u n v).sclq = c.sclq := by
  simp only [Core.setReg]; split
  · rfl
  · cases u <;> simp [Core.mapEng]
@[simp] theorem setReg_rq (c : Core) (u : Sqr) (n : Nat) (v : Word) : (c.setReg u n v).rq = c.rq := by
  simp only [Core.setReg]; split
  · rfl
  · cases u <;> simp [Core.mapEng]
@[simp] theorem setReg_cntLd (c : Core) (u : Sqr) (n : Nat) (v : Word) : (c.setReg u n v).cntLd = c.cntLd := by
  simp only [Core.setReg]; split
  · rfl
  · cases u <;> simp [Core.mapEng]
@[simp] theorem setReg_cntSt (c : Core) (u : Sqr) (n : Nat) (v : Word) : (c.setReg u n v).cntSt = c.cntSt := by
  simp only [Core.setReg]; split
  · rfl
  · cases u <;> simp [Core.mapEng]
@[simp] theorem setReg_cntCp (c : Core) (u : Sqr) (n : Nat) (v : Word) : (c.setReg u n v).cntCp = c.cntCp := by
  simp only [Core.setReg]; split
  · rfl
  · cases u <;> simp [Core.mapEng]
@[simp] theorem setReg_cpZero (c : Core) (u : Sqr) (n : Nat) (v : Word) : (c.setReg u n v).cpZero = c.cpZero := by
  simp only [Core.setReg]; split
  · rfl
  · cases u <;> simp [Core.mapEng]
@[simp] theorem setReg_cntTl (c : Core) (u : Sqr) (n : Nat) (v : Word) : (c.setReg u n v).cntTl = c.cntTl := by
  simp only [Core.setReg]; split
  · rfl
  · cases u <;> simp [Core.mapEng]
@[simp] theorem setReg_pend (c : Core) (u : Sqr) (n : Nat) (v : Word) : (c.setReg u n v).pend = c.pend := by
  simp only [Core.setReg]; split
  · rfl
  · cases u <;> simp [Core.mapEng]
@[simp] theorem setReg_c (c : Core) (u : Sqr) (n : Nat) (v : Word) : (c.setReg u n v).c = c.c := by
  simp only [Core.setReg]; split
  · rfl
  · cases u <;> simp [Core.mapEng]
@[simp] theorem setReg_t (c : Core) (u : Sqr) (n : Nat) (v : Word) : (c.setReg u n v).t = c.t := by
  simp only [Core.setReg]; split
  · rfl
  · cases u <;> simp [Core.mapEng]
@[simp] theorem setReg_w (c : Core) (u : Sqr) (n : Nat) (v : Word) : (c.setReg u n v).w = c.w := by
  simp only [Core.setReg]; split
  · rfl
  · cases u <;> simp [Core.mapEng]
@[simp] theorem setReg_d (c : Core) (u : Sqr) (n : Nat) (v : Word) : (c.setReg u n v).d = c.d := by
  simp only [Core.setReg]; split
  · rfl
  · cases u <;> simp [Core.mapEng]
@[simp] theorem setReg_opd (c : Core) (u : Sqr) (n : Nat) (v : Word) : (c.setReg u n v).opd = c.opd := by
  simp only [Core.setReg]; split
  · rfl
  · cases u <;> simp [Core.mapEng]
@[simp] theorem setReg_ring (c : Core) (u : Sqr) (n : Nat) (v : Word) : (c.setReg u n v).ring = c.ring := by
  simp only [Core.setReg]; split
  · rfl
  · cases u <;> simp [Core.mapEng]
@[simp] theorem setReg_wb (c : Core) (u : Sqr) (n : Nat) (v : Word) : (c.setReg u n v).wb = c.wb := by
  simp only [Core.setReg]; split
  · rfl
  · cases u <;> simp [Core.mapEng]
@[simp] theorem setReg_ab (c : Core) (u : Sqr) (n : Nat) (v : Word) : (c.setReg u n v).ab = c.ab := by
  simp only [Core.setReg]; split
  · rfl
  · cases u <;> simp [Core.mapEng]
@[simp] theorem setReg_as (c : Core) (u : Sqr) (n : Nat) (v : Word) : (c.setReg u n v).as = c.as := by
  simp only [Core.setReg]; split
  · rfl
  · cases u <;> simp [Core.mapEng]
@[simp] theorem setReg_srf (c : Core) (u : Sqr) (n : Nat) (v : Word) : (c.setReg u n v).srf = c.srf := by
  simp only [Core.setReg]; split
  · rfl
  · cases u <;> simp [Core.mapEng]
@[simp] theorem setReg_slots (c : Core) (u : Sqr) (n : Nat) (v : Word) : (c.setReg u n v).slots = c.slots := by
  simp only [Core.setReg]; split
  · rfl
  · cases u <;> simp [Core.mapEng]
@[simp] theorem setReg_copies (c : Core) (u : Sqr) (n : Nat) (v : Word) : (c.setReg u n v).copies = c.copies := by
  simp only [Core.setReg]; split
  · rfl
  · cases u <;> simp [Core.mapEng]
@[simp] theorem setReg_copySeq (c : Core) (u : Sqr) (n : Nat) (v : Word) : (c.setReg u n v).copySeq = c.copySeq := by
  simp only [Core.setReg]; split
  · rfl
  · cases u <;> simp [Core.mapEng]
@[simp] theorem setReg_copyTurn (c : Core) (u : Sqr) (n : Nat) (v : Word) : (c.setReg u n v).copyTurn = c.copyTurn := by
  simp only [Core.setReg]; split
  · rfl
  · cases u <;> simp [Core.mapEng]
@[simp] theorem setReg_tiles (c : Core) (u : Sqr) (n : Nat) (v : Word) : (c.setReg u n v).tiles = c.tiles := by
  simp only [Core.setReg]; split
  · rfl
  · cases u <;> simp [Core.mapEng]
@[simp] theorem setReg_latch (c : Core) (u : Sqr) (n : Nat) (v : Word) : (c.setReg u n v).latch = c.latch := by
  simp only [Core.setReg]; split
  · rfl
  · cases u <;> simp [Core.mapEng]
@[simp] theorem setReg_vpend (c : Core) (u : Sqr) (n : Nat) (v : Word) : (c.setReg u n v).vpend = c.vpend := by
  simp only [Core.setReg]; split
  · rfl
  · cases u <;> simp [Core.mapEng]
@[simp] theorem setReg_vword (c : Core) (u : Sqr) (n : Nat) (v : Word) : (c.setReg u n v).vword = c.vword := by
  simp only [Core.setReg]; split
  · rfl
  · cases u <;> simp [Core.mapEng]
@[simp] theorem setReg_vretire (c : Core) (u : Sqr) (n : Nat) (v : Word) : (c.setReg u n v).vretire = c.vretire := by
  simp only [Core.setReg]; split
  · rfl
  · cases u <;> simp [Core.mapEng]
@[simp] theorem setReg_chain (c : Core) (u : Sqr) (n : Nat) (v : Word) : (c.setReg u n v).chain = c.chain := by
  simp only [Core.setReg]; split
  · rfl
  · cases u <;> simp [Core.mapEng]
@[simp] theorem setReg_front (c : Core) (u : Sqr) (n : Nat) (v : Word) : (c.setReg u n v).front = c.front := by
  simp only [Core.setReg]; split
  · rfl
  · cases u <;> simp [Core.mapEng]
@[simp] theorem setReg_ctag (c : Core) (u : Sqr) (n : Nat) (v : Word) : (c.setReg u n v).ctag = c.ctag := by
  simp only [Core.setReg]; split
  · rfl
  · cases u <;> simp [Core.mapEng]
@[simp] theorem setReg_inbox (c : Core) (u : Sqr) (n : Nat) (v : Word) : (c.setReg u n v).inbox = c.inbox := by
  simp only [Core.setReg]; split
  · rfl
  · cases u <;> simp [Core.mapEng]
@[simp] theorem setReg_credits (c : Core) (u : Sqr) (n : Nat) (v : Word) : (c.setReg u n v).credits = c.credits := by
  simp only [Core.setReg]; split
  · rfl
  · cases u <;> simp [Core.mapEng]
@[simp] theorem setReg_carryAsk (c : Core) (u : Sqr) (n : Nat) (v : Word) : (c.setReg u n v).carryAsk = c.carryAsk := by
  simp only [Core.setReg]; split
  · rfl
  · cases u <;> simp [Core.mapEng]
@[simp] theorem setReg_ldsTab (c : Core) (u : Sqr) (n : Nat) (v : Word) : (c.setReg u n v).ldsTab = c.ldsTab := by
  simp only [Core.setReg]; split
  · rfl
  · cases u <;> simp [Core.mapEng]
@[simp] theorem setReg_qrseed (c : Core) (u : Sqr) (n : Nat) (v : Word) : (c.setReg u n v).qrseed = c.qrseed := by
  simp only [Core.setReg]; split
  · rfl
  · cases u <;> simp [Core.mapEng]
@[simp] theorem setReg_smp (c : Core) (u : Sqr) (n : Nat) (v : Word) : (c.setReg u n v).smp = c.smp := by
  simp only [Core.setReg]; split
  · rfl
  · cases u <;> simp [Core.mapEng]
@[simp] theorem setReg_smpq (c : Core) (u : Sqr) (n : Nat) (v : Word) : (c.setReg u n v).smpq = c.smpq := by
  simp only [Core.setReg]; split
  · rfl
  · cases u <;> simp [Core.mapEng]
@[simp] theorem setReg_replays (c : Core) (u : Sqr) (n : Nat) (v : Word) : (c.setReg u n v).replays = c.replays := by
  simp only [Core.setReg]; split
  · rfl
  · cases u <;> simp [Core.mapEng]
@[simp] theorem setReg_tileReplay (c : Core) (u : Sqr) (n : Nat) (v : Word) : (c.setReg u n v).tileReplay = c.tileReplay := by
  simp only [Core.setReg]; split
  · rfl
  · cases u <;> simp [Core.mapEng]
@[simp] theorem setReg_meOwn (c : Core) (u : Sqr) (n : Nat) (v : Word) : (c.setReg u n v).meOwn = c.meOwn := by
  simp only [Core.setReg]; split
  · rfl
  · cases u <;> simp [Core.mapEng]
@[simp] theorem setReg_tOwn (c : Core) (u : Sqr) (n : Nat) (v : Word) : (c.setReg u n v).tOwn = c.tOwn := by
  simp only [Core.setReg]; split
  · rfl
  · cases u <;> simp [Core.mapEng]
@[simp] theorem setReg_relocs (c : Core) (u : Sqr) (n : Nat) (v : Word) : (c.setReg u n v).relocs = c.relocs := by
  simp only [Core.setReg]; split
  · rfl
  · cases u <;> simp [Core.mapEng]
@[simp] theorem setReg_seprog (c : Core) (u : Sqr) (n : Nat) (v : Word) : (c.setReg u n v).seprog = c.seprog := by
  simp only [Core.setReg]; split
  · rfl
  · cases u <;> simp [Core.mapEng]
@[simp] theorem setReg_seFlags (c : Core) (u : Sqr) (n : Nat) (v : Word) : (c.setReg u n v).seFlags = c.seFlags := by
  simp only [Core.setReg]; split
  · rfl
  · cases u <;> simp [Core.mapEng]
@[simp] theorem setReg_veprog (c : Core) (u : Sqr) (n : Nat) (v : Word) : (c.setReg u n v).veprog = c.veprog := by
  simp only [Core.setReg]; split
  · rfl
  · cases u <;> simp [Core.mapEng]
@[simp] theorem setReg_frontRank (c : Core) (u : Sqr) (n : Nat) (v : Word) : (c.setReg u n v).frontRank = c.frontRank := by
  simp only [Core.setReg]; split
  · rfl
  · cases u <;> simp [Core.mapEng]
@[simp] theorem setReg_hyp (c : Core) (u : Sqr) (n : Nat) (v : Word) : (c.setReg u n v).hyp = c.hyp := by
  simp only [Core.setReg]; split
  · rfl
  · cases u <;> simp [Core.mapEng]
@[simp] theorem setReg_hypDepth (c : Core) (u : Sqr) (n : Nat) (v : Word) : (c.setReg u n v).hypDepth = c.hypDepth := by
  simp only [Core.setReg]; split
  · rfl
  · cases u <;> simp [Core.mapEng]
@[simp] theorem setReg_aflags (c : Core) (u : Sqr) (n : Nat) (v : Word) : (c.setReg u n v).aflags = c.aflags := by
  simp only [Core.setReg]; split
  · rfl
  · cases u <;> simp [Core.mapEng]
@[simp] theorem setReg_cycle (c : Core) (u : Sqr) (n : Nat) (v : Word) : (c.setReg u n v).cycle = c.cycle := by
  simp only [Core.setReg]; split
  · rfl
  · cases u <;> simp [Core.mapEng]
@[simp] theorem setReg_instret (c : Core) (u : Sqr) (n : Nat) (v : Word) : (c.setReg u n v).instret = c.instret := by
  simp only [Core.setReg]; split
  · rfl
  · cases u <;> simp [Core.mapEng]
@[simp] theorem setReg_scratch (c : Core) (u : Sqr) (n : Nat) (v : Word) : (c.setReg u n v).scratch = c.scratch := by
  simp only [Core.setReg]; split
  · rfl
  · cases u <;> simp [Core.mapEng]
@[simp] theorem setReg_rtbase (c : Core) (u : Sqr) (n : Nat) (v : Word) : (c.setReg u n v).rtbase = c.rtbase := by
  simp only [Core.setReg]; split
  · rfl
  · cases u <;> simp [Core.mapEng]
@[simp] theorem setReg_logring (c : Core) (u : Sqr) (n : Nat) (v : Word) : (c.setReg u n v).logring = c.logring := by
  simp only [Core.setReg]; split
  · rfl
  · cases u <;> simp [Core.mapEng]
@[simp] theorem setReg_win (c : Core) (u : Sqr) (n : Nat) (v : Word) : (c.setReg u n v).win = c.win := by
  simp only [Core.setReg]; split
  · rfl
  · cases u <;> simp [Core.mapEng]
@[simp] theorem setReg_winst (c : Core) (u : Sqr) (n : Nat) (v : Word) : (c.setReg u n v).winst = c.winst := by
  simp only [Core.setReg]; split
  · rfl
  · cases u <;> simp [Core.mapEng]
@[simp] theorem setReg_remoteOut (c : Core) (u : Sqr) (n : Nat) (v : Word) : (c.setReg u n v).remoteOut = c.remoteOut := by
  simp only [Core.setReg]; split
  · rfl
  · cases u <;> simp [Core.mapEng]
@[simp] theorem setReg_frameRun (c : Core) (u : Sqr) (n : Nat) (v : Word) : (c.setReg u n v).frameRun = c.frameRun := by
  simp only [Core.setReg]; split
  · rfl
  · cases u <;> simp [Core.mapEng]
@[simp] theorem setReg_frameCount (c : Core) (u : Sqr) (n : Nat) (v : Word) : (c.setReg u n v).frameCount = c.frameCount := by
  simp only [Core.setReg]; split
  · rfl
  · cases u <;> simp [Core.mapEng]
@[simp] theorem setReg_divs (c : Core) (u : Sqr) (n : Nat) (v : Word) : (c.setReg u n v).divs = c.divs := by
  simp only [Core.setReg]; split
  · rfl
  · cases u <;> simp [Core.mapEng]
@[simp] theorem setReg_frameNext (c : Core) (u : Sqr) (n : Nat) (v : Word) : (c.setReg u n v).frameNext = c.frameNext := by
  simp only [Core.setReg]; split
  · rfl
  · cases u <;> simp [Core.mapEng]
@[simp] theorem setReg_fcause (c : Core) (u : Sqr) (n : Nat) (v : Word) : (c.setReg u n v).fcause = c.fcause := by
  simp only [Core.setReg]; split
  · rfl
  · cases u <;> simp [Core.mapEng]
@[simp] theorem setReg_faddr (c : Core) (u : Sqr) (n : Nat) (v : Word) : (c.setReg u n v).faddr = c.faddr := by
  simp only [Core.setReg]; split
  · rfl
  · cases u <;> simp [Core.mapEng]
@[simp] theorem setReg_eccCorr (c : Core) (u : Sqr) (n : Nat) (v : Word) : (c.setReg u n v).eccCorr = c.eccCorr := by
  simp only [Core.setReg]; split
  · rfl
  · cases u <;> simp [Core.mapEng]
@[simp] theorem setReg_eccUncorr (c : Core) (u : Sqr) (n : Nat) (v : Word) : (c.setReg u n v).eccUncorr = c.eccUncorr := by
  simp only [Core.setReg]; split
  · rfl
  · cases u <;> simp [Core.mapEng]
@[simp] theorem setReg_marks (c : Core) (u : Sqr) (n : Nat) (v : Word) : (c.setReg u n v).marks = c.marks := by
  simp only [Core.setReg]; split
  · rfl
  · cases u <;> simp [Core.mapEng]
@[simp] theorem setReg_upsets (c : Core) (u : Sqr) (n : Nat) (v : Word) : (c.setReg u n v).upsets = c.upsets := by
  simp only [Core.setReg]; split
  · rfl
  · cases u <;> simp [Core.mapEng]
@[simp] theorem setReg_mode (c : Core) (u : Sqr) (n : Nat) (v : Word) : (c.setReg u n v).mode = c.mode := by
  simp only [Core.setReg]; split
  · rfl
  · cases u <;> simp [Core.mapEng]
@[simp] theorem setReg_ctx (c : Core) (u : Sqr) (n : Nat) (v : Word) : (c.setReg u n v).ctx = c.ctx := by
  simp only [Core.setReg]; split
  · rfl
  · cases u <;> simp [Core.mapEng]
@[simp] theorem setReg_lastTenant (c : Core) (u : Sqr) (n : Nat) (v : Word) : (c.setReg u n v).lastTenant = c.lastTenant := by
  simp only [Core.setReg]; split
  · rfl
  · cases u <;> simp [Core.mapEng]
@[simp] theorem setReg_primary (c : Core) (u : Sqr) (n : Nat) (v : Word) : (c.setReg u n v).primary = c.primary := by
  simp only [Core.setReg]; split
  · rfl
  · cases u <;> simp [Core.mapEng]
@[simp] theorem setReg_multi (c : Core) (u : Sqr) (n : Nat) (v : Word) : (c.setReg u n v).multi = c.multi := by
  simp only [Core.setReg]; split
  · rfl
  · cases u <;> simp [Core.mapEng]
@[simp] theorem setReg_causes (c : Core) (u : Sqr) (n : Nat) (v : Word) : (c.setReg u n v).causes = c.causes := by
  simp only [Core.setReg]; split
  · rfl
  · cases u <;> simp [Core.mapEng]
@[simp] theorem setReg_handled (c : Core) (u : Sqr) (n : Nat) (v : Word) : (c.setReg u n v).handled = c.handled := by
  simp only [Core.setReg]; split
  · rfl
  · cases u <;> simp [Core.mapEng]
@[simp] theorem setReg_saved (c : Core) (u : Sqr) (n : Nat) (v : Word) : (c.setReg u n v).saved = c.saved := by
  simp only [Core.setReg]; split
  · rfl
  · cases u <;> simp [Core.mapEng]
@[simp] theorem setReg_answered (c : Core) (u : Sqr) (n : Nat) (v : Word) : (c.setReg u n v).answered = c.answered := by
  simp only [Core.setReg]; split
  · rfl
  · cases u <;> simp [Core.mapEng]
@[simp] theorem setReg_parking (c : Core) (u : Sqr) (n : Nat) (v : Word) : (c.setReg u n v).parking = c.parking := by
  simp only [Core.setReg]; split
  · rfl
  · cases u <;> simp [Core.mapEng]
@[simp] theorem setReg_frameGtc (c : Core) (u : Sqr) (n : Nat) (v : Word) : (c.setReg u n v).frameGtc = c.frameGtc := by
  simp only [Core.setReg]; split
  · rfl
  · cases u <;> simp [Core.mapEng]
@[simp] theorem setReg_preempt (c : Core) (u : Sqr) (n : Nat) (v : Word) : (c.setReg u n v).preempt = c.preempt := by
  simp only [Core.setReg]; split
  · rfl
  · cases u <;> simp [Core.mapEng]
@[simp] theorem setReg_succDone (c : Core) (u : Sqr) (n : Nat) (v : Word) : (c.setReg u n v).succDone = c.succDone := by
  simp only [Core.setReg]; split
  · rfl
  · cases u <;> simp [Core.mapEng]
@[simp] theorem setReg_succPred (c : Core) (u : Sqr) (n : Nat) (v : Word) : (c.setReg u n v).succPred = c.succPred := by
  simp only [Core.setReg]; split
  · rfl
  · cases u <;> simp [Core.mapEng]
@[simp] theorem setReg_succWait (c : Core) (u : Sqr) (n : Nat) (v : Word) : (c.setReg u n v).succWait = c.succWait := by
  simp only [Core.setReg]; split
  · rfl
  · cases u <;> simp [Core.mapEng]
@[simp] theorem setReg_orphan (c : Core) (u : Sqr) (n : Nat) (v : Word) : (c.setReg u n v).orphan = c.orphan := by
  simp only [Core.setReg]; split
  · rfl
  · cases u <;> simp [Core.mapEng]
@[simp] theorem setReg_heldFaults (c : Core) (u : Sqr) (n : Nat) (v : Word) : (c.setReg u n v).heldFaults = c.heldFaults := by
  simp only [Core.setReg]; split
  · rfl
  · cases u <;> simp [Core.mapEng]
@[simp] theorem setReg_listed (c : Core) (u : Sqr) (n : Nat) (v : Word) : (c.setReg u n v).listed = c.listed := by
  simp only [Core.setReg]; split
  · rfl
  · cases u <;> simp [Core.mapEng]
@[simp] theorem setReg_log (c : Core) (u : Sqr) (n : Nat) (v : Word) : (c.setReg u n v).log = c.log := by
  simp only [Core.setReg]; split
  · rfl
  · cases u <;> simp [Core.mapEng]

/-! ### Core.popToken -/

@[simp] theorem popToken_pc (c : Core) (n : Nat) : (c.popToken n).pc = c.pc := rfl
@[simp] theorem popToken_x (c : Core) (n : Nat) : (c.popToken n).x = c.x := rfl
@[simp] theorem popToken_g (c : Core) (n : Nat) : (c.popToken n).g = c.g := rfl
@[simp] theorem popToken_ae (c : Core) (n : Nat) : (c.popToken n).ae = c.ae := rfl
@[simp] theorem popToken_me (c : Core) (n : Nat) : (c.popToken n).me = c.me := rfl
@[simp] theorem popToken_se (c : Core) (n : Nat) : (c.popToken n).se = c.se := rfl
@[simp] theorem popToken_ve (c : Core) (n : Nat) : (c.popToken n).ve = c.ve := rfl
@[simp] theorem popToken_pfx (c : Core) (n : Nat) : (c.popToken n).pfx = c.pfx := rfl
@[simp] theorem popToken_blocked (c : Core) (n : Nat) : (c.popToken n).blocked = c.blocked := rfl
@[simp] theorem popToken_cause (c : Core) (n : Nat) : (c.popToken n).cause = c.cause := rfl
@[simp] theorem popToken_exempt (c : Core) (n : Nat) : (c.popToken n).exempt = c.exempt := rfl
@[simp] theorem popToken_poll (c : Core) (n : Nat) : (c.popToken n).poll = c.poll := rfl
@[simp] theorem popToken_curWord (c : Core) (n : Nat) : (c.popToken n).curWord = c.curWord := rfl
@[simp] theorem popToken_underway (c : Core) (n : Nat) : (c.popToken n).underway = c.underway := rfl
@[simp] theorem popToken_icache (c : Core) (n : Nat) : (c.popToken n).icache = c.icache := rfl
@[simp] theorem popToken_fetching (c : Core) (n : Nat) : (c.popToken n).fetching = c.fetching := rfl
@[simp] theorem popToken_bulk (c : Core) (n : Nat) : (c.popToken n).bulk = c.bulk := rfl
@[simp] theorem popToken_fmtq (c : Core) (n : Nat) : (c.popToken n).fmtq = c.fmtq := rfl
@[simp] theorem popToken_sclq (c : Core) (n : Nat) : (c.popToken n).sclq = c.sclq := rfl
@[simp] theorem popToken_rq (c : Core) (n : Nat) : (c.popToken n).rq = c.rq := rfl
@[simp] theorem popToken_cntLd (c : Core) (n : Nat) : (c.popToken n).cntLd = c.cntLd := rfl
@[simp] theorem popToken_cntSt (c : Core) (n : Nat) : (c.popToken n).cntSt = c.cntSt := rfl
@[simp] theorem popToken_cntCp (c : Core) (n : Nat) : (c.popToken n).cntCp = c.cntCp := rfl
@[simp] theorem popToken_cpZero (c : Core) (n : Nat) : (c.popToken n).cpZero = c.cpZero := rfl
@[simp] theorem popToken_cntTl (c : Core) (n : Nat) : (c.popToken n).cntTl = c.cntTl := rfl
@[simp] theorem popToken_pend (c : Core) (n : Nat) : (c.popToken n).pend = c.pend := rfl
@[simp] theorem popToken_c (c : Core) (n : Nat) : (c.popToken n).c = c.c := rfl
@[simp] theorem popToken_t (c : Core) (n : Nat) : (c.popToken n).t = c.t := rfl
@[simp] theorem popToken_w (c : Core) (n : Nat) : (c.popToken n).w = c.w := rfl
@[simp] theorem popToken_d (c : Core) (n : Nat) : (c.popToken n).d = c.d := rfl
@[simp] theorem popToken_opd (c : Core) (n : Nat) : (c.popToken n).opd = c.opd := rfl
@[simp] theorem popToken_ring (c : Core) (n : Nat) : (c.popToken n).ring = c.ring := rfl
@[simp] theorem popToken_wb (c : Core) (n : Nat) : (c.popToken n).wb = c.wb := rfl
@[simp] theorem popToken_ab (c : Core) (n : Nat) : (c.popToken n).ab = c.ab := rfl
@[simp] theorem popToken_as (c : Core) (n : Nat) : (c.popToken n).as = c.as := rfl
@[simp] theorem popToken_srf (c : Core) (n : Nat) : (c.popToken n).srf = c.srf := rfl
@[simp] theorem popToken_slots (c : Core) (n : Nat) : (c.popToken n).slots = c.slots := rfl
@[simp] theorem popToken_copies (c : Core) (n : Nat) : (c.popToken n).copies = c.copies := rfl
@[simp] theorem popToken_copySeq (c : Core) (n : Nat) : (c.popToken n).copySeq = c.copySeq := rfl
@[simp] theorem popToken_copyTurn (c : Core) (n : Nat) : (c.popToken n).copyTurn = c.copyTurn := rfl
@[simp] theorem popToken_tiles (c : Core) (n : Nat) : (c.popToken n).tiles = c.tiles := rfl
@[simp] theorem popToken_latch (c : Core) (n : Nat) : (c.popToken n).latch = c.latch := rfl
@[simp] theorem popToken_vpend (c : Core) (n : Nat) : (c.popToken n).vpend = c.vpend := rfl
@[simp] theorem popToken_vword (c : Core) (n : Nat) : (c.popToken n).vword = c.vword := rfl
@[simp] theorem popToken_vretire (c : Core) (n : Nat) : (c.popToken n).vretire = c.vretire := rfl
@[simp] theorem popToken_chain (c : Core) (n : Nat) : (c.popToken n).chain = c.chain := rfl
@[simp] theorem popToken_front (c : Core) (n : Nat) : (c.popToken n).front = c.front := rfl
@[simp] theorem popToken_ctag (c : Core) (n : Nat) : (c.popToken n).ctag = c.ctag := rfl
@[simp] theorem popToken_inbox (c : Core) (n : Nat) : (c.popToken n).inbox = c.inbox := rfl
@[simp] theorem popToken_credits (c : Core) (n : Nat) : (c.popToken n).credits = c.credits := rfl
@[simp] theorem popToken_carryAsk (c : Core) (n : Nat) : (c.popToken n).carryAsk = c.carryAsk := rfl
@[simp] theorem popToken_ldsTab (c : Core) (n : Nat) : (c.popToken n).ldsTab = c.ldsTab := rfl
@[simp] theorem popToken_qrseed (c : Core) (n : Nat) : (c.popToken n).qrseed = c.qrseed := rfl
@[simp] theorem popToken_smp (c : Core) (n : Nat) : (c.popToken n).smp = c.smp := rfl
@[simp] theorem popToken_smpq (c : Core) (n : Nat) : (c.popToken n).smpq = c.smpq := rfl
@[simp] theorem popToken_replays (c : Core) (n : Nat) : (c.popToken n).replays = c.replays := rfl
@[simp] theorem popToken_tileReplay (c : Core) (n : Nat) : (c.popToken n).tileReplay = c.tileReplay := rfl
@[simp] theorem popToken_meOwn (c : Core) (n : Nat) : (c.popToken n).meOwn = c.meOwn := rfl
@[simp] theorem popToken_tOwn (c : Core) (n : Nat) : (c.popToken n).tOwn = c.tOwn := rfl
@[simp] theorem popToken_relocs (c : Core) (n : Nat) : (c.popToken n).relocs = c.relocs := rfl
@[simp] theorem popToken_seprog (c : Core) (n : Nat) : (c.popToken n).seprog = c.seprog := rfl
@[simp] theorem popToken_seFlags (c : Core) (n : Nat) : (c.popToken n).seFlags = c.seFlags := rfl
@[simp] theorem popToken_veprog (c : Core) (n : Nat) : (c.popToken n).veprog = c.veprog := rfl
@[simp] theorem popToken_frontRank (c : Core) (n : Nat) : (c.popToken n).frontRank = c.frontRank := rfl
@[simp] theorem popToken_hyp (c : Core) (n : Nat) : (c.popToken n).hyp = c.hyp := rfl
@[simp] theorem popToken_hypDepth (c : Core) (n : Nat) : (c.popToken n).hypDepth = c.hypDepth := rfl
@[simp] theorem popToken_aflags (c : Core) (n : Nat) : (c.popToken n).aflags = c.aflags := rfl
@[simp] theorem popToken_cycle (c : Core) (n : Nat) : (c.popToken n).cycle = c.cycle := rfl
@[simp] theorem popToken_instret (c : Core) (n : Nat) : (c.popToken n).instret = c.instret := rfl
@[simp] theorem popToken_scratch (c : Core) (n : Nat) : (c.popToken n).scratch = c.scratch := rfl
@[simp] theorem popToken_rtbase (c : Core) (n : Nat) : (c.popToken n).rtbase = c.rtbase := rfl
@[simp] theorem popToken_logring (c : Core) (n : Nat) : (c.popToken n).logring = c.logring := rfl
@[simp] theorem popToken_win (c : Core) (n : Nat) : (c.popToken n).win = c.win := rfl
@[simp] theorem popToken_winst (c : Core) (n : Nat) : (c.popToken n).winst = c.winst := rfl
@[simp] theorem popToken_remoteOut (c : Core) (n : Nat) : (c.popToken n).remoteOut = c.remoteOut := rfl
@[simp] theorem popToken_frameRun (c : Core) (n : Nat) : (c.popToken n).frameRun = c.frameRun := rfl
@[simp] theorem popToken_frameCount (c : Core) (n : Nat) : (c.popToken n).frameCount = c.frameCount := rfl
@[simp] theorem popToken_divs (c : Core) (n : Nat) : (c.popToken n).divs = c.divs := rfl
@[simp] theorem popToken_frameNext (c : Core) (n : Nat) : (c.popToken n).frameNext = c.frameNext := rfl
@[simp] theorem popToken_fcause (c : Core) (n : Nat) : (c.popToken n).fcause = c.fcause := rfl
@[simp] theorem popToken_faddr (c : Core) (n : Nat) : (c.popToken n).faddr = c.faddr := rfl
@[simp] theorem popToken_eccCorr (c : Core) (n : Nat) : (c.popToken n).eccCorr = c.eccCorr := rfl
@[simp] theorem popToken_eccUncorr (c : Core) (n : Nat) : (c.popToken n).eccUncorr = c.eccUncorr := rfl
@[simp] theorem popToken_marks (c : Core) (n : Nat) : (c.popToken n).marks = c.marks := rfl
@[simp] theorem popToken_upsets (c : Core) (n : Nat) : (c.popToken n).upsets = c.upsets := rfl
@[simp] theorem popToken_mode (c : Core) (n : Nat) : (c.popToken n).mode = c.mode := rfl
@[simp] theorem popToken_ctx (c : Core) (n : Nat) : (c.popToken n).ctx = c.ctx := rfl
@[simp] theorem popToken_lastTenant (c : Core) (n : Nat) : (c.popToken n).lastTenant = c.lastTenant := rfl
@[simp] theorem popToken_primary (c : Core) (n : Nat) : (c.popToken n).primary = c.primary := rfl
@[simp] theorem popToken_multi (c : Core) (n : Nat) : (c.popToken n).multi = c.multi := rfl
@[simp] theorem popToken_causes (c : Core) (n : Nat) : (c.popToken n).causes = c.causes := rfl
@[simp] theorem popToken_handled (c : Core) (n : Nat) : (c.popToken n).handled = c.handled := rfl
@[simp] theorem popToken_saved (c : Core) (n : Nat) : (c.popToken n).saved = c.saved := rfl
@[simp] theorem popToken_answered (c : Core) (n : Nat) : (c.popToken n).answered = c.answered := rfl
@[simp] theorem popToken_parking (c : Core) (n : Nat) : (c.popToken n).parking = c.parking := rfl
@[simp] theorem popToken_frameGtc (c : Core) (n : Nat) : (c.popToken n).frameGtc = c.frameGtc := rfl
@[simp] theorem popToken_preempt (c : Core) (n : Nat) : (c.popToken n).preempt = c.preempt := rfl
@[simp] theorem popToken_succDone (c : Core) (n : Nat) : (c.popToken n).succDone = c.succDone := rfl
@[simp] theorem popToken_succPred (c : Core) (n : Nat) : (c.popToken n).succPred = c.succPred := rfl
@[simp] theorem popToken_succWait (c : Core) (n : Nat) : (c.popToken n).succWait = c.succWait := rfl
@[simp] theorem popToken_orphan (c : Core) (n : Nat) : (c.popToken n).orphan = c.orphan := rfl
@[simp] theorem popToken_heldFaults (c : Core) (n : Nat) : (c.popToken n).heldFaults = c.heldFaults := rfl
@[simp] theorem popToken_listed (c : Core) (n : Nat) : (c.popToken n).listed = c.listed := rfl
@[simp] theorem popToken_log (c : Core) (n : Nat) : (c.popToken n).log = c.log := rfl

/-! ### Core.reserveToken -/

@[simp] theorem reserveToken_pc (c : Core) (n : Nat) : (c.reserveToken n).pc = c.pc := rfl
@[simp] theorem reserveToken_x (c : Core) (n : Nat) : (c.reserveToken n).x = c.x := rfl
@[simp] theorem reserveToken_g (c : Core) (n : Nat) : (c.reserveToken n).g = c.g := rfl
@[simp] theorem reserveToken_ae (c : Core) (n : Nat) : (c.reserveToken n).ae = c.ae := rfl
@[simp] theorem reserveToken_me (c : Core) (n : Nat) : (c.reserveToken n).me = c.me := rfl
@[simp] theorem reserveToken_se (c : Core) (n : Nat) : (c.reserveToken n).se = c.se := rfl
@[simp] theorem reserveToken_ve (c : Core) (n : Nat) : (c.reserveToken n).ve = c.ve := rfl
@[simp] theorem reserveToken_pfx (c : Core) (n : Nat) : (c.reserveToken n).pfx = c.pfx := rfl
@[simp] theorem reserveToken_blocked (c : Core) (n : Nat) : (c.reserveToken n).blocked = c.blocked := rfl
@[simp] theorem reserveToken_cause (c : Core) (n : Nat) : (c.reserveToken n).cause = c.cause := rfl
@[simp] theorem reserveToken_exempt (c : Core) (n : Nat) : (c.reserveToken n).exempt = c.exempt := rfl
@[simp] theorem reserveToken_poll (c : Core) (n : Nat) : (c.reserveToken n).poll = c.poll := rfl
@[simp] theorem reserveToken_curWord (c : Core) (n : Nat) : (c.reserveToken n).curWord = c.curWord := rfl
@[simp] theorem reserveToken_underway (c : Core) (n : Nat) : (c.reserveToken n).underway = c.underway := rfl
@[simp] theorem reserveToken_icache (c : Core) (n : Nat) : (c.reserveToken n).icache = c.icache := rfl
@[simp] theorem reserveToken_fetching (c : Core) (n : Nat) : (c.reserveToken n).fetching = c.fetching := rfl
@[simp] theorem reserveToken_bulk (c : Core) (n : Nat) : (c.reserveToken n).bulk = c.bulk := rfl
@[simp] theorem reserveToken_fmtq (c : Core) (n : Nat) : (c.reserveToken n).fmtq = c.fmtq := rfl
@[simp] theorem reserveToken_sclq (c : Core) (n : Nat) : (c.reserveToken n).sclq = c.sclq := rfl
@[simp] theorem reserveToken_rq (c : Core) (n : Nat) : (c.reserveToken n).rq = c.rq := rfl
@[simp] theorem reserveToken_cntLd (c : Core) (n : Nat) : (c.reserveToken n).cntLd = c.cntLd := rfl
@[simp] theorem reserveToken_cntSt (c : Core) (n : Nat) : (c.reserveToken n).cntSt = c.cntSt := rfl
@[simp] theorem reserveToken_cntCp (c : Core) (n : Nat) : (c.reserveToken n).cntCp = c.cntCp := rfl
@[simp] theorem reserveToken_cpZero (c : Core) (n : Nat) : (c.reserveToken n).cpZero = c.cpZero := rfl
@[simp] theorem reserveToken_cntTl (c : Core) (n : Nat) : (c.reserveToken n).cntTl = c.cntTl := rfl
@[simp] theorem reserveToken_pend (c : Core) (n : Nat) : (c.reserveToken n).pend = c.pend := rfl
@[simp] theorem reserveToken_c (c : Core) (n : Nat) : (c.reserveToken n).c = c.c := rfl
@[simp] theorem reserveToken_t (c : Core) (n : Nat) : (c.reserveToken n).t = c.t := rfl
@[simp] theorem reserveToken_w (c : Core) (n : Nat) : (c.reserveToken n).w = c.w := rfl
@[simp] theorem reserveToken_d (c : Core) (n : Nat) : (c.reserveToken n).d = c.d := rfl
@[simp] theorem reserveToken_opd (c : Core) (n : Nat) : (c.reserveToken n).opd = c.opd := rfl
@[simp] theorem reserveToken_ring (c : Core) (n : Nat) : (c.reserveToken n).ring = c.ring := rfl
@[simp] theorem reserveToken_wb (c : Core) (n : Nat) : (c.reserveToken n).wb = c.wb := rfl
@[simp] theorem reserveToken_ab (c : Core) (n : Nat) : (c.reserveToken n).ab = c.ab := rfl
@[simp] theorem reserveToken_as (c : Core) (n : Nat) : (c.reserveToken n).as = c.as := rfl
@[simp] theorem reserveToken_srf (c : Core) (n : Nat) : (c.reserveToken n).srf = c.srf := rfl
@[simp] theorem reserveToken_slots (c : Core) (n : Nat) : (c.reserveToken n).slots = c.slots := rfl
@[simp] theorem reserveToken_copies (c : Core) (n : Nat) : (c.reserveToken n).copies = c.copies := rfl
@[simp] theorem reserveToken_copySeq (c : Core) (n : Nat) : (c.reserveToken n).copySeq = c.copySeq := rfl
@[simp] theorem reserveToken_copyTurn (c : Core) (n : Nat) : (c.reserveToken n).copyTurn = c.copyTurn := rfl
@[simp] theorem reserveToken_tiles (c : Core) (n : Nat) : (c.reserveToken n).tiles = c.tiles := rfl
@[simp] theorem reserveToken_latch (c : Core) (n : Nat) : (c.reserveToken n).latch = c.latch := rfl
@[simp] theorem reserveToken_vpend (c : Core) (n : Nat) : (c.reserveToken n).vpend = c.vpend := rfl
@[simp] theorem reserveToken_vword (c : Core) (n : Nat) : (c.reserveToken n).vword = c.vword := rfl
@[simp] theorem reserveToken_vretire (c : Core) (n : Nat) : (c.reserveToken n).vretire = c.vretire := rfl
@[simp] theorem reserveToken_chain (c : Core) (n : Nat) : (c.reserveToken n).chain = c.chain := rfl
@[simp] theorem reserveToken_front (c : Core) (n : Nat) : (c.reserveToken n).front = c.front := rfl
@[simp] theorem reserveToken_ctag (c : Core) (n : Nat) : (c.reserveToken n).ctag = c.ctag := rfl
@[simp] theorem reserveToken_inbox (c : Core) (n : Nat) : (c.reserveToken n).inbox = c.inbox := rfl
@[simp] theorem reserveToken_credits (c : Core) (n : Nat) : (c.reserveToken n).credits = c.credits := rfl
@[simp] theorem reserveToken_carryAsk (c : Core) (n : Nat) : (c.reserveToken n).carryAsk = c.carryAsk := rfl
@[simp] theorem reserveToken_ldsTab (c : Core) (n : Nat) : (c.reserveToken n).ldsTab = c.ldsTab := rfl
@[simp] theorem reserveToken_qrseed (c : Core) (n : Nat) : (c.reserveToken n).qrseed = c.qrseed := rfl
@[simp] theorem reserveToken_smp (c : Core) (n : Nat) : (c.reserveToken n).smp = c.smp := rfl
@[simp] theorem reserveToken_smpq (c : Core) (n : Nat) : (c.reserveToken n).smpq = c.smpq := rfl
@[simp] theorem reserveToken_replays (c : Core) (n : Nat) : (c.reserveToken n).replays = c.replays := rfl
@[simp] theorem reserveToken_tileReplay (c : Core) (n : Nat) : (c.reserveToken n).tileReplay = c.tileReplay := rfl
@[simp] theorem reserveToken_meOwn (c : Core) (n : Nat) : (c.reserveToken n).meOwn = c.meOwn := rfl
@[simp] theorem reserveToken_tOwn (c : Core) (n : Nat) : (c.reserveToken n).tOwn = c.tOwn := rfl
@[simp] theorem reserveToken_relocs (c : Core) (n : Nat) : (c.reserveToken n).relocs = c.relocs := rfl
@[simp] theorem reserveToken_seprog (c : Core) (n : Nat) : (c.reserveToken n).seprog = c.seprog := rfl
@[simp] theorem reserveToken_seFlags (c : Core) (n : Nat) : (c.reserveToken n).seFlags = c.seFlags := rfl
@[simp] theorem reserveToken_veprog (c : Core) (n : Nat) : (c.reserveToken n).veprog = c.veprog := rfl
@[simp] theorem reserveToken_frontRank (c : Core) (n : Nat) : (c.reserveToken n).frontRank = c.frontRank := rfl
@[simp] theorem reserveToken_hyp (c : Core) (n : Nat) : (c.reserveToken n).hyp = c.hyp := rfl
@[simp] theorem reserveToken_hypDepth (c : Core) (n : Nat) : (c.reserveToken n).hypDepth = c.hypDepth := rfl
@[simp] theorem reserveToken_aflags (c : Core) (n : Nat) : (c.reserveToken n).aflags = c.aflags := rfl
@[simp] theorem reserveToken_cycle (c : Core) (n : Nat) : (c.reserveToken n).cycle = c.cycle := rfl
@[simp] theorem reserveToken_instret (c : Core) (n : Nat) : (c.reserveToken n).instret = c.instret := rfl
@[simp] theorem reserveToken_scratch (c : Core) (n : Nat) : (c.reserveToken n).scratch = c.scratch := rfl
@[simp] theorem reserveToken_rtbase (c : Core) (n : Nat) : (c.reserveToken n).rtbase = c.rtbase := rfl
@[simp] theorem reserveToken_logring (c : Core) (n : Nat) : (c.reserveToken n).logring = c.logring := rfl
@[simp] theorem reserveToken_win (c : Core) (n : Nat) : (c.reserveToken n).win = c.win := rfl
@[simp] theorem reserveToken_winst (c : Core) (n : Nat) : (c.reserveToken n).winst = c.winst := rfl
@[simp] theorem reserveToken_remoteOut (c : Core) (n : Nat) : (c.reserveToken n).remoteOut = c.remoteOut := rfl
@[simp] theorem reserveToken_frameRun (c : Core) (n : Nat) : (c.reserveToken n).frameRun = c.frameRun := rfl
@[simp] theorem reserveToken_frameCount (c : Core) (n : Nat) : (c.reserveToken n).frameCount = c.frameCount := rfl
@[simp] theorem reserveToken_divs (c : Core) (n : Nat) : (c.reserveToken n).divs = c.divs := rfl
@[simp] theorem reserveToken_frameNext (c : Core) (n : Nat) : (c.reserveToken n).frameNext = c.frameNext := rfl
@[simp] theorem reserveToken_fcause (c : Core) (n : Nat) : (c.reserveToken n).fcause = c.fcause := rfl
@[simp] theorem reserveToken_faddr (c : Core) (n : Nat) : (c.reserveToken n).faddr = c.faddr := rfl
@[simp] theorem reserveToken_eccCorr (c : Core) (n : Nat) : (c.reserveToken n).eccCorr = c.eccCorr := rfl
@[simp] theorem reserveToken_eccUncorr (c : Core) (n : Nat) : (c.reserveToken n).eccUncorr = c.eccUncorr := rfl
@[simp] theorem reserveToken_marks (c : Core) (n : Nat) : (c.reserveToken n).marks = c.marks := rfl
@[simp] theorem reserveToken_upsets (c : Core) (n : Nat) : (c.reserveToken n).upsets = c.upsets := rfl
@[simp] theorem reserveToken_mode (c : Core) (n : Nat) : (c.reserveToken n).mode = c.mode := rfl
@[simp] theorem reserveToken_ctx (c : Core) (n : Nat) : (c.reserveToken n).ctx = c.ctx := rfl
@[simp] theorem reserveToken_lastTenant (c : Core) (n : Nat) : (c.reserveToken n).lastTenant = c.lastTenant := rfl
@[simp] theorem reserveToken_primary (c : Core) (n : Nat) : (c.reserveToken n).primary = c.primary := rfl
@[simp] theorem reserveToken_multi (c : Core) (n : Nat) : (c.reserveToken n).multi = c.multi := rfl
@[simp] theorem reserveToken_causes (c : Core) (n : Nat) : (c.reserveToken n).causes = c.causes := rfl
@[simp] theorem reserveToken_handled (c : Core) (n : Nat) : (c.reserveToken n).handled = c.handled := rfl
@[simp] theorem reserveToken_saved (c : Core) (n : Nat) : (c.reserveToken n).saved = c.saved := rfl
@[simp] theorem reserveToken_answered (c : Core) (n : Nat) : (c.reserveToken n).answered = c.answered := rfl
@[simp] theorem reserveToken_parking (c : Core) (n : Nat) : (c.reserveToken n).parking = c.parking := rfl
@[simp] theorem reserveToken_frameGtc (c : Core) (n : Nat) : (c.reserveToken n).frameGtc = c.frameGtc := rfl
@[simp] theorem reserveToken_preempt (c : Core) (n : Nat) : (c.reserveToken n).preempt = c.preempt := rfl
@[simp] theorem reserveToken_succDone (c : Core) (n : Nat) : (c.reserveToken n).succDone = c.succDone := rfl
@[simp] theorem reserveToken_succPred (c : Core) (n : Nat) : (c.reserveToken n).succPred = c.succPred := rfl
@[simp] theorem reserveToken_succWait (c : Core) (n : Nat) : (c.reserveToken n).succWait = c.succWait := rfl
@[simp] theorem reserveToken_orphan (c : Core) (n : Nat) : (c.reserveToken n).orphan = c.orphan := rfl
@[simp] theorem reserveToken_heldFaults (c : Core) (n : Nat) : (c.reserveToken n).heldFaults = c.heldFaults := rfl
@[simp] theorem reserveToken_listed (c : Core) (n : Nat) : (c.reserveToken n).listed = c.listed := rfl
@[simp] theorem reserveToken_log (c : Core) (n : Nat) : (c.reserveToken n).log = c.log := rfl

/-! ### Core.unreserveToken -/

@[simp] theorem unreserveToken_pc (c : Core) (n : Nat) : (c.unreserveToken n).pc = c.pc := rfl
@[simp] theorem unreserveToken_x (c : Core) (n : Nat) : (c.unreserveToken n).x = c.x := rfl
@[simp] theorem unreserveToken_g (c : Core) (n : Nat) : (c.unreserveToken n).g = c.g := rfl
@[simp] theorem unreserveToken_ae (c : Core) (n : Nat) : (c.unreserveToken n).ae = c.ae := rfl
@[simp] theorem unreserveToken_me (c : Core) (n : Nat) : (c.unreserveToken n).me = c.me := rfl
@[simp] theorem unreserveToken_se (c : Core) (n : Nat) : (c.unreserveToken n).se = c.se := rfl
@[simp] theorem unreserveToken_ve (c : Core) (n : Nat) : (c.unreserveToken n).ve = c.ve := rfl
@[simp] theorem unreserveToken_pfx (c : Core) (n : Nat) : (c.unreserveToken n).pfx = c.pfx := rfl
@[simp] theorem unreserveToken_blocked (c : Core) (n : Nat) : (c.unreserveToken n).blocked = c.blocked := rfl
@[simp] theorem unreserveToken_cause (c : Core) (n : Nat) : (c.unreserveToken n).cause = c.cause := rfl
@[simp] theorem unreserveToken_exempt (c : Core) (n : Nat) : (c.unreserveToken n).exempt = c.exempt := rfl
@[simp] theorem unreserveToken_poll (c : Core) (n : Nat) : (c.unreserveToken n).poll = c.poll := rfl
@[simp] theorem unreserveToken_curWord (c : Core) (n : Nat) : (c.unreserveToken n).curWord = c.curWord := rfl
@[simp] theorem unreserveToken_underway (c : Core) (n : Nat) : (c.unreserveToken n).underway = c.underway := rfl
@[simp] theorem unreserveToken_icache (c : Core) (n : Nat) : (c.unreserveToken n).icache = c.icache := rfl
@[simp] theorem unreserveToken_fetching (c : Core) (n : Nat) : (c.unreserveToken n).fetching = c.fetching := rfl
@[simp] theorem unreserveToken_bulk (c : Core) (n : Nat) : (c.unreserveToken n).bulk = c.bulk := rfl
@[simp] theorem unreserveToken_fmtq (c : Core) (n : Nat) : (c.unreserveToken n).fmtq = c.fmtq := rfl
@[simp] theorem unreserveToken_sclq (c : Core) (n : Nat) : (c.unreserveToken n).sclq = c.sclq := rfl
@[simp] theorem unreserveToken_rq (c : Core) (n : Nat) : (c.unreserveToken n).rq = c.rq := rfl
@[simp] theorem unreserveToken_cntLd (c : Core) (n : Nat) : (c.unreserveToken n).cntLd = c.cntLd := rfl
@[simp] theorem unreserveToken_cntSt (c : Core) (n : Nat) : (c.unreserveToken n).cntSt = c.cntSt := rfl
@[simp] theorem unreserveToken_cntCp (c : Core) (n : Nat) : (c.unreserveToken n).cntCp = c.cntCp := rfl
@[simp] theorem unreserveToken_cpZero (c : Core) (n : Nat) : (c.unreserveToken n).cpZero = c.cpZero := rfl
@[simp] theorem unreserveToken_cntTl (c : Core) (n : Nat) : (c.unreserveToken n).cntTl = c.cntTl := rfl
@[simp] theorem unreserveToken_pend (c : Core) (n : Nat) : (c.unreserveToken n).pend = c.pend := rfl
@[simp] theorem unreserveToken_c (c : Core) (n : Nat) : (c.unreserveToken n).c = c.c := rfl
@[simp] theorem unreserveToken_t (c : Core) (n : Nat) : (c.unreserveToken n).t = c.t := rfl
@[simp] theorem unreserveToken_w (c : Core) (n : Nat) : (c.unreserveToken n).w = c.w := rfl
@[simp] theorem unreserveToken_d (c : Core) (n : Nat) : (c.unreserveToken n).d = c.d := rfl
@[simp] theorem unreserveToken_opd (c : Core) (n : Nat) : (c.unreserveToken n).opd = c.opd := rfl
@[simp] theorem unreserveToken_ring (c : Core) (n : Nat) : (c.unreserveToken n).ring = c.ring := rfl
@[simp] theorem unreserveToken_wb (c : Core) (n : Nat) : (c.unreserveToken n).wb = c.wb := rfl
@[simp] theorem unreserveToken_ab (c : Core) (n : Nat) : (c.unreserveToken n).ab = c.ab := rfl
@[simp] theorem unreserveToken_as (c : Core) (n : Nat) : (c.unreserveToken n).as = c.as := rfl
@[simp] theorem unreserveToken_srf (c : Core) (n : Nat) : (c.unreserveToken n).srf = c.srf := rfl
@[simp] theorem unreserveToken_slots (c : Core) (n : Nat) : (c.unreserveToken n).slots = c.slots := rfl
@[simp] theorem unreserveToken_copies (c : Core) (n : Nat) : (c.unreserveToken n).copies = c.copies := rfl
@[simp] theorem unreserveToken_copySeq (c : Core) (n : Nat) : (c.unreserveToken n).copySeq = c.copySeq := rfl
@[simp] theorem unreserveToken_copyTurn (c : Core) (n : Nat) : (c.unreserveToken n).copyTurn = c.copyTurn := rfl
@[simp] theorem unreserveToken_tiles (c : Core) (n : Nat) : (c.unreserveToken n).tiles = c.tiles := rfl
@[simp] theorem unreserveToken_latch (c : Core) (n : Nat) : (c.unreserveToken n).latch = c.latch := rfl
@[simp] theorem unreserveToken_vpend (c : Core) (n : Nat) : (c.unreserveToken n).vpend = c.vpend := rfl
@[simp] theorem unreserveToken_vword (c : Core) (n : Nat) : (c.unreserveToken n).vword = c.vword := rfl
@[simp] theorem unreserveToken_vretire (c : Core) (n : Nat) : (c.unreserveToken n).vretire = c.vretire := rfl
@[simp] theorem unreserveToken_chain (c : Core) (n : Nat) : (c.unreserveToken n).chain = c.chain := rfl
@[simp] theorem unreserveToken_front (c : Core) (n : Nat) : (c.unreserveToken n).front = c.front := rfl
@[simp] theorem unreserveToken_ctag (c : Core) (n : Nat) : (c.unreserveToken n).ctag = c.ctag := rfl
@[simp] theorem unreserveToken_inbox (c : Core) (n : Nat) : (c.unreserveToken n).inbox = c.inbox := rfl
@[simp] theorem unreserveToken_credits (c : Core) (n : Nat) : (c.unreserveToken n).credits = c.credits := rfl
@[simp] theorem unreserveToken_carryAsk (c : Core) (n : Nat) : (c.unreserveToken n).carryAsk = c.carryAsk := rfl
@[simp] theorem unreserveToken_ldsTab (c : Core) (n : Nat) : (c.unreserveToken n).ldsTab = c.ldsTab := rfl
@[simp] theorem unreserveToken_qrseed (c : Core) (n : Nat) : (c.unreserveToken n).qrseed = c.qrseed := rfl
@[simp] theorem unreserveToken_smp (c : Core) (n : Nat) : (c.unreserveToken n).smp = c.smp := rfl
@[simp] theorem unreserveToken_smpq (c : Core) (n : Nat) : (c.unreserveToken n).smpq = c.smpq := rfl
@[simp] theorem unreserveToken_replays (c : Core) (n : Nat) : (c.unreserveToken n).replays = c.replays := rfl
@[simp] theorem unreserveToken_tileReplay (c : Core) (n : Nat) : (c.unreserveToken n).tileReplay = c.tileReplay := rfl
@[simp] theorem unreserveToken_meOwn (c : Core) (n : Nat) : (c.unreserveToken n).meOwn = c.meOwn := rfl
@[simp] theorem unreserveToken_tOwn (c : Core) (n : Nat) : (c.unreserveToken n).tOwn = c.tOwn := rfl
@[simp] theorem unreserveToken_relocs (c : Core) (n : Nat) : (c.unreserveToken n).relocs = c.relocs := rfl
@[simp] theorem unreserveToken_seprog (c : Core) (n : Nat) : (c.unreserveToken n).seprog = c.seprog := rfl
@[simp] theorem unreserveToken_seFlags (c : Core) (n : Nat) : (c.unreserveToken n).seFlags = c.seFlags := rfl
@[simp] theorem unreserveToken_veprog (c : Core) (n : Nat) : (c.unreserveToken n).veprog = c.veprog := rfl
@[simp] theorem unreserveToken_frontRank (c : Core) (n : Nat) : (c.unreserveToken n).frontRank = c.frontRank := rfl
@[simp] theorem unreserveToken_hyp (c : Core) (n : Nat) : (c.unreserveToken n).hyp = c.hyp := rfl
@[simp] theorem unreserveToken_hypDepth (c : Core) (n : Nat) : (c.unreserveToken n).hypDepth = c.hypDepth := rfl
@[simp] theorem unreserveToken_aflags (c : Core) (n : Nat) : (c.unreserveToken n).aflags = c.aflags := rfl
@[simp] theorem unreserveToken_cycle (c : Core) (n : Nat) : (c.unreserveToken n).cycle = c.cycle := rfl
@[simp] theorem unreserveToken_instret (c : Core) (n : Nat) : (c.unreserveToken n).instret = c.instret := rfl
@[simp] theorem unreserveToken_scratch (c : Core) (n : Nat) : (c.unreserveToken n).scratch = c.scratch := rfl
@[simp] theorem unreserveToken_rtbase (c : Core) (n : Nat) : (c.unreserveToken n).rtbase = c.rtbase := rfl
@[simp] theorem unreserveToken_logring (c : Core) (n : Nat) : (c.unreserveToken n).logring = c.logring := rfl
@[simp] theorem unreserveToken_win (c : Core) (n : Nat) : (c.unreserveToken n).win = c.win := rfl
@[simp] theorem unreserveToken_winst (c : Core) (n : Nat) : (c.unreserveToken n).winst = c.winst := rfl
@[simp] theorem unreserveToken_remoteOut (c : Core) (n : Nat) : (c.unreserveToken n).remoteOut = c.remoteOut := rfl
@[simp] theorem unreserveToken_frameRun (c : Core) (n : Nat) : (c.unreserveToken n).frameRun = c.frameRun := rfl
@[simp] theorem unreserveToken_frameCount (c : Core) (n : Nat) : (c.unreserveToken n).frameCount = c.frameCount := rfl
@[simp] theorem unreserveToken_divs (c : Core) (n : Nat) : (c.unreserveToken n).divs = c.divs := rfl
@[simp] theorem unreserveToken_frameNext (c : Core) (n : Nat) : (c.unreserveToken n).frameNext = c.frameNext := rfl
@[simp] theorem unreserveToken_fcause (c : Core) (n : Nat) : (c.unreserveToken n).fcause = c.fcause := rfl
@[simp] theorem unreserveToken_faddr (c : Core) (n : Nat) : (c.unreserveToken n).faddr = c.faddr := rfl
@[simp] theorem unreserveToken_eccCorr (c : Core) (n : Nat) : (c.unreserveToken n).eccCorr = c.eccCorr := rfl
@[simp] theorem unreserveToken_eccUncorr (c : Core) (n : Nat) : (c.unreserveToken n).eccUncorr = c.eccUncorr := rfl
@[simp] theorem unreserveToken_marks (c : Core) (n : Nat) : (c.unreserveToken n).marks = c.marks := rfl
@[simp] theorem unreserveToken_upsets (c : Core) (n : Nat) : (c.unreserveToken n).upsets = c.upsets := rfl
@[simp] theorem unreserveToken_mode (c : Core) (n : Nat) : (c.unreserveToken n).mode = c.mode := rfl
@[simp] theorem unreserveToken_ctx (c : Core) (n : Nat) : (c.unreserveToken n).ctx = c.ctx := rfl
@[simp] theorem unreserveToken_lastTenant (c : Core) (n : Nat) : (c.unreserveToken n).lastTenant = c.lastTenant := rfl
@[simp] theorem unreserveToken_primary (c : Core) (n : Nat) : (c.unreserveToken n).primary = c.primary := rfl
@[simp] theorem unreserveToken_multi (c : Core) (n : Nat) : (c.unreserveToken n).multi = c.multi := rfl
@[simp] theorem unreserveToken_causes (c : Core) (n : Nat) : (c.unreserveToken n).causes = c.causes := rfl
@[simp] theorem unreserveToken_handled (c : Core) (n : Nat) : (c.unreserveToken n).handled = c.handled := rfl
@[simp] theorem unreserveToken_saved (c : Core) (n : Nat) : (c.unreserveToken n).saved = c.saved := rfl
@[simp] theorem unreserveToken_answered (c : Core) (n : Nat) : (c.unreserveToken n).answered = c.answered := rfl
@[simp] theorem unreserveToken_parking (c : Core) (n : Nat) : (c.unreserveToken n).parking = c.parking := rfl
@[simp] theorem unreserveToken_frameGtc (c : Core) (n : Nat) : (c.unreserveToken n).frameGtc = c.frameGtc := rfl
@[simp] theorem unreserveToken_preempt (c : Core) (n : Nat) : (c.unreserveToken n).preempt = c.preempt := rfl
@[simp] theorem unreserveToken_succDone (c : Core) (n : Nat) : (c.unreserveToken n).succDone = c.succDone := rfl
@[simp] theorem unreserveToken_succPred (c : Core) (n : Nat) : (c.unreserveToken n).succPred = c.succPred := rfl
@[simp] theorem unreserveToken_succWait (c : Core) (n : Nat) : (c.unreserveToken n).succWait = c.succWait := rfl
@[simp] theorem unreserveToken_orphan (c : Core) (n : Nat) : (c.unreserveToken n).orphan = c.orphan := rfl
@[simp] theorem unreserveToken_heldFaults (c : Core) (n : Nat) : (c.unreserveToken n).heldFaults = c.heldFaults := rfl
@[simp] theorem unreserveToken_listed (c : Core) (n : Nat) : (c.unreserveToken n).listed = c.listed := rfl
@[simp] theorem unreserveToken_log (c : Core) (n : Nat) : (c.unreserveToken n).log = c.log := rfl

/-! ### Core.pushToken -/

@[simp] theorem pushToken_pc (c : Core) (n : Nat) (h : BitVec 8) : (c.pushToken n h).pc = c.pc := rfl
@[simp] theorem pushToken_x (c : Core) (n : Nat) (h : BitVec 8) : (c.pushToken n h).x = c.x := rfl
@[simp] theorem pushToken_g (c : Core) (n : Nat) (h : BitVec 8) : (c.pushToken n h).g = c.g := rfl
@[simp] theorem pushToken_ae (c : Core) (n : Nat) (h : BitVec 8) : (c.pushToken n h).ae = c.ae := rfl
@[simp] theorem pushToken_me (c : Core) (n : Nat) (h : BitVec 8) : (c.pushToken n h).me = c.me := rfl
@[simp] theorem pushToken_se (c : Core) (n : Nat) (h : BitVec 8) : (c.pushToken n h).se = c.se := rfl
@[simp] theorem pushToken_ve (c : Core) (n : Nat) (h : BitVec 8) : (c.pushToken n h).ve = c.ve := rfl
@[simp] theorem pushToken_pfx (c : Core) (n : Nat) (h : BitVec 8) : (c.pushToken n h).pfx = c.pfx := rfl
@[simp] theorem pushToken_blocked (c : Core) (n : Nat) (h : BitVec 8) : (c.pushToken n h).blocked = c.blocked := rfl
@[simp] theorem pushToken_cause (c : Core) (n : Nat) (h : BitVec 8) : (c.pushToken n h).cause = c.cause := rfl
@[simp] theorem pushToken_exempt (c : Core) (n : Nat) (h : BitVec 8) : (c.pushToken n h).exempt = c.exempt := rfl
@[simp] theorem pushToken_poll (c : Core) (n : Nat) (h : BitVec 8) : (c.pushToken n h).poll = c.poll := rfl
@[simp] theorem pushToken_curWord (c : Core) (n : Nat) (h : BitVec 8) : (c.pushToken n h).curWord = c.curWord := rfl
@[simp] theorem pushToken_underway (c : Core) (n : Nat) (h : BitVec 8) : (c.pushToken n h).underway = c.underway := rfl
@[simp] theorem pushToken_icache (c : Core) (n : Nat) (h : BitVec 8) : (c.pushToken n h).icache = c.icache := rfl
@[simp] theorem pushToken_fetching (c : Core) (n : Nat) (h : BitVec 8) : (c.pushToken n h).fetching = c.fetching := rfl
@[simp] theorem pushToken_bulk (c : Core) (n : Nat) (h : BitVec 8) : (c.pushToken n h).bulk = c.bulk := rfl
@[simp] theorem pushToken_fmtq (c : Core) (n : Nat) (h : BitVec 8) : (c.pushToken n h).fmtq = c.fmtq := rfl
@[simp] theorem pushToken_sclq (c : Core) (n : Nat) (h : BitVec 8) : (c.pushToken n h).sclq = c.sclq := rfl
@[simp] theorem pushToken_rq (c : Core) (n : Nat) (h : BitVec 8) : (c.pushToken n h).rq = c.rq := rfl
@[simp] theorem pushToken_cntLd (c : Core) (n : Nat) (h : BitVec 8) : (c.pushToken n h).cntLd = c.cntLd := rfl
@[simp] theorem pushToken_cntSt (c : Core) (n : Nat) (h : BitVec 8) : (c.pushToken n h).cntSt = c.cntSt := rfl
@[simp] theorem pushToken_cntCp (c : Core) (n : Nat) (h : BitVec 8) : (c.pushToken n h).cntCp = c.cntCp := rfl
@[simp] theorem pushToken_cpZero (c : Core) (n : Nat) (h : BitVec 8) : (c.pushToken n h).cpZero = c.cpZero := rfl
@[simp] theorem pushToken_cntTl (c : Core) (n : Nat) (h : BitVec 8) : (c.pushToken n h).cntTl = c.cntTl := rfl
@[simp] theorem pushToken_pend (c : Core) (n : Nat) (h : BitVec 8) : (c.pushToken n h).pend = c.pend := rfl
@[simp] theorem pushToken_c (c : Core) (n : Nat) (h : BitVec 8) : (c.pushToken n h).c = c.c := rfl
@[simp] theorem pushToken_t (c : Core) (n : Nat) (h : BitVec 8) : (c.pushToken n h).t = c.t := rfl
@[simp] theorem pushToken_w (c : Core) (n : Nat) (h : BitVec 8) : (c.pushToken n h).w = c.w := rfl
@[simp] theorem pushToken_d (c : Core) (n : Nat) (h : BitVec 8) : (c.pushToken n h).d = c.d := rfl
@[simp] theorem pushToken_opd (c : Core) (n : Nat) (h : BitVec 8) : (c.pushToken n h).opd = c.opd := rfl
@[simp] theorem pushToken_ring (c : Core) (n : Nat) (h : BitVec 8) : (c.pushToken n h).ring = c.ring := rfl
@[simp] theorem pushToken_wb (c : Core) (n : Nat) (h : BitVec 8) : (c.pushToken n h).wb = c.wb := rfl
@[simp] theorem pushToken_ab (c : Core) (n : Nat) (h : BitVec 8) : (c.pushToken n h).ab = c.ab := rfl
@[simp] theorem pushToken_as (c : Core) (n : Nat) (h : BitVec 8) : (c.pushToken n h).as = c.as := rfl
@[simp] theorem pushToken_srf (c : Core) (n : Nat) (h : BitVec 8) : (c.pushToken n h).srf = c.srf := rfl
@[simp] theorem pushToken_slots (c : Core) (n : Nat) (h : BitVec 8) : (c.pushToken n h).slots = c.slots := rfl
@[simp] theorem pushToken_copies (c : Core) (n : Nat) (h : BitVec 8) : (c.pushToken n h).copies = c.copies := rfl
@[simp] theorem pushToken_copySeq (c : Core) (n : Nat) (h : BitVec 8) : (c.pushToken n h).copySeq = c.copySeq := rfl
@[simp] theorem pushToken_copyTurn (c : Core) (n : Nat) (h : BitVec 8) : (c.pushToken n h).copyTurn = c.copyTurn := rfl
@[simp] theorem pushToken_tiles (c : Core) (n : Nat) (h : BitVec 8) : (c.pushToken n h).tiles = c.tiles := rfl
@[simp] theorem pushToken_latch (c : Core) (n : Nat) (h : BitVec 8) : (c.pushToken n h).latch = c.latch := rfl
@[simp] theorem pushToken_vpend (c : Core) (n : Nat) (h : BitVec 8) : (c.pushToken n h).vpend = c.vpend := rfl
@[simp] theorem pushToken_vword (c : Core) (n : Nat) (h : BitVec 8) : (c.pushToken n h).vword = c.vword := rfl
@[simp] theorem pushToken_vretire (c : Core) (n : Nat) (h : BitVec 8) : (c.pushToken n h).vretire = c.vretire := rfl
@[simp] theorem pushToken_chain (c : Core) (n : Nat) (h : BitVec 8) : (c.pushToken n h).chain = c.chain := rfl
@[simp] theorem pushToken_front (c : Core) (n : Nat) (h : BitVec 8) : (c.pushToken n h).front = c.front := rfl
@[simp] theorem pushToken_ctag (c : Core) (n : Nat) (h : BitVec 8) : (c.pushToken n h).ctag = c.ctag := rfl
@[simp] theorem pushToken_inbox (c : Core) (n : Nat) (h : BitVec 8) : (c.pushToken n h).inbox = c.inbox := rfl
@[simp] theorem pushToken_credits (c : Core) (n : Nat) (h : BitVec 8) : (c.pushToken n h).credits = c.credits := rfl
@[simp] theorem pushToken_carryAsk (c : Core) (n : Nat) (h : BitVec 8) : (c.pushToken n h).carryAsk = c.carryAsk := rfl
@[simp] theorem pushToken_ldsTab (c : Core) (n : Nat) (h : BitVec 8) : (c.pushToken n h).ldsTab = c.ldsTab := rfl
@[simp] theorem pushToken_qrseed (c : Core) (n : Nat) (h : BitVec 8) : (c.pushToken n h).qrseed = c.qrseed := rfl
@[simp] theorem pushToken_smp (c : Core) (n : Nat) (h : BitVec 8) : (c.pushToken n h).smp = c.smp := rfl
@[simp] theorem pushToken_smpq (c : Core) (n : Nat) (h : BitVec 8) : (c.pushToken n h).smpq = c.smpq := rfl
@[simp] theorem pushToken_replays (c : Core) (n : Nat) (h : BitVec 8) : (c.pushToken n h).replays = c.replays := rfl
@[simp] theorem pushToken_tileReplay (c : Core) (n : Nat) (h : BitVec 8) : (c.pushToken n h).tileReplay = c.tileReplay := rfl
@[simp] theorem pushToken_meOwn (c : Core) (n : Nat) (h : BitVec 8) : (c.pushToken n h).meOwn = c.meOwn := rfl
@[simp] theorem pushToken_tOwn (c : Core) (n : Nat) (h : BitVec 8) : (c.pushToken n h).tOwn = c.tOwn := rfl
@[simp] theorem pushToken_relocs (c : Core) (n : Nat) (h : BitVec 8) : (c.pushToken n h).relocs = c.relocs := rfl
@[simp] theorem pushToken_seprog (c : Core) (n : Nat) (h : BitVec 8) : (c.pushToken n h).seprog = c.seprog := rfl
@[simp] theorem pushToken_seFlags (c : Core) (n : Nat) (h : BitVec 8) : (c.pushToken n h).seFlags = c.seFlags := rfl
@[simp] theorem pushToken_veprog (c : Core) (n : Nat) (h : BitVec 8) : (c.pushToken n h).veprog = c.veprog := rfl
@[simp] theorem pushToken_frontRank (c : Core) (n : Nat) (h : BitVec 8) : (c.pushToken n h).frontRank = c.frontRank := rfl
@[simp] theorem pushToken_hyp (c : Core) (n : Nat) (h : BitVec 8) : (c.pushToken n h).hyp = c.hyp := rfl
@[simp] theorem pushToken_hypDepth (c : Core) (n : Nat) (h : BitVec 8) : (c.pushToken n h).hypDepth = c.hypDepth := rfl
@[simp] theorem pushToken_aflags (c : Core) (n : Nat) (h : BitVec 8) : (c.pushToken n h).aflags = c.aflags := rfl
@[simp] theorem pushToken_cycle (c : Core) (n : Nat) (h : BitVec 8) : (c.pushToken n h).cycle = c.cycle := rfl
@[simp] theorem pushToken_instret (c : Core) (n : Nat) (h : BitVec 8) : (c.pushToken n h).instret = c.instret := rfl
@[simp] theorem pushToken_scratch (c : Core) (n : Nat) (h : BitVec 8) : (c.pushToken n h).scratch = c.scratch := rfl
@[simp] theorem pushToken_rtbase (c : Core) (n : Nat) (h : BitVec 8) : (c.pushToken n h).rtbase = c.rtbase := rfl
@[simp] theorem pushToken_logring (c : Core) (n : Nat) (h : BitVec 8) : (c.pushToken n h).logring = c.logring := rfl
@[simp] theorem pushToken_win (c : Core) (n : Nat) (h : BitVec 8) : (c.pushToken n h).win = c.win := rfl
@[simp] theorem pushToken_winst (c : Core) (n : Nat) (h : BitVec 8) : (c.pushToken n h).winst = c.winst := rfl
@[simp] theorem pushToken_remoteOut (c : Core) (n : Nat) (h : BitVec 8) : (c.pushToken n h).remoteOut = c.remoteOut := rfl
@[simp] theorem pushToken_frameRun (c : Core) (n : Nat) (h : BitVec 8) : (c.pushToken n h).frameRun = c.frameRun := rfl
@[simp] theorem pushToken_frameCount (c : Core) (n : Nat) (h : BitVec 8) : (c.pushToken n h).frameCount = c.frameCount := rfl
@[simp] theorem pushToken_divs (c : Core) (n : Nat) (h : BitVec 8) : (c.pushToken n h).divs = c.divs := rfl
@[simp] theorem pushToken_frameNext (c : Core) (n : Nat) (h : BitVec 8) : (c.pushToken n h).frameNext = c.frameNext := rfl
@[simp] theorem pushToken_fcause (c : Core) (n : Nat) (h : BitVec 8) : (c.pushToken n h).fcause = c.fcause := rfl
@[simp] theorem pushToken_faddr (c : Core) (n : Nat) (h : BitVec 8) : (c.pushToken n h).faddr = c.faddr := rfl
@[simp] theorem pushToken_eccCorr (c : Core) (n : Nat) (h : BitVec 8) : (c.pushToken n h).eccCorr = c.eccCorr := rfl
@[simp] theorem pushToken_eccUncorr (c : Core) (n : Nat) (h : BitVec 8) : (c.pushToken n h).eccUncorr = c.eccUncorr := rfl
@[simp] theorem pushToken_marks (c : Core) (n : Nat) (h : BitVec 8) : (c.pushToken n h).marks = c.marks := rfl
@[simp] theorem pushToken_upsets (c : Core) (n : Nat) (h : BitVec 8) : (c.pushToken n h).upsets = c.upsets := rfl
@[simp] theorem pushToken_mode (c : Core) (n : Nat) (h : BitVec 8) : (c.pushToken n h).mode = c.mode := rfl
@[simp] theorem pushToken_ctx (c : Core) (n : Nat) (h : BitVec 8) : (c.pushToken n h).ctx = c.ctx := rfl
@[simp] theorem pushToken_lastTenant (c : Core) (n : Nat) (h : BitVec 8) : (c.pushToken n h).lastTenant = c.lastTenant := rfl
@[simp] theorem pushToken_primary (c : Core) (n : Nat) (h : BitVec 8) : (c.pushToken n h).primary = c.primary := rfl
@[simp] theorem pushToken_multi (c : Core) (n : Nat) (h : BitVec 8) : (c.pushToken n h).multi = c.multi := rfl
@[simp] theorem pushToken_causes (c : Core) (n : Nat) (h : BitVec 8) : (c.pushToken n h).causes = c.causes := rfl
@[simp] theorem pushToken_handled (c : Core) (n : Nat) (h : BitVec 8) : (c.pushToken n h).handled = c.handled := rfl
@[simp] theorem pushToken_saved (c : Core) (n : Nat) (h : BitVec 8) : (c.pushToken n h).saved = c.saved := rfl
@[simp] theorem pushToken_answered (c : Core) (n : Nat) (h : BitVec 8) : (c.pushToken n h).answered = c.answered := rfl
@[simp] theorem pushToken_parking (c : Core) (n : Nat) (h : BitVec 8) : (c.pushToken n h).parking = c.parking := rfl
@[simp] theorem pushToken_frameGtc (c : Core) (n : Nat) (h : BitVec 8) : (c.pushToken n h).frameGtc = c.frameGtc := rfl
@[simp] theorem pushToken_preempt (c : Core) (n : Nat) (h : BitVec 8) : (c.pushToken n h).preempt = c.preempt := rfl
@[simp] theorem pushToken_succDone (c : Core) (n : Nat) (h : BitVec 8) : (c.pushToken n h).succDone = c.succDone := rfl
@[simp] theorem pushToken_succPred (c : Core) (n : Nat) (h : BitVec 8) : (c.pushToken n h).succPred = c.succPred := rfl
@[simp] theorem pushToken_succWait (c : Core) (n : Nat) (h : BitVec 8) : (c.pushToken n h).succWait = c.succWait := rfl
@[simp] theorem pushToken_orphan (c : Core) (n : Nat) (h : BitVec 8) : (c.pushToken n h).orphan = c.orphan := rfl
@[simp] theorem pushToken_heldFaults (c : Core) (n : Nat) (h : BitVec 8) : (c.pushToken n h).heldFaults = c.heldFaults := rfl
@[simp] theorem pushToken_listed (c : Core) (n : Nat) (h : BitVec 8) : (c.pushToken n h).listed = c.listed := rfl
@[simp] theorem pushToken_log (c : Core) (n : Nat) (h : BitVec 8) : (c.pushToken n h).log = c.log := rfl

end Sys2Proof.Laws
end

