-- ==== Sys2Proof/Tests/Slice0.lean ====
section
/-! SUPPORT. Small tests: field checks, words written out from the encodings of the spec, single steps with results worked
out by hand from the rules, and for every statement that has hypotheses a state and operands that meet them. -/
namespace Sys2Proof.Tests
open Sys2Proof Sys2Proof.Machine Sys2Proof.Safety

/-! ### Ill-formed terms that the field check refuses -/

theorem test_wf_scope : (Instr.extM 1 5 0 0).wf = false ∧ (Instr.fence 0 5).wf = false ∧ (Instr.ldAcq 0 1 2 7).wf = false
    ∧ (Instr.stRel 0 0 0 5 1 2).wf = false ∧ (Instr.ldAcqPromote 0 1 2 5).wf = false := by decide
theorem test_wf_width : (Instr.extM 1 0 0 2).wf = false := by decide
theorem test_wf_guard_destination : (Instr.cmpEq 0 8 1 2).wf = false ∧ (Instr.cmpNe 0 8 1 2).wf = false
    ∧ (Instr.cmpLtI64 0 8 1 2).wf = false ∧ (Instr.cmpGeI64 0 8 1 2).wf = false ∧ (Instr.cmpLtN64 0 8 1 2).wf = false
    ∧ (Instr.cmpGeN64 0 8 1 2).wf = false ∧ (Instr.tst 0 31 1 2).wf = false ∧ (Instr.gset 0 8).wf = false
    ∧ (Instr.gclr 0 8).wf = false := by decide
theorem test_wf_guard_sources : (Instr.gand 0 1 8 2).wf = false ∧ (Instr.gor 0 1 2 8).wf = false ∧ (Instr.gxor 0 8 1 2).wf = false
    ∧ (Instr.gandn 0 1 2 31).wf = false ∧ (Instr.gmov 0 1 8).wf = false ∧ (Instr.gnot 0 8 1).wf = false := by decide
theorem test_wf_engine_mask : (Instr.engFence 0 0).wf = false ∧ (Instr.engFence 0 16).wf = false := by decide
theorem test_wf_engine_number : (Instr.bqEnq 0 4 1).wf = false := by decide
theorem test_wf_two_destinations : (Instr.rqDeq 0 3 3).wf = false ∧ (Instr.rqDeq 0 0 0).wf = true := by decide
theorem test_wf_argument_item : (Instr.argWrite 0 1 3 2).wf = false ∧ (Instr.argWrite 0 1 4 2).wf = true := by decide
theorem test_wf_copy_descriptor : (Instr.cpy 0 8).wf = false ∧ (Instr.cpyT 0 8 1 2).wf = false ∧ (Instr.gath 0 8).wf = false
    ∧ (Instr.gathT 0 8 1 2).wf = false ∧ (Instr.scat 0 8).wf = false ∧ (Instr.scatT 0 8 1 2).wf = false ∧ (Instr.mcast 0 8).wf = false
    ∧ (Instr.mcastT 0 8 1 2).wf = false ∧ (Instr.sclLd 0 8).wf = false ∧ (Instr.sclLdT 0 8 1 2).wf = false
    ∧ (Instr.pref 0 8).wf = false ∧ (Instr.cdSet 0 8 1 0).wf = false ∧ (Instr.cdSet 0 1 1 6).wf = false := by decide
theorem test_wf_tile_descriptor : (Instr.mm 0 8 0 0 0 0 0 0).wf = false ∧ (Instr.mmG 0 0 8 0 0 0 0).wf = false ∧ (Instr.accZero 0 8).wf = false
    ∧ (Instr.accRd 0 0 8).wf = false ∧ (Instr.accWr 0 8 0).wf = false ∧ (Instr.tdSet 0 8 1 2).wf = false := by decide
theorem test_wf_computation_type : (Instr.vadd 0 1 2 3 0 0 0 4).wf = false ∧ (Instr.vfma 0 1 2 3 0 0 4).wf = false
    ∧ (Instr.vmov 0 1 2 0 0 4).wf = false ∧ (Instr.vrsum 0 1 2 4).wf = false := by decide
theorem test_wf_integer_only : (Instr.vand 0 1 2 3 0 0 0 1).wf = false ∧ (Instr.vshl 0 1 2 3 0 0 0 0).wf = false
    ∧ (Instr.vnot 0 1 2 0 0 0).wf = false := by decide
theorem test_wf_ring_source : (Instr.vadd 0 1 8 3 1 0 0 0).wf = false ∧ (Instr.vadd 0 1 2 8 0 1 0 0).wf = false
    ∧ (Instr.vcvt 0 1 8 1).wf = false ∧ (Instr.vsel 0 1 8 2 1 0 0).wf = false := by decide
theorem test_wf_ring_destination : (Instr.vadd 0 1 2 3 0 0 1 0).wf = false ∧ (Instr.vexp2 0 1 2 0 1).wf = false := by decide
theorem test_wf_state_window : (Instr.srfAlloc 0 8).wf = false ∧ (Instr.srfFree 0 8).wf = false ∧ (Instr.srfLd 0 8 0).wf = false
    ∧ (Instr.srfSt 0 0 8).wf = false ∧ (Instr.srfZero 0 8).wf = false ∧ (Instr.swSet 0 8 1 2).wf = false ∧ (Instr.scan 0 8 0).wf = false
    ∧ (Instr.scanSw 0 0 8 0).wf = false ∧ (Instr.scanRed 0 8 0 0).wf = false ∧ (Instr.scanApply 0 0 8 0).wf = false
    ∧ (Instr.scanApplyFirst 0 8 0 0).wf = false := by decide
theorem test_wf_scan_network : (Instr.nscanUp 0 8 1 0).wf = false ∧ (Instr.nscanDown 0 8 1 0).wf = false ∧ (Instr.carrySendIn 0 8 1 2).wf = false
    ∧ (Instr.carrySendOut 0 8 1 2).wf = false ∧ (Instr.carryRecvIn 0 8 1 2).wf = false ∧ (Instr.carryRecvOut 0 8 1 2).wf = false
    ∧ (Instr.carryRecvCombIn 0 8 1 2 0).wf = false ∧ (Instr.carryRecvCombOut 0 8 1 2 0).wf = false ∧ (Instr.step 0 8 0 0).wf = false
    ∧ (Instr.stepY 0 0 8 0 0).wf = false := by decide

/-! ### Words of the spec, by family -/

theorem test_decode_prefix : decodeTableWord 32 0x00400028 = some (.stamp 40) ∧ decodeTableWord 32 0x004004B0 = some (.stamp 1200)
    ∧ decodeTableWord 32 0x0080000F = some (.extI 0xF) := by decide
theorem test_decode_system : decodeTableWord 32 0x00080002 = some (.sysr 0 4 0) := by decide
theorem test_decode_integer : decodeTableWord 32 0x02D40030 = some (.movi 0 10 48) ∧ decodeTableWord 32 0x018A44B0 = some (.srli 0 5 4 9 0)
    ∧ decodeTableWord 32 0x014A5207 = some (.andi 0 5 5 7) := by decide
theorem test_decode_compare : decodeTableWord 32 0x0206A482 = some (.cmpLtI64 0 3 10 9) := by decide
theorem test_decode_store : decodeTableWord 32 0x145C453B = some (.stN64 1 3 1 2 5 7) := by decide
theorem test_decode_buffer : decodeTableWord 32 0x058A3808 = some (.bstN8 0 5 3 8) := by decide
theorem test_decode_fence : decodeTableWord 32 0x05000018 = some (.fence 0 3) := by decide
theorem test_decode_engine : decodeTableWord 32 0x06129625 = some (.engCmd 0 1 10 11 37) ∧ decodeTableWord 32 0x06800000 = some (.endr 0)
    ∧ decodeTableWord 32 0x070000FF = some (.waitc 0 0 0 15 15) := by decide
theorem test_decode_task : decodeTableWord 32 0x07401001 = some (.taskDone 0 1) := by decide
theorem test_decode_matrix : decodeTableWord 32 0x09800D00 = some (.tdSet 0 0 3 4) ∧ decodeTableWord 32 0x09410000 = some (.accZero 0 4)
    ∧ decodeTableWord 32 0x09010080 = some (.mm 0 4 0 2 0 0 0 0) ∧ decodeTableWord 32 0x09455000 = some (.accRd 0 5 4) := by decide
theorem test_decode_vector : decodeTableWord 32 0x0B800D00 = some (.rgnSet 0 0 3 4) ∧ decodeTableWord 32 0x0AC04000 = some (.vexp2 0 1 0 0 0)
    ∧ decodeTableWord 32 0x0B008400 = some (.vrsum 0 2 1 0) := by decide
theorem test_decode_collective : decodeTableWord 32 0x0EC03200 = some (.collLoad 0 3 4) ∧ decodeTableWord 32 0x0EC04281 = some (.collRun 0 4 5)
    ∧ decodeTableWord 32 0x0EC04002 = some (.collWait 0 4) ∧ decodeTableWord 32 0x0EC06383 = some (.trigAdd 0 6 7) := by decide
theorem test_decode_remote : decodeTableWord 32 0x0F009400 = some (.stc 0 9 8) ∧ decodeTableWord 32 0x0F004001 = some (.winDrain 0 4) := by decide
theorem test_decode_platform : decodeTableWord 32 0x0F4E6000 = some (.digest 0 7 6 0) ∧ decodeTableWord 32 0x0F400001 = some (.frameBegin 0 0) := by decide

/-! Words put together from the encoding tables: the fixed bits, and each field at its place. -/

theorem test_decode_memory : decodeTableWord 32 (0x04000C00 + 7 * 2 ^ 17 + 3 * 2 ^ 12 + 0x1FF) = some (.ldN64 0 7 3 0x1FF)
    ∧ decodeTableWord 32 (0x04000000 + 31 * 2 ^ 17 + 1 * 2 ^ 12 + 0x100) = some (.ldI8 0 31 1 0x100)
    ∧ decodeTableWord 32 (0x04400002 + 5 * 2 ^ 19 + 0x1F * 2 ^ 13 + 9 * 2 ^ 8 + 10 * 2 ^ 3) = some (.stN32 0 5 0 0x1F 9 10) := by decide
theorem test_decode_atomics : decodeTableWord 32 (0x04800007 + 2 * 2 ^ 19 + 2 ^ 18 + 4 * 2 ^ 13 + 5 * 2 ^ 8 + 6 * 2 ^ 3) = some (.amoCas 0 2 1 4 5 6)
    ∧ decodeTableWord 32 (0x04C00006 + 8 * 2 ^ 28 + 5 * 2 ^ 8 + 6 * 2 ^ 3) = some (.redFaddF32 8 0 0 5 6) := by decide
theorem test_decode_acquire : decodeTableWord 32 (0x05000001 + 4 * 2 ^ 13 + 5 * 2 ^ 8 + 4 * 2 ^ 3) = some (.ldAcq 0 4 5 4)
    ∧ decodeTableWord 32 (0x05400001 + 4 * 2 ^ 17 + 5 * 2 ^ 12 + 6 * 2 ^ 7) = some (.tbarArrive 0 4 5 6) := by decide
theorem test_decode_branch : decodeTableWord 32 (0x03000000 + 3 * 2 ^ 19 + 2 ^ 18 + 0x3FFFE) = some (.br 0 3 1 0x3FFFE)
    ∧ decodeTableWord 32 (0x03400000 + 1 * 2 ^ 17 + 0x1FFFF) = some (.jal 0 1 0x1FFFF)
    ∧ decodeTableWord 32 (0x02800000 + 3 * 2 ^ 19 + 4 * 2 ^ 13 + 5 * 2 ^ 8) = some (.sel 0 3 0 4 5) := by decide
theorem test_decode_loops : decodeTableWord 32 (0x06C00000 + 2 * 2 ^ 20 + 100 * 2 ^ 7 + 9) = some (.loopImm 0 2 100 9)
    ∧ decodeTableWord 32 (0x06810001 + 4 * 2 ^ 17 + 12 * 2 ^ 12 + 5 * 2 ^ 7) = some (.argWrite 0 4 12 5)
    ∧ decodeTableWord 32 (0x06180000 + 10 * 2 ^ 14 + 11 * 2 ^ 9 + 511) = some (.engCmdReloc 0 10 11 511) := by decide
theorem test_decode_hypothesis : decodeTableWord 32 (0x07800000 + 4 * 2 ^ 17 + 5 * 2 ^ 12) = some (.hypOpen 0 4 5)
    ∧ decodeTableWord 32 (0x07800004 + 4 * 2 ^ 17 + 5 * 2 ^ 12) = some (.hypQuery 0 4 5) := by decide
theorem test_decode_copy : decodeTableWord 32 (0x08000000 + 3 * 2 ^ 14) = some (.cpy 0 3)
    ∧ decodeTableWord 32 (0x08400001 + 3 * 2 ^ 14 + 4 * 2 ^ 10 + 5 * 2 ^ 6) = some (.gathT 0 3 4 5)
    ∧ decodeTableWord 32 (0x08080000 + 3 * 2 ^ 14 + 4 * 2 ^ 6 + 5) = some (.cdSet 0 3 4 5) := by decide
theorem test_decode_gathered_tile : decodeTableWord 32 (0x09040000 + 1 * 2 ^ 14 + 2 * 2 ^ 10 + 3 * 2 ^ 6 + 5 * 2 ^ 3 + 4) = some (.mmG 0 1 2 3 5 1 0) := by decide
theorem test_decode_vector_three : decodeTableWord 32 (0x0A400000 + 1 * 2 ^ 14 + 2 * 2 ^ 10 + 3 * 2 ^ 6 + 2 ^ 4 + 3) = some (.vfma 0 1 2 3 0 1 3)
    ∧ decodeTableWord 32 (0x0A8C0000 + 1 * 2 ^ 14 + 2 * 2 ^ 10 + 2 ^ 5) = some (.vcvt 0 1 2 1)
    ∧ decodeTableWord 32 (0x0B4C0000 + 9 * 2 ^ 14 + 3) = some (.vdrain 0 9 3) := by decide
theorem test_decode_points : decodeTableWord 32 (0x0BC00000 + 1 * 2 ^ 14 + 2 * 2 ^ 10 + 3 * 2 ^ 6) = some (.qrGen 0 1 2 3)
    ∧ decodeTableWord 32 (0x0E000002 + 4 * 2 ^ 17 + 5 * 2 ^ 12 + 6 * 2 ^ 7) = some (.qrPt 0 4 5 6) := by decide
theorem test_decode_scans : decodeTableWord 32 (0x0C840000 + 1 * 2 ^ 14 + 2 * 2 ^ 10 + 3 * 2 ^ 6) = some (.scanRed 0 1 2 3)
    ∧ decodeTableWord 32 (0x0CC40000 + 1 * 2 ^ 14 + 2 * 2 ^ 10 + 3 * 2 ^ 6) = some (.nscanDown 0 1 2 3)
    ∧ decodeTableWord 32 (0x0D040030 + 1 * 2 ^ 14 + 2 * 2 ^ 10 + 3 * 2 ^ 6 + 15) = some (.carryRecvCombOut 0 1 2 3 15)
    ∧ decodeTableWord 32 (0x0D400008 + 1 * 2 ^ 14 + 2 * 2 ^ 10 + 3 * 2 ^ 6 + 7) = some (.stepY 0 1 2 3 7) := by decide
theorem test_decode_sampling : decodeTableWord 32 (0x0E400003 + 5 * 2 ^ 12 + 6 * 2 ^ 7) = some (.smpCfg 0 5 6)
    ∧ decodeTableWord 32 (0x0E800000 + 4 * 2 ^ 17 + 5 * 2 ^ 12) = some (.logAppend 0 4 5) := by decide
theorem test_decode_reserved : decodeTableWord 32 0xFFFFFFFF = none ∧ decodeTableWord 32 (0x01000000 + 0x7F) = none := by decide

/-! ### Single steps from reset with one word placed: results worked out by hand -/

/-- What a step with this word placed leaves, read by `f`. -/
def after {α : Type} (w : Nat) (none : α) (f : State → α) : α :=
  match step (State.reset.withFetchWord 32 w) with
  | .next t => f t
  | _ => none

/-- A state of sequencer `u` with registers 1 to 4 set, in a resident context at the root. -/
def base (u : Sqr) (a b c d : Word) : State :=
  let s := State.reset.placed u
  let s := s.mapCore (fun k => if u = .cc then k else k.mapEng u (fun e => { e with run := some default }))
  s.mapCore (fun k => (((k.setReg u 1 a).setReg u 2 b).setReg u 3 c).setReg u 4 d)

/-- What `exec` leaves of a state, read by `f`. -/
def runs {α : Type} (i : Instr) (s : State) (none : α) (f : State → α) : α :=
  match exec i s with
  | .next t => f t
  | _ => none

set_option maxRecDepth 100000
set_option exponentiation.threshold 400

/-- MOVI sign-extends its 16 bits (R92). -/
theorem test_step_movi : after (0x02C00000 + 10 * 2 ^ 17 + 0xFFFF) 0#64 (fun t => t.core.reg .cc 10) = 0xFFFFFFFFFFFFFFFF#64 := by decide
/-- A step advances the PC by 4 (R44). -/
theorem test_step_pc : after 0x02D4000A 0#64 (fun t => t.core.pc) = 4#64 := by decide
/-- The writes to register 0 are discarded (R80). -/
theorem test_step_zero : after 0x02C0000A 1#64 (fun t => t.core.reg .cc 0) = 0#64 := by decide
/-- Sums wrap; the source may be the destination (R87). -/
theorem test_add_wraps : runs (.add 0 1 1 2) (base .cc 0xFFFFFFFFFFFFFFFF 3 0 0) 0#64 (fun t => t.core.reg .cc 1) = 2#64 := by decide
/-- A 32-bit difference is sign-extended (R87). -/
theorem test_sub_i32_extends : runs (.subI32 0 5 1 2) (base .cc 0x100000000 1 0 0) 0#64 (fun t => t.core.reg .cc 5) = 0xFFFFFFFFFFFFFFFF#64 := by decide
/-- ADDS saturates at both ends (R87). -/
theorem test_adds_saturates : runs (.addsI64 0 5 1 2) (base .cc 0x7FFFFFFFFFFFFFFF 1 0 0) 0#64 (fun t => t.core.reg .cc 5) = 0x7FFFFFFFFFFFFFFF#64
    ∧ runs (.addsI64 0 5 1 2) (base .cc 0x8000000000000000 0xFFFFFFFFFFFFFFFF 0 0) 0#64 (fun t => t.core.reg .cc 5) = 0x8000000000000000#64 := by decide
theorem test_clz : runs (.clz 0 5 1) (base .cc 1 0 0 0) 0#64 (fun t => t.core.reg .cc 5) = 63#64
    ∧ runs (.clz 0 5 2) (base .cc 1 0 0 0) 0#64 (fun t => t.core.reg .cc 5) = 64#64 := by decide
theorem test_ctz : runs (.ctz 0 5 1) (base .cc 0x8000000000000000 0 0 0) 0#64 (fun t => t.core.reg .cc 5) = 63#64 := by decide
/-- The amount of a shift is six bits of its register (R89). -/
theorem test_sra_amount : runs (.sra 0 5 1 2) (base .cc 0x8000000000000000 127 0 0) 0#64 (fun t => t.core.reg .cc 5) = 0xFFFFFFFFFFFFFFFF#64 := by decide
theorem test_ror_zero : runs (.ror 0 5 1 2) (base .cc 0x123456789ABCDEF0 64 0 0) 0#64 (fun t => t.core.reg .cc 5) = 0x123456789ABCDEF0#64 := by decide
theorem test_rori_high : runs (.rori 0 5 1 3 1) (base .cc 0x1 0 0 0) 0#64 (fun t => t.core.reg .cc 5) = 0x20000000#64 := by decide
/-- A quotient by zero is all ones, and the remainder the dividend (R90). -/
theorem test_div_by_zero : runs (.divI64 0 5 1 2) (base .cc 7 0 0 0) 0#64 (fun t => t.core.reg .cc 5) = 0xFFFFFFFFFFFFFFFF#64
    ∧ runs (.remN64 0 5 1 2) (base .cc 7 0 0 0) 0#64 (fun t => t.core.reg .cc 5) = 7#64 := by decide
/-- The quotient that does not fit is the dividend, its remainder 0 (R90). -/
theorem test_div_overflow : runs (.divI64 0 5 1 2) (base .cc 0x8000000000000000 0xFFFFFFFFFFFFFFFF 0 0) 0#64 (fun t => t.core.reg .cc 5) = 0x8000000000000000#64
    ∧ runs (.remI64 0 5 1 2) (base .cc 0x8000000000000000 0xFFFFFFFFFFFFFFFF 0 0) 1#64 (fun t => t.core.reg .cc 5) = 0#64 := by decide
/-- Quotients are truncated (R90). -/
theorem test_div_truncates : runs (.divI64 0 5 1 2) (base .cc 0xFFFFFFFFFFFFFFF9 2 0 0) 0#64 (fun t => t.core.reg .cc 5) = 0xFFFFFFFFFFFFFFFD#64
    ∧ runs (.remI64 0 5 1 2) (base .cc 0xFFFFFFFFFFFFFFF9 2 0 0) 0#64 (fun t => t.core.reg .cc 5) = 0xFFFFFFFFFFFFFFFF#64 := by decide
theorem test_mulh : runs (.mulhI64 0 5 1 1) (base .cc 0xFFFFFFFFFFFFFFFF 0 0 0) 1#64 (fun t => t.core.reg .cc 5) = 0#64
    ∧ runs (.mulhN64 0 5 1 1) (base .cc 0xFFFFFFFFFFFFFFFF 0 0 0) 0#64 (fun t => t.core.reg .cc 5) = 0xFFFFFFFFFFFFFFFE#64 := by decide
theorem test_compare_signed : runs (.cmpLtI64 0 3 1 2) (base .cc 0xFFFFFFFFFFFFFFFF 1 0 0) false (fun t => t.core.guard 3) = true
    ∧ runs (.cmpLtN64 0 3 1 2) (base .cc 0xFFFFFFFFFFFFFFFF 1 0 0) true (fun t => t.core.guard 3) = false := by decide
/-- Guard 0 reads as true, and a write to it is discarded (R35). -/
theorem test_guard_zero : runs (.gclr 0 0) (base .cc 0 0 0 0) false (fun t => t.core.guard 0) = true
    ∧ runs (.gnot 0 1 0) (base .cc 0 0 0 0) true (fun t => t.core.guard 1) = false := by decide
theorem test_lih : runs (.lih 0 1 0xBEEF) (base .cc 0xDEAD 0 0 0) 0#64 (fun t => t.core.reg .cc 1) = 0xDEADBEEF#64 := by decide
theorem test_lea_accumulates : runs (.lea8 0 1 2 0x1FF) (base .cc 100 5 0 0) 0#64 (fun t => t.core.reg .cc 1) = 139#64 := by decide
/-- SEL moves under its guard; a false guard only advances (R39, R95). -/
theorem test_sel_guard : runs (.sel 0 0 0 1 2) (base .cc 1 2 0 0) 0#64 (fun t => t.core.reg .cc 1) = 2#64
    ∧ runs (.sel 0 0 1 1 2) (base .cc 1 2 0 0) 0#64 (fun t => t.core.reg .cc 1) = 1#64
    ∧ runs (.sel 0 0 1 1 2) (base .cc 1 2 0 0) 0#64 (fun t => t.core.pc) = 4#64 := by decide
/-- JAL links the next word and goes back by words (R97). -/
theorem test_jal : (let s := (base .cc 0 0 0 0).mapCore (fun c => { c with pc := 0x100#64 })
    runs (.jal 0 1 0x1FFFF) s (0#64, 0#64) (fun t => (t.core.pc, t.core.reg .cc 1))) = (0xFC#64, 0x104#64) := by decide
/-- JR to a misaligned address is F.ALIGN and writes nothing (R98). -/
theorem test_jr_misaligned : runs (.jr 0 1 2) (base .cc 7 0x102 0 0) (0, 0#64) (fun t => ((t.core.primary.map (·.code)).getD 0, t.core.reg .cc 1)) = (4, 7#64) := by decide
/-- EXT.I gives the upper bits of the next word's immediate (R47). -/
theorem test_extended_immediate :
    (match exec (.extI 0 ) (base .cc 0 0 0 0) with
     | .next t => runs (.addi 0 5 1 0x1FF) t 0#64 (fun t => t.core.reg .cc 5)
     | _ => 0#64) = 0x1FF#64 := by decide
theorem test_trap : runs (.trap 0 0x155) (base .cc 0 0 0 0) (0, 0) (fun t => (t.core.primary.map (fun r => (r.code, r.detail))).getD (0, 0)) = (0x20, 0x155) := by decide
theorem test_sysr_unassigned : runs (.sysr 0 1 0x3FF) (base .cc 7 0 0 0) (0, 0) (fun t => (t.core.primary.map (fun r => (r.code, r.detail))).getD (0, 0)) = (1, 8) := by decide

/-! ### Memory, engines and the other units -/

/-- The next state, or the state itself. -/
def next (i : Instr) (s : State) : State := runs i s s id

/-- A store of four bytes, little-endian, when it is performed (R3, R141). -/
theorem test_store_bytes : (let t := next (.storePerformed 0 0) (next (.stN32 0 0 0 1 1 2) (base .cc 0x1000 0xAABBCCDD 0 0))
    (t.core.cntSt, Tab.get t.mem 0x1004, Tab.get t.mem 0x1007, Tab.get t.mem 0x1008)) = (0, 0xDD#8, 0xAA#8, 0#8) := by decide
/-- A load of one byte, sign-extended, of what a store wrote (R140). -/
theorem test_load_extends : (let s := next (.storePerformed 0 0) (next (.stN32 0 0 0 1 1 2) (base .cc 0x1000 0xAABBCCDD 0 0))
    (next (.loadValueReturn 0 0) (next (.ldI8 0 5 1 6) s)).core.reg .cc 5) = 0xFFFFFFFFFFFFFFBB#64 := by decide
/-- A misaligned access is F.ALIGN with its address (R133). -/
theorem test_load_misaligned : (let t := next (.ldN16 0 5 1 0) (base .cc 0x1001 0 0 0)
    (t.core.primary.map (fun r => (r.code, r.addr)))) = some (0x04, 0x1001#64) := by decide
/-- AMO.CAS returns the old value and writes where it equals the expected one (R143). -/
theorem test_amo_cas : (let s := next (.storePerformed 0 0) (next (.stN64 0 0 0 0 1 2) (base .cc 0x1000 5 9 5))
    let t := next (.loadValueReturn 0 0) (next (.amoCas 0 0 0 4 1 3) s)
    (t.core.reg .cc 4, readLE t.mem 0x1000 8)) = (5#64, 9) := by decide
/-- The last arrival at a barrier flips its phase and reloads its counts (R166, R168). -/
theorem test_barrier_phase : (let s := next (.tbarInit 0 1 2) (base .cc 0x10000000 1 0 0)
    let t := next (.tbarArrive 0 4 1 0) s
    (t.core.reg .cc 4, runs (.tbarTest 0 5 1 0) t 9#64 (fun u => u.core.reg .cc 5))) = (0#64, 1#64) := by decide
/-- A command goes to its engine's queue with its operands (R105). -/
theorem test_eng_cmd : runs (.engCmd 0 1 1 2 37) (base .cc 10 11 0 0) (0#64, 0#64, 0#9)
    (fun t => ((t.core.me.cmdq.items.headD default).a, (t.core.me.cmdq.items.headD default).b, (t.core.me.cmdq.items.headD default).entry)) = (10#64, 11#64, 37#9) := by decide
/-- A LOOP with a count of 0 skips its body (R111). -/
theorem test_loop_skips : runs (.loopImm 0 0 0 3) (base .ae 0 0 0 0) 0 (fun t => t.core.ae.upc) = 20 := by decide
theorem test_loop_enters : runs (.loopImm 0 0 5 3) (base .ae 0 0 0 0) (0, 0#24, 0#16) (fun t => (t.core.ae.upc, (t.core.ae.loops.get 0).count, (t.core.ae.loops.get 0).stop)) = (4, 4#24, 16#16) := by decide
theorem test_argument : runs (.argWrite 0 1 8 2) (base .ae 0 0x40 0 0) (false, 0#16) (fun t => ((t.core.ae.loops.get 0).ls, (t.core.ae.latches.get 0).start)) = (true, 0x40#16) := by decide
theorem test_endr : (runs (.endr 0) (base .ae 0 0 0 0) (some default) (fun t => t.core.ae.run)).isNone = true := by decide
/-- RQ.DEQ gives the value and its source: 2 for the ME (R120). -/
theorem test_result_queue : (let s := next (.rqEnq 0 1) (base .me 77 0 0 0)
    runs (.rqDeq 0 5 6) { s with unit := .cc } (0#64, 0#64) (fun t => (t.core.reg .cc 5, t.core.reg .cc 6))) = (77#64, 2#64) := by decide
theorem test_engine_busy : runs (.engBusy 0 5) (next (.engCmd 0 3 1 2 0) (base .cc 0 0 0 0)) 0#64 (fun t => t.core.reg .cc 5) = 8#64 := by decide
theorem test_branch_outcome : runs (.bqEnq 0 0 1) (base .cc 5 0 0 0) [] (fun t => t.core.ae.bq.items) = [(true, 0#8)] := by decide
/-- The first hypothesis takes the identifier 1, at depth 1 (R303). -/
theorem test_hyp_open : runs (.hypOpen 0 5 0) (base .cc 0 0 0 0) (0#64, 0) (fun t => (t.core.reg .cc 5, (t.hyps.get 1).depth)) = (1#64, 1) := by decide
theorem test_hyp_confirm : runs (.hypOk 0 6 5) (next (.hypOpen 0 5 0) (base .cc 0 0 0 0)) (0#64, 1) (fun t => (t.core.reg .cc 6, (t.hyps.get 1).state)) = (1#64, 0) := by decide
theorem test_hyp_query_free : runs (.hypQuery 0 5 1) (base .cc 9 0 0 0) 1#64 (fun t => t.core.reg .cc 5) = 0#64 := by decide
theorem test_frame_begin : runs (.frameBegin 0 1) (base .cc 5 0 0 0) none (fun t => t.core.frameNext) = some 5#32 := by decide
theorem test_frame_begin_range : (runs (.frameBegin 0 1) (base .cc 0x100000000 0 0 0) none (fun t => t.core.primary)).map (·.code) = some 0x15 := by decide
/-- CD.SET writes dword 0 into bits 383:320 (R181). -/

theorem test_copy_descriptor : runs (.cdSet 0 2 1 0) (base .ae 5 0 0 0) [] (fun t => (List.range 4).map (fun k => (t.core.c.get 2).getLsbD (320 + k))) = [true, false, true, false] := by decide
theorem test_tile_descriptor : runs (.tdSet 0 2 1 3) (base .me 0x1234 0 0x5678 0) 0#128 (fun t => t.core.t.get 2) = (0x1234#64 ++ 0x5678#64) := by decide
/-- A tile command without a format word is F.FMTQ (R192). -/
theorem test_no_format : (runs (.accZero 0 1) (base .me 0 0 0 0) none (fun t => t.core.primary)).map (·.code) = some 0x07 := by decide
/-- One slot of the SRF, within a quota of none and of one (R230, R231). -/
theorem test_slot_quota : (let s := next (.swSet 0 0 1 2) (base .se 0x3000000000100000 0 0 0)
    let quota (n : Nat) : State := s.mapCore (fun c => { c with ctx := c.ctx.map (fun x => { x with srfQuota := n }) })
    ((next (.srfAlloc 0 0) (quota 0)).core.primary.map (·.code), (next (.srfAlloc 0 0) (quota 1)).core.slots.get 0)) = (some 0x12, .primary) := by decide
/-- Direction numbers select by the Gray code: with none loaded every point is 0 (R268). -/
theorem test_point : runs (.qrPt 0 5 1 2) (base .cc 3 0 0 0) 1#64 (fun t => t.core.reg .cc 5) = 0#64 := by decide
theorem test_draw_unconfigured : (runs (.smpDraw 0 1) (base .cc 0 0 0 0) none (fun t => t.core.primary)).map (·.code) = some 0x15 := by decide
theorem test_gtc : (match exec .gtcPeriodIncrement State.reset with | .next t => t.gtc | _ => 0#64) = 1#64 := by decide
theorem test_device_reset : (match exec .deviceReset { State.reset with svn := 3, gtc := 9#64 } with | .next t => (t.svn, t.gtc) | _ => (0, 0#64)) = (3, 0#64) := by decide

/-! ### Witnesses: for each statement with hypotheses, states and operands that meet them -/

/-- The word is ready in this state, and its guard holds: `issues`, as a Boolean. -/
def ok (s : State) (i : Instr) : Bool := s.ready i && s.guarded i

theorem issues_of_ok (s : State) (i : Instr) (h : ok s i = true) : issues s i := by
  simpa [ok, issues] using h

/-- The word does not decode. -/
def refuses (w : Nat) : Bool := match decodeRaw w with
  | .error _ => true
  | .ok _ => false

/-- A CC with small registers. -/
def cc : State := base .cc 1 2 3 4
/-- A state with the core changed. -/
def withCore (f : Core → Core) (s : State) : State := s.mapCore f

theorem witness_AluRegisterResults : [Instr.add 0 5 1 2, .sub 0 0 1 2, .minI64 0 5 1 2, .maxN64 0 5 1 2, .clz 0 5 1, .ctz 0 5 0, .popc 0 5 1,
    .addsI64 0 31 1 2].all (ok cc) = true ∧ refuses (wordR 0 0x04 5 1 3 12) = true ∧ refuses (wordR 0 0x04 5 1 3 127) = true := by decide
theorem witness_ImmediateAndShiftResults : [Instr.addi 0 5 1 0x100, .sltiu 0 5 1 0x1FF, .movi 0 5 0x8000, .lih 0 1 1, .lea8 0 1 2 3, .sll 0 5 1 2,
    .srai 0 5 1 31 1, .rori 0 5 1 0 0].all (ok cc) = true
    ∧ cc.pfx.extI = none ∧ (next (.extI 7) cc).pfx.extI = some 7#21 ∧ ok (next (.extI 7) cc) (.addi 0 5 1 0x1FF) = true := by decide
theorem witness_MultiplyDivideResults : [Instr.mul 0 5 1 2, .mulhI64 0 5 1 2, .mulhN64 0 5 1 2, .divI64 0 5 1 0, .remI64 0 5 1 2, .divN64 0 5 1 2,
    .remN64 0 5 1 2].all (ok cc) = true := by decide
theorem witness_CompareAndGuardResults : [Instr.cmpEq 0 7 1 2, .tst 0 0 1 2, .gand 0 1 0 7, .gnot 0 3 0, .gset 0 7].all (ok cc) = true
    ∧ refuses (wordR 0 9 8 1 1 0) = true ∧ refuses (wordR 0 9 1 1 1 4) = true := by decide
theorem witness_SelectAndJumpResults : [Instr.sel 0 0 0 1 2, .br 0 0 0 0x3FFFF, .jal 0 1 0x1FFFF, .jr 0 1 4].all (ok cc) = true
    ∧ (cc.r5 4#5).toNat % 4 = 0 ∧ canonical (cc.r5 4#5) = true ∧ (cc.r5 3#5).toNat % 4 ≠ 0
    ∧ canonical ((base .cc 0x8000000000000000 0 0 0).r5 1#5) = false ∧ ok (base .cc 0x8000000000000000 0 0 0) (.jr 0 5 1) = true := by decide
theorem witness_NopPrefixTrap : [Instr.nop 0, .trap 0 1].all (ok cc) = true ∧ encode (.stamp 7) = some 0x00400007 ∧ cc.active = true
    ∧ cc.midWord = false ∧ prefixOk cc.pfx 0x00400007 = true ∧ earlyFault (.stamp 7) cc = none := by decide
theorem witness_SystemRegisterAccess : [Instr.sysr 0 5 0, .sysw 0 4 1, .sysr 0 5 0x3FF, .sysw 0 0x3FF 1].all (ok cc) = true
    ∧ (cc.sysreg 0).isSome = true ∧ (cc.sysreg 4).isSome = true ∧ cc.sysreg 0x3FF = none := by decide
theorem witness_SystemRegisterValues : ∃ x, cc.core.ctx = some x ∧ x.tenant < 2 ^ 12 := ⟨placedContext, by decide, by decide⟩

/-- A full queue of 16. -/
def full16 {α : Type} [Inhabited α] (n : Nat) : Queue α := ⟨0, List.replicate n default⟩

theorem witness_QueuePushes : ok cc (.engCmd 0 1 1 2 511) = true ∧ (cc.core.eng .me).cmdq.items.length < 16
    ∧ (let s := withCore (fun c => { c with me := { c.me with cmdq := full16 16 }, ae := { c.ae with bq := full16 8 }, fmtq := full16 16, rq := full16 16 }) cc
       ok s (.engCmd 0 1 1 2 0) = true ∧ ok s (.engCmdReloc 0 1 2 0) = true ∧ ok s (.bqEnq 0 0 1) = true ∧ ok s (.fmtEnq 0 1) = true
        ∧ (s.core.eng .me).cmdq.items.length ≥ 16 ∧ (s.core.eng .ae).bq.items.length ≥ 8)
    ∧ ok cc (.engCmdReloc 0 1 2 0) = true ∧ ok cc (.bqEnq 0 3 1) = true ∧ ok cc (.fmtEnq 0 1) = true ∧ ok (base .ae 0 0 0 0) (.rqEnq 0 1) = true := by decide
theorem witness_QueuePops : (let s := withCore (fun c => { c with rq := ⟨0, [⟨some 5#64, 1, 0#8⟩]⟩ }) cc
      ok s (.rqDeq 0 5 6) = true ∧ s.core.gated (codeEng 1) 9 (s.core.rq.items.filter (fun y => y.src == 1)).length = false)
    ∧ ok cc (.rqDeq 0 5 6) = true ∧ cc.core.rq.items = []
    ∧ (let s := withCore (fun c => { c with ae := { c.ae with bq := ⟨0, [(true, 0#8)]⟩ } }) (base .ae 0 0 0 0)
       ok s (.bqBr 0 0x3FFF) = true ∧ ok s (.bqBrn 0 0) = true ∧ s.core.gated .cc 4 1 = false ∧ s.immS (0x3FFF : BitVec 15) = 0x3FFF)
    ∧ ok (base .ae 0 0 0 0) (.bqBr 0 0) = true ∧ ok (base .ae 0 0 0 0) (.bqBr 0 0x7FFF) = true := by decide
theorem witness_ArgumentItems : [Instr.arg 0 5 0, .arg 0 5 15, .argWrite 0 5 4 1, .argWrite 0 5 15 4, .argWrite 0 5 8 1].all (ok (base .se 1 2 3 4)) = true
    ∧ (base .se 1 2 3 4).r5 4#5 = 4#64 := by decide
theorem witness_LoopEntry : [Instr.loopImm 0 0 0 3, .loopImm 0 3 0xFFF 127, .loopReg 0 1 2 5].all (ok (base .ae 1 2 3 4)) = true
    ∧ ok (base .ae 0x1000000 0 0 0) (.loopReg 0 1 1 5) = true
    ∧ ok (withCore (fun c => { c with ae := { c.ae with loops := c.ae.loops.set 0 ⟨true, false, false, 1, 0, 64⟩ } }) (base .ae 1 2 3 4)) (.loopImm 0 0 1 1) = true := by decide
theorem witness_WaitsAndBusy : ok cc (.engFence 0 15) = true ∧ (takeRing (.engFence 0 15) cc).engBusy .ae = false
    ∧ (let s := next (.engCmd 0 3 1 2 0) cc
       ok s (.engFence 0 8) = true ∧ (takeRing (.engFence 0 8) s).engBusy .ve = true)
    ∧ ok cc (.waitc 0 0 0 15 0) = true ∧ ok (withCore (fun c => { c with cntCp := 15 }) cc) (.waitc 0 0 0 14 0) = true ∧ ok cc (.engBusy 0 5) = true := by decide
theorem witness_RoutineTakeAndEnd :
    (let s := withCore (fun c => { c with se := { c.se with run := none, rtab := c.se.rtab.set 5 0x80000040#32 } }) (next (.engCmd 0 2 1 2 5) cc)
     s.core.mode = .running ∧ s.core.relocs = [] ∧ s.core.marks = [] ∧ s.core.se.cmdq.items.length = 1 ∧ s.core.gated .cc (engIx .se) 1 = false
      ∧ ((s.core.eng .se).rtab.get 5).getLsbD 31 = true)
    ∧ ok (base .ae 0 0 0 0) (.endr 0) = true ∧ (base .me 0 0 0 0).core.meOwn = none ∧ ok (base .me 0 0 0 0) (.endr 0) = true ∧ ok (base .ve 0 0 0 0) (.endr 0) = true
    ∧ (stepAfter .ve (takeRing (.endr 0) (base .ve 0 0 0 0))).core.vpend = []
    ∧ (let s := withCore (fun c => { c with vpend := [{ (default : VWrite) with left := 5, sf := true }] }) (base .ve 0 0 0 0)
       ok s (.endr 0) = true ∧ (stepAfter .ve (takeRing (.endr 0) s)).core.vpend ≠ []) := by decide
theorem witness_RegisterAndGuardWrites : (3 : Nat) < 8 ∧ (0 : Nat) < 8 ∧ (0 : Nat) ≠ 3 ∧ Sqr.ae ≠ cc.unit ∧ (1 : Nat) ≠ (5 : BitVec 5).toNat := by decide

/-- The answer is a value. -/
def isOk {ε α : Type} (r : Except ε α) : Bool := match r with
  | .ok _ => true
  | .error _ => false

/-- The four cases of an access at register 1 of these states: non-canonical, misaligned, not mapped, mapped. -/
def addressCases (i : Instr) (acc : AccKind) (size : Nat) (prefixed : State → State := id) : Bool :=
  let bad := prefixed (base .cc 0x8000000000000000 2 3 4)
  let odd := prefixed (base .cc 0x1001 2 3 4)
  let unmapped := prefixed (base .cc 0x40000000 2 3 4)
  let good := prefixed (base .cc 0x1000 2 3 4)
  [bad, odd, unmapped, good].all (fun s => ok s i) && !canonical (bad.r5 1#5) && canonical (odd.r5 1#5)
    && (size == 1 || decide ((odd.r5 1#5).toNat % size ≠ 0)) && !isOk (translate (takeRing i unmapped) 1 0x40000000#64 acc)
    && isOk (translate (takeRing i good) 1 0x1000#64 acc) && good.core.tenant == 1 && decide (good.hyp = 0#8)

/-- A state under hypothesis 1: the CC, and the command that an SE runs. -/
def underHyp (s : State) : State :=
  let s := { s with hyps := s.hyps.set 1 ⟨1, 0#8, 1, 1, 0#64, 0, [], 0#8, 0#8⟩ }
  withCore (fun c => { c with hyp := 1#8, hypDepth := 1#2, se := { c.se with run := c.se.run.map (fun r => { r with hyp := 1#8 }) } }) s
/-- Its counters at their top. -/
def counted (s : State) : State := withCore (fun c => { c with cntLd := 65535, cntSt := 65535 }) s

theorem witness_LoadsAndStores : addressCases (.ldI8 0 5 1 0) 0 1 = true ∧ addressCases (.ldI16 0 5 1 0) 0 2 = true
    ∧ addressCases (.ldN64 0 5 1 0) 0 8 = true ∧ addressCases (.stN32 0 0 0 0 1 2) 1 4 = true
    ∧ (let s := counted (base .cc 0x1000 2 3 4)
       ok s (.ldN64 0 5 1 0) = true ∧ s.noRoom (s.access (.load false) 8 5 0#64) = true) := by decide
theorem witness_AtomicsAndReductions : addressCases (.amoSwap 0 0 0 4 1 3) 3 8 = true ∧ addressCases (.amoCasPromote 0 0 0 4 1 3) 3 8 (next (.extM 1 4 3 0)) = true
    ∧ addressCases (.amoAdd 0 0 0 4 1 3) 3 4 (next (.extM 1 1 1 1)) = true
    ∧ addressCases (.redAdd 0 0 0 1 2) 3 8 = true ∧ addressCases (.redFaddF32 0 0 0 1 2) 3 4 = true
    ∧ (let s := withCore (fun c => { c with ctx := c.ctx.map (fun x => { x with calm := true }) }) (base .cc 0x1000 2 3 4)
       s.core.calm = true ∧ s.ready (.amoAdd 0 0 0 4 1 3) = true)
    ∧ ok (underHyp (base .cc 0x1000 2 3 4)) (.amoAdd 0 0 0 4 1 3) = true ∧ (underHyp cc).hyp ≠ 0#8 := by decide
theorem witness_AcquireReleaseFence : addressCases (.ldAcq 0 5 1 4) 0 8 = true ∧ addressCases (.stRel 0 0 0 3 1 2) 1 8 = true
    ∧ ok cc (.fence 0 4) = true ∧ cc.core.vpend = [] ∧ cc.core.pend = [] ∧ cc.waiting = [] ∧ cc.dirtyRemote = [] := by decide
theorem witness_BufferAccesses : [Instr.bldN8 0 5 1 0x1FF, .bstN64 0 5 1 0].all (ok (base .ae 0x1000 2 3 4)) = true
    ∧ bufRight .ae 1 true = true ∧ spaceSize 1 = 0x100000
    ∧ (let s := base .ae 0x100FFFF8 2 3 4
       ok s (.bstN64 0 5 1 0) = true ∧ (s.r5 1#5).toNat / 2 ^ 28 % 16 = 1 ∧ (s.r5 1#5).toNat % 2 ^ 28 + 8 = spaceSize 1 ∧ s.core.bufMark 1 0xFFFF8 8 = none)
    ∧ (let s := withCore (fun c => { c with win := c.win.set 0 0x800FF00000002000#64 }) (base .ae 0x80000000 2 3 4)
       ok s (.bstN64 0 5 1 0) = true ∧ isOk (checkWin s.core 0 0 8 8 0#8 0x80000000#64) = true ∧ s.core.out 0 < (s.core.win.get 0).toNat / 2 ^ 44 % 256) := by decide
theorem witness_TranslationFrame : isOk (translate cc 1 0x1000#64 0) = true ∧ isOk (translate cc 1 0x1FFFFFF8#64 3) = true
    ∧ isOk (translate cc 1 0x20000000#64 0) = false := by decide

/-- The first access in flight is plain, in this device's memory at physical address 0x1000, and may be performed. -/
def performs (s : State) (k : Nat) : Bool :=
  decide (s.core.mode = .running) && s.canPerform k && match s.core.pend[k]? with
  | some a => decide (a.place = .mem 0x1000 0x1000 ∧ 1 ≤ a.size ∧ a.hyp = 0#8 ∧ ¬(a.scope = 4 ∧ (a.acq = true ∨ a.rel = true)))
      && s.isLocal 0x1000 && (s.memMark 0x1000 a.size).isNone && !s.mustSend a
  | none => false

theorem witness_ReturningAccesses : performs (next (.ldI8 0 5 1 0) (base .cc 0x1000 2 3 4)) 0 = true
    ∧ performs (next (.amoMax 0 0 0 4 1 3) (base .cc 0x1000 2 3 4)) 0 = true
    ∧ performs (next (.amoCas 0 0 0 0 1 3) (next (.extM 1 3 3 1) (base .cc 0x1000 2 3 4))) 0 = true := by decide
theorem witness_StoresPerformed : performs (next (.stN16 0 0 0 0 1 2) (base .cc 0x1000 2 3 4)) 0 = true
    ∧ performs (next (.redFaddF32 0 0 0 1 2) (base .cc 0x1000 2 3 4)) 0 = true
    ∧ performs (next (.redMin 0 0 0 1 2) (base .cc 0x1000 2 3 4)) 0 = true := by decide

/-- The word finds its barrier here, and nothing is outstanding. -/
def finds (s : State) (i : Instr) (remote : Bool := false) : Bool :=
  ok s i && decide (s.core.pend = [] ∧ s.waiting = [] ∧ s.dirtyRemote = [] ∧ s.core.vpend = [] ∧ s.marked = [] ∧ s.core.marks = []) &&
    match barPlace (takeRing i s) s.unit (s.r5 1#5) (decide (i = .tbarArrive 0 5 1 2)) with
    | .ok (p, _) => p.remote s == remote
    | .error _ => false

theorem witness_BarrierWords : (let s := base .cc 0x10000000 1 0 0
      [Instr.tbarInit 0 1 2, .tbarArrive 0 5 1 2, .tbarExpect 0 5 1 2, .tbarWait 0 1 2, .tbarWait 0 1 0, .tbarTest 0 5 1 2].all (finds s) = true)
    ∧ (let s := base .cc 0x10000000 0x100000000000000 0 0
       [Instr.tbarInit 0 1 2, .tbarArrive 0 5 1 2, .tbarExpect 0 5 1 2].all (finds s) = true) := by decide

theorem witness_StepRunsDecodedWord :
    (let s := State.reset.withFetchWord 32 0x02D4000A
     s.noUpsets = true ∧ s.agenda = [] ∧ s.dues = [] ∧ s.turn = .seq .cc ∧ s.core.mode = .running ∧ s.core.orphanPending = false ∧ s.core.underway = false
      ∧ State.fetchHeld { s with turn := turnAfter .cc } = false
      ∧ canonical s.core.pc = true ∧ s.core.pc.toNat % 4 = 0
      ∧ (match translate { s with turn := turnAfter .cc } s.core.tenant s.core.pc 2 with
         | .ok (pa, _, t) => t.isLocal pa && (t.memMark pa 4).isNone && (Tab.find? t.core.icache.words (pa / 4)).isNone && (match decodeIn .cc {} (readLE t.mem pa 4) with
           | .ok i => i == .movi 0 10 10
           | .error _ => false)
         | .error _ => false) = true)
    ∧ (let s := State.reset.withFetchWord 32 0x06800000
       s.turn = .seq .ae ∧ s.core.ae.run.isSome = true ∧ s.core.ae.ending = none ∧ s.core.markHit .imem 0 4 = none
        ∧ isOk (decodeIn .ae {} (s.core.ae.imem.get 0).toNat) = true)
    ∧ isOk (decodeIn .ae {} ((State.reset.withFetchWord 32 0x06800000).core.ae.imem.get 1).toNat) = true
    ∧ isOk (decodeIn .ae {} 0x01000010) = false
    ∧ (let s := withCore (fun c => { c with underway := true, curWord := c.curWord.set 0 0x02D4000A#32 }) State.reset
       s.core.underway = true ∧ isOk (decodeIn .cc (s.core.pfx.get 0) (s.core.curWord.get 0).toNat) = true)
    ∧ (let w := 0xBA0000
       majorOf w = 2 ∧ encode (.extM 1 5 0 0) = some w ∧ (match decodeIn .ae {} w with
         | .error (.step e) => e == 6
         | _ => false) = true)
    ∧ encode .gtcPeriodIncrement = none := by decide
theorem witness_DecodeEncodeRoundTrip : (Instr.vadd 5 0 7 15 1 0 1 3).wf = true ∧ encode (.vadd 5 0 7 15 1 0 1 3) = some 0x5A001FEB
    ∧ isOk (decodeRaw 0x5A001FEB) = true := by decide
theorem witness_GuardFalseOnlyAdvances : cc.ready (.sel 0 0 1 1 2) = true ∧ cc.guarded (.sel 0 0 1 1 2) = false
    ∧ cc.ready (.amoSwap 0 3 0 4 1 3) = true ∧ cc.guarded (.amoSwap 0 3 0 4 1 3) = false ∧ cc.core.calm = false := by decide
theorem witness_StreamAndFieldFaults : cc.active = true ∧ cc.midWord = false ∧ cc.resumes (.endr 0) = false ∧ majorIn (majorOf 0x06800000) .cc = false ∧ encode (.endr 0) = some 0x06800000
    ∧ (Instr.gset 0 8).wf = false ∧ (encode (.gset 0 8)).isSome = true
    ∧ (base .ae 0 0 0 0).active = true ∧ streamFieldsOk (.movi 0 16 0) .ae = false := by decide

/-- A Calm context at a stamped group whose count is 5, with the frame counter at `n`. -/
def stamped (run : Bool) (n : BitVec 32) : State :=
  next (.stamp 5) (withCore (fun c => { c with frameRun := run, frameCount := n, ctx := c.ctx.map (fun x => { x with calm := true }) }) cc)

theorem witness_StampRules : (let i := Instr.add 0 5 1 2
      encode i = some 0x010A1100 ∧ [stamped false 0, stamped true 4, stamped true 5, stamped true 6].all (fun s => s.active && !s.midWord && !s.resumes i && (earlyFault i s).isNone
        && s.core.calm && s.pfx.stamp == some 5#22 && !s.pfx.met && !s.core.exempt.get 0) = true
      ∧ (withCore (fun c => { c with divs := c.divs.set 0 [⟨3, 1, true⟩] }) (stamped true 5)).dividing i = true
      ∧ (withCore (fun c => { c with pend := [{ (default : Access) with unit := .cc, kind := .load false, rd := 1 }] }) (stamped true 5)).interlocked i = true) := by decide
theorem witness_RingTokens : (let s := cc
      s.active = true ∧ s.midWord = false ∧ earlyFault (.nop 15) s = none ∧ stampState s = .free ∧ s.dividing (.nop 15) = false ∧ s.core.pend = [] ∧ s.waiting = [] ∧ s.core.vpend = [] ∧ s.core.vretire = []
      ∧ (s.core.tokens.get 4).toks = [] ∧ (withCore (fun c => { c with tokens := c.tokens.set 4 ⟨[1#8], 0⟩ }) s).core.tokens.get 4 = ⟨[1#8], 0⟩)
    ∧ (let s := withCore (fun c => { c with tokens := (c.tokens.set 9 ⟨List.replicate 31 0#8, 1⟩) }) cc
       earlyFault (.nop 2) s = none ∧ (s.core.tokens.get 9).toks.length + (s.core.tokens.get 9).reserved = 32) := by decide

/-- An AE at micro-PC 64 with loops 0 and 1 active, both ending there. -/
def looping (c0 c1 : BitVec 24) (order : List Nat) : State :=
  let l : Tab LoopReg := (Tab.set [] 0 ⟨true, false, false, c0, 32, 64⟩).set 1 ⟨true, false, false, c1, 16, 64⟩
  withCore (fun c => { c with ae := { c.ae with upc := 64, loopOrder := order, loops := l } }) (base .ae 0 0 0 0)

theorem witness_LoopIteration : [looping 0 0 [], looping 3 0 [0], looping 0 0 [0], looping 0 3 [0, 1]].all (fun s => ok s (.nop 0)) = true
    ∧ (looping 3 0 [0]).baseAddr = 64 ∧ ((looping 0 3 [0, 1]).core.ae.loops.get 1).count ≠ 0#24 := by decide

/-! ### Relocated commands, copies and tiles -/

/-- Core 0 runs an ME routine with a relocatable command behind it; core 1 is idle under the same tenant. -/
def relocating : State :=
  let rt : Tab (BitVec 32) := Tab.set [] 7 0x80000080#32
  let cmd : Command := { (default : Command) with a := 11#64, b := 12#64, entry := 7#9, reloc := true }
  let s := withCore (fun c => { c with me := { c.me with cmdq := ⟨0, [cmd]⟩ } }) (base .me 0 0 0 0)
  let peer : Core := { s.core with me := { (default : Engine) with rtab := rt } }
  { s with others := s.others.put 1 peer }

theorem witness_RelocatedPull : (relocating.coreAt 0).mode = .running ∧ (relocating.coreAt 0).me.run.isSome = true ∧ (relocating.coreAt 0).me.cmdq.items.length = 1
    ∧ (relocating.coreAt 0).pend = [] ∧ (∀ k < 8, (relocating.coreAt k).meOwn = none) ∧ canPull relocating 0 1 = true
    ∧ (∀ m, m < 1 → canPull relocating 0 m = false) ∧ ((relocating.coreAt 1).me.rtab.get 7).getLsbD 31 = true := by decide

/-- A copy descriptor without strides. -/
def copyDesc (src dst bar aux : Word) (rows : BitVec 16) (len : BitVec 32) : BitVec 384 := src ++ dst ++ bar ++ aux ++ rows ++ 0#16 ++ len ++ 0#64

/-- An AE with descriptor 2 set. -/
def copying (d : BitVec 384) : State := withCore (fun c => { c with c := c.c.set 2 d }) (base .ae 0 9 0 0)
/-- In Calm mode. -/
def calm (s : State) : State := withCore (fun c => { c with ctx := c.ctx.map (fun x => { x with calm := true }) }) s
/-- With this many copies in flight or in the timed buffer. -/
def crowded (n : Nat) (timed : Bool) (s : State) : State := withCore (fun c => { c with copies := List.replicate n { (default : Copy) with timed := timed } }) s

theorem witness_CopyWords :
    (let s := copying (copyDesc 0x10000000 0x00000000 0 0 2 64)
     [Instr.cpy 0 2, .cpyT 0 2 3 4].all (ok s) = true ∧ s.core.cntCp < 65535 ∧ isOk (copyChecks (takeRing (.cpy 0 2) s) .cpy (s.core.c.get 2)) = true
      ∧ ok (calm s) (.cpy 0 2) = true ∧ (calm s).core.calm = true ∧ ok (crowded 16 false s) (.cpy 0 2) = true ∧ ok (crowded 64 true s) (.cpyT 0 2 3 4) = true
      ∧ [Instr.pref 0 2, .cdSet 0 2 1 5].all (ok s) = true)
    ∧ (let s := copying (copyDesc 0x10000000 0x10000100 0 0x10000200 1 64)
       [Instr.gath 0 2, .gathT 0 2 3 4, .scat 0 2, .scatT 0 2 3 4].all (ok s) = true ∧ isOk (copyChecks (takeRing (.gath 0 2) s) .gath (s.core.c.get 2)) = true)
    ∧ (let s := copying (copyDesc 0x100000000 0x10000100 0 3 1 64)
       [Instr.mcast 0 2, .mcastT 0 2 3 4].all (ok s) = true ∧ isOk (copyChecks (takeRing (.mcast 0 2) s) .mcast (s.core.c.get 2)) = true)
    ∧ (let s := copying (copyDesc 0x10000000 0 0 0 1 64)
       [Instr.sclLd 0 2, .sclLdT 0 2 3 4].all (ok s) = true ∧ isOk (copyChecks (takeRing (.sclLd 0 2) s) .sclLd (s.core.c.get 2)) = true)
    ∧ isOk (copyChecks (copying (copyDesc 0x00000000 0 0 0 1 64)) .cpy (copyDesc 0x00000000 0 0 0 1 64)) = false := by decide
theorem witness_CopyEngineEvents :
    (let s := next (.cpy 0 2) (copying (copyDesc 0x10000000 0x00000000 0 0 2 64))
     s.core.mode = .running ∧ s.core.copies.length = 1 ∧ s.core.pend = [] ∧ s.core.marks = []
      ∧ (match s.core.copies with
         | [cp] => cp.kind == .cpy && !cp.timed && cp.fetch == 0 && cp.got.isNone && cp.idx.isNone && cp.off == 0 && decide (cp.row < cdRows cp.desc) && cp.mayStart s.core && cp.acked == []
            && decide ((cdSrc cp.desc).toNat < 2 ^ 32 ∧ (cdDst cp.desc).toNat < 2 ^ 32)
            && cdBar cp.desc == 0#64 && copyRowSrc .cpy cp.desc 0 cp.row == some 0x10000000#64 && copyRowDst .cpy cp.desc 0 cp.row == some 0#64 && cdLen cp.desc == 64
         | _ => false) = true)
    ∧ (let s := next (.sclLd 0 2) (copying (copyDesc 0x10000000 0 0 0 1 64))
       s.core.mode = .running ∧ s.core.sclq.items.length < 64
        ∧ (match s.core.copies with
           | [cp] => cp.kind == .sclLd && !cp.timed && cp.fetch == 0 && cp.got.isNone && decide (cp.row < cdRows cp.desc) && cp.mayStart s.core && decide ((cdSrc cp.desc).toNat < 2 ^ 32) && cdDst cp.desc == 0#64
              && rowAddr (cdSrc cp.desc) (cdSstr cp.desc) cp.row == some 0x10000000#64
           | _ => false) = true) := by decide

/-- An ME with a format word queued: binary16-class operands into binary32 accumulators. -/
def tiling (f : Word) : State :=
  let s := base .me 0 0 0 0
  withCore (fun c => { c with fmtq := ⟨0, [(f, 0#8)]⟩, t := ((c.t.set 1 (0x20000000#32 ++ 0#96)).set 2 (0x10000000#32 ++ 0x80#32 ++ 0#64)).set 3 (0x00000000#32 ++ 0x80#32 ++ 0#64) }) s

theorem witness_MatrixWords : (let s := tiling 0x2200000000000000
      [Instr.mm 0 1 2 3 0 1 0 0, .accZero 0 1, .accRd 0 2 1, .accWr 0 1 2, .tdSet 0 1 1 2].all (ok s) = true
      ∧ s.inReloc = false ∧ s.core.meOwn = none ∧ s.core.tileReplay = none ∧ s.core.pend = [] ∧ s.tilesInFlight < 4 ∧ s.core.cntTl < 65535 ∧ s.indexWaits (.mmG 0 1 2 3 0 0 0) s.core = false
      ∧ [Instr.mm 0 1 2 3 0 1 0 0, .accZero 0 1, .accRd 0 2 1, .accWr 0 1 2].all (fun i => isOk (tileChecks s.core (s.core.afterTiles s.core.latch s.lnum) i 0x2200000000000000 false s.core.t)
          && !s.indexWaits i s.core && scalesNeeded i 0x2200000000000000 0 == 0) = true
      ∧ isOk (tileChecks s.core (s.core.afterTiles s.core.latch s.lnum) (.accZero 0 2) 0x2200000000000000 false s.core.t) = false)
    ∧ (let s := tiling 0x2212000000000000
       ok s (.accRd 0 2 1) = true ∧ 0 < scalesNeeded (.accRd 0 2 1) 0x2212000000000000 0 ∧ s.core.sclq.items = [] ∧ s.core.copies = []) := by decide
theorem witness_TileCommits : [Instr.accZero 0 1, .accWr 0 1 2, .mm 0 1 2 3 0 0 0 0, .accRd 0 2 1].all (fun i =>
      match (next i (tiling 0x2200000000000000)).core.tiles with
      | [q] => q.ready && (q.mark (tiling 0x2200000000000000).core).isNone
      | _ => false) = true := by decide

/-! ### The vector engine -/

/-- A region of `n` elements in one line. -/
def region (b : BitVec 32) (n : BitVec 16) (fmt : BitVec 4) : BitVec 128 := b ++ 1#16 ++ n ++ fmt ++ 0#60

/-- A VE with regions 1 to 3 of `n` elements of format `fmt` in AB, and region 4 of one element. -/
def vector (n : BitVec 16) (fmt : BitVec 4) : State :=
  let d : Tab (BitVec 128) := (((Tab.set [] 1 (region 0x10000000 n fmt)).set 2 (region 0x10001000 n fmt)).set 3 (region 0x10002000 n fmt)).set 4 (region 0x10003000 1 fmt)
  withCore (fun c => { c with d := d, ab := writeLE (writeLE (writeLE (writeLE c.ab 0x1000 4 0x3F800000) 0x1004 4 0xC0000000) 0x2000 4 0x40400000) 0x2004 4 0x3F000000 }) (base .ve 0 0 0 0)

/-- Every region of these words passes its checks. -/
def regionsPass (s : State) (ct n : Nat) (dst : Nat) (src : List Nat) (old exact : Bool) : Bool :=
  (checkRegion s.core (regionOf (s.core.d.get dst)) true old ct n s.hyp).isNone
    && src.all (fun x => (checkRegion s.core (regionOf (s.core.d.get x)) false (!exact) ct n s.hyp).isNone)

theorem witness_VectorElementWords :
    (let s := vector 2 1
     s.core.chain = none ∧ s.core.vpend = [] ∧ s.core.vretire = [] ∧ (regionOf (s.core.d.get 1)).count = 2
      ∧ [Instr.vadd 0 1 2 3 0 0 0 0, .vmul 0 1 2 3 0 0 0 0, .vdiv 0 1 2 3 0 0 0 0, .vabs 0 1 2 0 0 0, .vcvt 0 1 2 0, .vfma 0 1 2 3 0 0 0,
          .vcmpEq 0 1 2 3 0 0 0 0, .vexp2 0 1 2 0 0, .vtanh 0 1 2 0 0, .rgnSet 0 1 2 3].all (ok s) = true
      ∧ regionsPass s 0 2 1 [2, 3] true false = true ∧ regionsPass s 0 2 1 [2] false true = true
      ∧ 2 ≤ rateOf ([1, 2, 3].map (fun k => regionOf (s.core.d.get k))) false ∧ (checkRegion s.core (regionOf (s.core.d.get 0)) true false 0 2 s.hyp).isSome = true
      ∧ ok s (.vadd 0 0 2 3 0 0 0 0) = true ∧ (regionOf ((vector 0 1).core.d.get 1)).count = 0 ∧ ok (vector 0 1) (.vadd 0 1 2 3 0 0 0 0) = true)
    ∧ (let s := vector 2 9
       [Instr.vand 0 1 2 3 0 0 0 2, .vshl 0 1 2 3 0 0 0 3, .vnot 0 1 2 0 0 2, .vdiv 0 1 2 3 0 0 0 2, .vcmpLt 0 1 2 3 0 0 0 3].all (ok s) = true
        ∧ regionsPass s 2 2 1 [2, 3] false false = true) := by decide
theorem witness_VectorReductions : (let s := vector 2 1
      s.core.chain = none ∧ s.core.vpend = [] ∧ s.core.vretire = [] ∧ [Instr.vrsum 0 4 2 0, .vrmax 0 4 2 0, .vrmin 0 4 2 0, .vrsumsq 0 4 2 1].all (ok s) = true
      ∧ (checkRegion s.core (regionOf (s.core.d.get 4)) true false 0 1 s.hyp).isNone = true ∧ (checkRegion s.core (regionOf (s.core.d.get 2)) false true 0 2 s.hyp).isNone = true
      ∧ 2 ≤ rateOf ([4, 2].map (fun k => regionOf (s.core.d.get k))) false)
    ∧ (let s := withCore (fun c => { c with d := c.d.set 4 (region 0x10003000 1 1) }) (vector 2 9)
       ok s (.vrargmax 0 4 2 2) = true ∧ intFmt (regionOf (s.core.d.get 4)).fmt = false
        ∧ (checkRegion s.core (regionOf (s.core.d.get 4)) true false 2 1 s.hyp).isNone = true ∧ (checkRegion s.core (regionOf (s.core.d.get 2)) false true 2 2 s.hyp).isNone = true)
    ∧ ok (vector 0 1) (.vrsum 0 4 2 0) = true ∧ (regionOf ((vector 0 1).core.d.get 2)).count = 0 := by decide

/-- A VE that collects a chain headed by VCH.BEGIN over region 4. -/
def chained (slots : List Instr) : State := withCore (fun c => { c with chain := some ⟨.vchBegin 0 4, 0, slots⟩ }) (vector 1 1)

theorem witness_ChainWords : ok (vector 2 1) (.vchBegin 0 4) = true ∧ ok (vector 2 1) (.vdrain 0 9 0) = true
    ∧ [Instr.vadd 0 1 2 3 0 0 0 0, .vfma 0 1 2 3 0 0 0, .vmov 0 1 2 0 0 0, .vexp2 0 1 2 0 0, .vdefer 0 9 0 0, .vchEnd 0].all (ok (chained [])) = true
    ∧ (chained []).core.veprog = 0#64 ∧ (chained []).core.vpend = [] ∧ (regionOf ((chained []).core.d.get 4)).count = 1
    ∧ ok (chained [.vmov 0 1 2 0 0 0]) (.vchEnd 0) = true ∧ regionsPass (chained []) 0 1 1 [2] false false = true
    ∧ (let s := withCore (fun c => { c with d := c.d.set 4 (region 0x10003000 0 1) }) (chained [])
       ok s (.vchEnd 0) = true ∧ (regionOf (s.core.d.get 4)).count = 0)
    ∧ (let s := chained [.vmov 0 1 2 0 0 0, .vadd 0 1 2 3 1 0 0 0]
       let ch := s.core.chain.getD default
       let c := (takeRing (.vchEnd 0) s).core
       ok s (.vchEnd 0) = true ∧ s.core.vretire = [] ∧ c.waitsReady .ve ch.waits = true ∧ (c.reserveSignals .ve 0).signalsReady .ve ch.waits = true
        ∧ (chainRun (takeRing (.vchEnd 0) s) ch).fault.isNone = true ∧ (chainRun (takeRing (.vchEnd 0) s) ch).done ≠ 0
        ∧ (ch.slots.filterMap (fun i => slotOf i s.core.d)).all (fun sl => !sl.d.noRoom s.core) = true)
    ∧ (let s := withCore (fun c => { c with chain := some ⟨.vdrain 0 4 0, 0, []⟩, ab := [] }) (vector 1 1)
       let q := regionOf (s.core.d.get 4)
       ok s (.vchEnd 0) = true ∧ queueFault q = none ∧ s.core.marks = [] ∧ readLE s.core.ab q.off 4 = 0 ∧ s.core.veprog = 0#64) := by decide
theorem witness_ChainStructure : (vector 2 1).active = true ∧ decodeCheck (.vdefer 0 9 0 0) .ve (vector 2 1).pfx = none ∧ isDefer (.vdefer 0 9 0 0) = true
    ∧ decodeCheck (.vadd 0 1 2 3 1 0 0 0) .ve (vector 2 1).pfx = none ∧ encode (.vadd 0 1 2 3 1 0 0 0) = some 0x0A0048E0
    ∧ decodeCheck (.endr 0) .ve (chained []).pfx = none ∧ encode (.endr 0) = some 0x06800000 ∧ (chained []).active = true
    ∧ decodeCheck (.vadd 8 1 2 3 0 0 0 0) .ve (chained []).pfx = none ∧ (chained (List.replicate 8 (.nop 0))).core.chain.isSome = true := by decide
theorem witness_PendingWritesLand :
    (let w : VWrite := { (default : VWrite) with addr := 0x10000010, bytes := [1#8], left := 1, sf := true }
     let s (l : List VWrite) : State := withCore (fun c => { c with vpend := l, ve := { c.ve with ending := some 0 } }) (vector 2 1)
     (s [w]).core.mode = .running ∧ (s [w]).core.vretire = [] ∧ bufSpace w.addr < 3 ∧ (∀ v ∈ [w], v.left = 1)
      ∧ ¬(∀ v ∈ [w, { w with left := 4 }], v.left = 1) ∧ (s [w, { w with left := 4 }]).core.ve.ending = some 0) := by decide

/-! ### The state register file and scans -/

/-- A state window: base, slots, elements, log of the chunk, format, positions, strides in 16 bytes, planes. -/
def window (b : BitVec 32) (slots elems : BitVec 12) (clog fmt : BitVec 4) (pos pstr plstr : BitVec 16) (planes : BitVec 3) : BitVec 128 :=
  b ++ slots ++ elems ++ clog ++ fmt ++ pos ++ pstr ++ plstr ++ planes ++ 0#13

/-- An SE with a quota of 8 slots, slots 0 to 3 primary, window 1 in the SRF (one position of two), window 2 in AB (one
position of two), window 3 in AB with four positions and window 4 with two positions in the SRF; operator 0 adds binary32. -/
def scanning : State :=
  let w : Tab (BitVec 128) := (((Tab.set [] 1 (window 0x30000000 1 2 0 1 1 0 0 1)).set 2 (window 0x10000100 0 2 0 1 1 0 0 1)).set 3 (window 0x10000200 0 1 2 1 4 1 0 1)).set 4 (window 0x30000000 2 1 0 1 2 16 0 1)
  let w := ((w.set 5 (window 0x30000200 1 1 0 1 1 0 0 1)).set 6 (window 0x30000700 1 1 0 1 1 0 0 1)).set 7 (window 0x10000400 0 1 1 1 2 1 0 1)
  let slots : Tab SlotState := (((Tab.set [] 0 .primary).set 1 .primary).set 2 .primary).set 3 .primary
  let ab := (List.range 4).foldl (fun m k => writeLE (writeLE (writeLE m (0x100 + 4 * k) 4 (0x3F800000 + 0x123 * k)) (0x200 + 16 * k) 4 (0x40000000 + 0x800000 * k)) (0x400 + 16 * k) 4 (0x41000000 + 0x800000 * k)) []
  let srf := (List.range 8).foldl (fun m k => writeLE m (0x100 + 16 * k) 4 (0x3F000000 + 0x400000 * k)) []
  let add : OpDesc := ⟨true, [0x0108000000000000#64] ++ List.replicate 15 0#64⟩
  let s := base .se 0x10000000 0 0 0
  withCore (fun c => { c with w := w, slots := slots, ab := ab, srf := srf, opd := c.opd.set 0 add, ctx := c.ctx.map (fun x => { x with srfQuota := 8 }) }) s

/-- The checks of a word's windows pass. -/
def windowsPass (s : State) (l : List (Nat × Bool)) : Bool := (checkWindows s.core (l.map (fun p => (swinOf (s.core.w.get p.1), p.2)))).isNone

theorem witness_SlotWords : [Instr.swSet 0 1 1 2, .srfAlloc 0 6, .srfFree 0 5, .srfAlloc 0 1, .srfFree 0 6, .srfAlloc 0 2].all (ok scanning) = true
    ∧ (swinOf (scanning.core.w.get 6)).slotsFault = none ∧ (swinOf (scanning.core.w.get 5)).slotsFault = none
    ∧ ((swinOf (scanning.core.w.get 2)).slotsFault).isSome = true ∧ scanning.core.slots.get 7 = .free ∧ scanning.core.slots.get 2 = .primary
    ∧ (scanning.core.slots.filter (fun p => p.2 != .free)).length + 1 ≤ 8 ∧ scanning.hyp = 0#8 := by decide
theorem witness_OperatorLoad : ok scanning (.opdLd 0 1 1) = true ∧ scanning.core.marks = [] ∧ scanning.r5 1#4 = 0x10000000#64
    ∧ (let s := withCore (fun c => { c with ab := writeLE c.ab 0 8 0x0108000000000000 }) scanning
       ok s (.opdLd 0 1 1) = true ∧ opdOk ((List.range 16).map (fun n => BitVec.ofNat 64 (readLE s.core.ab (8 * n) 8))) = true)
    ∧ opdOk ((List.range 16).map (fun n => BitVec.ofNat 64 (readLE scanning.core.ab (8 * n) 8))) = false
    ∧ ok (base .se 0x10000040 0 0 0) (.opdLd 0 1 1) = true ∧ ok (base .se 0x100FFFC0 0 0 0) (.opdLd 0 1 1) = true ∧ ok (base .se 0x30000000 0 0 0) (.opdLd 0 1 1) = true ∧ ok (base .se 0x100000000 0 0 0) (.opdLd 0 1 1) = true := by decide
theorem witness_StateMoves : [Instr.srfLd 0 1 2, .srfSt 0 2 1, .srfZero 0 1, .srfLd 0 5 2].all (ok scanning) = true ∧ scanning.hyp = 0#8 ∧ scanning.core.marks = [] ∧ scanning.core.seFlags = 0#6
    ∧ windowsPass scanning [(1, true), (2, false)] = true ∧ windowsPass scanning [(6, true), (2, false)] = false
    ∧ scanning.core.slots.all (fun q => q.2 == .primary || q.2 == .free) = true
    ∧ (swinOf (scanning.core.w.get 1)).elemOff 0 0 0 + 4 = (swinOf (scanning.core.w.get 1)).elemOff 0 0 1 := by decide
theorem witness_StateVersions : ok (underHyp scanning) (.srfZero 0 5) = true ∧ (underHyp scanning).core.marks = [] ∧ (underHyp scanning).hyp.toNat ≠ 0 ∧ windowsPass (underHyp scanning) [(5, true)] = true
    ∧ (hypPath (underHyp scanning) 1 5).length ≤ 3 ∧ scanning.core.slots.get 4 = .free ∧ (∀ m < 4, scanning.core.slots.get m ≠ .free)
    ∧ (swinOf (scanning.core.w.get 5)).slots = 1 ∧ (swinOf (scanning.core.w.get 5)).pos = 1 ∧ (swinOf (scanning.core.w.get 5)).elems = 1 := by decide
theorem witness_ScanWords : [Instr.scan 0 3 0, .scan 0 7 0, .scanSw 0 7 5 0, .scanRed 0 7 4 0, .scanApply 0 7 4 0, .scanApplyFirst 0 7 4 0].all (ok scanning) = true
    ∧ (match scanChecks scanning (swinOf (scanning.core.w.get 7)) (some (swinOf (scanning.core.w.get 4), 2)) 0 with
       | .ok (some _) => true
       | _ => false) = true
    ∧ (match scanChecks scanning (swinOf (scanning.core.w.get 3)) none 0 with
       | .ok (some _) => true
       | _ => false) = true
    ∧ isOk (scanChecks scanning (swinOf (scanning.core.w.get 3)) none 1) = false
    ∧ (swinOf (scanning.core.w.get 3)).pos = 4 ∧ (swinOf (scanning.core.w.get 3)).clog = 2 ∧ (swinOf (scanning.core.w.get 7)).elems = 1 := by decide

/-- The same SE with a group word in register 1: tag 5, two ranks; in register 2 a peer, logical core 1 of device 0. -/
def fronting : State := { withCore (fun c => (c.setReg .se 1 0x0005200000000000#64).setReg .se 2 1#64) scanning with unit := .se }
/-- Two ranks stand at the Front of cluster 0. -/
def atFront : State := let s := next (.nscanUp 0 4 1 0) fronting
  { s with others := s.others.put 1 { s.core with srf := writeLE s.core.srf 0x100 4 0x40A00000 } }
/-- An SE whose window 0 has a coefficient plane and an input plane, window 2 takes the outputs, and operator 1 is the recurrence. -/
def stepping : State :=
  withCore (fun c => { c with w := (c.w.set 0 (window 0x10000100 0 2 0 1 2 1 4 2)).set 2 (window 0x10000800 0 2 0 1 2 1 0 1),
                              opd := c.opd.set 1 ⟨true, [0x3110000000000000#64] ++ List.replicate 15 0#64⟩ }) scanning

theorem witness_FrontScansAndSteps :
    (ok fronting (.nscanUp 0 4 1 0) = true ∧ ok fronting (.nscanDown 0 4 1 0) = true ∧ stampState fronting = .free ∧ fronting.core.front = none
      ∧ fronting.core.inbox = [] ∧ (swinOf (fronting.core.w.get 4)).form (takeRing (.nscanUp 0 4 1 0) fronting).core true = none
      ∧ (fronting.core.opd.get 0).loaded = true ∧ (swinOf (fronting.core.w.get 4)).pos = 2 ∧ fronting.frontWords (clusterIx fronting.lnum) = [] ∧ coreOf fronting.lnum < 2
      ∧ ok fronting (.nscanUp 0 4 3 0) = true)
    ∧ ((atFront.coreAt 0).front.isSome = true ∧ (atFront.coreAt 1).front.isSome = true ∧ (∀ r < 8, 2 ≤ r → (atFront.coreAt r).front = none)
      ∧ [0, 1].all (fun r => (State.ready { focus r atFront with unit := .se } (.nscanUp 0 4 1 0)) && (match (atFront.coreAt r).front with
        | some f => f.word == .nscanUp 0 4 1 0 && f.up && f.ranks == 2 && bits f.group 47 44 == 2 && bits f.group 42 42 == 0
        | none => false)) = true)
    ∧ ([Instr.step 0 1 0 1, .stepY 0 1 0 1 2].all (ok stepping) = true ∧ windowsPass stepping [(1, true), (0, false), (2, false)] = true
      ∧ opKind (stepping.core.opd.get 1).dwords = 3 ∧ (swinOf (stepping.core.w.get 0)).planes = 2 ∧ (swinOf (stepping.core.w.get 0)).pos = 2) := by decide
/-- Core 7, which carries for its cluster, with a carry to core 8 at level 0 and tag 5. -/
def carrying : State := { withCore (fun c => { ((c.setReg .se 1 0x0005800000000000#64).setReg .se 2 8#64) with ctag := 5#16 }) scanning with lnum := 7 }
/-- Core 0, with a carry of tag 5 from core 7 in its inbox. -/
def carried : State :=
  let e : InboxEntry := ⟨7, 0, 1, 5, some (.carry 5 0 false 1 1 1 [1#8, 2#8, 0x80#8, 0x3F#8]), false⟩
  withCore (fun c => { ((c.setReg .se 1 0x0005800000000000#64).setReg .se 2 7#64) with ctag := 5#16, inbox := [e] }) scanning

theorem witness_CarryWords :
    ([Instr.carrySendOut 0 4 1 2, .carrySendIn 0 4 1 2].all (ok carrying) = true
      ∧ carryChecks (takeRing (.carrySendOut 0 4 1 2) carrying) (swinOf (carrying.core.w.get 4)) none true 0x0005800000000000#64 8#64 = none
      ∧ carrying.core.inbox = [] ∧ carrying.core.marks = [] ∧ carrying.hyp = 0#8 ∧ carrying.core.credits = [] ∧ carrying.core.slots.all (fun q => q.2 == .primary || q.2 == .free) = true)
    ∧ ([Instr.carryRecvIn 0 4 1 2, .carryRecvOut 0 4 1 2, .carryRecvCombIn 0 4 1 2 0, .carryRecvCombOut 0 4 1 2 0].all (ok carried) = true
      ∧ carryChecks (takeRing (.carryRecvCombOut 0 4 1 2 0) carried) (swinOf (carried.core.w.get 4)) (some 0) false 0x0005800000000000#64 7#64 = none
      ∧ carried.core.inbox.length = 1 ∧ carried.core.ctag = 5#16)
    ∧ (let s := next (.carrySendOut 0 4 1 2) carrying
       (s.coreAt 7).carryAsk = some (8, 5) ∧ (s.coreAt 8).ctx = none
        ∧ (let t := { s with others := s.others.put 8 { s.core with carryAsk := none } }
           (t.coreAt 7).carryAsk = some (8, 5) ∧ (t.coreAt 8).ctx ≠ none ∧ (t.coreAt 8).mode = .running ∧ (t.coreAt 8).inbox.length < 8
            ∧ (t.coreAt 8).tenant = (t.coreAt 7).tenant ∧ (t.coreAt 8).ctag.toNat = 5)) := by decide

/-! ### Generation and sampling -/

/-- Virtual addresses from 2^32 on map to physical addresses from 0 on. -/
def mapped (s : State) : State := { s with mem := writeLE s.mem 0x13040 8 0x4DD }

/-- A CC that may run QR and SMP words: a slot record in AB, logits of 4 tokens at 2^32 + 0x2000. -/
def sampling : State :=
  let rec0 : List (Nat × Nat × Nat) := [(0, 8, 0x100002000), (8, 4, 0x100), (0xC, 4, 4), (0x10, 4, 0x3F800000), (0x14, 4, 0x3F800000), (0x18, 1, 4), (0x19, 1, 1), (0x1B, 1, 1)]
  let s := mapped (base .cc 0x10000000 5 0 7)
  withCore (fun c => { c with ab := rec0.foldl (fun m p => writeLE m p.1 p.2.1 p.2.2) c.ab }) s
/-- Slot 5 configured. -/
def configured : State := next (.smpCfg 0 1 2) sampling

theorem witness_PointGeneration : [Instr.qrSeed 0 1, .qrPt 0 5 1 2, .qrPt 0 5 1 1, .qrDirld 0 1 3, .qrDirld 0 1 1].all (ok cc) = true
    ∧ bits (cc.r5 2#5) 63 10 = 0 ∧ bits cc.core.qrseed 48 48 = 0
    ∧ (let s := base .cc 0x10000000 0x100 0 0
       ok s (.qrDirld 0 1 2) = true ∧ bits (s.r5 2#5) 16 8 = 1 ∧ isOk (ccBlock s 0x10000000#64 128 128) = true
        ∧ s.unitPending .cc = false ∧ s.core.bulk = [])
    ∧ (let s := next (.ldN64 0 7 1 0) (base .cc 0x1000 0x100 0 0)
       s.unitPending .cc = true ∧ [Instr.qrDirld 0 1 2, .smpCfg 0 1 0, .hypOk 0 5 0, .hypNo 0 5 0].all (ok s) = true)
    ∧ (let s := withCore (fun c => (c.setReg .ve 1 0x100000003#64).setReg .ve 2 0x200#64) (vector 4 1)
       ok s (.qrGen 0 1 1 2) = true ∧ s.core.chain = none ∧ s.core.vpend = [] ∧ s.core.vretire = [] ∧ (checkRegion s.core (regionOf (s.core.d.get 1)) true false 0 4 s.hyp) = none
        ∧ bits (s.r5 2#5) 16 8 = 2) := by decide
theorem witness_SamplingWords :
    (ok sampling (.smpCfg 0 1 2) = true ∧ sampling.unitPending .cc = false ∧ remoteParts (takeRing (.smpCfg 0 1 2) sampling) (blockOf 0x10000000#64 64) = [] ∧ isOk (ccBlock (takeRing (.smpCfg 0 1 2) sampling) 0x10000000#64 64 64) = true
      ∧ (match ccBlock sampling 0x10000000#64 64 64 with
         | .ok (bs, t) => (slotRec bs).ok && isOk (slotRows t (slotRec bs) 0 (slotRec bs).nrows)
         | .error _ => false) = true)
    ∧ (configured.core.smp.get 5).state = 1 ∧ configured.unitPending .cc = false ∧ remoteParts (takeRing (.smpStop 0 1 2) configured) (blockOf 0x10000000#64 0) = []
    ∧ [Instr.smpDraw 0 2, .smpStop 0 1 2, .smpCheck 0 2 3, .smpResid 0 2 3, .smpDraw 0 3, .smpCfg 0 1 1].all (ok configured) = true
    ∧ (let s := next (.smpDraw 0 2) configured
       s.core.smpq.length = 1 ∧ (s.core.smpq.headD default).target = 5 ∧ s.core.mode = .running ∧ (slotRec (s.core.smp.get 5).record).toka = 0
        ∧ ((s.core.smp.get 5).rows.headD default).complete = false)
    ∧ (configured.core.smp.find? 5).isSome = true ∧ ((configured.core.smp.get 5).rows.length = 1) := by decide

/-! ### Hypotheses, tasks and faults -/

/-- Numbers placed in memory: physical address, bytes, value. -/
def placeAll (l : List (Nat × Nat × Nat)) (s : State) : State := l.foldl (fun s p => { s with mem := writeLE s.mem p.1 p.2.1 p.2.2 }) s

/-- Two task records at 2^32 + 0x4000 and + 0x6000 under the RCB at 2^32 + 0x5000; the core runs the first. -/
def tasking : State :=
  let s := placeAll [(0x4000, 8, 0x100005000), (0x4008, 8, 0x100008000), (0x4035, 1, 2), (0x6000, 8, 0x100005000), (0x6008, 8, 0x100008000),
    (0x5008, 2, 1), (0x5010, 2, 4), (0x5012, 2, 8), (0x5014, 2, 16), (0x5016, 2, 1), (0x5020, 4, 1), (0x5048, 8, 0x100100000), (0x5088, 8, 0x100200000)]
    (mapped (base .cc 0x100006000 0 0x100004000 8))
  let x : Context := { placedContext with task := 0x100004000#64, rcb := 0x100005000#64, save := 0x100100000#64, ckw := 10, chain := [(0x100005000#64, 4, 16)] }
  withCore (fun c => { c with ctx := some x }) s
/-- With the second task in the pool of die 0, and core 0 free. -/
def pooled : State :=
  let s := next (.taskDone 0 3) (next (.taskEnq 0 1 2) tasking)
  withCore (fun c => { c with lastTenant := some 1, rtbase := 0x100200000#64 }) s

theorem witness_HypothesisWords : tasking.core.ctx.isSome = true ∧ [Instr.hypOpen 0 5 0, .hypOpen 0 5 4, .hypEnter 0 4, .hypEnter 0 0, .hypOk 0 5 0, .hypNo 0 5 4,
      .hypQuery 0 5 0, .hypQuery 0 5 1].all (ok tasking) = true
    ∧ (let s := next (.hypOpen 0 4 0) tasking
       s.r5 4#5 = 1#64 ∧ (s.hyps.get 1).state = 1 ∧ (s.hyps.get 1).tenant = s.core.tenant ∧ [Instr.hypOpen 0 5 4, .hypEnter 0 4, .hypOk 0 5 4, .hypNo 0 5 4, .hypQuery 0 5 4].all (ok s) = true
        ∧ s.unitPending .cc = false ∧ confirmOverflows (takeRing (.hypOk 0 5 4) s) 1#8 = false
        ∧ (let t := next (.hypNo 0 5 4) (next (.hypEnter 0 4) s)
           (t.hyps.get 1).state = 2 ∧ t.core.orphan.isSome = true ∧ t.core.mode = .running ∧ t.core.underway = false))
    ∧ (let s := { tasking with hyps := Tab.set [] 8 ⟨1, 0#8, 3, 1, 0#64, 0, [], 0#8, 0#8⟩ }
       ok s (.hypOpen 0 5 4) = true ∧ (s.hyps.get 8).depth = 3)
    ∧ (let s := { tasking with hyps := Tab.set [] 9 ⟨1, 0#8, 1, 1, 0#64, 0, [], 0#8, 0#8⟩, vers := [⟨0x20, 9#8, 3, Tab.set [] 0 7#8, 0, none⟩] }
       (s.hyps.get 9).state = 1 ∧ (s.hyps.get 9).chain = [] ∧ (s.hyps.get 9).parent = 0#8 ∧ s.vers.length = 1)
    ∧ (let s := { tasking with hyps := Tab.set [] 9 ⟨2, 0#8, 1, 1, 0#64, 0, [], 9#8, 0#8⟩ }
       (s.hyps.get 9).state = 2 ∧ s.refers 9#8 = false ∧ s.core.orphanPending = false) := by decide
theorem witness_TaskWords :
    (ok tasking (.taskEnq 0 1 2) = true ∧ isOk (checkMem (takeRing (.taskEnq 0 1 2) tasking) 0x100006000#64 64 3) = true
      ∧ unfetched (takeRing (.taskEnq 0 1 2) tasking) (recordBlocks (takeRing (.taskEnq 0 1 2) tasking) 0x100006000#64) = []
      ∧ isOk (enqCheck (takeRing (.taskEnq 0 1 2) tasking) 1 true 0x100006000#64) = true ∧ isOk (enqCheck tasking 1 false 0x100004000#64) = false
      ∧ ok tasking (.taskEnq 0 1 4) = true ∧ bits (tasking.r5 4#5) 63 3 ≠ 0 ∧ (tasking.pools.get 0).length < 4096 ∧ tasking.unitPending .cc = false)
    ∧ (ok tasking (.taskDone 0 3) = true ∧ tasking.core.task = 0x100004000#64 ∧ (takeRing (.taskDone 0 3) tasking).quiet = true ∧ tasking.core.smpq = []
      ∧ unfetched (takeRing (.taskDone 0 3) tasking) [(0x100004000#64, 64)] = [] ∧ tasking.unitPending .cc = false
      ∧ (match readAs (takeRing (.taskDone 0 3) tasking) 1 0x100004000#64 64 64 with
         | .ok (b, u) => blockField b 0x34 1 == 0 && u.core.succDone == 0
         | .error _ => false) = true
      ∧ (match releaseAll tasking.core.context (takeRing (.taskDone 0 3) tasking) with
         | .ok (.done _) => true
         | _ => false) = true
      ∧ ok (next (.engCmd 0 0 1 2 0) tasking) (.taskDone 0 3) = true ∧ (takeRing (.taskDone 0 3) (next (.engCmd 0 0 1 2 0) tasking)).quiet = false)
    ∧ ([Instr.taskYield 0 0, .ckpt 0 0, .ckpt 0 4].all (ok tasking) = true ∧ (takeRing (.ckpt 0 0) tasking).yieldsTo = false ∧ tasking.core.inboxLanded = true
      ∧ isOk (liveTable (takeRing (.ckpt 0 4) tasking) 8#64) = false ∧ ok (base .cc 0x10000000 0 0 0) (.ckpt 0 1) = true
      ∧ isOk (liveTable (takeRing (.ckpt 0 1) (base .cc 0x10000000 0 0 0)) 0x10000000#64) = true) := by decide
theorem witness_TaskWords_dispatch : pooled.core.mode = .halted ∧ (pooled.pickEntry 0).isSome = true ∧ (pooled.pickEntry 1).isSome = false
    ∧ (match pooled.pickEntry 0 with
       | some p => pooled.entryCore 0 p == some 0 && p.bound.isNone && freeBlock pooled p.ctx == some 0 && pooled.core.hasImage p.ctx
       | none => false) = true
    ∧ (tasking.coreAt 0).mode = .running ∧ (tasking.coreAt 0).preempt = none ∧ tasking.poolVictim 0 = none ∧ tasking.core.underway = false ∧ tasking.core.primary = none
    ∧ isOk (writeBlock ((endPull tasking).mapCore (fun c => { c with saved := false })) []) = true := by decide

/-- The core after a fault of its CC: held, with its record to be posted. -/
def heldCore : State := withCore (fun c => { c with mode := .held, primary := some ⟨.seq .cc, 0x20, 5, 0#64, 0#64, 0#8⟩, causes := [⟨.seq .cc, 0x20, 5, 0#64, 0#64, 0#8⟩] }) tasking

theorem witness_FaultEvents :
    (tasking.core.mode = .running ∧ tasking.core.ctx.isSome = true
      ∧ (let r : Raised := ⟨.seq .cc, 0x20, 5, 0#64, 0#64, 0#8⟩
         let v := settle (stopRelocation { tasking with core := { tasking.core.stopUnits with mode := .stopping, primary := some r, causes := [r], multi := false, frameGtc := tasking.gtc } })
         v.core.settled = true ∧ v.core.ctx.isSome = true ∧ v.core.primary = some r ∧ isOk (writeArea v) = true))
    ∧ (heldCore.core.mode = .held ∧ heldCore.core.answered = false ∧ heldCore.core.task.toNat / 64 = 0x100004000 / 64 ∧ heldCore.core.primary.isSome = true ∧ heldCore.core.inboxLanded = true
      ∧ isOk (writeStores heldCore [(0, 0, 16)]) = true ∧ heldCore.core.log = [])
    ∧ (let s := calm (withCore (fun c => { c with ctx := c.ctx.map (fun x => { x with stall := 5 }), blocked := c.blocked.set 0 6, cause := c.cause.set 0 (some 3) }) tasking)
       s.core.blocked.get 0 = 6 ∧ s.core.mode = .running)
    ∧ (stampState (stamped true 6) = .overrun ∧ (stamped true 6).active = true ∧ stampState (stamped true 4) = .wait)
    ∧ tasking.heldCore 0x100004000#64 = none ∧ tasking.savedFor 0x100004000#64 = none ∧ heldCore.heldCore 0x100004000#64 ≠ none := by decide
theorem witness_FaultEvents_post : (let s := { tasking with unposted := [⟨0#64, 0x15#64, 0x100004000#64, 0#64, 0, 0#64, 7#64⟩] }
      s.unposted.length = 1 ∧ s.faultq.length < 4096)
    ∧ ({ tasking with faultq := List.replicate 4096 ⟨0#64, 0#64, 0#64, 0#64, 0, 0#64, 0#64⟩ }).faultq.length = 4096 := by decide

/-! ### Collectives, time, remote access, the platform, the memory -/

/-- A CC with handle 3 in register 2, and at 2^32 + 0x2000 the image of a graph of one record of kind `kind` and one member, this
core, and its bases at 2^32 + 0x2200. -/
def graphing (kind : Nat) : State :=
  placeAll ([(0x2000, 4, 1), (0x2004, 2, 1), (0x2006, 1, 1), (0x2007, 1, 1), (0x2018, 8, 0x100002100),
      (0x2040, 4, kind + 2 ^ 10), (0x2054, 4, 2), (0x2058, 8, 8)] ++ (List.range 8).map (fun k => (0x2200 + 8 * k, 8, 0x100003000)))
    (mapped (base .cc 0x100002000 3 0x100002200 0))
/-- The graph loaded as handle 3, and running. -/
def loaded (kind : Nat) : State := next (.collLoad 0 1 2) (graphing kind)
def running (kind : Nat) : State := next (.collRun 0 2 3) (loaded kind)
/-- The run that handle 3 has. -/
def theRun (s : State) : CollRun := (s.handle 3).getD default
/-- A PUT of device 1 for that run. -/
def arriving (sig : Option Word) (dst : Nat) : PutPacket :=
  { id := 0, srcDev := 1, srcLnum := 0, dstDev := 0, dstLnum := 0, key := 0, tenant := 1, handle := 3, generation := 1, srcRank := 0, dstRank := 0,
    record := 0, sig := sig, dst := dst, data := [1#8, 2#8, 3#8, 4#8], len := 4, counter := some 0, flowSeq := 0, foreign := false }
/-- A port 0 whose key 0 lets tenant 1 write the first pages. -/
def keyed (s : State) : State := { s with keys := s.keys.set 0 (BitVec.ofNat 128 (2 ^ 127 + 15 * 2 ^ 123 + 2 ^ 108 + 15 * 2 ^ 48)) }

theorem witness_CollectiveEvents_words :
    (let i := Instr.collLoad 0 1 2
     let s := graphing 0
     let t := flushUnit .cc 1 (takeRing i s)
     ok s i = true ∧ s.hyp = 0#8 ∧ (s.r5 2#5).toNat = 3 ∧ t.handleRuns 3 = false ∧ t.unitPending .cc = false ∧ remoteParts t (graphBlocks t (s.r5 1#5)) = []
      ∧ (match readGraph t (s.r5 1#5) with
         | .ok (g, u) => g.rank u.dev.toNat u.lnum == some 0
         | .error _ => false) = true
      ∧ isOk (readGraph t 0x100003000#64) = false)
    ∧ (let i := Instr.collRun 0 2 3
       let s := loaded 0
       ok s i = true ∧ (s.handle 3).isSome = true ∧ s.handleRuns 3 = false ∧ remoteParts (takeRing i s) [(s.r5 3#5, 64)] = []
        ∧ isOk (readVirt (takeRing i s) 0 (s.r5 3#5) 64 64) = true ∧ (takeRing i s).released = true ∧ s.unitPending .cc = false)
    ∧ [Instr.collWait 0 2, .trigAdd 0 2 0, .trigAdd 0 2 3, .trigAdd 0 1 0].all (ok (running 0)) = true ∧ (theRun (running 0)).running = true
    ∧ ok (loaded 0) (.collWait 0 2) = true ∧ (theRun (loaded 0)).running = false ∧ (theRun (running 0)).ncnt = 1
    ∧ ok (underHyp (loaded 0)) (.collWait 0 2) = true ∧ (underHyp (loaded 0)).hyp ≠ 0#8 := by decide
/-- A load of the CC is under way. -/
def loading (s : State) : State := withCore (fun c => { c with pend := [{ (default : Access) with unit := .cc, kind := .load true, size := 8 }] }) s
/-- A store of the CC to another device is not answered. -/
def storing (s : State) : State := { s with waiting := [⟨{ (default : Packet) with dstDev := 1, srcUnit := .cc, req := .memWrite 0 [] }, .store, s.gtc, s.core.task, 0#64, none⟩] }
/-- Every collective run of the device has aborted, and its fault is to be raised. -/
def aborting (s : State) : State := { s with colls := s.colls.map (fun r => { r with aborted := some 2#16 }) }
theorem witness_CollectiveEvents_waits :
    (let i := Instr.collLoad 0 1 2
     let s := storing (graphing 0)
     let t := flushUnit .cc (2 * (takeRing i s).core.pend.length + 1) (takeRing i s)
     ok s i = true ∧ t.handleRuns 3 = false ∧ t.unitPending .cc = true)
    ∧ (let s := loading (loaded 0)
       ok s (.collRun 0 2 3) = true ∧ s.unitPending .cc = true ∧ (theRun s).running = false)
    ∧ (let s := aborting (loaded 0)
       [Instr.collLoad 0 1 2, .collRun 0 2 3, .collWait 0 2].all (ok s) = true ∧ (theRun s).aborted = some 2#16 ∧ (theRun s).raised = false ∧ (theRun s).running = false
        ∧ s.unitPending .cc = false ∧ s.handleRuns 3 = false ∧ (s.handle 3).isSome = true) := by decide
theorem witness_CollectiveEvents_aborts :
    (let s := running 0
     (∀ r ∈ s.colls, r.finished = false ∧ (r.running = true → r.fired ≠ [] ∨ r.queued ≠ none)) ∧ s.colls.length = 1
      ∧ (theRun s).lnum = 0 ∧ (theRun s).ctx.tenant = 1 ∧ (theRun s).handle = 3 ∧ (theRun s).generation = 1#16 ∧ (theRun s).aborted = none)
    ∧ (let s := loaded 0
       (∀ r ∈ s.colls, r.finished = false ∧ (r.running = true → r.fired ≠ [] ∨ r.queued ≠ none)) ∧ s.colls.length = 1
        ∧ (theRun s).running = false ∧ (theRun s).generation = 0#16) := by decide
theorem witness_CollectiveEvents_records :
    (let s := running 0
     let r := theRun s
     let x := r.records.getD 0 []
     s.colls[0]? = some r ∧ r.queued = some 0 ∧ r.met = true ∧ r.running = true ∧ r.aborted = none ∧ recRank x = r.rank ∧ recKind x = 0
      ∧ missing s r 0 = [] ∧ 0 ∉ r.fired
      ∧ (match exec (.collRecordFire 0) s with
         | .next t => decide (0 ∈ (theRun t).fired ∧ missing t (theRun t) 0 = [])
         | _ => false) = true)
    ∧ (let s := running 1
       let r := theRun s
       let x := r.records.getD 0 []
       recKind x = 1 ∧ missing s r 0 = [] ∧ r.addr (recSrcb x) (recSoff x) = some 0x100003008#64
        ∧ (match runRead s r 0 0x100003008#64 (recNel x * r.esize) with
           | .ok (d, _) => decide (d.length ≤ 256)
           | _ => false) = true
        ∧ (match exec (.collRecordFire 0) s with
           | .next t => decide (0 ∈ (theRun t).fired) && t.puts.length == 1
           | _ => false) = true)
    ∧ (let r : CollRun := { theRun (running 0) with fired := [0] }
       let w (s : State) : Waiting := ⟨{ (default : Packet) with srcLnum := r.lnum }, .collWrite r.handle r.generation.toNat 0, s.gtc, r.ctx.task, 0#64, none⟩
       let s : State := { running 0 with colls := [r] }
       recKind (r.records.getD 0 []) = 0 ∧ s.writing r 0 = false ∧ { s with waiting := [w s] }.writing r 0 = true)
    ∧ (let s := running 1
       let r : CollRun := { theRun s with fired := [0], refused := [(0, 0#64, 0#64)], queued := none }
       let t : State := { s with colls := [r], gtc := 1880000#64 }
       t.putOut r 0 = false ∧ r.refused.find? (fun q => q.1 == 0) = some (0, 0#64, 0#64) ∧ (r.finished = false ∧ r.fired ≠ [])
        ∧ (let u : CollRun := { r with aborted := some 2#16 }
           u.aborted = some 2#16 ∧ u.raised = false ∧ t.hasRun u = true ∧ (t.coreAt u.lnum).mode = .running)) := by decide
/-- A run whose PUT goes to device 1 has fired. -/
def far : State :=
  let s := running 1
  match execCollRecordFire 0 { s with colls := [{ theRun s with members := [1#32] }] } with
  | .next t => t
  | _ => s
theorem witness_CollectiveEvents_negative : (let r := theRun far
     far.puts.length = 1 ∧ far.waiting = [] ∧ far.colls.length = 1 ∧ r.aborted = none
      ∧ (far.puts.all (fun p => putSender far p == some 0 && p.record == 0 && p.srcDev == far.dev.toNat && p.dstDev == 1)) = true) := by decide
/-- The state as a port passes a PUT on. -/
def passing (p : PutPacket) (s : State) : State :=
  { s with flowDone := s.flowDone.set (p.srcDev * 512 + p.srcLnum) 1, assembly := s.assembly.set (gatherKey (PutPacket.packet p)) [] }
theorem witness_CollectiveEvents_puts :
    (let s := running 0
     let p := arriving none 0
     let n := passing p (keyed s)
     p.dstDev = s.dev.toNat ∧ p.srcDev ≠ s.dev.toNat ∧ p.flowSeq = s.flowDone.get 512 ∧ s.reorder = [] ∧ s.flowLost = [] ∧ s.marked = []
      ∧ p.foreign = false ∧ p.data.length ≤ 256 ∧ s.assembly.get (gatherKey (PutPacket.packet p)) = [] ∧ p.data.length = p.len
      ∧ p.data.length ≠ { p with len := 5 }.len ∧ { p with foreign := true }.foreign = true
      ∧ putTarget n p = some 0 ∧ putTarget n { p with generation := 2 } = none ∧ (theRun s).addr 0 0 = some 0x100003000#64 ∧ (theRun s).addr 0 1 = none
      ∧ (arriving (some 5#64) 0).sig ≠ some (theRun s).sig
      ∧ (s.keys.get 0).getLsbD 127 = false ∧ (let k := n.keys.get 0
         k.getLsbD 127 = true ∧ nbits k.toNat 119 108 = p.tenant ∧ k.getLsbD 125 = true
          ∧ (putParts n p (theRun s) 0x100003000#64).all (fun q => decide (q.1 % 2 ^ 42 < 2 ^ 41) && decide (nbits k.toNat 107 78 ≤ q.1 % 2 ^ 42 / 4096)
              && decide (q.1 % 2 ^ 42 / 4096 ≤ nbits k.toNat 77 48)) = true)
      ∧ isOk (withinE n 0 (fun s => runWrite s (theRun s) (.collLand p) 0x100003000#64 p.data 2)) = true)
    ∧ (let p := arriving none 0x40000000
       let s := passing p (keyed (running 0))
       (theRun s).addr 0 0x40000000 = some 0x140003000#64 ∧ putParts s p (theRun s) 0x140003000#64 = []
        ∧ isOk (withinE s 0 (fun s => runWrite s (theRun s) (.collLand p) 0x140003000#64 p.data 2)) = false) := by decide
/-- Slot 5 holds a result; the ring's header at 2^32 + 0x3000 has these records, capacity and write index. -/
def logging (place cap full : Nat) : State :=
  let s := placeAll [(0x3000, 8, place), (0x3008, 4, cap), (0x3010, 8, full)] configured
  withCore (fun c => { c with logring := 0x100003000#64, smp := c.smp.set 5 { c.smp.get 5 with latest := some ⟨7#64, 0, [], [], 0#32⟩ } }) s
/-- The ring's header lies in memory that the word reaches, and has no error: read by `f`. -/
def header (s : State) (f : State → Nat → Bool) : Bool :=
  ok s (.logAppend 0 4 2) && match checkMem (takeRing (.logAppend 0 4 2) s) s.core.logring 64 3 with
  | .ok (pa, _, t) => f t pa
  | .error _ => false
/-- A record of the ring has this address, and a write to it passes its checks or does not. -/
def recordAt (pass : Bool) (s : State) : Bool := header s (fun t pa =>
  !t.noRoom (t.access (.log []) 64 4 0#64) && t.isLocal pa && (t.memMark pa 64).isNone && t.readPhys (pa + 8) 4 == 4 && t.readPhys (pa + 16) 8 == 0
    && t.readPhys (pa + 24) 8 == 0
    && isOk (checkMem ((t.writePhysLE (pa + 0x10) 8 1).mapCore (fun c => { c with cntSt := c.cntSt + 1 })) (BitVec.ofNat 64 (t.readPhys pa 8)) 64 1) == pass)
theorem witness_CollectiveEvents_log :
    (let s := logging 0x100003100 4 0
     bits (s.r5 2#5) 63 6 = 0 ∧ (s.core.smp.get 5).state ≠ 0 ∧ s.hyp = 0#8 ∧ s.core.smpq = [] ∧ (s.core.smp.get 5).latest.isSome = true
      ∧ (configured.core.smp.get 5).latest = none ∧ s.unitPending .cc = false ∧ (loading s).unitPending .cc = true ∧ ok (loading s) (.logAppend 0 4 2) = true
      ∧ recordAt true s = true ∧ recordAt false (logging 0x40000000 4 0) = true
      ∧ header (counted s) (fun t _ => t.noRoom (t.access (.log []) 64 4 0#64)) = true
      ∧ header { s with marked := [(.hbm, 0x3000)] } (fun t pa => t.isLocal pa && (t.memMark pa 64).isSome && !t.noRoom (t.access (.log []) 64 4 0#64)) = true
      ∧ header (withCore (fun c => { c with logring := 0x120003000#64 }) (placeAll [(0x13048, 8, 2 ^ 42 + 0x4DD)] s)) (fun t pa => !t.isLocal pa && !t.noRoom (t.access (.log []) 64 4 0#64)) = true
      ∧ header (logging 0x100003100 3 0) (fun t pa => t.isLocal pa && t.readPhys (pa + 8) 4 == 3) = true
      ∧ header (logging 0x100003100 4 4) (fun t pa => t.readPhys (pa + 16) 8 == 4 && t.readPhys (pa + 24) 8 == 0) = true
      ∧ isOk (checkMem (takeRing (.logAppend 0 4 2) configured) configured.core.logring 64 3) = true) := by decide
theorem witness_TimeAndDigest : [Instr.frameBegin 0 1, .frameBegin 0 2].all (ok (base .cc 0x100002000 3 0 0)) = true
    ∧ (let i := Instr.digest 0 5 1 2
       let s := placeAll [(0x2000, 4, 1), (0x2008, 8, 0x100003000), (0x2010, 4, 16)] (mapped (base .cc 0x100002000 3 0 0))
       let t := flushUnit .cc 1 (takeRing i s)
       ok s i = true ∧ t.unitPending .cc = false ∧ remoteParts t (digestBlocks t (t.r5 1#5)) = []
        ∧ (match digestTable t (t.r5 1#5) with
           | .ok (es, u) => es.length == 1 && isOk (digestAll (u.r5 2#5) u es)
           | .error _ => false) = true
        ∧ isOk (digestTable t 0x40000000#64) = false)
    ∧ ({ State.reset with dispatched := true } : State).dispatched = true ∧ State.reset.dispatched = false ∧ State.reset.gtcStepped = false ∧ State.reset.gtc.toNat < (5#64).toNat ∧ State.reset.lastCorrection = none
    ∧ cc.core.mode = .running ∧ cc.core.frameNext = none := by decide

/-- An AE with an STC record of two peers on device 1 at AB offset 0. -/
def casting : State :=
  let r : List (Nat × Nat × Nat) := [(0, 8, 2 + 3 * 32 + 256), (8, 8, 0x40), (16, 8, 1), (24, 8, 1 + 1024)]
  withCore (fun c => { c with ab := r.foldl (fun m p => writeLE m p.1 p.2.1 p.2.2) c.ab }) (base .ae 0x10000000 3 0x1FF 0)
/-- A store to device 1 at its page's remote physical address, waiting for its answer. -/
def posted (k : WaitKind) (r : Request) : State :=
  let p : Packet := { (default : Packet) with dstDev := 1, id := 7, req := r, srcUnit := .cc }
  { cc with waiting := [⟨p, k, 0#64, cc.core.task, 0#64, none⟩], gtc := 1880000#64 }
/-- A packet of device 1. -/
def foreign (seq : Nat) (r : Request) : Packet := { (default : Packet) with srcDev := 1, dstDev := 0, flowSeq := seq, tenant := 1, viaDev := 1, req := r }

/-- A packet with this request is at its last stop, and the first of its flow there; its target is resident. -/
def ended (r : Request) : Bool :=
  let p := foreign 0 r
  let s : State := { State.reset.placed .cc with packets := [⟨p, endStop p, 0, 63, 0⟩] }
  p.dstDev == s.dev.toNat && s.flowFirst p && s.marked == [] && (s.coreAt p.dstLnum).marks == [] && (s.coreAt p.dstLnum).resident p.tenant
theorem witness_RemoteEvents :
    (let i := Instr.stc 0 1 2
     let t := holdRecord 0 (flushUnit casting.unit 1 (takeRing i casting))
     ok casting i = true ∧ bufOff (casting.r5 1#5).toNat = 0 ∧ t.bufPending = false ∧ t.storesOut .ae = 0 ∧ t.core.cntSt = 0 ∧ t.ordered = false
      ∧ (match stcChecks t (t.r5 1#5) with
         | .ok x => x.count == 2 && x.size == 8 && x.peers == [1#32, 1025#32]
         | .error _ => false) = true
      ∧ isOk (stcChecks t 0x10000001#64) = false
      ∧ [Instr.winDrain 0 3, .winDrain 0 1].all (ok casting) = true ∧ bits (casting.r5 3#5) 63 9 = 0
      ∧ (withCore (fun c => { c with winst := c.winst.set 0 1 }) casting).core.out 0 ≠ 0)
    ∧ (let s := posted .store (.memWrite 0x40000001000 [1#8])
       let w := s.waiting.headD default
       s.waiting.find? (fun x => x.pkt.id == 7) = some w ∧ s.ownAnswer 7 = none ∧ s.outside w = true ∧ w.pkt.srcLnum = s.lnum ∧ s.core.ctx ≠ none
        ∧ s.core.task = w.task ∧ s.core.mode = .running ∧ s.core.pend = [] ∧ w.pkt.srcUnit = .cc ∧ 1880000 ≤ (s.gtc - w.since).toNat)
    ∧ (let s := posted .load (.memRead 0x40000001000 8)
       let a : Access := { (default : Access) with unit := .cc, kind := .load true, size := 8, rd := 5, pid := 7 }
       let s := withCore (fun c => { c with pend := [a], cntLd := 1 }) s
       s.outside (s.waiting.headD default) = true ∧ s.core.pend = [a] ∧ a.acq = false ∧ s.ownAnswer 7 = none)
    ∧ (let s := State.reset.placed .cc
       let p := foreign 0 (.memWrite 0x1000 [1#8])
       p.viaDev ≠ s.dev.toNat ∧ p.dstDev = s.dev.toNat ∧ s.inside p = false ∧ unsupported p = false ∧ unsupported { p with foreign := true } = true
        ∧ s.reorder = [] ∧ s.flowLost = [] ∧ s.marked = [] ∧ s.flowDone.get 512 = 0
        ∧ (s.keys.get 0).getLsbD 127 = false ∧ ((keyed s).keys.get 0).getLsbD 127 = true ∧ nbits ((keyed s).keys.get 0).toNat 119 108 = 1
        ∧ ((keyed s).keys.get 0).getLsbD 125 = true ∧ nbits ((keyed s).keys.get 0).toNat 107 78 ≤ 1 ∧ 1 ≤ nbits ((keyed s).keys.get 0).toNat 77 48
        ∧ keyCheck ((keyed s).keys.get 0) (foreign 0 (.memRead 0x1000 8)) = none ∧ keyCheck ((keyed s).keys.get 0) (foreign 0 (.winWrite 1 0 [1#8] none)) = none
        ∧ (s.coreAt 0).resident 1 = true ∧ (s.coreAt 1).resident 1 = false ∧ (foreign 3 (.memRead 0 1)).flowSeq = 3
        ∧ keyCheck ((keyed s).keyAt 0 0) (foreign 0 (.stc 1 0 8 5#64 [0#32, 0#32, 1#32] 1)) = none
        ∧ (foreign 0 (.stc 1 0 8 5#64 [0#32, 0#32, 1#32] 1)).foreign = false ∧ keyCheck ((keyed s).keys.get 0) (foreign 0 (.part false [1#8])) = none
        ∧ s.takes (foreign 0 (.winWrite 1 0 [1#8] none)) = true ∧ s.takes { foreign 0 (.winWrite 1 0 [1#8] none) with dstLnum := 1 } = false)
    ∧ [Request.memWrite 0x1000 [1#8], .memRead 0x1000 8, .winWrite 1 0 [1#8] none, .resp 0 [], .stc 1 0 8 5#64 [0#32, 0#32, 1#32] 1,
        .stc 1 0 8 5#64 [0#32, 0#32] 0].all ended = true
    ∧ (let p := { foreign 0 (.winWrite 1 0 [1#8] none) with dstLnum := 1 }
       let s : State := { State.reset.placed .cc with packets := [⟨p, endStop p, 0, 63, 0⟩] }
       s.flowFirst p = true ∧ (s.coreAt 1).marks = [] ∧ (s.coreAt 1).resident 1 = false)
    ∧ (let s : State := { State.reset with reorder := [(0, .req (foreign 3 (.memRead 0 1)), 0#64)], gtc := 60160#64 }
       60160 ≤ (s.gtc - 0#64).toNat ∧ s.reorder.length = 1 ∧ s.flowLost = [] ∧ s.flowDone.get 512 < 65536) := by decide

/-- The management processor's block for a port command: at physical address 0x4000. -/
def ported (l : List (Nat × Nat)) (s : State) : State := placeAll (l.map (fun p => (0x4000 + 8 * p.1, 8, p.2))) s

theorem witness_PlatformAndHealth_boot : (let v : ImageVerdict := ⟨true, true, true, 1, 9, none⟩
      v.rsa = true ∧ v.slh = true ∧ v.keyHashes = true ∧ State.reset.svn.toNat ≤ v.version ∧ State.reset.boot = .rom ∧ (default : ImageVerdict).rsa = false
      ∧ ({ State.reset with boot := .images 3 } : State).boot = .images 3 ∧ ({ State.reset with boot := .os } : State).boot = .os
      ∧ ({ State.reset with boot := .refused 2 } : State).boot = .refused 2 ∧ ({ State.reset with boot := .running } : State).boot = .running
      ∧ v.firmware = none ∧ ({ v with firmware := some [1#8] } : ImageVerdict).firmware = some [1#8])
    ∧ (let c : ClientCert := ⟨true, State.reset.operatorRoot⟩
       c.chain = true ∧ c.root = State.reset.operatorRoot ∧ ({ c with chain := false } : ClientCert).chain = false)
    ∧ State.reset.dispatched = false ∧ State.reset.boot ≠ .running := by decide
/-- The device has booted. -/
def booted : State := { State.reset with boot := .running }
theorem witness_PlatformAndHealth_ports : (let s := ported [(0, 0), (1, 15 * 2 ^ 16), (2, 0x8000)] booted
      portOp 0x4000#64 = 0 ∧ portOp 0x4001#64 = 1 ∧ isOk (keyPort 0x4000#64 s) = true ∧ isOk (keyPort 0x4010#64 s) = false
        ∧ isOk (keyPort 0x4001#64 (ported [(0, 1), (1, 5)] booted)) = true ∧ s.boot = .running)
    ∧ (let s := ported [(0, 4), (1, 99)] booted
       portShape s 0x4001#64 2 2 = none ∧ portDword s 0x4001#64 0 = 2 ^ 2 ∧ isOk (fabPort 0x4001#64 s) = true)
    ∧ isOk (xltPort 0x4000#64 (ported [(0, 1), (1, 0x1000), (2, 0x2000)] booted)) = true
    ∧ portShape (ported [(0, 1)] booted) 0x4001#64 3 1 = none ∧ portShape booted 0x4002#64 3 0 = none
    ∧ booted.dispatched = false ∧ ({ booted with xltPending := 1 } : State).xltQuiet = true := by decide
/-- A packet of tenant 1 to device 1. -/
def hopping : Packet := { (default : Packet) with tenant := 1, dstDev := 1, req := .memRead 0x1000 8, id := 3 }
theorem witness_PlatformAndHealth_swap : (let q : SlotTable := ⟨[], [], false, [5, 800]⟩
      let s : State := { State.reset with slotTables := State.reset.slotTables.set 0 q, gtc := 768#64 }
      (s.slotTables.get 0).swapAt = [5, 800] ∧ 5 ≤ s.gtc.toNat ∧ s.gtc.toNat < 800)
    ∧ (State.reset.slotTables.get 0).swapAt = [] := by decide
theorem connection_input (b : BitVec 5) : connInput (0x80010000#32 ||| b.setWidth 32) = b.toNat
    ∧ connV (0x80010000#32 ||| b.setWidth 32) = true ∧ connCar (0x80010000#32 ||| b.setWidth 32) = false
    ∧ connTenant (0x80010000#32 ||| b.setWidth 32) = 1 := by revert b; decide
/-- The packet waits at the router of die 0 for the output towards the IOD, and a slot connects them or is empty. -/
theorem witness_PlatformAndHealth_slots : ∃ (k : BitVec 32) (f : Flight) (o : Nat),
    f.stop = 1 ∧ isCarry f.pkt = false ∧ f.along State.reset 1 o = some 0 ∧ (Config.outputOf 1 f.out).toNat = o
    ∧ connV k = true ∧ (Config.inputOf 1 f.src).toNat = connInput k ∧ connCar k = false ∧ connTenant k = f.pkt.tenant ∧ connV 0#32 = false :=
  have h := connection_input (Config.inputOf 1 64)
  have hn : State.reset.nextStops 1 hopping = [0] := by decide
  ⟨0x80010000#32 ||| (Config.inputOf 1 64).setWidth 32, ⟨hopping, 1, 64, 0, 0⟩, (Config.outputOf 1 0).toNat, rfl, rfl,
    by simp [Flight.along, hn], rfl, h.2.1, h.1.symm, h.2.2.1, h.2.2.2, by decide⟩
/-- A packet at the IOD for port 8, which has a quarter of its lanes, takes 2 slots; in an empty bank no slot connects it. -/
def wide : Flight := ⟨{ hopping with req := .memWrite 0 (List.replicate 65 0#8) }, 0, 1, 40, 0⟩
def narrow : State := { State.reset with lanes := State.reset.lanes.set 8 2, packets := [wide] }
theorem witness_PlatformAndHealth_parts : narrow.packets = [wide] ∧ wide.stop = 0 ∧ wide.sent + 1 < narrow.slotsFor wide.pkt 40 ∧ narrow.slotsFor wide.pkt 40 ≤ 1 + 1
    ∧ isCarry wide.pkt = false ∧ connV ((narrow.slotTables.get 0).bank.get 0) = false ∧ isCarry { hopping with req := .part true [] } = true :=
  ⟨rfl, rfl, by decide, by decide, rfl, by decide, rfl⟩
theorem witness_PlatformAndHealth_health : (let k : Cluster := { (default : Cluster) with throttleLimit := 50#16, critSince := [some 0#64, none], droopEvents := 3#32 }
      k.droopEvents ≠ BitVec.allOnes 32 ∧ k.throttleLimit.toInt ≤ (60 : BitVec 16).toInt ∧ ¬k.throttleLimit.toInt ≤ (40 : BitVec 16).toInt
      ∧ some 0#64 ∈ k.critSince ∧ 940000 ≤ ((940000 : Word) - 0#64).toNat ∧ (default : Cluster).critSince = [])
    ∧ coreStore .imem = true ∧ coreStore .hbm = false ∧ coreStore .comm = false := by decide
/-- A cluster whose slot 8 computes for core 3. -/
def helped : Cluster := { (default : Cluster) with spare := some 3, recompute := true }
theorem witness_PlatformAndHealth_spares : (let s := booted
      s.boot = .running ∧ 0 = s.lnum ∧ s.core.ctx = none ∧ s.core.mode = .halted ∧ (s.clusters.get 0).spare = none ∧ (s.clusters.get 0).spareBad = false
        ∧ (s.clusters.get 0).unavailable = [] ∧ s.retiring = [] ∧ s.physOf 0 ≠ 8)
    ∧ (let s : State := { booted with pairErrors := [(1, 2, 0#64, true)] }
       let mine := s.pairErrors.filter (fun e => e.1 == 1 && e.2.1 == 2)
       mine = [(1, 2, 0#64, true)] ∧ (s.hbmSpares.filter (fun p => p.1 == 1)).length < 2 ∧ (1, 2, false) ∉ s.hbmSpares)
    ∧ State.reset.pairErrors = [] ∧ ({ State.reset with hbmSpares := [(1, 2, false)] } : State).hbmSpares = [(1, 2, false)]
    ∧ State.reset.lanes.get 5 + 1 < 3 ∧ (let s : State := { State.reset with lanes := State.reset.lanes.set 5 2 }
        s.lanes.get 5 = 2 ∧ s.left = [] ∧ 3 ≤ (s.lanes.set 5 3).get 5)
    ∧ helped.spare = some 3 ∧ helped.recompute = true ∧ 3 / 8 = 0 ∧ (booted.clusters.get 0).spare = none ∧ (booted.clusters.get 0).spareBad = false := by decide
/-- A packet has left by port 5: whether it is still on the link is not known, so its clause is met where it is. -/
theorem witness_PlatformAndHealth_link : (let w : Waiting := ⟨hopping, .load, 0#64, 0#64, 0#64, none⟩
      let s : State := { State.reset with lanes := State.reset.lanes.set 5 2, left := [(5, 3)], waiting := [w] }
      s.lanes.get 5 = 2 ∧ s.left = [(5, 3)] ∧ s.waiting.find? (fun w => w.pkt.id == 3) = some w) := by decide
theorem witness_MemoryStaysCanonical : (let s := State.reset.withFetchWord 32 0x02D4000A
    Memory.wf s.mem = true ∧ (match step s with
      | .next t => Memory.wf t.mem
      | _ => false) = true) := by decide

end Sys2Proof.Tests
end

section
/-! What a word that issues comes to, one lemma for each outcome of its body, and what taking the ring waits leaves as it is. -/
namespace Sys2Proof.Proofs
open Sys2Proof.Machine Sys2Proof.Safety Sys2Proof.Laws

/-! ### The outcomes of a word that issues -/

/-- A word that issues has not been under way. -/
theorem leaveWord_of_issues {s : State} {i : Instr} (h : issues s i) : leaveWord s = s := by
  obtain ⟨hr, -⟩ := h
  simp only [State.ready, State.active, State.midWord, Bool.and_eq_true, Bool.not_eq_true'] at hr
  obtain ⟨⟨⟨⟨⟨⟨ha, hm⟩, -⟩, -⟩, -⟩, -⟩, -⟩ := hr
  unfold leaveWord
  split
  next hu =>
    have hw : s.core.underway = false := by
      rw [hm] at ha
      simp only [Bool.false_or, Bool.and_eq_true] at ha
      simpa [hu, ha.1] using hm
    rw [State.mapCore, ← hw]
  next => rfl

/-- A word without checks of its own before its ring waits finishes with what its body says. -/
theorem issue_ready {i : Instr} {body : State → WordResult} {s : State} (h : issues s i) :
    issue i body s = finishWord i s (match body (takeRing i s) with
      | .ok t k => .ok (stepAfter s.unit t) k
      | r => r) := issueWith_ready h rfl

section
variable {i : Instr} {body : State → WordResult} {s : State} (hx : exec i s = .next (issue i body s))
include hx

theorem exec_of_fault {f : Flt} (hb : body (takeRing i s) = .fault f) : faults s i f := by
  intro h
  rw [hx, issue_ready h, hb]
  simp only [finishWord, leaveWord_of_issues h]

theorem exec_of_blocked {c : Nat} (hb : body (takeRing i s) = .blocked id c) : blocks s i c := by
  intro h
  rw [hx, issue_ready h, hb]
  simp only [finishWord, leaveWord_of_issues h, blockOrStamp, id, cStamp]

theorem exec_of_busy {m : State → State} (hb : body (takeRing i s) = .busy m) (h : issues s i) :
    exec i s = .next (stayUnderway (m s)) := by
  rw [hx, issue_ready h, hb]; rfl

theorem exec_of_waits {m : State → State} (hb : body (takeRing i s) = .waits m) (h : issues s i) :
    exec i s = .next (noteBlocked (m (metStamp (leaveWord s))) 8) := by
  rw [hx, issue_ready h, hb]; rfl

theorem exec_of_done {t : State} (hb : body (takeRing i s) = .done t) (h : issues s i) : exec i s = .next t := by
  rw [hx, issue_ready h, hb]; rfl

theorem completes_of_ok {e : State} {k : Ctl} (hb : body (takeRing i s) = .ok e k) (h : issues s i) : completes s i k e :=
  completes_issue h hx hb

end

/-- A word that reads no block of another device runs its body. -/
theorem withBlocks_here {w : Await} {bs : List (Word × Nat)} {body : State → WordResult} {s : State}
    (h : remoteParts s bs = []) : withBlocks w bs body s = body s := by
  simp only [withBlocks, h]

/-! ### The ring waits change token FIFOs and vector word numbers only -/

theorem takeWaits_eq (c : Core) (u : Sqr) (r : BitVec 4) : c.takeWaits u r = { c with tokens := (c.takeWaits u r).tokens } := by
  unfold Core.takeWaits
  split <;> split <;> rfl

theorem takeRing_eq (i : Instr) (s : State) : takeRing i s = { s with core :=
    { s.core with tokens := (takeRing i s).core.tokens, vword := (takeRing i s).core.vword } } := by
  have h := takeWaits_eq s.core s.unit i.ring
  unfold takeRing
  split
  · exact congrArg (fun c : Core => { s with core := { c with vword := (s.core.takeWaits s.unit i.ring).vword + 1 } }) h
  · rw [h]

@[simp] theorem takeRing_ctx (i : Instr) (s : State) : (takeRing i s).core.ctx = s.core.ctx := by rw [takeRing_eq]
@[simp] theorem takeRing_pend (i : Instr) (s : State) : (takeRing i s).core.pend = s.core.pend := by rw [takeRing_eq]
@[simp] theorem takeRing_smpq (i : Instr) (s : State) : (takeRing i s).core.smpq = s.core.smpq := by rw [takeRing_eq]
@[simp] theorem takeRing_hyp (i : Instr) (s : State) : (takeRing i s).hyp = s.hyp := by
  rw [takeRing_eq]; simp only [State.hyp]; cases s.unit <;> rfl
@[simp] theorem takeRing_unitPending (i : Instr) (s : State) (u : Sqr) : (takeRing i s).unitPending u = s.unitPending u := by
  rw [takeRing_eq]; rfl

end Sys2Proof.Proofs
end

section
/-! FRAME.BEGIN, DIGEST, the frame counter and sys.gtc (R17, R355, R386, R389–R391). -/
namespace Sys2Proof.Proofs
open Sys2Proof.Machine Sys2Proof.Safety Sys2Proof.Laws

/-! ### FRAME.BEGIN -/

theorem frameBegin_faults {s : State} {r : BitVec 4} {a : BitVec 5} (h : bits (s.r5 a) 63 32 ≠ 0) :
    faults s (.frameBegin r a) ⟨0x15, 0, 0#64⟩ :=
  exec_of_fault rfl (by simp only [takeRing_r5, if_pos h]; rfl)

theorem ofNat_bits_low (v : Word) : BitVec.ofNat 32 (bits v 31 0) = v.setWidth 32 := by
  apply BitVec.eq_of_toNat_eq
  simp [bits]

theorem frameBegin_does {s : State} {r : BitVec 4} {a : BitVec 5} (h : bits (s.r5 a) 63 32 = 0) :
    does s (.frameBegin r a) (fun t => t.mapCore (fun c => { c with frameNext := some ((t.r5 a).setWidth 32) })) :=
  completes_of_ok rfl (by simp only [takeRing_r5, h, ne_eq, not_true_eq_false, if_false, ofNat_bits_low]; rfl)

/-! ### DIGEST -/

section
variable {s : State} {r : BitVec 4} {d a b : BitVec 5}

/-- The state in which a DIGEST reads: the CC's own earlier accesses are performed as far as they may be (R135). -/
def digestStart (r : BitVec 4) (d a b : BitVec 5) (s : State) : State :=
  flushUnit .cc (2 * (takeRing (.digest r d a b) s).core.pend.length + 1) (takeRing (.digest r d a b) s)

theorem digest_busy (hp : (digestStart r d a b s).unitPending .cc = true) (h : issues s (.digest r d a b)) :
    exec (.digest r d a b) s = .next (stayUnderway s) :=
  exec_of_busy (m := id) rfl (if_pos hp) h

variable (hp : (digestStart r d a b s).unitPending .cc = false)
  (hr : remoteParts (digestStart r d a b s) (digestBlocks (digestStart r d a b s) ((digestStart r d a b s).r5 a)) = [])
include hp hr

theorem digest_table_faults {f : Flt} (ht : digestTable (digestStart r d a b s) ((digestStart r d a b s).r5 a) = .error f) :
    faults s (.digest r d a b) f := by
  refine exec_of_fault rfl ((if_neg (ne_true_of_eq_false hp)).trans ?_)
  simp only [digestStart] at hr ht
  rw [withBlocks_here hr]
  simp only [ht]

theorem digest_entry_faults {es : List (Nat × Nat × Nat)} {u : State} {f : Flt}
    (ht : digestTable (digestStart r d a b s) ((digestStart r d a b s).r5 a) = .ok (es, u))
    (he : digestAll (u.r5 b) u es = .error f) : faults s (.digest r d a b) f := by
  refine exec_of_fault rfl ((if_neg (ne_true_of_eq_false hp)).trans ?_)
  simp only [digestStart] at hr ht
  rw [withBlocks_here hr]
  simp only [ht, he]

theorem digest_completes {es : List (Nat × Nat × Nat)} {u v : State} {c : Word}
    (ht : digestTable (digestStart r d a b s) ((digestStart r d a b s).r5 a) = .ok (es, u))
    (he : digestAll (u.r5 b) u es = .ok (c, v)) (h : issues s (.digest r d a b)) : completes s (.digest r d a b) .next (v.w5 d c) := by
  refine completes_of_ok rfl ((if_neg (ne_true_of_eq_false hp)).trans ?_) h
  simp only [digestStart] at hr ht
  rw [withBlocks_here hr]
  simp only [ht, he]
  rfl

end

theorem crc64_append (c : Word) (x y : List Byte) : crc64 c (x ++ y) = crc64 (crc64 c x) y := List.foldl_append

/-! ### The frame counter -/

/-- A core after a cycle in which it is resident and not stopped, with the frame counter's RUN and COUNT (R81, R386). -/
def tickedCore (c : Core) (run : Bool) (n : BitVec 32) : Core :=
  { c.divTick with cycle := c.cycle + 1, frameRun := run, frameCount := n, frameNext := none, cntCp := c.cntCp - c.cpZero, cpZero := 0 }

theorem tick_stopped {c : Core} (h : c.mode ≠ .running) : c.tick = c := by
  simp [Core.tick, h]

theorem tick_resident {c : Core} (h : c.mode = .running) : c.tick = { c.frameTick.divTick.dropZero with cycle := c.cycle + 1 } :=
  if_neg (by simp [h])

theorem frameTick_begun {c : Core} {n : BitVec 32} (hn : c.frameNext = some n) :
    c.frameTick = { c with frameRun := true, frameCount := n, frameNext := none } := by
  simp only [Core.frameTick, hn]

theorem frameTick_counts {c : Core} (hn : c.frameNext = none) : c.frameTick = { c with
    frameCount := if c.frameRun = true ∧ c.frameCount ≠ BitVec.allOnes 32 then c.frameCount + 1 else c.frameCount
    frameNext := none } := by
  simp only [Core.frameTick, hn, Bool.and_eq_true, bne_iff_ne]
  split
  · rfl
  · rw [← hn]

theorem tick_begun {c : Core} {n : BitVec 32} (h : c.mode = .running) (hn : c.frameNext = some n) : c.tick = tickedCore c true n := by
  rw [tick_resident h, frameTick_begun hn]; rfl

theorem tick_running {c : Core} (h : c.mode = .running) (hn : c.frameNext = none) : c.tick = tickedCore c c.frameRun
    (if c.frameRun = true ∧ c.frameCount ≠ BitVec.allOnes 32 then c.frameCount + 1 else c.frameCount) := by
  rw [tick_resident h, frameTick_counts hn]; rfl

theorem exec_frameCountAdvance (s : State) : exec (.frameCountAdvance s.lnum) s = .next { s with core := s.core.tick } :=
  congrArg Host.Outcome.next ((within_self _ s).trans (focus_self (s.mapCore Core.tick)))

/-! ### sys.gtc -/

theorem gtcBringup_steps {s : State} {v : Word} (hd : s.dispatched = false) (hg : s.gtcStepped = false) (hv : s.gtc.toNat < v.toNat) :
    exec (.gtcBringupStep v) s = .next
      { s with gtc := v, gtcStepped := true, lastCorrection := s.lastCorrection.map (fun l => l + (v - s.gtc)) } := by
  refine congrArg Host.Outcome.next (if_neg ?_)
  simp [hd, hg, hv]

theorem gtcBringup_stays {s : State} {v : Word} (h : s.dispatched = true ∨ s.gtcStepped = true ∨ v.toNat ≤ s.gtc.toNat) :
    exec (.gtcBringupStep v) s = .next s := by
  refine congrArg Host.Outcome.next (if_pos ?_)
  simpa [or_assoc] using h

/-- A correction is made where none was made in the last 2^16 periods. -/
theorem gtcDrift_corrects {s : State} {leads : Bool} (hl : ∀ l, s.lastCorrection = some l → 65535 ≤ (s.gtc - l).toNat)
    (hd : leads = true ∨ s.dispatched = true ∨ s.gtcStepped = true) :
    exec (.gtcDriftCorrection leads) s = .next { s with gtc := if leads then s.gtc else s.gtc + 2,
                                                         lastCorrection := some (if leads then s.gtc else s.gtc + 2) } := by
  refine congrArg Host.Outcome.next ((if_neg ?_).trans ?_)
  · rcases hd with h | h | h <;> simp [h]
  · cases h : s.lastCorrection with
    | none => rfl
    | some l => exact if_pos (hl l h)

theorem gtcDrift_waits {s : State} {l : Word} (h : s.lastCorrection = some l) (hl : (s.gtc - l).toNat < 65535) (leads : Bool) :
    exec (.gtcDriftCorrection leads) s = .next s := by
  refine congrArg Host.Outcome.next (ite_eq_left_iff.mpr fun _ => ?_)
  rw [h]
  exact if_neg (by omega)

/-- Settles O57: FRAME.BEGIN and DIGEST by the outcome of their bodies, the counters by their equations. -/
theorem timeAndDigest : Obligations.TimeAndDigest := by
  refine ⟨fun s r d a b => ⟨frameBegin_faults, frameBegin_does, digest_busy, fun hp hr => ⟨fun f ht => digest_table_faults hp hr ht,
    fun es u ht => ⟨fun f he => digest_entry_faults hp hr ht he, fun c v he => digest_completes hp hr ht he⟩⟩⟩,
    fun c x y => ⟨rfl, crc64_append c x y, by decide, by decide⟩, fun s v => ⟨?_, ?_, ?_, rfl, gtcBringup_steps, gtcBringup_stays, ?_, ?_, ?_⟩⟩
  · intro h
    rw [exec_frameCountAdvance, tick_stopped h]
  · intro n h hn
    rw [exec_frameCountAdvance, tick_begun h hn]; rfl
  · intro h hn
    rw [exec_frameCountAdvance, tick_running h hn]; rfl
  · exact fun hl => ⟨gtcDrift_corrects hl (.inl rfl), fun hd => gtcDrift_corrects hl (.inr hd)⟩
  · intro hd hg
    exact congrArg Host.Outcome.next (if_pos (by simp [hd, hg]))
  · exact fun l h hl leads => gtcDrift_waits h hl leads

end Sys2Proof.Proofs
end


section
/-! The values that the system registers show (R81), and the machine right after reset (R24). -/
namespace Sys2Proof.Proofs
open Sys2Proof.Machine Sys2Proof.Safety Sys2Proof.Laws

/-! ### Fields of system registers -/

/-- A sum of distinct powers of two below `2 ^ n` has the bits that its summands name, and no others. -/
theorem sum_powers_bits (p : Nat → Prop) [DecidablePred p] (n : Nat) :
    ((List.range n).map (fun k => if p k then 2 ^ k else 0)).sum < 2 ^ n
      ∧ ∀ k < n, ((List.range n).map (fun k => if p k then 2 ^ k else 0)).sum.testBit k = decide (p k) := by
  induction n with
  | zero => simp
  | succ n ih =>
    obtain ⟨hlt, hbit⟩ := ih
    rw [List.range_succ, List.map_append, List.sum_append, List.map_singleton, List.sum_singleton]
    by_cases hp : p n
    · rw [if_pos hp, Nat.add_comm]
      refine ⟨by rw [pow_succ]; omega, fun k hk => ?_⟩
      rcases Nat.lt_succ_iff_lt_or_eq.mp hk with hk | rfl
      · rw [Nat.testBit_two_pow_add_gt hk, hbit k hk]
      · rw [Nat.testBit_two_pow_add_eq, Nat.testBit_lt_two_pow hlt, decide_eq_true hp]; rfl
    · rw [if_neg hp, Nat.add_zero]
      refine ⟨by rw [pow_succ]; omega, fun k hk => ?_⟩
      rcases Nat.lt_succ_iff_lt_or_eq.mp hk with hk | rfl
      · exact hbit k hk
      · rw [Nat.testBit_lt_two_pow hlt, decide_eq_false hp]

theorem smpact_bit (c : Core) {k : Nat} (hk : k < 64) :
    (BitVec.ofNat 64 c.smpact).getLsbD k = decide ((c.smp.get k).state = 1) := by
  have h := (sum_powers_bits (fun k => (c.smp.get k).state = 1) 64).2 k hk
  rw [BitVec.getLsbD_ofNat, Core.smpact, ← List.sum_eq_foldl, h]
  simp [hk]

/-- A tenant, bits 51:13 of a root and 13 zeros, side by side, as a number. -/
theorem ofNat_tenant_root (tenant : Nat) (root : Word) (ht : tenant < 2 ^ 12) :
    BitVec.ofNat 64 (tenant * 2 ^ 52 + bits root 51 13 * 2 ^ 13) = BitVec.ofNat 12 tenant ++ root.extractLsb' 13 39 ++ 0#13 := by
  apply BitVec.eq_of_toNat_eq
  have hb : bits root 51 13 < 2 ^ 39 := Nat.mod_lt _ (by decide)
  have he : (root.extractLsb' 13 39).toNat = bits root 51 13 := by
    simp [bits, BitVec.extractLsb'_toNat, Nat.shiftRight_eq_div_pow]
  rw [BitVec.toNat_append, BitVec.toNat_append, BitVec.toNat_ofNat, BitVec.toNat_ofNat, Nat.mod_eq_of_lt ht, he,
    ← Nat.shiftLeft_add_eq_or_of_lt hb, ← Nat.shiftLeft_add_eq_or_of_lt (BitVec.isLt _), BitVec.toNat_ofNat, Nat.shiftLeft_eq, Nat.shiftLeft_eq]
  omega

/-- The numbers of R360 with no register read as unassigned (R82). -/
theorem sysreg_unassigned (s : State) {n : Nat}
    (h : 0x200 ≤ n ∨ (0x107 ≤ n ∧ n < 0x200) ∨ (0x084 ≤ n ∧ n < 0x100) ∨ (0x052 ≤ n ∧ n < 0x060) ∨ (0x025 ≤ n ∧ n < 0x040)
      ∨ (0x041 ≤ n ∧ n < 0x050) ∨ (0x018 ≤ n ∧ n < 0x020) ∨ (0x00A ≤ n ∧ n < 0x010)) : s.sysreg n = none := by
  simp (disch := omega) only [State.sysreg, if_neg]

theorem sysreg_context (s : State) (x : Context) (h : s.core.ctx = some x) :
    s.sysreg 0x006 = some x.task ∧ s.sysreg 0x007 = some x.rcb ∧ s.sysreg 0x024 = some (x.stall.setWidth 64)
      ∧ s.sysreg 0x083 = some (x.save + BitVec.ofNat 64 (x.saveIx * 0x400000)) := by
  refine ⟨?_, ?_, ?_, ?_⟩ <;> simp [State.sysreg, Core.task, Core.saveBlock, h]

theorem sysreg_ptroot (s : State) (x : Context) (h : s.core.ctx = some x) (ht : x.tenant < 2 ^ 12) :
    s.sysreg 0x082 = some (BitVec.ofNat 12 x.tenant ++ (s.roots.get x.tenant).extractLsb' 13 39 ++ 0#13) := by
  have hc : s.core.tenant = x.tenant := by simp [Core.tenant, h]
  rw [← ofNat_tenant_root _ _ ht, ← hc]
  rfl

theorem sysreg_tokens (s : State) : s.sysreg 0x021 = some (BitVec.ofNat 64
    (((List.range 10).map (fun k => (s.core.tokens.get k).toks.length * 2 ^ (6 * k))).sum)) := by
  rw [List.sum_eq_foldl]; rfl

theorem sysreg_scratch (s : State) {k : Nat} (hk : k < 8) : s.sysreg (0x010 + k) = some (s.core.scratch.get k) := by
  interval_cases k <;> rfl

theorem sysreg_windows (s : State) {k : Nat} (hk : k < 8) :
    s.sysreg (0x060 + k) = some (s.core.win.get k) ∧ s.sysreg (0x068 + k) = some (BitVec.ofNat 64 (s.core.out k % 256)) := by
  interval_cases k <;> exact ⟨rfl, rfl⟩

theorem sysreg_therm (s : State) {k : Nat} (hk : k < 4) :
    s.sysreg (0x100 + k) = some (BitVec.ofNat 64 (thermWord (s.clusters.get (s.lnum / 8)) k)) := by
  interval_cases k <;> rfl

/-- Settles O9: the registers with a case of their own by the lemmas above, every other by its arm of the table. -/
theorem systemRegisterValues : Obligations.SystemRegisterValues := by
  intro s
  refine ⟨rfl, rfl, rfl, rfl, rfl, rfl, fun x h => ?_, rfl, rfl, fun k => sysreg_scratch s, rfl, sysreg_tokens s, rfl,
    ⟨_, rfl, fun k => smpact_bit s.core⟩, fun x h ht => ?_,
    ⟨fun k => sysreg_therm s, rfl, ?_⟩, rfl, rfl, rfl, fun k => sysreg_windows s, rfl, rfl, rfl, fun n => sysreg_unassigned s⟩
  · obtain ⟨htask, hrcb, hstall, -⟩ := sysreg_context s x h
    exact ⟨htask, hrcb, hstall⟩
  · obtain ⟨-, -, -, hsave⟩ := sysreg_context s x h
    exact ⟨sysreg_ptroot s x h ht, hsave⟩
  · rw [← BitVec.ofNat_toNat]; rfl

/-! ### Reset -/

theorem coreAt_reset (n : Nat) : State.reset.coreAt n = Core.reset := by
  unfold State.coreAt
  split <;> rfl

/-- Bringing a core into focus changes which core that is, and where the others' records are. -/
theorem focus_eq (n : Nat) (s : State) : focus n s = { s with core := s.coreAt n, lnum := n, others := (focus n s).others } := by
  by_cases h : n = s.lnum
  · subst h; simp
  · simp only [focus, if_neg h]

/-- Every core reads after reset as R24 says: no table lists anything. -/
theorem reset_core_registers : (∀ u r, Core.reset.reg u r = 0#64) ∧ (∀ r, r < 8 → Core.reset.guard r = (r == 0)) := by
  refine ⟨fun u r => ?_, by decide⟩
  unfold Core.reg
  split
  · rfl
  · cases u <;> rfl

theorem reset_core_engines (u : Sqr) : Core.reset.eng u = default := by cases u <;> rfl

theorem reset_core_buffers (space k : Nat) : Tab.get (Core.reset.buf space) k = 0#8 := by
  unfold Core.buf
  split <;> rfl

/-- Settles O27: the record of every core is that of `Core.reset`, whose tables list nothing. -/
theorem resetState : Obligations.ResetState := by
  intro n
  rw [focus_eq, coreAt_reset]
  refine ⟨rfl, rfl, reset_core_registers.1, reset_core_registers.2, fun u => ?_, fun u k => ?_, rfl, rfl, rfl, fun k => rfl,
    rfl, rfl, rfl, rfl, fun k => ⟨BitVec.zero_eq, rfl, rfl, rfl, rfl⟩, reset_core_buffers, fun k => ⟨rfl, rfl⟩, rfl, rfl, fun k => ⟨rfl, rfl⟩,
    rfl, rfl, rfl, fun h => rfl, fun d => rfl, rfl⟩
  · simp only [reset_core_engines]
    exact ⟨rfl, rfl, rfl, rfl, fun k => ⟨rfl, rfl⟩⟩
  · simp only [reset_core_engines]
    exact ⟨rfl, rfl⟩

end Sys2Proof.Proofs
end

section
/-! The ready pools and the number of the core in focus, through reads and writes of a tenant's memory. -/
namespace Sys2Proof.Proofs
open Sys2Proof.Machine Sys2Proof.Safety Sys2Proof.Laws

/-- The two states have the same core number in focus and the same ready pools. -/
def sameTasks (s t : State) : Prop := s.lnum = t.lnum ∧ s.pools = t.pools

theorem sameTasks_refl (s : State) : sameTasks s s := ⟨rfl, rfl⟩

theorem sameTasks_trans {s t u : State} (h : sameTasks s t) (k : sameTasks t u) : sameTasks s u := ⟨h.1.trans k.1, h.2.trans k.2⟩

theorem sameTasks_foldl {α : Type} (f : State → α → State) (hf : ∀ s a, sameTasks (f s a) s) (l : List α) (s : State) :
    sameTasks (l.foldl f s) s := by
  induction l generalizing s with
  | nil => exact sameTasks_refl s
  | cons a t ih => exact sameTasks_trans (ih _) (hf s a)

theorem sameTasks_writePhysLE (s : State) (pa n v : Nat) : sameTasks (s.writePhysLE pa n v) s := sameTasks_refl s

theorem sameTasks_setAD (s : State) (entry : Nat) (e : Word) (write : Bool) : sameTasks (setAD s entry e write) s := by
  unfold setAD
  extract_lets e'
  split
  · exact sameTasks_refl s
  · split
    · exact sameTasks_foldl _ (fun s k => sameTasks_writePhysLE s _ _ _) _ s
    · exact sameTasks_writePhysLE s _ _ _

/-- What passes a check is what follows the check. -/
theorem ok_of_check {ε α : Type} {c : Prop} [Decidable c] {e : ε} {r : Except ε α} {v : α}
    (h : (if c then .error e else r) = .ok v) : r = .ok v := by
  split at h
  · cases h
  · exact h

/-- A translation sets A and D bits and fills caches. -/
theorem sameTasks_translate {s t : State} {tenant pa : Nat} {va leaf : Word} {acc : AccKind}
    (h : translate s tenant va acc = .ok (pa, leaf, t)) : sameTasks t s := by
  unfold Machine.translate at h
  simp only [] at h
  split at h
  next => cases ok_of_check (ok_of_check h); exact sameTasks_refl s
  next =>
    split at h
    next => cases h
    next => cases h
    next => cases ok_of_check (ok_of_check h); exact sameTasks_setAD s _ _ _

/-- A packet that is sent joins those in flight and those that wait. -/
theorem sameTasks_launchOne (s : State) (iod : Bool) (lnum : Nat) (p : Packet) : sameTasks (s.launchOne iod lnum p).2 s := by
  cases iod <;> exact sameTasks_refl s

theorem sameTasks_launch (s : State) (lnum : Nat) (p : Packet) (iod : Bool) : sameTasks (s.launch lnum p iod).2 s :=
  sameTasks_trans (sameTasks_launchOne _ _ _ _) (sameTasks_foldl _ (fun t x => sameTasks_launchOne t iod lnum x) _ s)

theorem sameTasks_sendFor (x : Source) (s : State) (dstDev dstLnum key : Nat) (req : Request) (kind : WaitKind) :
    sameTasks (sendFor x s dstDev dstLnum key req kind).2 s :=
  sameTasks_trans (sameTasks_refl _) (sameTasks_launch s _ _ _)

theorem sameTasks_putHome (x : Source) (s : State) (pa key : Nat) (bs : List Byte) (kind : WaitKind) :
    sameTasks (putHome x s pa key bs kind) s := by
  unfold putHome
  split
  · exact sameTasks_refl s
  · exact sameTasks_sendFor _ _ _ _ _ _ _

theorem sameTasks_pokedMark (s : State) (tenant pa n : Nat) : sameTasks (pokedMark s tenant pa n) s := by
  unfold pokedMark
  split <;> exact sameTasks_refl s

theorem sameTasks_pokeAs (s : State) (tenant : Nat) (va : Word) (n v : Nat) : sameTasks (pokeAs s tenant va n v) s := by
  unfold pokeAs
  split
  next => exact sameTasks_refl s
  next h => exact sameTasks_trans (sameTasks_putHome _ _ _ _ _ _) (sameTasks_trans (sameTasks_pokedMark _ _ _ _) (sameTasks_translate h))

theorem sameTasks_addRun (s : State) (x : Context) (f : Nat → Nat) : sameTasks (addRun s x f) s :=
  sameTasks_foldl _ (fun t _ => sameTasks_pokeAs t _ _ _ _) _ s

theorem sameTasks_blockPage {s t : State} {va : Word} {acc : AccKind} {pa : Nat} (h : blockPage s va acc = .ok (pa, t)) : sameTasks t s := by
  unfold blockPage at h
  split at h
  · cases h
  · split at h
    next => cases h
    next ht => cases h; exact sameTasks_translate ht

theorem sameTasks_getVirt {fuel : Nat} {s t : State} {va : Word} {off len : Nat} {img : Tab Byte}
    (h : getVirt s va off len fuel = .ok (img, t)) : sameTasks t s := by
  induction fuel generalizing s va off len img with
  | zero => cases h; exact sameTasks_refl _
  | succ fuel ih =>
    rw [getVirt] at h
    split at h
    · cases h; exact sameTasks_refl _
    · simp only [] at h
      split at h
      next => cases h
      next hp =>
        split at h
        next => cases h
        next =>
          split at h
          next => cases h
          next hr => cases h; exact sameTasks_trans (ih hr) (sameTasks_blockPage hp)

theorem sameTasks_loadImage {s t : State} {x : Context} (h : loadImage s x = .ok t) : sameTasks t s := by
  unfold loadImage at h
  split at h
  next => cases h
  next hg =>
    cases h
    obtain ⟨hl, hp⟩ := sameTasks_getVirt hg
    exact ⟨hl, hp⟩

end Sys2Proof.Proofs
end

section
/-! Tasks: TASK.ENQ, TASKENQ, TASK.DONE, CKPT, TASK.YIELD, dispatch, pre-emption and Squall (R320–R332, R401, R424). -/
namespace Sys2Proof.Proofs
open Sys2Proof.Machine Sys2Proof.Safety Sys2Proof.Laws

/-! ### Enqueueing: R326 -/

/-- The context of an enqueued task is that of its record, for the tenant that asks. -/
theorem enqCheck_context {s t : State} {tenant : Nat} {task entry : Word} {y : Context}
    (h : enqCheck s tenant true task = .ok (y, entry, t)) : y.task = task ∧ y.tenant = tenant := by
  unfold enqCheck at h
  replace h := ok_of_check (ok_of_check h)
  split at h
  next => cases h
  next =>
    split at h
    next => cases h
    next =>
      unfold enqRecord at h
      replace h := ok_of_check h
      split at h
      next => cases h
      next l _ _ =>
        simp only [] at h
        by_cases ht : (l.headD default).tenant = tenant
        · cases ok_of_check (ok_of_check h)
          exact ⟨rfl, ht⟩
        · rw [if_pos (by rw [Bool.true_and, bne_iff_ne]; exact ht)] at h
          cases h

/-- The checks that TASK.ENQ makes on a record that is at hand, and its enqueue. -/
def enqRecordWord (task : Word) (die : Nat) (s : State) : WordResult :=
  match enqCheck s s.core.tenant true task with
  | .error f => .fault f
  | .ok (x, entry, t) => if poolFull t die then .blocked id 8 else .next (enqueue t die x entry)

/-- What TASK.ENQ of a record with operand `d` does once it may issue. -/
def enqWord (task d : Word) (s : State) : WordResult :=
  let die := if bits d 2 0 = 7 then s.lnum / 96 else bits d 2 0
  match checkMem s task 64 3 with
  | .error f => .fault f
  | .ok _ =>
    if bits d 63 3 ≠ 0 ∨ 3 < die then .fault ⟨0x15, 0, 0#64⟩
    else if s.unitPending .cc then .waits id
    else match unfetched s (recordBlocks s task) with
      | p :: ps => .busy (askParts (p :: ps))
      | [] => enqRecordWord task die s

theorem exec_taskEnq (r : BitVec 4) (a b : BitVec 5) (s : State) :
    exec (.taskEnq r a b) s = .next (issue (.taskEnq r a b) (fun t => enqWord (t.r5 a) (t.r5 b) t) s) := rfl

theorem enqWord_takeRing (i : Instr) (a b : BitVec 5) (s : State) :
    enqWord ((takeRing i s).r5 a) ((takeRing i s).r5 b) (takeRing i s) = enqWord (s.r5 a) (s.r5 b) (takeRing i s) := by
  rw [takeRing_r5, takeRing_r5]

section
variable {t : State} {task d : Word} {m : Nat × Word × State}

theorem enqWord_unmapped {f : Flt} (hm : checkMem t task 64 3 = .error f) : enqWord task d t = .fault f := by
  simp only [enqWord, hm]

variable (hm : checkMem t task 64 3 = .ok m)
include hm

theorem enqWord_out_of_range (hr : ¬(bits d 63 3 = 0 ∧ (if bits d 2 0 = 7 then t.lnum / 96 else bits d 2 0) ≤ 3)) :
    enqWord task d t = .fault ⟨0x15, 0, 0#64⟩ := by
  simp only [enqWord, hm]
  exact if_pos (by rw [not_and_or] at hr; omega)

variable (hr : bits d 63 3 = 0 ∧ (if bits d 2 0 = 7 then t.lnum / 96 else bits d 2 0) ≤ 3)
include hr

theorem enqWord_in_range : enqWord task d t = if t.unitPending .cc then .waits id
    else match unfetched t (recordBlocks t task) with
      | p :: ps => .busy (askParts (p :: ps))
      | [] => enqRecordWord task (if bits d 2 0 = 7 then t.lnum / 96 else bits d 2 0) t := by
  simp only [enqWord, hm]
  exact if_neg (by rintro (h | h) <;> omega)

theorem enqWord_waits (hp : t.unitPending .cc = true) : enqWord task d t = .waits id := by
  rw [enqWord_in_range hm hr, if_pos hp]

variable (hp : t.unitPending .cc = false)
include hp

theorem enqWord_asks (hu : unfetched t (recordBlocks t task) ≠ []) :
    enqWord task d t = .busy (askParts (unfetched t (recordBlocks t task))) := by
  rw [enqWord_in_range hm hr, if_neg (ne_true_of_eq_false hp)]
  cases h : unfetched t (recordBlocks t task) with
  | nil => exact absurd h hu
  | cons p ps => rfl

theorem enqWord_fetched (hu : unfetched t (recordBlocks t task) = []) :
    enqWord task d t = enqRecordWord task (if bits d 2 0 = 7 then t.lnum / 96 else bits d 2 0) t := by
  rw [enqWord_in_range hm hr, if_neg (ne_true_of_eq_false hp), hu]

end

theorem enqRecordWord_fault {t : State} {task : Word} {die : Nat} {f : Flt} (h : enqCheck t t.core.tenant true task = .error f) :
    enqRecordWord task die t = .fault f := by
  simp only [enqRecordWord, h]

theorem enqRecordWord_full {t u : State} {task entry : Word} {die : Nat} {y : Context}
    (h : enqCheck t t.core.tenant true task = .ok (y, entry, u)) (hf : 4096 ≤ (u.pools.get die).length) :
    enqRecordWord task die t = .blocked id 8 := by
  simp only [enqRecordWord, h, poolFull, hf, decide_true, if_true]

theorem enqRecordWord_enqueues {t u : State} {task entry : Word} {die : Nat} {y : Context}
    (h : enqCheck t t.core.tenant true task = .ok (y, entry, u)) (hf : (u.pools.get die).length < 4096) :
    enqRecordWord task die t = .ok (enqueue u die y entry) .next := by
  simp only [enqRecordWord, h, poolFull, Nat.not_le.mpr hf, decide_false, Bool.false_eq_true, if_false]
  rfl

theorem takeRing_tenant {s : State} {x : Context} (i : Instr) (hc : s.core.ctx = some x) : (takeRing i s).core.tenant = x.tenant := by
  simp only [Core.tenant, takeRing_ctx, hc]

section
variable {s : State} {r : BitVec 4} {a b : BitVec 5} {x : Context} {m : Nat × Word × State}

theorem taskEnq_unmapped {f : Flt} (hm : checkMem (takeRing (.taskEnq r a b) s) (s.r5 a) 64 3 = .error f) :
    faults s (.taskEnq r a b) f :=
  exec_of_fault (exec_taskEnq r a b s) ((enqWord_takeRing _ a b s).trans (enqWord_unmapped hm))

variable (hm : checkMem (takeRing (.taskEnq r a b) s) (s.r5 a) 64 3 = .ok m)
include hm

theorem taskEnq_out_of_range
    (hr : ¬(bits (s.r5 b) 63 3 = 0 ∧ (if bits (s.r5 b) 2 0 = 7 then s.lnum / 96 else bits (s.r5 b) 2 0) ≤ 3)) :
    faults s (.taskEnq r a b) ⟨0x15, 0, 0#64⟩ :=
  exec_of_fault (exec_taskEnq r a b s) ((enqWord_takeRing _ a b s).trans (enqWord_out_of_range hm hr))

variable (hr : bits (s.r5 b) 63 3 = 0 ∧ (if bits (s.r5 b) 2 0 = 7 then s.lnum / 96 else bits (s.r5 b) 2 0) ≤ 3)
include hr

theorem taskEnq_waits (hp : s.unitPending .cc = true) (h : issues s (.taskEnq r a b)) :
    exec (.taskEnq r a b) s = .next (noteBlocked (metStamp (leaveWord s)) 8) :=
  exec_of_waits (m := id) (exec_taskEnq r a b s)
    ((enqWord_takeRing _ a b s).trans (enqWord_waits hm hr ((takeRing_unitPending _ s .cc).trans hp))) h

variable (hp : s.unitPending .cc = false)
include hp

theorem taskEnq_asks
    (hu : unfetched (takeRing (.taskEnq r a b) s) (recordBlocks (takeRing (.taskEnq r a b) s) (s.r5 a)) ≠ [])
    (h : issues s (.taskEnq r a b)) : exec (.taskEnq r a b) s = .next (stayUnderway (askParts
      (unfetched (takeRing (.taskEnq r a b) s) (recordBlocks (takeRing (.taskEnq r a b) s) (s.r5 a))) s)) :=
  exec_of_busy (exec_taskEnq r a b s)
    ((enqWord_takeRing _ a b s).trans (enqWord_asks hm hr ((takeRing_unitPending _ s .cc).trans hp) hu)) h

variable (hu : unfetched (takeRing (.taskEnq r a b) s) (recordBlocks (takeRing (.taskEnq r a b) s) (s.r5 a)) = [])
include hu

theorem taskEnq_body : enqWord ((takeRing (.taskEnq r a b) s).r5 a) ((takeRing (.taskEnq r a b) s).r5 b) (takeRing (.taskEnq r a b) s)
    = enqRecordWord (s.r5 a) (if bits (s.r5 b) 2 0 = 7 then s.lnum / 96 else bits (s.r5 b) 2 0) (takeRing (.taskEnq r a b) s) :=
  (enqWord_takeRing _ a b s).trans (enqWord_fetched hm hr ((takeRing_unitPending _ s .cc).trans hp) hu)

variable (hc : s.core.ctx = some x)
include hc

theorem taskEnq_refused {f : Flt} (he : enqCheck (takeRing (.taskEnq r a b) s) x.tenant true (s.r5 a) = .error f) :
    faults s (.taskEnq r a b) f := by
  rw [← takeRing_tenant _ hc] at he
  exact exec_of_fault (exec_taskEnq r a b s) ((taskEnq_body hm hr hp hu).trans (enqRecordWord_fault he))

theorem taskEnq_accepted {y : Context} {entry : Word} {t : State}
    (he : enqCheck (takeRing (.taskEnq r a b) s) x.tenant true (s.r5 a) = .ok (y, entry, t)) :
    let die := if bits (s.r5 b) 2 0 = 7 then s.lnum / 96 else bits (s.r5 b) 2 0
    y.task = s.r5 a ∧ y.tenant = x.tenant
      ∧ (4096 ≤ (t.pools.get die).length → blocks s (.taskEnq r a b) 8)
      ∧ ((t.pools.get die).length < 4096 → issues s (.taskEnq r a b) → completes s (.taskEnq r a b) .next (enqueue t die y entry)) := by
  obtain ⟨htask, hten⟩ := enqCheck_context he
  rw [← takeRing_tenant _ hc] at he
  have hb := taskEnq_body hm hr hp hu
  have hx := exec_taskEnq r a b s
  exact ⟨htask, hten, fun hf => exec_of_blocked hx (hb.trans (enqRecordWord_full he hf)),
    fun hf => completes_of_ok hx (hb.trans (enqRecordWord_enqueues he hf))⟩

end

/-! ### TASKENQ: R401 -/

theorem byHost_running {s t : State} (h : s.boot = .running) : s.byHost t = t := by
  simp [State.byHost, State.hostUp, h]

section
variable {s : State} {w : Word} {tenant : Nat}

/-- The state after a write to TASKENQ that is refused: the record of an F.QUEUE waits to be posted. -/
def taskenqRefused (w : Word) (s : State) : State :=
  { s with unposted := s.unposted ++ [⟨0#64, 0x15#64, BitVec.ofNat 64 (bits w 63 6 * 64), 0#64, 0, 0#64, s.gtc⟩] }

theorem enqRefused_eq (w : Word) (s : State) : enqRefused s (BitVec.ofNat 64 (bits w 63 6 * 64)) = taskenqRefused w s := rfl

variable (hs : s.boot = .running)
include hs

theorem exec_taskenq : exec (.taskenq w tenant) s = .next (taskEnqueue w tenant s) :=
  congrArg Host.Outcome.next (byHost_running hs)

theorem taskenq_die (hd : 3 < bits w 2 0) : exec (.taskenq w tenant) s = .next (taskenqRefused w s) := by
  rw [exec_taskenq hs, ← enqRefused_eq]
  exact congrArg Host.Outcome.next (if_pos hd)

variable (hd : bits w 2 0 ≤ 3)
include hd

theorem taskenq_refused {f : Flt} (he : enqCheck s tenant false (BitVec.ofNat 64 (bits w 63 6 * 64)) = .error f) :
    exec (.taskenq w tenant) s = .next (taskenqRefused w s) := by
  rw [exec_taskenq hs, ← enqRefused_eq]
  refine congrArg Host.Outcome.next ((if_neg (by omega)).trans ?_)
  simp only [he]

variable {y : Context} {entry : Word} {t : State}
  (he : enqCheck s tenant false (BitVec.ofNat 64 (bits w 63 6 * 64)) = .ok (y, entry, t))
include he

theorem taskenq_full (hf : 4096 ≤ (t.pools.get (bits w 2 0)).length) : exec (.taskenq w tenant) s = .next (taskenqRefused w s) := by
  rw [exec_taskenq hs, ← enqRefused_eq]
  refine congrArg Host.Outcome.next ((if_neg (by omega)).trans ?_)
  simp only [he, poolFull, hf, decide_true, if_true]

theorem taskenq_accepted (hf : (t.pools.get (bits w 2 0)).length < 4096) :
    exec (.taskenq w tenant) s = .next (enqueue t (bits w 2 0) y entry) := by
  rw [exec_taskenq hs]
  refine congrArg Host.Outcome.next ((if_neg (by omega)).trans ?_)
  simp only [he, poolFull, Nat.not_le.mpr hf, decide_false, Bool.false_eq_true, if_false]

end

/-! ### TASK.DONE: R327 -/

/-- What TASK.DONE of task `task` does once it may issue. -/
def doneWord (task : Word) (s : State) : WordResult :=
  let x := s.core.context
  let go (s : State) : State := ((releaseAll x s).map Release.state).toOption.getD s
  if task ≠ s.core.task ∨ s.hyp ≠ 0#8 then .fault ⟨0x15, 0, 0#64⟩
  else if s.core.pend.any (fun a => a.kind == .pred) then .waits id
  else if !s.quiet || !s.core.smpq.isEmpty || s.unitPending .cc then .blocked id 7
  else match releaseAll x s with
    | .error f => .fault f
    | .ok (.done t) => .ok (finishTask t x) .pending
    | .ok (.ask _) => .waits go
    | .ok (.full _) => .waits go

theorem exec_taskDone (r : BitVec 4) (a : BitVec 5) (s : State) :
    exec (.taskDone r a) s = .next (issue (.taskDone r a) (fun t => doneWord (t.r5 a) t) s) := rfl

theorem poolFull_iff {s : State} {die : Nat} : poolFull s die = true ↔ 4096 ≤ (s.pools.get die).length := decide_eq_true_iff

section
variable {s : State} {r : BitVec 4} {a : BitVec 5} {x : Context} (hc : s.core.ctx = some x)
include hc

theorem takeRing_task (i : Instr) : (takeRing i s).core.task = x.task := by
  simp only [Core.task, takeRing_ctx, hc]

theorem takeRing_context (i : Instr) : (takeRing i s).core.context = x := by
  simp only [Core.context, takeRing_ctx, hc, Option.getD_some]

theorem taskDone_foreign (h : ¬(s.r5 a = x.task ∧ s.hyp = 0#8)) : faults s (.taskDone r a) ⟨0x15, 0, 0#64⟩ := by
  refine exec_of_fault (exec_taskDone r a s) (if_pos ?_)
  rw [takeRing_r5, takeRing_task hc, takeRing_hyp]
  exact not_and_or.mp h

variable (ho : s.r5 a = x.task ∧ s.hyp = 0#8)
include ho

/-- A TASK.DONE of its own task under the root passes its first check. -/
theorem doneWord_own (i : Instr) : ¬((takeRing i s).r5 a ≠ (takeRing i s).core.task ∨ (takeRing i s).hyp ≠ 0#8) := by
  rw [takeRing_r5, takeRing_task hc, takeRing_hyp]
  rintro (h | h)
  · exact h ho.1
  · exact h ho.2

theorem taskDone_asked (hq : ∃ a ∈ s.core.pend, a.kind = .pred) (h : issues s (.taskDone r a)) :
    exec (.taskDone r a) s = .next (noteBlocked (metStamp (leaveWord s)) 8) := by
  refine exec_of_waits (m := id) (exec_taskDone r a s) ((if_neg (doneWord_own hc ho _)).trans (if_pos ?_)) h
  simpa [takeRing_pend] using hq

/-- The core of a TASK.DONE is quiet (R327). -/
def doneQuiet (i : Instr) (s : State) : Prop :=
  (takeRing i s).quiet = true ∧ s.core.smpq = [] ∧ s.unitPending .cc = false ∧ ∀ a ∈ s.core.pend, a.kind ≠ .pred

theorem taskDone_unquiet (hq : ¬∃ a ∈ s.core.pend, a.kind = .pred) (hn : ¬doneQuiet (.taskDone r a) s) : blocks s (.taskDone r a) 7 := by
  refine exec_of_blocked (exec_taskDone r a s) ((if_neg (doneWord_own hc ho _)).trans ((if_neg ?_).trans (if_pos ?_)))
  · simpa [takeRing_pend] using hq
  · simp only [takeRing_smpq, takeRing_unitPending, Bool.or_eq_true, Bool.not_eq_true']
    by_contra hc
    simp only [not_or, Bool.not_eq_false, Bool.not_eq_true] at hc
    exact hn ⟨hc.1.1, List.isEmpty_iff.mp hc.1.2, hc.2, fun b hb hk => hq ⟨b, hb, hk⟩⟩

variable (hq : doneQuiet (.taskDone r a) s)
include hq

theorem taskDone_body : doneWord ((takeRing (.taskDone r a) s).r5 a) (takeRing (.taskDone r a) s) =
    match releaseAll x (takeRing (.taskDone r a) s) with
    | .error f => .fault f
    | .ok (.done t) => .ok (finishTask t x) .pending
    | .ok (.ask _) => .waits (fun t => ((releaseAll x t).map Release.state).toOption.getD t)
    | .ok (.full _) => .waits (fun t => ((releaseAll x t).map Release.state).toOption.getD t) := by
  obtain ⟨hquiet, hsmpq, hpend, hpred⟩ := hq
  refine (if_neg (doneWord_own hc ho _)).trans ((if_neg ?_).trans ((if_neg ?_).trans ?_))
  · simpa [takeRing_pend] using hpred
  · simp [hquiet, hsmpq, hpend]
  · rw [takeRing_context hc]

theorem taskDone_faults {f : Flt} (h : releaseAll x (takeRing (.taskDone r a) s) = .error f) : faults s (.taskDone r a) f :=
  exec_of_fault (exec_taskDone r a s) ((taskDone_body hc ho hq).trans (by rw [h]))

theorem taskDone_completes {u : State} (h : releaseAll x (takeRing (.taskDone r a) s) = .ok (.done u))
    (hi : issues s (.taskDone r a)) : completes s (.taskDone r a) .pending (finishTask u x) :=
  completes_of_ok (exec_taskDone r a s) ((taskDone_body hc ho hq).trans (by rw [h])) hi

theorem taskDone_waits {u : State}
    (h : releaseAll x (takeRing (.taskDone r a) s) = .ok (.full u) ∨ releaseAll x (takeRing (.taskDone r a) s) = .ok (.ask u))
    (hi : issues s (.taskDone r a)) : exec (.taskDone r a) s = .next (noteBlocked
      (((releaseAll x (metStamp (leaveWord s))).map Release.state).toOption.getD (metStamp (leaveWord s))) 8) := by
  refine exec_of_waits (m := fun t => ((releaseAll x t).map Release.state).toOption.getD t) (exec_taskDone r a s)
    ((taskDone_body hc ho hq).trans ?_) hi
  rcases h with h | h <;> rw [h]

end

/-- The successors of a task whose record is at hand are those from the first that is not handled. -/
theorem releaseAll_fetched {s u : State} {x : Context} {b : List Byte} (hu : unfetched s [(x.task, 64)] = [])
    (hb : readAs s x.tenant x.task 64 64 = .ok (b, u)) : releaseAll x s = .ok (releaseFrom x (BitVec.ofNat 64 (blockField b 0x38 8))
      (blockField b 0x34 1 - u.core.succDone) u.core.succDone u) := by
  simp only [releaseAll, hu, hb]

theorem finishTask_core (u : State) (x : Context) : (finishTask u x).core.mode = .halted ∧ (finishTask u x).core.ctx = none
    ∧ (finishTask u x).core.lastTenant = some x.tenant ∧ (finishTask u x).core.slots = [] := ⟨rfl, rfl, rfl, rfl⟩

theorem releaseFrom_succ (s : State) (x : Context) (list : Word) (k n : Nat) :
    (∀ u, releaseAt s x list k = .done u → releaseFrom x list (n + 1) k s
      = releaseFrom x list n (k + 1) (u.mapCore (fun c => { c with succDone := k + 1, succPred := none, bulk := [] })))
    ∧ ((∀ u, releaseAt s x list k ≠ .done u) → releaseFrom x list (n + 1) k s = releaseAt s x list k) := by
  constructor
  · intro u h
    simp only [releaseFrom, h]
  · intro h
    rw [releaseFrom]
    cases hr : releaseAt s x list k with
    | done u => exact absurd hr (h u)
    | ask u => rfl
    | full u => rfl

/-! ### One successor: R319, R327 -/

theorem natToBytes_add (n m v : Nat) : natToBytes n (v + 256 ^ n * m) = natToBytes n v := by
  induction n generalizing v m with
  | zero => rfl
  | succ n ih =>
    have hd : (v + 256 ^ (n + 1) * m) / 256 = v / 256 + 256 ^ n * m := by
      rw [pow_succ, show v + 256 ^ n * 256 * m = v + 256 * (256 ^ n * m) by ring, Nat.add_mul_div_left _ _ (by decide)]
    have hm : BitVec.ofNat 8 (v + 256 ^ (n + 1) * m) = BitVec.ofNat 8 v := by
      apply BitVec.eq_of_toNat_eq
      rw [BitVec.toNat_ofNat, BitVec.toNat_ofNat, pow_succ, show v + 256 ^ n * 256 * m = v + 2 ^ 8 * (256 ^ n * m) by ring,
        Nat.add_mul_mod_self_left]
    rw [natToBytes, natToBytes, hd, hm, ih]

section
variable {s : State} {x : Context} {succ : Word}

/-- The record of a successor is one that may be released (R327). -/
def releasable (s : State) (x : Context) (succ : Word) : Prop :=
  peekAs s x.tenant (BitVec.ofNat 64 (peekAs s x.tenant succ 8) + 8#64) 2 = x.tenant
    ∧ peekAs s x.tenant (succ + 0x30#64) 4 ≠ 0 ∧ peekAs s x.tenant (succ + 0x35#64) 1 = 0

theorem releaseSuccessor_illegal (h : ¬releasable s x succ) : releaseSuccessor s x succ = .done (failSuccessor s x succ) := by
  unfold releaseSuccessor
  by_cases ht : peekAs s x.tenant (BitVec.ofNat 64 (peekAs s x.tenant succ 8) + 8#64) 2 = x.tenant
  · refine (if_neg (not_not.mpr ht)).trans (if_pos ?_)
    by_contra hc
    exact h ⟨ht, fun h0 => hc (.inl h0), by_contra fun h1 => hc (.inr h1)⟩
  · exact if_pos ht

theorem releaseSuccessor_legal (h : releasable s x succ) : releaseSuccessor s x succ = match decrement s x succ with
    | .inr s => .ask s
    | .inl (n, s) => if n ≠ 1 then .done s else freedSuccessor s x succ := by
  obtain ⟨ht, hp, h0⟩ := h
  exact (if_neg (not_not.mpr ht)).trans (if_neg (by rintro (h | h); exacts [hp h, h h0]))

variable {pa : Nat} {leaf : Word} {t : State} (htr : Machine.translate s x.tenant (succ + 0x30#64) 3 = .ok (pa, leaf, t))
  (hl : s.isLocal pa = true)
include htr hl

theorem decrement_local : decrement s x succ = .inl (t.readPhys pa 4, t.writePhysLE pa 4 (t.readPhys pa 4 + 2 ^ 32 - 1)) := by
  have htr' : Machine.translate s x.tenant (at' succ tkPred) 3 = .ok (pa, leaf, t) := htr
  simp only [decrement, htr', hl, if_true]

theorem releaseSuccessor_more (h : releasable s x succ) (hn : 2 ≤ t.readPhys pa 4) :
    releaseSuccessor s x succ = .done (t.writePhysLE pa 4 (t.readPhys pa 4 - 1)) := by
  have hb : natToBytes 4 (t.readPhys pa 4 + 2 ^ 32 - 1) = natToBytes 4 (t.readPhys pa 4 - 1) := by
    rw [← natToBytes_add 4 1 (t.readPhys pa 4 - 1)]
    congr 1; omega
  rw [releaseSuccessor_legal h, decrement_local htr hl]
  refine (if_pos (by omega)).trans ?_
  rw [State.writePhysLE, State.writePhysLE, hb]

theorem releaseSuccessor_last (h : releasable s x succ) (hn : t.readPhys pa 4 = 1) :
    releaseSuccessor s x succ = freedSuccessor (t.writePhysLE pa 4 0) x succ := by
  have hb : natToBytes 4 (1 + 2 ^ 32 - 1) = natToBytes 4 0 := natToBytes_add 4 1 0
  rw [releaseSuccessor_legal h, decrement_local htr hl, hn]
  refine (if_neg (by decide)).trans ?_
  rw [State.writePhysLE, State.writePhysLE, hb]

end

theorem freedSuccessor_refused {s : State} {x : Context} {succ : Word} {f : Flt} (h : enqCheck s x.tenant true succ = .error f) :
    freedSuccessor s x succ = .done (failSuccessor s x succ) := by
  simp only [freedSuccessor, h]

theorem freedSuccessor_accepted {s u : State} {x y : Context} {succ entry : Word}
    (h : enqCheck s x.tenant true succ = .ok (y, entry, u)) : freedSuccessor s x succ =
      if 4096 ≤ (u.pools.get (u.lnum / 96)).length then .full (u.mapCore (fun c => { c with succWait := some (y, entry) }))
      else .done ((enqueue u (u.lnum / 96) y entry).mapCore (fun c => { c with succWait := none })) := by
  simp only [freedSuccessor, h]
  exact if_congr poolFull_iff rfl rfl

/-! ### CKPT and TASK.YIELD: R328–R330 -/

section
variable (i : Instr) (a : BitVec 5) (save keep : State → Bool)

/-- What CKPT and TASK.YIELD do with the table whose address is `va`. -/
def ckptTable (va : Word) (s : State) : WordResult :=
  match (if a = 0#5 then .ok ([], s) else liveTable s va) with
  | .error f => .fault f
  | .ok (ranges, s) =>
    if !s.quiet || ((save s || keep s) && !s.core.inboxLanded) then .blocked id 7
    else if save s then .done (saveContext (retire i s .next s) ranges)
    else if keep s then .done (keepSave (retire i s .next s) ranges)
    else .next s

/-- What CKPT and TASK.YIELD do once they may issue. -/
def ckptBody (va : Word) (s : State) : WordResult :=
  if s.unitPending .cc then .blocked id 7
  else if a = 0#5 then ckptTable i a save keep va s
  else withBlocks .blocked (tableBlocks s va) (ckptTable i a save keep va) s

theorem ckptWord_eq (s : State) : ckptWord i a save keep s = .next (issue i (fun t => ckptBody i a save keep (t.r5 a) t) s) := rfl

theorem ckptBody_takeRing (s : State) : ckptBody i a save keep ((takeRing i s).r5 a) (takeRing i s)
    = ckptBody i a save keep (s.r5 a) (takeRing i s) := by
  rw [takeRing_r5]

end

section
variable {i : Instr} {a : BitVec 5} {save keep : State → Bool} {s : State} (hx : exec i s = ckptWord i a save keep s)
include hx

theorem ckpt_blocks_pending (hp : s.unitPending .cc = true) : blocks s i 7 :=
  exec_of_blocked (hx.trans (ckptWord_eq _ _ _ _ _)) (if_pos ((takeRing_unitPending _ _ _).trans hp))

variable (hp : s.unitPending .cc = false)
  (hh : a = 0#5 ∨ remoteParts (takeRing i s) (tableBlocks (takeRing i s) (s.r5 a)) = [])

omit hx in
include hp hh in
theorem ckptBody_here : ckptBody i a save keep ((takeRing i s).r5 a) (takeRing i s) = ckptTable i a save keep (s.r5 a) (takeRing i s) := by
  rw [ckptBody_takeRing]
  refine (if_neg (ne_true_of_eq_false ((takeRing_unitPending _ _ _).trans hp))).trans ?_
  by_cases ha : a = 0#5
  · exact if_pos ha
  · exact (if_neg ha).trans (withBlocks_here (hh.resolve_left ha))

include hp hh

theorem ckpt_faults {f : Flt} (ht : (if a = 0#5 then .ok ([], takeRing i s) else liveTable (takeRing i s) (s.r5 a)) = .error f) :
    faults s i f :=
  exec_of_fault (hx.trans (ckptWord_eq _ _ _ _ _)) ((ckptBody_here hp hh).trans (by simp only [ckptTable, ht]))

variable {ranges : List (Nat × Nat × Nat)} {t : State}
  (ht : (if a = 0#5 then .ok ([], takeRing i s) else liveTable (takeRing i s) (s.r5 a)) = .ok (ranges, t))

omit hx in
include ht in
theorem ckptBody_table : ckptBody i a save keep ((takeRing i s).r5 a) (takeRing i s) =
    if !t.quiet || ((save t || keep t) && !t.core.inboxLanded) then .blocked id 7
    else if save t then .done (saveContext (retire i t .next t) ranges)
    else if keep t then .done (keepSave (retire i t .next t) ranges)
    else .next t := by
  rw [ckptBody_here hp hh]
  simp only [ckptTable, ht]

include ht

theorem ckpt_blocks (hq : ¬(t.quiet = true ∧ (save t = true ∨ keep t = true → t.core.inboxLanded = true))) : blocks s i 7 := by
  refine exec_of_blocked (hx.trans (ckptWord_eq _ _ _ _ _)) ((ckptBody_table hp hh ht).trans (if_pos ?_))
  by_contra hc
  simp only [Bool.or_eq_true, Bool.and_eq_true, Bool.not_eq_true', not_or, not_and, Bool.not_eq_false] at hc
  exact hq hc

variable (hq : t.quiet = true ∧ (save t = true ∨ keep t = true → t.core.inboxLanded = true)) (hi : issues s i)

omit hx in
include hq in
theorem ckptBody_quiet : ckptBody i a save keep ((takeRing i s).r5 a) (takeRing i s) =
    if save t then .done (saveContext (retire i t .next t) ranges)
    else if keep t then .done (keepSave (retire i t .next t) ranges)
    else .next t := by
  refine (ckptBody_table hp hh ht).trans (if_neg ?_)
  simpa only [Bool.or_eq_true, Bool.and_eq_true, Bool.not_eq_true', not_or, not_and, Bool.not_eq_false] using hq

include hq hi

theorem ckpt_saves (hs : save t = true) : exec i s = .next (saveContext (retire i t .next t) ranges) :=
  exec_of_done (hx.trans (ckptWord_eq _ _ _ _ _)) ((ckptBody_quiet hp hh ht hq).trans (if_pos hs)) hi

variable (hs : save t = false)
include hs

theorem ckpt_keeps (hk : keep t = true) : exec i s = .next (keepSave (retire i t .next t) ranges) :=
  exec_of_done (hx.trans (ckptWord_eq _ _ _ _ _))
    ((ckptBody_quiet hp hh ht hq).trans ((if_neg (ne_true_of_eq_false hs)).trans (if_pos hk))) hi

theorem ckpt_goes_on (hk : keep t = false) : completes s i .next t :=
  completes_of_ok (hx.trans (ckptWord_eq _ _ _ _ _))
    ((ckptBody_quiet hp hh ht hq).trans ((if_neg (ne_true_of_eq_false hs)).trans (if_neg (ne_true_of_eq_false hk)))) hi

end

/-- Whether the context leaves its core at the word, and whether it is saved where it is (R328, R330). -/
def leavesAt (yields : Bool) (s : State) : Bool := if yields then s.core.asked || s.yieldsTo else s.core.asked
def keepsAt (yields : Bool) (s : State) : Bool := if yields then false else s.core.context.keep

theorem leavesAt_iff (yields : Bool) (s : State) :
    leavesAt yields s = true ↔ s.core.preempt ≠ none ∨ (yields = true ∧ s.yieldsTo = true) := by
  cases yields <;> simp [leavesAt, Core.asked, Option.isSome_iff_ne_none]

theorem keepsAt_iff (yields : Bool) (s : State) : keepsAt yields s = true ↔ yields = false ∧ s.core.context.keep = true := by
  cases yields <;> simp [keepsAt]

theorem exec_checkpoint (yields : Bool) (r : BitVec 4) (a : BitVec 5) (s : State) :
    exec (if yields then .taskYield r a else .ckpt r a) s
      = ckptWord (if yields then .taskYield r a else .ckpt r a) a (leavesAt yields) (keepsAt yields) s := by
  cases yields <;> rfl

/-! ### Saving a context: R330, R332 -/

/-- A context with no frame that has written its save waits for the writes to another device, or is parked. -/
theorem saveContext_written {s t : State} {ranges : List (Nat × Nat × Nat)} {x : Context} (hc : s.core.ctx = some x)
    (hf : s.core.primary = none) (hw : writeBlock ((endPull s).mapCore (fun c => { c with saved := false })) ranges = .ok t) :
    saveContext s ranges = parkSaved t x ranges true := by
  simp only [saveContext, hc, hf, Option.isSome_none, hw]
  rfl

theorem parkSaved_out {t : State} {x : Context} {ranges : List (Nat × Nat × Nat)} {e : Bool} (h : t.saveOut = true) :
    parkSaved t x ranges e = t.mapCore (fun c => { c with mode := .saving, parking := some (.context ranges e) }) := if_pos h

theorem parkSaved_home {t : State} {x : Context} {ranges : List (Nat × Nat × Nat)} {e : Bool} (h : t.saveOut = false) :
    parkSaved t x ranges e = parkContext t x ranges e := if_neg (ne_true_of_eq_false h)

/-! ### Dispatch: R25, R321, R424 -/

theorem dispatch_none {s : State} {die : Nat} (h : s.pickEntry die = none) : exec (.taskDispatch die) s = .next s := by
  refine congrArg Host.Outcome.next (ite_eq_right_iff.mpr fun _ => ?_)
  simp only [dispatch, h]

/-- The state in which a dispatch starts its task: the entry has left its pool, and the core is in focus. -/
def dispatchStart (s : State) (die : Nat) (p : PoolEntry) (n : Nat) : State :=
  focus n { dropEntry s die p with dispatched := true, arrivals := s.arrivals + 1, dispatches := s.dispatches.set n (s.arrivals + 1) }

/-- The fresh context `x` on the core in focus, with its record, its counts and its save block `k` (R321–R323). -/
def freshContext (u : State) (x : Context) (k : Nat) : State :=
  let s1 := pokeAs (pokeAs u x.tenant (x.task + 0x35#64) 1 2) x.tenant (x.task + 0x36#64) 2 k
  let s2 := addRun (setSmap s1 x (smapOf s1 x + 2 ^ k)) x (· + 1)
  { s2 with core := { u.core.freshFor x.tenant with ctx := some x } }

theorem sameTasks_freshContext (u : State) (x : Context) (k : Nat) : sameTasks (freshContext u x k) u :=
  sameTasks_trans (sameTasks_addRun _ x (· + 1)) (sameTasks_trans (sameTasks_pokeAs _ _ _ _ _)
    (sameTasks_trans (sameTasks_pokeAs _ _ _ _ _) (sameTasks_pokeAs u _ _ _ _)))

section
variable {s v : State} {die n k : Nat} {p : PoolEntry} (hs : s.boot = .running) (hp : s.pickEntry die = some p)
  (hn : s.entryCore die p = some n) (hb : p.bound = none) (hk : freeBlock (dispatchStart s die p n) p.ctx = some k)
  (hv : (if (dispatchStart s die p n).core.hasImage { p.ctx with saveIx := k } then .ok (freshContext (dispatchStart s die p n) { p.ctx with saveIx := k } k)
    else loadImage (freshContext (dispatchStart s die p n) { p.ctx with saveIx := k } k) { p.ctx with saveIx := k }) = .ok v)

/-- The core of a task that has been dispatched afresh. -/
def startedCore (c : Core) (p : PoolEntry) : Core :=
  { (c.setReg .cc 1 p.ctx.task).setReg .cc 2 p.ctx.rcb with pc := p.entry, mode := .running, lastTenant := some p.ctx.tenant }

include hk hv in
theorem startFresh_eq : startFresh (dispatchStart s die p n) p = { v with core := startedCore v.core p } := by
  have h : startFresh (dispatchStart s die p n) p =
      match (if (dispatchStart s die p n).core.hasImage { p.ctx with saveIx := k }
        then .ok (freshContext (dispatchStart s die p n) { p.ctx with saveIx := k } k)
        else loadImage (freshContext (dispatchStart s die p n) { p.ctx with saveIx := k } k) { p.ctx with saveIx := k }) with
      | .error f => imageFail { freshContext (dispatchStart s die p n) { p.ctx with saveIx := k } k with core := (dispatchStart s die p n).core }
          { p.ctx with saveIx := k } f
      | .ok u => { u with core := startedCore u.core p } := by
    unfold startFresh
    rw [hk]
    rfl
  rw [h, hv]

include hv in
theorem dispatch_sameTasks : v.lnum = n ∧ v.pools = s.pools.set die ((s.pools.get die).filter (fun q => q.arrival != p.arrival)) := by
  have h : sameTasks v (dispatchStart s die p n) := by
    split at hv
    · cases hv; exact sameTasks_freshContext _ _ _
    · exact sameTasks_trans (sameTasks_loadImage hv) (sameTasks_freshContext _ _ _)
  obtain ⟨hl, hq⟩ := h
  exact ⟨by rw [hl, dispatchStart, focus_lnum], by rw [hq, dispatchStart, focus_pools]; rfl⟩

include hs hp hn hb hk hv in
theorem exec_dispatch : exec (.taskDispatch die) s = .next (focus s.lnum { v with core := startedCore v.core p }) := by
  refine congrArg Host.Outcome.next ((byHost_running hs).trans ?_)
  simp only [dispatch, hp, hn, hb, Option.isSome_none]
  exact congrArg (focus s.lnum) (startFresh_eq hk hv)

end

/-- A core for a fresh task of another tenant is in the state of R24 (R25). -/
theorem freshFor_other {c : Core} {tenant : Nat} (h : c.lastTenant ≠ some tenant) : c.freshFor tenant = c.cleared c.lastTenant := if_neg h

/-- A core for a fresh task of the same tenant keeps what R424 names. -/
theorem freshFor_same {c : Core} {tenant : Nat} (h : c.lastTenant = some tenant) : c.freshFor tenant = c.freshSame := if_pos h

theorem cleared_reg (c : Core) (last : Option Nat) (u : Sqr) (r : Nat) : (c.cleared last).reg u r = 0#64 := by
  unfold Core.reg
  split
  · rfl
  · cases u <;> rfl

/-! ### Pre-emption and Squall: R331, R332 -/

/-- A change of the core in focus changes no other core's record. -/
theorem coreAt_mapCore (s : State) (f : Core → Core) (m : Nat) :
    (s.mapCore f).coreAt m = if m = s.lnum then f s.core else s.coreAt m := by
  by_cases h : m = s.lnum
  · exact (if_pos h).trans (if_pos h).symm
  · exact (if_neg h).trans ((if_neg h).symm.trans (if_neg h).symm)

theorem requestPreempt_running {s : State} {x : Context} (hc : s.core.ctx = some x) (hm : s.core.mode = .running)
    (hp : s.core.preempt = none) :
    requestPreempt s = s.mapCore (fun c => { c with preempt := some (s.gtc + BitVec.ofNat 64 x.ckw) }) := by
  simp [requestPreempt, hc, hm, hp]

theorem preemptRequest_asks {s : State} {die v : Nat} {x : Context} (hc : (s.coreAt v).ctx = some x)
    (hm : (s.coreAt v).mode = .running) (hp : (s.coreAt v).preempt = none) :
    ∃ t, exec (.preemptRequest die (some v)) s = .next t
      ∧ t.coreAt v = { s.coreAt v with preempt := some (s.gtc + BitVec.ofNat 64 x.ckw) } ∧ ∀ m, m ≠ v → t.coreAt m = s.coreAt m := by
  refine ⟨within v requestPreempt s, rfl, ?_⟩
  rw [within, requestPreempt_running (x := x) (by rw [focus_core, hc]) (by rw [focus_core, hm]) (by rw [focus_core, hp])]
  simp only [coreAt_focus, coreAt_mapCore, focus_lnum, focus_core, focus_gtc, if_true, true_and]
  exact fun m h => if_neg h

theorem preemptRequest_pool {s : State} {die v : Nat} (h : s.poolVictim die = some v) :
    exec (.preemptRequest die none) s = exec (.preemptRequest die (some v)) s := by
  simp only [exec, execPreemptRequest, h]

theorem preemptRequest_none {s : State} {die : Nat} (h : s.poolVictim die = none) : exec (.preemptRequest die none) s = .next s := by
  simp only [exec, execPreemptRequest, h]

theorem exec_squall_stays {s : State} (h : squallNow s = s) : exec (.squall s.lnum) s = .next s :=
  congrArg Host.Outcome.next ((within_self _ _).trans (by rw [h, focus_self]))

theorem squall_unasked {s : State} (h : s.core.preempt = none) : exec (.squall s.lnum) s = .next s :=
  exec_squall_stays (by simp [squallNow, State.preemptDue, h])

theorem squall_underway {s : State} (h : s.core.underway = true) : exec (.squall s.lnum) s = .next s :=
  exec_squall_stays (by simp [squallNow, h])

theorem squall_due {s : State} {d : Word} (hp : s.core.preempt = some d) (hd : d.toNat ≤ s.gtc.toNat) (hm : s.core.mode = .running)
    (hu : s.core.underway = false) : exec (.squall s.lnum) s = .next (focus s.lnum (finishSquall (beginSquall s))) := by
  have h : squallNow s = finishSquall (beginSquall s) := by simp [squallNow, State.preemptDue, hp, hd, hm, hu]
  exact congrArg Host.Outcome.next ((within_self _ _).trans (by rw [h]))

theorem squallSaveComplete_saving {s : State} (h : s.core.mode = .saving) :
    exec (.squallSaveComplete s.lnum) s = .next (focus s.lnum (finishSquall (settle s))) :=
  congrArg Host.Outcome.next ((within_self _ _).trans (by rw [if_pos (by rw [h]; rfl)]))

theorem squallSaveComplete_other {s : State} (h : s.core.mode ≠ .saving) : exec (.squallSaveComplete s.lnum) s = .next s :=
  congrArg Host.Outcome.next ((within_self _ _).trans (by rw [if_neg (by simpa using h), focus_self]))

theorem finishSquall_ready {s : State} (hm : s.core.mode = .saving) (hp : s.core.parking = none) (hr : s.core.saveReady = true) :
    finishSquall s = saveContext (adoptFault s) [(0, 0, 0x180000), (1, 0, 0x100000), (2, 0, 0xC0000)] := by
  simp only [finishSquall, hm, hp, hr, if_true]
  rfl

/-- Settles O54: each clause by the outcome of its word or event. -/
theorem taskWords : Obligations.TaskWords := by
  refine ⟨fun s r a b x hc => ⟨fun f => taskEnq_unmapped, fun m => taskEnq_out_of_range, fun m hm hr =>
      ⟨taskEnq_waits hm hr, taskEnq_asks hm hr, fun hp hu f => taskEnq_refused hm hr hp hu hc, fun hp hu y entry t => taskEnq_accepted hm hr hp hu hc⟩⟩,
    fun s w tenant => ?_, fun s r a x hc => ?_, fun s x list k n => releaseFrom_succ s x list k n, fun s x succ => ?_,
    fun s yields r a x hc => ?_, fun s ranges x t hc hf hw => ?_, fun s die p n k hs hp hn hb => ?_, fun s die => dispatch_none,
    fun c tenant => ?_, fun s die v x hc hm => ⟨preemptRequest_asks hc hm, preemptRequest_pool, preemptRequest_none⟩,
    fun s => ⟨squall_unasked, squall_underway, fun d => squall_due, squallSaveComplete_saving, finishSquall_ready, squallSaveComplete_other⟩⟩
  · exact fun hs => ⟨taskenq_die hs, fun hd f => taskenq_refused hs hd, fun hd y entry t => taskenq_full hs hd,
      fun hd y entry t => taskenq_accepted hs hd⟩
  · exact ⟨taskDone_foreign hc, taskDone_asked hc, fun ho => taskDone_unquiet hc ho, fun ho hq f => taskDone_faults hc ho hq,
      fun ho hq hu b u hb => ⟨releaseAll_fetched hu hb, fun hn => taskDone_completes hc ho hq (by
        rw [releaseAll_fetched hu hb, Nat.sub_eq_zero_of_le hn]; rfl)⟩,
      fun ho hq u hr hi => ⟨taskDone_completes hc ho hq hr hi, finishTask_core u x⟩, fun ho hq u => taskDone_waits hc ho hq⟩
  · exact ⟨releaseSuccessor_illegal, fun h pa leaf t htr hl => ⟨releaseSuccessor_more htr hl h, fun hn =>
      ⟨fun f hf => (releaseSuccessor_last htr hl h hn).trans (freedSuccessor_refused hf),
        fun y entry u hu => (releaseSuccessor_last htr hl h hn).trans (freedSuccessor_accepted hu)⟩⟩⟩
  · have hx := exec_checkpoint yields r a s
    simp only [← leavesAt_iff, ← keepsAt_iff]
    exact ⟨ckpt_blocks_pending hx, fun hp hh => ⟨fun f => ckpt_faults hx hp hh, fun ranges t => ckpt_blocks hx hp hh,
      fun ranges t ht hq hi => ⟨ckpt_saves hx hp hh ht hq hi, fun hl => ckpt_keeps hx hp hh ht hq hi (Bool.eq_false_of_not_eq_true hl),
        fun hl hk => ckpt_goes_on hx hp hh ht hq hi (Bool.eq_false_of_not_eq_true hl) (Bool.eq_false_of_not_eq_true hk)⟩⟩⟩
  · rw [saveContext_written hc hf hw]
    refine ⟨parkSaved_out, fun h => ?_⟩
    rw [parkSaved_home h]
    exact ⟨rfl, rfl, rfl, rfl, rfl, rfl⟩
  · intro u x s1 s2 w hk v hv
    obtain ⟨hl, hq⟩ := dispatch_sameTasks hv
    refine ⟨_, exec_dispatch hs hp hn hb hk hv, by rw [focus_mem], by rw [focus_pools]; exact hq, ?_⟩
    rw [coreAt_focus, ← hl]
    exact coreAt_lnum { v with core := startedCore v.core p }
  · refine ⟨fun h => ?_, fun h => ?_⟩
    · simp only [freshFor_other h]
      exact ⟨cleared_reg c _, rfl, rfl, rfl, rfl, rfl, rfl⟩
    · simp only [freshFor_same h]
      exact ⟨fun r => rfl, rfl, rfl, rfl, rfl, rfl, rfl, rfl, rfl, rfl⟩

end Sys2Proof.Proofs
end

section
/-! Device reset, boot, ports, monitors, spares and scrubbing (R24, R394–R406): a packet whose core number no die has. -/
namespace Sys2Proof.Proofs
open Sys2Proof.Machine

/-- A packet of this device for core 2976, which no die of R15 has: its way ends at die 31, whose router would be stop 32, which is
the stop of UALink port 0. It waits at the IOD's router for that port. -/
def strayFlight : Flight :=
  { pkt := { (default : Packet) with dstLnum := 2976, req := .winRead 0 0 0 }, stop := 0, src := 1, out := 32 }

/-- Port 0 has one lane left, and the stray packet waits for it. -/
def strayState : State := { State.reset with lanes := State.reset.lanes.set 0 2, packets := [strayFlight] }

/-- The loss of the port's last lane leaves the packet in the port's queue. -/
theorem dropLane_stray : (dropLane strayState 0).packets = [strayFlight] := by decide

/-- Refutes O59: where a port goes out of routing, what waits for it at the IOD's router need not leave its queue. The statement is
over every state, and the number of a packet's core is unbounded there: for core 2976 the die's stop is that of port 0 (R400). -/
theorem not_platformAndHealth : ¬ Obligations.PlatformAndHealth := by
  intro h
  obtain ⟨-, -, -, -, -, -, -, hspares⟩ := h
  obtain ⟨-, -, -, -, -, -, hlane, -⟩ := hspares strayState 0 0 0
  obtain ⟨t, ht, -, -, -, -, hout⟩ := hlane (by decide) (by decide) (fun l hl => absurd hl List.not_mem_nil)
  have hdrop : dropLane strayState 0 = t := Host.Outcome.next.inj ht
  obtain ⟨hport, -⟩ := hout strayFlight (by rw [← hdrop, dropLane_stray]; exact List.mem_singleton_self _) rfl
  exact hport rfl

end Sys2Proof.Proofs
end

section
/-! Words as parts side by side: a word is the sum of its parts exactly when it holds each of them. -/
namespace Sys2Proof.Proofs
open Sys2Proof.Machine

/-- A part of a word, from bit `lo` up (R3): an operand, or `len` bits that are the same in every word of its row. -/
inductive Part where
  | var (lo : Nat) {len : Nat} (x : BitVec len)
  | const (lo len n : Nat)

namespace Part

/-- The lowest bit of a part. -/
def lo : Part → Nat
  | var lo _ => lo
  | const lo _ _ => lo

/-- The number of its bits. -/
def len : Part → Nat
  | @var _ len _ => len
  | const _ len _ => len

/-- What it holds. -/
def val : Part → Nat
  | var _ x => x.toNat
  | const _ _ n => n

/-- The value has room in the part. -/
def fits : Part → Bool
  | var _ _ => true
  | const _ len n => decide (n < 2 ^ len)

/-- The word holds the part. -/
def In (w : Nat) : Part → Prop
  | @var lo len x => fld w lo len = x
  | const lo len n => w / 2 ^ lo % 2 ^ len = n

theorem val_lt {p : Part} (h : p.fits = true) : p.val < 2 ^ p.len := by
  cases p with
  | var lo x => exact x.isLt
  | const lo len n => exact of_decide_eq_true h

theorem in_iff (w : Nat) (p : Part) : p.In w ↔ w / 2 ^ p.lo % 2 ^ p.len = p.val := by
  cases p with
  | var lo x => rw [In, fld, ← BitVec.toNat_inj, BitVec.toNat_ofNat]; rfl
  | const lo len n => rfl

end Part

/-- The layout of the words of one instruction: their parts, the highest first. -/
abbrev Layout := List Part

namespace Layout

/-- The word holds every part. -/
def In (w : Nat) : Layout → Prop
  | [] => True
  | p :: t => p.In w ∧ In w t

/-- The parts lie side by side and fill the low `n` bits. -/
def fills : Nat → Layout → Bool
  | n, [] => n == 0
  | n, p :: t => p.fits && (n == p.lo + p.len && fills p.lo t)

/-- The number that the parts make. -/
def sum : Layout → Nat
  | [] => 0
  | p :: t => p.val * 2 ^ p.lo + sum t

theorem sum_lt {l : Layout} {n : Nat} (h : l.fills n = true) : l.sum < 2 ^ n := by
  induction l generalizing n with
  | nil => exact Nat.two_pow_pos n
  | cons p t ih =>
    simp only [fills, Bool.and_eq_true, beq_iff_eq] at h
    obtain ⟨hp, rfl, ht⟩ := h
    calc p.val * 2 ^ p.lo + sum t
      _ < p.val * 2 ^ p.lo + 2 ^ p.lo := Nat.add_lt_add_left (ih ht) _
      _ = (p.val + 1) * 2 ^ p.lo := (Nat.succ_mul _ _).symm
      _ ≤ 2 ^ p.len * 2 ^ p.lo := Nat.mul_le_mul_right _ (Part.val_lt hp)
      _ = 2 ^ (p.lo + p.len) := by rw [← pow_add, Nat.add_comm]

/-- A number splits in one way only into what it holds below bit `lo` and in the `len` bits above. -/
theorem mod_eq_iff (w : Nat) {lo len x y : Nat} (hy : y < 2 ^ lo) :
    w % 2 ^ (lo + len) = x * 2 ^ lo + y ↔ w / 2 ^ lo % 2 ^ len = x ∧ w % 2 ^ lo = y := by
  have h := Nat.div_mod_unique (a := w % 2 ^ (lo + len)) (d := x) (c := y) (Nat.two_pow_pos lo)
  rw [pow_add, Nat.mod_mul_right_div_self, Nat.mod_mul_right_mod] at h
  rw [h, pow_add, Nat.add_comm (x * _), Nat.mul_comm x, eq_comm, and_iff_left hy]

/-- Parts that fill the low `n` bits say what these bits are. -/
theorem mod_eq_sum_iff {l : Layout} {n : Nat} (h : l.fills n = true) (w : Nat) : w % 2 ^ n = l.sum ↔ l.In w := by
  induction l generalizing n with
  | nil =>
    obtain rfl := beq_iff_eq.mp h
    simp [In, sum, Nat.mod_one]
  | cons p t ih =>
    simp only [fills, Bool.and_eq_true, beq_iff_eq] at h
    obtain ⟨-, rfl, ht⟩ := h
    rw [In, sum, mod_eq_iff w (sum_lt ht), ih ht, Part.in_iff]

/-! The word as `encode` writes it: the operands, at their places, added to the bits that are the same in every word. The equations
of `constBits` and `addVars` are rewriting rules below, so that checking one row is a rewrite and no evaluation. -/

/-- An operand at its place; at bit 0 as it is. -/
def atBit (v : Nat) : Nat → Nat
  | 0 => v
  | lo + 1 => v * 2 ^ (lo + 1)

theorem atBit_eq (v lo : Nat) : atBit v lo = v * 2 ^ lo := by
  cases lo with
  | zero => exact (Nat.mul_one v).symm
  | succ lo => rfl

/-- The bits that are the same in every word of the row. -/
def constBits : Layout → Nat
  | [] => 0
  | .var .. :: t => constBits t
  | .const lo _ n :: t => n * 2 ^ lo + constBits t

/-- The operands at their places, added to `k`. -/
def addVars (k : Nat) : Layout → Nat
  | [] => k
  | .var lo x :: t => addVars (k + atBit x.toNat lo) t
  | .const .. :: t => addVars k t

/-- The word of a layout, as `encode` writes it. -/
def word (l : Layout) : Nat := addVars (constBits l) l

theorem constBits_nil : constBits [] = 0 := by rw [constBits]
theorem constBits_var (t : Layout) (lo : Nat) {len : Nat} (x : BitVec len) : constBits (.var lo x :: t) = constBits t := by
  rw [constBits]
theorem constBits_const (t : Layout) (lo len n : Nat) : constBits (.const lo len n :: t) = n * 2 ^ lo + constBits t := by
  rw [constBits]
theorem addVars_nil (k : Nat) : addVars k [] = k := by rw [addVars]
theorem addVars_var (k : Nat) (t : Layout) (lo : Nat) {len : Nat} (x : BitVec len) :
    addVars k (.var lo x :: t) = addVars (k + atBit x.toNat lo) t := by rw [addVars]
theorem addVars_const (k : Nat) (t : Layout) (lo len n : Nat) : addVars k (.const lo len n :: t) = addVars k t := by
  rw [addVars]

theorem addVars_eq (l : Layout) (k : Nat) : addVars k l + constBits l = k + l.sum := by
  induction l generalizing k with
  | nil => rfl
  | cons p t ih =>
    cases p with
    | var lo x => rw [addVars, constBits, sum, ih, Nat.add_assoc, atBit_eq]; rfl
    | const lo len n => rw [addVars, constBits, sum, Nat.add_left_comm, ih, Nat.add_left_comm]; rfl

theorem word_eq_sum (l : Layout) : l.word = l.sum :=
  Nat.add_right_cancel ((addVars_eq l _).trans (Nat.add_comm _ _))

/-- The word of a layout is the one that holds its parts. -/
theorem word_eq_iff {l : Layout} (h : l.fills 32 = true) {w : Nat} (hw : w < 2 ^ 32) : l.word = w ↔ l.In w := by
  rw [← mod_eq_sum_iff h, Nat.mod_eq_of_lt hw, word_eq_sum, eq_comm]

theorem word_lt {l : Layout} (h : l.fills 32 = true) : l.word < 2 ^ 32 := by
  rw [word_eq_sum]
  exact sum_lt h

end Layout

end Sys2Proof.Proofs
end

section
/-! The layout of every instruction's words, and that `encode` writes the word of the layout (R32, R49). -/
namespace Sys2Proof.Proofs
open Sys2Proof.Machine

/-- A word with ring bits and major (R32). -/
def body (r : BitVec 4) (major : Nat) (t : Layout) : Option Layout := some (.var 28 r :: .const 22 6 major :: t)

/-- The layout of the words of an instruction: its row in the tables of R37–R43, R46, R47, R49 and R50; an event has none. -/
def layout (i : Instr) : Option Layout :=
  match i with
  | .nop r => body r 0x00 [.const 7 15 0, .const 0 7 0]
  | .trap r c => body r 0x00 [.const 17 5 0, .var 7 c, .const 0 7 1]
  | .sysr r d n => body r 0x00 [.var 17 d, .var 7 n, .const 0 7 2]
  | .sysw r n b => body r 0x00 [.var 12 n, .var 7 b, .const 0 7 3]
  | .ckpt r a => body r 0x00 [.const 17 5 0, .var 12 a, .const 7 5 0, .const 0 7 4]
  | .stamp c => some [.const 28 4 0, .const 22 6 0x01, .var 0 c]
  | .extI h => some [.const 28 4 0, .const 22 6 0x02, .const 21 1 0, .var 0 h]
  | .extM p s o w =>
    some [.const 28 4 0, .const 22 6 0x02, .const 21 1 1, .var 20 p, .var 17 s, .var 15 o, .var 13 w, .const 0 13 0]
  | .add r d a b => body r 0x04 [.var 17 d, .var 12 a, .var 7 b, .const 0 7 0]
  | .sub r d a b => body r 0x04 [.var 17 d, .var 12 a, .var 7 b, .const 0 7 1]
  | .and r d a b => body r 0x04 [.var 17 d, .var 12 a, .var 7 b, .const 0 7 2]
  | .or r d a b => body r 0x04 [.var 17 d, .var 12 a, .var 7 b, .const 0 7 3]
  | .xor r d a b => body r 0x04 [.var 17 d, .var 12 a, .var 7 b, .const 0 7 4]
  | .andn r d a b => body r 0x04 [.var 17 d, .var 12 a, .var 7 b, .const 0 7 5]
  | .minI64 r d a b => body r 0x04 [.var 17 d, .var 12 a, .var 7 b, .const 0 7 6]
  | .maxI64 r d a b => body r 0x04 [.var 17 d, .var 12 a, .var 7 b, .const 0 7 7]
  | .minN64 r d a b => body r 0x04 [.var 17 d, .var 12 a, .var 7 b, .const 0 7 8]
  | .maxN64 r d a b => body r 0x04 [.var 17 d, .var 12 a, .var 7 b, .const 0 7 9]
  | .addI32 r d a b => body r 0x04 [.var 17 d, .var 12 a, .var 7 b, .const 0 7 10]
  | .subI32 r d a b => body r 0x04 [.var 17 d, .var 12 a, .var 7 b, .const 0 7 11]
  | .clz r d a => body r 0x04 [.var 17 d, .var 12 a, .const 7 5 0, .const 0 7 12]
  | .ctz r d a => body r 0x04 [.var 17 d, .var 12 a, .const 7 5 0, .const 0 7 13]
  | .popc r d a => body r 0x04 [.var 17 d, .var 12 a, .const 7 5 0, .const 0 7 14]
  | .addsI64 r d a b => body r 0x04 [.var 17 d, .var 12 a, .var 7 b, .const 0 7 15]
  | .addi r d a i => body r 0x05 [.var 17 d, .var 12 a, .const 9 3 0, .var 0 i]
  | .andi r d a i => body r 0x05 [.var 17 d, .var 12 a, .const 9 3 1, .var 0 i]
  | .ori r d a i => body r 0x05 [.var 17 d, .var 12 a, .const 9 3 2, .var 0 i]
  | .xori r d a i => body r 0x05 [.var 17 d, .var 12 a, .const 9 3 3, .var 0 i]
  | .slti r d a i => body r 0x05 [.var 17 d, .var 12 a, .const 9 3 4, .var 0 i]
  | .sltiu r d a i => body r 0x05 [.var 17 d, .var 12 a, .const 9 3 5, .var 0 i]
  | .sll r d a b => body r 0x06 [.var 17 d, .var 12 a, .var 7 b, .const 0 7 0]
  | .slli r d a n h => body r 0x06 [.var 17 d, .var 12 a, .var 7 n, .const 1 6 8, .var 0 h]
  | .srl r d a b => body r 0x06 [.var 17 d, .var 12 a, .var 7 b, .const 0 7 32]
  | .srli r d a n h => body r 0x06 [.var 17 d, .var 12 a, .var 7 n, .const 1 6 24, .var 0 h]
  | .sra r d a b => body r 0x06 [.var 17 d, .var 12 a, .var 7 b, .const 0 7 64]
  | .srai r d a n h => body r 0x06 [.var 17 d, .var 12 a, .var 7 n, .const 1 6 40, .var 0 h]
  | .ror r d a b => body r 0x06 [.var 17 d, .var 12 a, .var 7 b, .const 0 7 96]
  | .rori r d a n h => body r 0x06 [.var 17 d, .var 12 a, .var 7 n, .const 1 6 56, .var 0 h]
  | .mul r d a b => body r 0x07 [.var 17 d, .var 12 a, .var 7 b, .const 0 7 0]
  | .mulhI64 r d a b => body r 0x07 [.var 17 d, .var 12 a, .var 7 b, .const 0 7 1]
  | .mulhN64 r d a b => body r 0x07 [.var 17 d, .var 12 a, .var 7 b, .const 0 7 2]
  | .divI64 r d a b => body r 0x07 [.var 17 d, .var 12 a, .var 7 b, .const 0 7 3]
  | .divN64 r d a b => body r 0x07 [.var 17 d, .var 12 a, .var 7 b, .const 0 7 4]
  | .remI64 r d a b => body r 0x07 [.var 17 d, .var 12 a, .var 7 b, .const 0 7 5]
  | .remN64 r d a b => body r 0x07 [.var 17 d, .var 12 a, .var 7 b, .const 0 7 6]
  | .cmpEq r d a b => body r 0x08 [.var 17 d, .var 12 a, .var 7 b, .const 0 7 0]
  | .cmpNe r d a b => body r 0x08 [.var 17 d, .var 12 a, .var 7 b, .const 0 7 1]
  | .cmpLtI64 r d a b => body r 0x08 [.var 17 d, .var 12 a, .var 7 b, .const 0 7 2]
  | .cmpGeI64 r d a b => body r 0x08 [.var 17 d, .var 12 a, .var 7 b, .const 0 7 3]
  | .cmpLtN64 r d a b => body r 0x08 [.var 17 d, .var 12 a, .var 7 b, .const 0 7 4]
  | .cmpGeN64 r d a b => body r 0x08 [.var 17 d, .var 12 a, .var 7 b, .const 0 7 5]
  | .tst r d a b => body r 0x08 [.var 17 d, .var 12 a, .var 7 b, .const 0 7 6]
  | .gand r d a b => body r 0x09 [.var 17 d, .var 12 a, .var 7 b, .const 0 7 0]
  | .gor r d a b => body r 0x09 [.var 17 d, .var 12 a, .var 7 b, .const 0 7 1]
  | .gxor r d a b => body r 0x09 [.var 17 d, .var 12 a, .var 7 b, .const 0 7 2]
  | .gandn r d a b => body r 0x09 [.var 17 d, .var 12 a, .var 7 b, .const 0 7 3]
  | .gmov r d a => body r 0x09 [.var 17 d, .var 12 a, .const 7 5 0, .const 0 7 4]
  | .gnot r d a => body r 0x09 [.var 17 d, .var 12 a, .const 7 5 0, .const 0 7 5]
  | .gset r d => body r 0x09 [.var 17 d, .const 7 10 0, .const 0 7 6]
  | .gclr r d => body r 0x09 [.var 17 d, .const 7 10 0, .const 0 7 7]
  | .sel r g n d a => body r 0x0A [.var 19 g, .var 18 n, .var 13 d, .var 8 a, .const 3 5 0, .const 0 3 0]
  | .movi r d i => body r 0x0B [.var 17 d, .const 16 1 0, .var 0 i]
  | .lih r d i => body r 0x0B [.var 17 d, .const 16 1 1, .var 0 i]
  | .br r g n o => body r 0x0C [.var 19 g, .var 18 n, .var 0 o]
  | .jal r d i => body r 0x0D [.var 17 d, .var 0 i]
  | .jr r d a => body r 0x0E [.var 17 d, .var 12 a, .const 7 5 0, .const 0 7 0]
  | .lea1 r d a i => body r 0x0F [.var 17 d, .var 12 a, .const 9 3 0, .var 0 i]
  | .lea2 r d a i => body r 0x0F [.var 17 d, .var 12 a, .const 9 3 1, .var 0 i]
  | .lea4 r d a i => body r 0x0F [.var 17 d, .var 12 a, .const 9 3 2, .var 0 i]
  | .lea8 r d a i => body r 0x0F [.var 17 d, .var 12 a, .const 9 3 3, .var 0 i]
  | .ldI8 r d a i => body r 0x10 [.var 17 d, .var 12 a, .const 9 3 0, .var 0 i]
  | .ldN8 r d a i => body r 0x10 [.var 17 d, .var 12 a, .const 9 3 1, .var 0 i]
  | .ldI16 r d a i => body r 0x10 [.var 17 d, .var 12 a, .const 9 3 2, .var 0 i]
  | .ldN16 r d a i => body r 0x10 [.var 17 d, .var 12 a, .const 9 3 3, .var 0 i]
  | .ldI32 r d a i => body r 0x10 [.var 17 d, .var 12 a, .const 9 3 4, .var 0 i]
  | .ldN32 r d a i => body r 0x10 [.var 17 d, .var 12 a, .const 9 3 5, .var 0 i]
  | .ldN64 r d a i => body r 0x10 [.var 17 d, .var 12 a, .const 9 3 6, .var 0 i]
  | .stN8 r g n o a b => body r 0x11 [.var 19 g, .var 18 n, .var 13 o, .var 8 a, .var 3 b, .const 0 3 0]
  | .stN16 r g n o a b => body r 0x11 [.var 19 g, .var 18 n, .var 13 o, .var 8 a, .var 3 b, .const 0 3 1]
  | .stN32 r g n o a b => body r 0x11 [.var 19 g, .var 18 n, .var 13 o, .var 8 a, .var 3 b, .const 0 3 2]
  | .stN64 r g n o a b => body r 0x11 [.var 19 g, .var 18 n, .var 13 o, .var 8 a, .var 3 b, .const 0 3 3]
  | .amoSwap r g n d a b => body r 0x12 [.var 19 g, .var 18 n, .var 13 d, .var 8 a, .var 3 b, .const 0 3 0]
  | .amoAdd r g n d a b => body r 0x12 [.var 19 g, .var 18 n, .var 13 d, .var 8 a, .var 3 b, .const 0 3 1]
  | .amoAnd r g n d a b => body r 0x12 [.var 19 g, .var 18 n, .var 13 d, .var 8 a, .var 3 b, .const 0 3 2]
  | .amoOr r g n d a b => body r 0x12 [.var 19 g, .var 18 n, .var 13 d, .var 8 a, .var 3 b, .const 0 3 3]
  | .amoXor r g n d a b => body r 0x12 [.var 19 g, .var 18 n, .var 13 d, .var 8 a, .var 3 b, .const 0 3 4]
  | .amoMax r g n d a b => body r 0x12 [.var 19 g, .var 18 n, .var 13 d, .var 8 a, .var 3 b, .const 0 3 5]
  | .amoMin r g n d a b => body r 0x12 [.var 19 g, .var 18 n, .var 13 d, .var 8 a, .var 3 b, .const 0 3 6]
  | .amoCas r g n d a b => body r 0x12 [.var 19 g, .var 18 n, .var 13 d, .var 8 a, .var 3 b, .const 0 3 7]
  | .redAdd r g n a b => body r 0x13 [.var 19 g, .var 18 n, .const 13 5 0, .var 8 a, .var 3 b, .const 0 3 0]
  | .redAnd r g n a b => body r 0x13 [.var 19 g, .var 18 n, .const 13 5 0, .var 8 a, .var 3 b, .const 0 3 1]
  | .redOr r g n a b => body r 0x13 [.var 19 g, .var 18 n, .const 13 5 0, .var 8 a, .var 3 b, .const 0 3 2]
  | .redXor r g n a b => body r 0x13 [.var 19 g, .var 18 n, .const 13 5 0, .var 8 a, .var 3 b, .const 0 3 3]
  | .redMax r g n a b => body r 0x13 [.var 19 g, .var 18 n, .const 13 5 0, .var 8 a, .var 3 b, .const 0 3 4]
  | .redMin r g n a b => body r 0x13 [.var 19 g, .var 18 n, .const 13 5 0, .var 8 a, .var 3 b, .const 0 3 5]
  | .redFaddF32 r g n a b => body r 0x13 [.var 19 g, .var 18 n, .const 13 5 0, .var 8 a, .var 3 b, .const 0 3 6]
  | .redFaddF64 r g n a b => body r 0x13 [.var 19 g, .var 18 n, .const 13 5 0, .var 8 a, .var 3 b, .const 0 3 7]
  | .fence r s => body r 0x14 [.const 6 16 0, .var 3 s, .const 0 3 0]
  | .ldAcq r d a s => body r 0x14 [.const 18 4 0, .var 13 d, .var 8 a, .const 6 2 0, .var 3 s, .const 0 3 1]
  | .stRel r g n s a b => body r 0x14 [.var 19 g, .var 18 n, .const 16 2 0, .var 13 s, .var 8 a, .var 3 b, .const 0 3 2]
  | .ldAcqPromote r d a s => body r 0x14 [.const 18 4 0, .var 13 d, .var 8 a, .const 6 2 0, .var 3 s, .const 0 3 3]
  | .amoSwapPromote r g n d a b => body r 0x14 [.var 19 g, .var 18 n, .var 13 d, .var 8 a, .var 3 b, .const 0 3 4]
  | .amoAddPromote r g n d a b => body r 0x14 [.var 19 g, .var 18 n, .var 13 d, .var 8 a, .var 3 b, .const 0 3 5]
  | .amoCasPromote r g n d a b => body r 0x14 [.var 19 g, .var 18 n, .var 13 d, .var 8 a, .var 3 b, .const 0 3 6]
  | .tbarInit r a b => body r 0x15 [.const 17 5 0, .var 12 a, .var 7 b, .const 0 7 0]
  | .tbarArrive r d a b => body r 0x15 [.var 17 d, .var 12 a, .var 7 b, .const 0 7 1]
  | .tbarExpect r d a b => body r 0x15 [.var 17 d, .var 12 a, .var 7 b, .const 0 7 2]
  | .tbarWait r a b => body r 0x15 [.const 17 5 0, .var 12 a, .var 7 b, .const 0 7 3]
  | .tbarTest r d a b => body r 0x15 [.var 17 d, .var 12 a, .var 7 b, .const 0 7 4]
  | .bldN8 r d a i => body r 0x16 [.var 17 d, .var 12 a, .const 9 3 0, .var 0 i]
  | .bldN16 r d a i => body r 0x16 [.var 17 d, .var 12 a, .const 9 3 1, .var 0 i]
  | .bldN32 r d a i => body r 0x16 [.var 17 d, .var 12 a, .const 9 3 2, .var 0 i]
  | .bldN64 r d a i => body r 0x16 [.var 17 d, .var 12 a, .const 9 3 3, .var 0 i]
  | .bstN8 r d a i => body r 0x16 [.var 17 d, .var 12 a, .const 9 3 4, .var 0 i]
  | .bstN16 r d a i => body r 0x16 [.var 17 d, .var 12 a, .const 9 3 5, .var 0 i]
  | .bstN32 r d a i => body r 0x16 [.var 17 d, .var 12 a, .const 9 3 6, .var 0 i]
  | .bstN64 r d a i => body r 0x16 [.var 17 d, .var 12 a, .const 9 3 7, .var 0 i]
  | .engCmd r e a b n => body r 0x18 [.var 20 e, .const 19 1 0, .var 14 a, .var 9 b, .var 0 n]
  | .engCmdReloc r a b n => body r 0x18 [.const 20 2 1, .const 19 1 1, .var 14 a, .var 9 b, .var 0 n]
  | .engFence r m => body r 0x19 [.const 17 5 0, .var 12 m, .const 7 5 0, .const 0 7 0]
  | .engBusy r d => body r 0x19 [.var 17 d, .const 7 10 0, .const 0 7 1]
  | .bqEnq r e a => body r 0x19 [.var 17 e, .var 12 a, .const 7 5 0, .const 0 7 2]
  | .rqDeq r d s => body r 0x19 [.var 17 d, .var 12 s, .const 7 5 0, .const 0 7 3]
  | .fmtEnq r a => body r 0x19 [.const 17 5 0, .var 12 a, .const 7 5 0, .const 0 7 4]
  | .endr r => body r 0x1A [.const 7 15 0, .const 0 7 0]
  | .arg r d i => body r 0x1A [.var 17 d, .const 16 1 0, .var 12 i, .const 7 5 0, .const 0 7 1]
  | .argWrite r d i b => body r 0x1A [.var 17 d, .const 16 1 1, .var 12 i, .var 7 b, .const 0 7 1]
  | .rqEnq r a => body r 0x1A [.const 17 5 0, .var 12 a, .const 7 5 0, .const 0 7 2]
  | .bqBr r o => body r 0x1A [.var 7 o, .const 0 7 3]
  | .bqBrn r o => body r 0x1A [.var 7 o, .const 0 7 4]
  | .loopImm r n c l => body r 0x1B [.var 20 n, .const 19 1 0, .var 7 c, .var 0 l]
  | .loopReg r n c l => body r 0x1B [.var 20 n, .const 19 1 1, .var 14 c, .const 7 7 0, .var 0 l]
  | .waitc r a b c d => body r 0x1C [.const 16 6 0, .var 12 a, .var 8 b, .var 4 c, .var 0 d]
  | .taskEnq r a b => body r 0x1D [.const 17 5 0, .var 12 a, .var 7 b, .const 0 7 0]
  | .taskDone r a => body r 0x1D [.const 17 5 0, .var 12 a, .const 7 5 0, .const 0 7 1]
  | .taskYield r a => body r 0x1D [.const 17 5 0, .var 12 a, .const 7 5 0, .const 0 7 2]
  | .hypOpen r d a => body r 0x1E [.var 17 d, .var 12 a, .const 7 5 0, .const 0 7 0]
  | .hypEnter r a => body r 0x1E [.const 17 5 0, .var 12 a, .const 7 5 0, .const 0 7 1]
  | .hypOk r d a => body r 0x1E [.var 17 d, .var 12 a, .const 7 5 0, .const 0 7 2]
  | .hypNo r d a => body r 0x1E [.var 17 d, .var 12 a, .const 7 5 0, .const 0 7 3]
  | .hypQuery r d a => body r 0x1E [.var 17 d, .var 12 a, .const 7 5 0, .const 0 7 4]
  | .cpy r c => body r 0x20 [.const 18 4 0, .var 14 c, .const 0 14 0]
  | .cpyT r c d t => body r 0x20 [.const 18 4 1, .var 14 c, .var 10 d, .var 6 t, .const 0 6 0]
  | .cdSet r c s f => body r 0x20 [.const 18 4 2, .var 14 c, .const 10 4 0, .var 6 s, .var 0 f]
  | .gath r c => body r 0x21 [.const 18 4 0, .var 14 c, .const 1 13 0, .const 0 1 0]
  | .gathT r c d t => body r 0x21 [.const 18 4 0, .var 14 c, .var 10 d, .var 6 t, .const 1 5 0, .const 0 1 1]
  | .scat r c => body r 0x21 [.const 18 4 1, .var 14 c, .const 1 13 0, .const 0 1 0]
  | .scatT r c d t => body r 0x21 [.const 18 4 1, .var 14 c, .var 10 d, .var 6 t, .const 1 5 0, .const 0 1 1]
  | .mcast r c => body r 0x22 [.const 18 4 0, .var 14 c, .const 1 13 0, .const 0 1 0]
  | .mcastT r c d t => body r 0x22 [.const 18 4 0, .var 14 c, .var 10 d, .var 6 t, .const 1 5 0, .const 0 1 1]
  | .sclLd r c => body r 0x23 [.const 18 4 0, .var 14 c, .const 1 13 0, .const 0 1 0]
  | .sclLdT r c d t => body r 0x23 [.const 18 4 0, .var 14 c, .var 10 d, .var 6 t, .const 1 5 0, .const 0 1 1]
  | .pref r c => body r 0x23 [.const 18 4 1, .var 14 c, .const 0 14 0]
  | .mm r c a b k z y x =>
    body r 0x24 [.const 18 4 0, .var 14 c, .var 10 a, .var 6 b, .const 4 2 0, .var 3 k, .var 2 z, .var 1 y, .var 0 x]
  | .mmG r c a b i z y => body r 0x24 [.const 18 4 1, .var 14 c, .var 10 a, .var 6 b, .var 3 i, .var 2 z, .var 1 y, .const 0 1 0]
  | .accZero r c => body r 0x25 [.const 18 4 0, .var 14 c, .const 0 14 0]
  | .accRd r d c => body r 0x25 [.const 18 4 1, .var 14 d, .var 10 c, .const 0 10 0]
  | .accWr r c s => body r 0x25 [.const 18 4 2, .var 14 c, .var 10 s, .const 0 10 0]
  | .tdSet r t a b => body r 0x26 [.const 18 4 0, .var 14 t, .var 10 a, .var 6 b, .const 0 6 0]
  | .vadd r d a b x y z t => body r 0x28 [.const 18 4 0, .var 14 d, .var 10 a, .var 6 b, .var 5 x, .var 4 y, .var 3 z, .var 0 t]
  | .vsub r d a b x y z t => body r 0x28 [.const 18 4 1, .var 14 d, .var 10 a, .var 6 b, .var 5 x, .var 4 y, .var 3 z, .var 0 t]
  | .vmul r d a b x y z t => body r 0x28 [.const 18 4 2, .var 14 d, .var 10 a, .var 6 b, .var 5 x, .var 4 y, .var 3 z, .var 0 t]
  | .vdiv r d a b x y z t => body r 0x28 [.const 18 4 3, .var 14 d, .var 10 a, .var 6 b, .var 5 x, .var 4 y, .var 3 z, .var 0 t]
  | .vmin r d a b x y z t => body r 0x28 [.const 18 4 4, .var 14 d, .var 10 a, .var 6 b, .var 5 x, .var 4 y, .var 3 z, .var 0 t]
  | .vmax r d a b x y z t => body r 0x28 [.const 18 4 5, .var 14 d, .var 10 a, .var 6 b, .var 5 x, .var 4 y, .var 3 z, .var 0 t]
  | .vand r d a b x y z t => body r 0x28 [.const 18 4 6, .var 14 d, .var 10 a, .var 6 b, .var 5 x, .var 4 y, .var 3 z, .var 0 t]
  | .vor r d a b x y z t => body r 0x28 [.const 18 4 7, .var 14 d, .var 10 a, .var 6 b, .var 5 x, .var 4 y, .var 3 z, .var 0 t]
  | .vxor r d a b x y z t => body r 0x28 [.const 18 4 8, .var 14 d, .var 10 a, .var 6 b, .var 5 x, .var 4 y, .var 3 z, .var 0 t]
  | .vshl r d a b x y z t => body r 0x28 [.const 18 4 9, .var 14 d, .var 10 a, .var 6 b, .var 5 x, .var 4 y, .var 3 z, .var 0 t]
  | .vshr r d a b x y z t => body r 0x28 [.const 18 4 10, .var 14 d, .var 10 a, .var 6 b, .var 5 x, .var 4 y, .var 3 z, .var 0 t]
  | .vfma r d a b x y t => body r 0x29 [.const 18 4 0, .var 14 d, .var 10 a, .var 6 b, .var 5 x, .var 4 y, .const 3 1 0, .var 0 t]
  | .vfms r d a b x y t => body r 0x29 [.const 18 4 1, .var 14 d, .var 10 a, .var 6 b, .var 5 x, .var 4 y, .const 3 1 0, .var 0 t]
  | .vfnma r d a b x y t =>
    body r 0x29 [.const 18 4 2, .var 14 d, .var 10 a, .var 6 b, .var 5 x, .var 4 y, .const 3 1 0, .var 0 t]
  | .vsel r d a b x y t => body r 0x29 [.const 18 4 3, .var 14 d, .var 10 a, .var 6 b, .var 5 x, .var 4 y, .const 3 1 0, .var 0 t]
  | .vclamp r d a b x y t =>
    body r 0x29 [.const 18 4 4, .var 14 d, .var 10 a, .var 6 b, .var 5 x, .var 4 y, .const 3 1 0, .var 0 t]
  | .vcmpEq r d a b x y z t => body r 0x2A [.const 18 4 0, .var 14 d, .var 10 a, .var 6 b, .var 5 x, .var 4 y, .var 3 z, .var 0 t]
  | .vcmpLt r d a b x y z t => body r 0x2A [.const 18 4 1, .var 14 d, .var 10 a, .var 6 b, .var 5 x, .var 4 y, .var 3 z, .var 0 t]
  | .vcmpLe r d a b x y z t => body r 0x2A [.const 18 4 2, .var 14 d, .var 10 a, .var 6 b, .var 5 x, .var 4 y, .var 3 z, .var 0 t]
  | .vcvt r d a x => body r 0x2A [.const 18 4 3, .var 14 d, .var 10 a, .const 6 4 0, .var 5 x, .const 0 5 0]
  | .vnot r d a x z t =>
    body r 0x2A [.const 18 4 4, .var 14 d, .var 10 a, .const 6 4 0, .var 5 x, .const 4 1 0, .var 3 z, .var 0 t]
  | .vabs r d a x z t =>
    body r 0x2A [.const 18 4 5, .var 14 d, .var 10 a, .const 6 4 0, .var 5 x, .const 4 1 0, .var 3 z, .var 0 t]
  | .vneg r d a x z t =>
    body r 0x2A [.const 18 4 6, .var 14 d, .var 10 a, .const 6 4 0, .var 5 x, .const 4 1 0, .var 3 z, .var 0 t]
  | .vmov r d a x z t =>
    body r 0x2A [.const 18 4 7, .var 14 d, .var 10 a, .const 6 4 0, .var 5 x, .const 4 1 0, .var 3 z, .var 0 t]
  | .vexp2 r d a x z =>
    body r 0x2B [.const 18 4 0, .var 14 d, .var 10 a, .const 6 4 0, .var 5 x, .const 4 1 0, .var 3 z, .const 0 3 0]
  | .vlog2 r d a x z =>
    body r 0x2B [.const 18 4 1, .var 14 d, .var 10 a, .const 6 4 0, .var 5 x, .const 4 1 0, .var 3 z, .const 0 3 0]
  | .vrcp r d a x z =>
    body r 0x2B [.const 18 4 2, .var 14 d, .var 10 a, .const 6 4 0, .var 5 x, .const 4 1 0, .var 3 z, .const 0 3 0]
  | .vrsq r d a x z =>
    body r 0x2B [.const 18 4 3, .var 14 d, .var 10 a, .const 6 4 0, .var 5 x, .const 4 1 0, .var 3 z, .const 0 3 0]
  | .vsqrt r d a x z =>
    body r 0x2B [.const 18 4 4, .var 14 d, .var 10 a, .const 6 4 0, .var 5 x, .const 4 1 0, .var 3 z, .const 0 3 0]
  | .vsin r d a x z =>
    body r 0x2B [.const 18 4 5, .var 14 d, .var 10 a, .const 6 4 0, .var 5 x, .const 4 1 0, .var 3 z, .const 0 3 0]
  | .vcos r d a x z =>
    body r 0x2B [.const 18 4 6, .var 14 d, .var 10 a, .const 6 4 0, .var 5 x, .const 4 1 0, .var 3 z, .const 0 3 0]
  | .vtanh r d a x z =>
    body r 0x2B [.const 18 4 7, .var 14 d, .var 10 a, .const 6 4 0, .var 5 x, .const 4 1 0, .var 3 z, .const 0 3 0]
  | .vrsum r d a t => body r 0x2C [.const 18 4 0, .var 14 d, .var 10 a, .const 3 7 0, .var 0 t]
  | .vrmax r d a t => body r 0x2C [.const 18 4 1, .var 14 d, .var 10 a, .const 3 7 0, .var 0 t]
  | .vrmin r d a t => body r 0x2C [.const 18 4 2, .var 14 d, .var 10 a, .const 3 7 0, .var 0 t]
  | .vrsumsq r d a t => body r 0x2C [.const 18 4 3, .var 14 d, .var 10 a, .const 3 7 0, .var 0 t]
  | .vrargmax r d a t => body r 0x2C [.const 18 4 4, .var 14 d, .var 10 a, .const 3 7 0, .var 0 t]
  | .vchBegin r d => body r 0x2D [.const 18 4 0, .var 14 d, .const 0 14 0]
  | .vchEnd r => body r 0x2D [.const 18 4 1, .const 0 18 0]
  | .vdefer r q k p => body r 0x2D [.const 18 4 2, .var 14 q, .const 13 1 0, .var 10 k, .const 4 6 2, .var 0 p]
  | .vdrain r q p => body r 0x2D [.const 18 4 3, .var 14 q, .const 4 10 0, .var 0 p]
  | .rgnSet r d a b => body r 0x2E [.const 18 4 0, .var 14 d, .var 10 a, .var 6 b, .const 0 6 0]
  | .qrGen r d a b => body r 0x2F [.const 18 4 0, .var 14 d, .var 10 a, .var 6 b, .const 0 6 0]
  | .srfAlloc r w => body r 0x30 [.const 18 4 0, .var 14 w, .const 0 14 0]
  | .srfFree r w => body r 0x30 [.const 18 4 1, .var 14 w, .const 0 14 0]
  | .srfLd r s x => body r 0x30 [.const 18 4 2, .var 14 s, .var 10 x, .const 0 10 0]
  | .srfSt r x s => body r 0x30 [.const 18 4 3, .var 14 x, .var 10 s, .const 0 10 0]
  | .srfZero r w => body r 0x30 [.const 18 4 4, .var 14 w, .const 0 14 0]
  | .opdLd r k a => body r 0x31 [.const 18 4 0, .var 14 k, .var 10 a, .const 0 10 0]
  | .scan r x k => body r 0x32 [.const 18 4 0, .var 14 x, .const 10 4 0, .var 6 k, .const 2 4 0, .const 1 1 0, .const 0 1 0]
  | .scanSw r x s k => body r 0x32 [.const 18 4 0, .var 14 x, .var 10 s, .var 6 k, .const 2 4 0, .const 1 1 1, .const 0 1 0]
  | .scanRed r x s k => body r 0x32 [.const 18 4 1, .var 14 x, .var 10 s, .var 6 k, .const 0 6 0]
  | .scanApply r x s k => body r 0x32 [.const 18 4 2, .var 14 x, .var 10 s, .var 6 k, .const 1 5 0, .const 0 1 0]
  | .scanApplyFirst r x s k => body r 0x32 [.const 18 4 2, .var 14 x, .var 10 s, .var 6 k, .const 1 5 0, .const 0 1 1]
  | .nscanUp r s g k => body r 0x33 [.const 18 4 0, .var 14 s, .var 10 g, .var 6 k, .const 0 6 0]
  | .nscanDown r s g k => body r 0x33 [.const 18 4 1, .var 14 s, .var 10 g, .var 6 k, .const 0 6 0]
  | .carrySendIn r s g p => body r 0x34 [.const 18 4 0, .var 14 s, .var 10 g, .var 6 p, .const 5 1 0, .const 0 5 0]
  | .carrySendOut r s g p => body r 0x34 [.const 18 4 0, .var 14 s, .var 10 g, .var 6 p, .const 5 1 1, .const 0 5 0]
  | .carryRecvIn r s g p => body r 0x34 [.const 18 4 1, .var 14 s, .var 10 g, .var 6 p, .const 4 2 0, .const 0 4 0]
  | .carryRecvCombIn r s g p k => body r 0x34 [.const 18 4 1, .var 14 s, .var 10 g, .var 6 p, .const 4 2 1, .var 0 k]
  | .carryRecvOut r s g p => body r 0x34 [.const 18 4 1, .var 14 s, .var 10 g, .var 6 p, .const 4 2 2, .const 0 4 0]
  | .carryRecvCombOut r s g p k => body r 0x34 [.const 18 4 1, .var 14 s, .var 10 g, .var 6 p, .const 4 2 3, .var 0 k]
  | .step r h x k => body r 0x35 [.const 18 4 0, .var 14 h, .var 10 x, .var 6 k, .const 4 2 0, .const 3 1 0, .const 0 3 0]
  | .stepY r h x k y => body r 0x35 [.const 18 4 0, .var 14 h, .var 10 x, .var 6 k, .const 4 2 0, .const 3 1 1, .var 0 y]
  | .swSet r w a b => body r 0x36 [.const 18 4 0, .var 14 w, .var 10 a, .var 6 b, .const 0 6 0]
  | .qrDirld r a b => body r 0x38 [.const 17 5 0, .var 12 a, .var 7 b, .const 0 7 0]
  | .qrSeed r a => body r 0x38 [.const 17 5 0, .var 12 a, .const 7 5 0, .const 0 7 1]
  | .qrPt r d a b => body r 0x38 [.var 17 d, .var 12 a, .var 7 b, .const 0 7 2]
  | .smpDraw r a => body r 0x39 [.const 17 5 0, .var 12 a, .const 7 5 0, .const 0 7 0]
  | .smpCheck r a b => body r 0x39 [.const 17 5 0, .var 12 a, .var 7 b, .const 0 7 1]
  | .smpResid r a b => body r 0x39 [.const 17 5 0, .var 12 a, .var 7 b, .const 0 7 2]
  | .smpCfg r a b => body r 0x39 [.const 17 5 0, .var 12 a, .var 7 b, .const 0 7 3]
  | .smpStop r a b => body r 0x39 [.const 17 5 0, .var 12 a, .var 7 b, .const 0 7 4]
  | .logAppend r d a => body r 0x3A [.var 17 d, .var 12 a, .const 7 5 0, .const 0 7 0]
  | .collLoad r a b => body r 0x3B [.const 17 5 0, .var 12 a, .var 7 b, .const 0 7 0]
  | .collRun r a b => body r 0x3B [.const 17 5 0, .var 12 a, .var 7 b, .const 0 7 1]
  | .collWait r a => body r 0x3B [.const 17 5 0, .var 12 a, .const 7 5 0, .const 0 7 2]
  | .trigAdd r a b => body r 0x3B [.const 17 5 0, .var 12 a, .var 7 b, .const 0 7 3]
  | .stc r a b => body r 0x3C [.const 17 5 0, .var 12 a, .var 7 b, .const 0 7 0]
  | .winDrain r a => body r 0x3C [.const 17 5 0, .var 12 a, .const 7 5 0, .const 0 7 1]
  | .digest r d a b => body r 0x3D [.var 17 d, .var 12 a, .var 7 b, .const 0 7 0]
  | .frameBegin r a => body r 0x3D [.const 17 5 0, .var 12 a, .const 7 5 0, .const 0 7 1]
  | _ => none

/-- `encode` writes the word of the layout. -/
theorem encode_of_layout {i : Instr} {l : Layout} (h : layout i = some l) : encode i = some l.word := by
  cases i <;> cases h <;>
    exact congrArg some (by simp only [Layout.word, Layout.constBits_nil, Layout.constBits_var, Layout.constBits_const,
      Layout.addVars_nil, Layout.addVars_var, Layout.addVars_const, Layout.atBit, Nat.reducePow, Nat.reduceMul, Nat.reduceAdd])

theorem encode_of_layout_none {i : Instr} (h : layout i = none) : encode i = none := by
  cases i <;> cases h <;> rfl

/-- The parts of every layout lie side by side and fill the word. -/
theorem layout_fills {i : Instr} {l : Layout} (h : layout i = some l) : l.fills 32 = true := by
  cases i <;> cases h <;> rfl

end Sys2Proof.Proofs
end

section
/-! The decoder's rows go by the layouts: what `candidate` looks up (R48 steps 4 and 6, R49). -/
namespace Sys2Proof.Proofs
open Sys2Proof.Machine

/-- The rows of a major: what `candidate` looks up. -/
def candidateOf (m w : Nat) : Option (Instr × Bool) :=
  match m with
  | 0 => cand00 w
  | 1 => cand01 w
  | 2 => cand02 w
  | 4 => cand04 w
  | 5 => cand05 w
  | 6 => cand06 w
  | 7 => cand07 w
  | 8 => cand08 w
  | 9 => cand09 w
  | 10 => cand0A w
  | 11 => cand0B w
  | 12 => cand0C w
  | 13 => cand0D w
  | 14 => cand0E w
  | 15 => cand0F w
  | 16 => cand10 w
  | 17 => cand11 w
  | 18 => cand12 w
  | 19 => cand13 w
  | 20 => cand14 w
  | 21 => cand15 w
  | 22 => cand16 w
  | 24 => cand18 w
  | 25 => cand19 w
  | 26 => cand1A w
  | 27 => cand1B w
  | 28 => cand1C w
  | 29 => cand1D w
  | 30 => cand1E w
  | 32 => cand20 w
  | 33 => cand21 w
  | 34 => cand22 w
  | 35 => cand23 w
  | 36 => cand24 w
  | 37 => cand25 w
  | 38 => cand26 w
  | 40 => cand28 w
  | 41 => cand29 w
  | 42 => cand2A w
  | 43 => cand2B w
  | 44 => cand2C w
  | 45 => cand2D w
  | 46 => cand2E w
  | 47 => cand2F w
  | 48 => cand30 w
  | 49 => cand31 w
  | 50 => cand32 w
  | 51 => cand33 w
  | 52 => cand34 w
  | 53 => cand35 w
  | 54 => cand36 w
  | 56 => cand38 w
  | 57 => cand39 w
  | 58 => cand3A w
  | 59 => cand3B w
  | 60 => cand3C w
  | 61 => cand3D w
  | _ => none

theorem candidate_eq (w : Nat) : candidate w = candidateOf (majorOf w) w := rfl

/-- The rows of each major, as rewriting rules. -/
theorem candidateOf_lit (w : Nat) :
    candidateOf 0 w = cand00 w ∧ candidateOf 1 w = cand01 w ∧ candidateOf 2 w = cand02 w ∧ candidateOf 4 w = cand04 w ∧
    candidateOf 5 w = cand05 w ∧ candidateOf 6 w = cand06 w ∧ candidateOf 7 w = cand07 w ∧ candidateOf 8 w = cand08 w ∧
    candidateOf 9 w = cand09 w ∧ candidateOf 10 w = cand0A w ∧ candidateOf 11 w = cand0B w ∧ candidateOf 12 w = cand0C w ∧
    candidateOf 13 w = cand0D w ∧ candidateOf 14 w = cand0E w ∧ candidateOf 15 w = cand0F w ∧ candidateOf 16 w = cand10 w ∧
    candidateOf 17 w = cand11 w ∧ candidateOf 18 w = cand12 w ∧ candidateOf 19 w = cand13 w ∧ candidateOf 20 w = cand14 w ∧
    candidateOf 21 w = cand15 w ∧ candidateOf 22 w = cand16 w ∧ candidateOf 24 w = cand18 w ∧ candidateOf 25 w = cand19 w ∧
    candidateOf 26 w = cand1A w ∧ candidateOf 27 w = cand1B w ∧ candidateOf 28 w = cand1C w ∧ candidateOf 29 w = cand1D w ∧
    candidateOf 30 w = cand1E w ∧ candidateOf 32 w = cand20 w ∧ candidateOf 33 w = cand21 w ∧ candidateOf 34 w = cand22 w ∧
    candidateOf 35 w = cand23 w ∧ candidateOf 36 w = cand24 w ∧ candidateOf 37 w = cand25 w ∧ candidateOf 38 w = cand26 w ∧
    candidateOf 40 w = cand28 w ∧ candidateOf 41 w = cand29 w ∧ candidateOf 42 w = cand2A w ∧ candidateOf 43 w = cand2B w ∧
    candidateOf 44 w = cand2C w ∧ candidateOf 45 w = cand2D w ∧ candidateOf 46 w = cand2E w ∧ candidateOf 47 w = cand2F w ∧
    candidateOf 48 w = cand30 w ∧ candidateOf 49 w = cand31 w ∧ candidateOf 50 w = cand32 w ∧ candidateOf 51 w = cand33 w ∧
    candidateOf 52 w = cand34 w ∧ candidateOf 53 w = cand35 w ∧ candidateOf 54 w = cand36 w ∧ candidateOf 56 w = cand38 w ∧
    candidateOf 57 w = cand39 w ∧ candidateOf 58 w = cand3A w ∧ candidateOf 59 w = cand3B w ∧ candidateOf 60 w = cand3C w ∧
    candidateOf 61 w = cand3D w := by
  and_intros <;> rfl

theorem mod_128_of_half {w n : Nat} (h : w / 2 % 64 = n) : w % 128 = 2 * n ∨ w % 128 = 2 * n + 1 := by omega

/-- A word that holds the parts of an instruction's layout is looked up as that instruction, its unused bits zero. -/
theorem candidate_of_layout {i : Instr} {l : Layout} {w : Nat} (h : layout i = some l) (hw : l.In w) :
    candidate w = some (i, true) := by
  simp only [candidate_eq, majorOf, Nat.reducePow]
  cases i <;> cases h <;> simp only [Layout.In, Part.In, Nat.reducePow, Nat.div_one, pow_zero] at hw
  case slli | srli | srai | rori =>
    obtain ⟨rfl, hm, rfl, rfl, rfl, hf, rfl, -⟩ := hw
    obtain hf | hf := mod_128_of_half hf <;> simp only [hm, hf, candidateOf_lit, cand06, Nat.reduceMul, Nat.reduceAdd]
  all_goals
    simp only [hw, candidateOf_lit, cand00, cand01, cand02, cand04, cand05, cand06, cand07, cand08, cand09, cand0A, cand0B,
      cand0C, cand0D, cand0E, cand0F, cand10, cand11, cand12, cand13, cand14, cand15, cand16, cand18, cand19, cand1A, cand1B,
      cand1C, cand1D, cand1E, cand20, cand21, cand22, cand23, cand24, cand25, cand26, cand28, cand29, cand2A, cand2B, cand2C,
      cand2D, cand2E, cand2F, cand30, cand31, cand32, cand33, cand34, cand35, cand36, cand38, cand39, cand3A, cand3B, cand3C,
      cand3D, isZero, Nat.reducePow, Nat.div_one, pow_zero, Nat.reduceBEq, Bool.and_self, Bool.false_eq_true, if_true, if_false]

/-- A STAMP or EXT that may come first has zero ring bits. -/
theorem ring_of_prefixOk {w : Nat} (h : prefixOk {} w = true) :
    (majorOf w ≠ 1 ∧ majorOf w ≠ 2) ∨ w / 268435456 % 16 = 0 := by
  by_cases h1 : majorOf w = 1 <;> by_cases h2 : majorOf w = 2 <;> simp_all [prefixOk, Prefixes.hasExt]

/-- A word that is looked up with its unused bits zero holds the parts of the instruction's layout. -/
theorem layout_of_candidate {w : Nat} {i : Instr} (hp : prefixOk {} w = true) (h : candidate w = some (i, true)) :
    ∃ l, layout i = some l ∧ l.In w := by
  have hr := ring_of_prefixOk hp
  clear hp
  unfold candidate at h
  split at h
  all_goals
    simp only [cand00, cand01, cand02, cand04, cand05, cand06, cand07, cand08, cand09, cand0A, cand0B, cand0C, cand0D, cand0E,
      cand0F, cand10, cand11, cand12, cand13, cand14, cand15, cand16, cand18, cand19, cand1A, cand1B, cand1C, cand1D, cand1E,
      cand20, cand21, cand22, cand23, cand24, cand25, cand26, cand28, cand29, cand2A, cand2B, cand2C, cand2D, cand2E, cand2F,
      cand30, cand31, cand32, cand33, cand34, cand35, cand36, cand38, cand39, cand3A, cand3B, cand3C, cand3D, reduceCtorEq] at h
  all_goals
    (repeat' split at h)
  all_goals simp only [Option.some.injEq, Prod.mk.injEq, reduceCtorEq] at h
  all_goals
    obtain ⟨rfl, hz⟩ := h
    refine ⟨_, rfl, ?_⟩
    simp_all only [isZero, Bool.and_eq_true, majorOf, Layout.In, Part.In, pow_zero, Nat.div_one, Nat.reducePow, true_and,
      and_true, beq_iff_eq, imp_false]
  all_goals omega

end Sys2Proof.Proofs
end

section
/-! Decoding and encoding agree in both directions (R35–R51). -/
namespace Sys2Proof.Proofs
open Sys2Proof.Machine

theorem prefixOk_of_layout {i : Instr} {l : Layout} {w : Nat} (h : layout i = some l) (hw : l.In w) :
    prefixOk {} w = true := by
  cases i <;> cases h <;> simp only [Layout.In, Part.In, Nat.reducePow] at hw <;>
    simp [prefixOk, majorOf, Prefixes.hasExt, hw]

theorem candidate_of_reservedMajor {w : Nat} (h : reservedMajor (majorOf w) = true) : candidate w = none := by
  simp only [reservedMajor, Bool.or_eq_true, beq_iff_eq] at h
  obtain (((((h | h) | h) | h) | h) | h) | h := h <;> rw [candidate_eq, h] <;> rfl

theorem decodeRaw_eq_ok_iff {w : Nat} {i : Instr} :
    decodeRaw w = .ok i ↔ prefixOk {} w = true ∧ candidate w = some (i, true) ∧ i.wf = true := by
  unfold decodeRaw
  cases hp : prefixOk {} w with
  | false => simp
  | true =>
    cases hr : reservedMajor (majorOf w) with
    | true => simp [candidate_of_reservedMajor hr]
    | false =>
      cases hc : candidate w with
      | none => simp
      | some c =>
        obtain ⟨j, z⟩ := c
        by_cases hji : j = i
        · subst hji
          simp
        · cases z <;> cases hj : j.wf <;> simp [hji, hj]

/-- A word decodes to the well-formed instruction whose layout it fills. -/
theorem decodeRaw_iff_layout {w : Nat} {i : Instr} :
    decodeRaw w = .ok i ↔ (∃ l, layout i = some l ∧ l.In w) ∧ i.wf = true := by
  rw [decodeRaw_eq_ok_iff]
  constructor
  · rintro ⟨hp, hc, hwf⟩
    exact ⟨layout_of_candidate hp hc, hwf⟩
  · rintro ⟨⟨l, hl, hw⟩, hwf⟩
    exact ⟨prefixOk_of_layout hl hw, candidate_of_layout hl hw, hwf⟩

theorem encode_eq_some_iff {i : Instr} {w : Nat} (hw : w < 2 ^ 32) :
    encode i = some w ↔ ∃ l, layout i = some l ∧ l.In w := by
  cases h : layout i with
  | none => simp [encode_of_layout_none h]
  | some l => simp [encode_of_layout h, Layout.word_eq_iff (layout_fills h) hw]

theorem encode_lt {i : Instr} {w : Nat} (h : encode i = some w) : w < 2 ^ 32 := by
  cases hl : layout i with
  | none => simp [encode_of_layout_none hl] at h
  | some l =>
    obtain rfl : l.word = w := by simpa [encode_of_layout hl] using h
    exact Layout.word_lt (layout_fills hl)

theorem decodeRaw_iff_encode {w : Nat} {i : Instr} (hw : w < 2 ^ 32) :
    decodeRaw w = .ok i ↔ encode i = some w ∧ i.wf = true := by
  rw [decodeRaw_iff_layout, encode_eq_some_iff hw]

/-- Settles O26: encoder and decoder both go by the layout of the instruction's words, row by row. -/
theorem decodeEncodeRoundTrip : Obligations.DecodeEncodeRoundTrip :=
  ⟨fun _ _ hwf h => ⟨encode_lt h, (decodeRaw_iff_encode (encode_lt h)).2 ⟨h, hwf⟩⟩,
    fun _ _ hw => (decodeRaw_iff_encode hw).1⟩

end Sys2Proof.Proofs
end

section
/-! A word whose guard is false (R39). -/
namespace Sys2Proof.Proofs
open Sys2Proof.Machine Sys2Proof.Safety Sys2Proof.Laws

/-- A ready word whose guard is false, and that no check of its own stops, retires with its ring waits taken and its body left out. -/
theorem issueWith_guard_false {pre : State → Option Flt} {i : Instr} {body : State → WordResult} {s : State}
    (hr : s.ready i = true) (hg : s.guarded i = false) (hp : pre s = none) :
    issueWith pre i body s = retire i s .next (stepAfter s.unit (takeRing i s)) := by
  simp only [State.ready, Bool.and_eq_true, Bool.or_eq_true, Bool.not_eq_true', Option.isNone_iff_eq_none, beq_iff_eq] at hr
  obtain ⟨⟨⟨⟨⟨⟨ha, hm⟩, he⟩, hs⟩, hd⟩, hb⟩, hn⟩ := hr
  simp only [issueWith, ha, hm, hn, he, Bool.not_true, Bool.false_eq_true, if_false]
  rcases hs with hs | hs <;> simp [hs, hd, hp, hb, guardedBody, hg, finishWord]

theorem completes_of_guard_false {pre : State → Option Flt} {i : Instr} {body : State → WordResult} {s : State}
    (hr : s.ready i = true) (hg : s.guarded i = false) (hx : exec i s = .next (issueWith pre i body s)) (hp : pre s = none) :
    completes s i .next (takeRing i s) := by
  rw [issueWith_guard_false hr hg hp] at hx
  refine ⟨_, hx, still_retire _ _ _ _, ?_⟩
  rw [standing_retire]
  exact standing_advance_same (sameUnits_stepAfter _ _) _ _ _

theorem calmFault_eq_none {s : State} (h : s.core.calm = false) : calmFault s = none := by
  simp [calmFault, h]

/-- Settles O28: the guarded words are those of formats G and B; of their own checks before the ring waits only F.CALM is there. -/
theorem guardFalseOnlyAdvances : Obligations.GuardFalseOnlyAdvances := by
  intro s i calmBound hr hg hc
  cases i
  case sel | br | stN8 | stN16 | stN32 | stN64 | redAdd | redAnd | redOr | redXor | redMax | redMin | stRel =>
    exact completes_of_guard_false hr hg rfl rfl
  case amoSwap | amoAdd | amoAnd | amoOr | amoXor | amoMax | amoMin | amoCas | redFaddF32 | redFaddF64 | amoSwapPromote
      | amoAddPromote | amoCasPromote =>
    exact completes_of_guard_false hr hg rfl (calmFault_eq_none (hc rfl))
  all_goals exact Bool.noConfusion hg

end Sys2Proof.Proofs
end

section
/-! A word that its stream, its fields or its EXT does not allow (R48, R49): it faults before anything else of it is looked at. -/
namespace Sys2Proof.Proofs
open Sys2Proof.Machine Sys2Proof.Safety Sys2Proof.Laws

/-! ### The early faults of the ways in which a word issues -/

section
variable {i : Instr} {s : State} {f : Flt} (ha : s.active = true) (he : earlyFault i s = some f)
include ha he

theorem openChain_early : openChain i s = .next (faultOf s s.unit f) := by
  simp only [openChain, ha, he, Bool.not_true, Bool.false_eq_true, if_false]

variable (hm : s.midWord = false) (hn : s.resumes i = false)
include hm hn

theorem issueWith_early {pre : State → Option Flt} {body : State → WordResult} :
    issueWith pre i body s = faultOf s s.unit f := by
  simp only [issueWith, ha, hm, hn, he, Bool.not_true, Bool.false_eq_true, if_false]

theorem exec_of_early {pre : State → Option Flt} {body : State → WordResult} (hx : exec i s = .next (issueWith pre i body s)) :
    exec i s = .next (faultOf s s.unit f) :=
  hx.trans (congrArg _ (issueWith_early ha he hm hn))

theorem loopWord_early {n : BitVec 2} {trips : State → Nat} {l : BitVec 7} : loopWord i n trips l s = faultOf s s.unit f := by
  unfold loopWord
  exact issueWith_early ha he hm hn

theorem netWord_early {g : BitVec 4} {body : State → WordResult} : netWord i g body s = faultOf s s.unit f := by
  simp only [netWord, he, Option.isSome_some, Bool.or_true, Bool.true_or, if_true]
  exact issueWith_early ha he hm hn

theorem nscanIssue_early {up : Bool} {w g k : BitVec 4} : nscanIssue i up w g k s = faultOf s s.unit f := by
  simp only [nscanIssue, atFront, he, Option.isNone_some, Bool.and_false, Bool.false_and, Bool.false_eq_true, if_false]
  exact netWord_early ha he hm hn

theorem carrySend_early {t : Nat} {w g p : BitVec 4} : carrySend i t w g p s = faultOf s s.unit f := by
  have hask : askEarly i w g p s = s := by
    simp only [askEarly, he, Option.isNone_some, Bool.and_false, Bool.false_and, Bool.false_eq_true, if_false]
  simp only [carrySend, hask]
  exact netWord_early ha he hm hn

theorem carryRecv_early {t : Nat} {w g p : BitVec 4} {k : Option Nat} : carryRecv i t w g p k s = faultOf s s.unit f :=
  netWord_early ha he hm hn

/-- Whatever the word, a fault that it meets before anything of it is taken is what `exec` answers. -/
theorem exec_early {w : Nat} (hw : encode i = some w) (hp : isPrefix i = false) : exec i s = .next (faultOf s s.unit f) := by
  cases i
  case stamp | extI | extM => cases hp
  case loopImm | loopReg => exact congrArg _ (loopWord_early ha he hm hn)
  case vchBegin | vdrain => exact openChain_early ha he
  case nscanUp | nscanDown => exact congrArg _ (nscanIssue_early ha he hm hn)
  case carrySendIn | carrySendOut => exact congrArg _ (carrySend_early ha he hm hn)
  case carryRecvIn | carryRecvOut | carryRecvCombIn | carryRecvCombOut => exact congrArg _ (carryRecv_early ha he hm hn)
  -- the other words issue by `issueWith`; an event has no word
  all_goals first
    | exact exec_of_early ha he hm hn rfl
    | cases hw

end

/-! ### The checks of R48 -/

theorem earlyFault_of_decodeCheck {i : Instr} {s : State} {f : Flt} (h : decodeCheck i s.unit s.pfx = some f) :
    earlyFault i s = some f := by
  simp only [earlyFault, h]

/-- Settles O29: the three checks of R48 come first in `earlyFault`, which every word meets before its own work. -/
theorem streamAndFieldFaults : Obligations.StreamAndFieldFaults := by
  intro s i w hw hp ha hm hn
  have key {f : Flt} (h : decodeCheck i s.unit s.pfx = some f) : exec i s = .next (faultOf s s.unit f) :=
    exec_early ha (earlyFault_of_decodeCheck h) hm hn hw hp
  refine ⟨fun hs => key ?_, fun hs hf => key ?_, fun hs hf h => key ?_⟩
  · simp [decodeCheck, hw, hs, cStream]
  · simp [decodeCheck, hw, hs, hf, cStream]
  · obtain h | h | h := h <;> simp [decodeCheck, hw, hs, hf, h, cIllegal]

end Sys2Proof.Proofs
end

section
/-! NOP, the prefixes and TRAP (R44–R47, R99, R100). -/
namespace Sys2Proof.Proofs
open Sys2Proof.Machine Sys2Proof.Safety Sys2Proof.Laws

/-! ### Prefixes -/

theorem joinGroup_pfx (w : BitVec 32) (f : Prefixes → Prefixes) (s : State) :
    (joinGroup w f s).pfx = { f s.pfx with count := (f s.pfx).count + 1, lastWord := w } :=
  get_set_same _ _ _

theorem joinGroup_rest (w : BitVec 32) (f : Prefixes → Prefixes) (s : State) :
    { joinGroup w f s with core := { (joinGroup w f s).core with pfx := s.core.pfx } } = s := rfl

/-- A word that passes the checks of R48 has no field out of its range. -/
theorem wf_of_earlyFault {i : Instr} {s : State} {w : Nat} (hw : encode i = some w) (he : earlyFault i s = none) :
    i.wf = true := by
  cases h : i.wf with
  | true => rfl
  | false =>
    have hc : (decodeCheck i s.unit s.pfx).isSome = true := by
      simp only [decodeCheck, hw, h, Bool.false_and, Bool.not_false, if_true]
      split <;> [rfl; split <;> rfl]
    obtain ⟨f, hf⟩ := Option.isSome_iff_exists.1 hc
    simp [earlyFault, hf] at he

theorem readPrefix_joins {i : Instr} {f : Prefixes → Prefixes} {s : State} {w : Nat} (hw : encode i = some w)
    (ha : s.active = true) (hm : s.midWord = false) (hp : prefixOk s.pfx w = true) (he : earlyFault i s = none) :
    readPrefix i f s = joinGroup (BitVec.ofNat 32 w) f s := by
  simp [readPrefix, ha, hm, hw, hp, he, wf_of_earlyFault hw he]

/-- A STAMP or EXT that comes in order, with what it leaves in the group that is read. -/
theorem exec_of_readPrefix {i : Instr} {f : Prefixes → Prefixes} {s : State} {q : Prefixes}
    (hx : exec i s = .next (readPrefix i f s)) (hq : f s.pfx = q) (hc : q.count = s.pfx.count) (v : Nat) (hw : encode i = some v)
    (ha : s.active = true) (hm : s.midWord = false) (hp : prefixOk s.pfx v = true) (he : earlyFault i s = none) :
    ∃ t, exec i s = .next t ∧ t.pfx = { q with count := s.pfx.count + 1, lastWord := BitVec.ofNat 32 v }
      ∧ { t with core := { t.core with pfx := s.core.pfx } } = s := by
  subst hq
  refine ⟨_, hx.trans (congrArg _ (readPrefix_joins hw ha hm hp he)), ?_, joinGroup_rest _ _ _⟩
  rw [joinGroup_pfx, hc]

/-! ### TRAP -/

theorem exec_of_trapped {i : Instr} {body : State → WordResult} {s t : State} {f : Flt}
    (hx : exec i s = .next (issue i body s)) (hb : body (takeRing i s) = .trapped t f) (h : issues s i) :
    exec i s = .next (raiseAt (retire i s .next t) s.unit (raisedBy s s.unit f)) := by
  rw [hx, issue_ready h, hb]; rfl

/-- Settles O7: NOP and TRAP issue, and a STAMP or EXT that comes in order joins its group. -/
theorem nopPrefixTrap : Obligations.NopPrefixTrap := by
  intro s r c n h p sc o w reads
  exact ⟨completes_of_ok rfl rfl, exec_of_readPrefix rfl rfl rfl, exec_of_readPrefix rfl rfl rfl,
    exec_of_readPrefix rfl rfl rfl, exec_of_trapped rfl rfl⟩

end Sys2Proof.Proofs
end

section
/-! Words that the spec prints (R48, R49). -/
namespace Sys2Proof.Proofs
open Sys2Proof.Machine

/-- Settles O25: fixed words, which the decoder evaluates. -/
theorem decodeSampleWords : Obligations.DecodeSampleWords := by
  unfold Obligations.DecodeSampleWords
  decide

end Sys2Proof.Proofs
end

section
/-! A step fetches, decodes and runs the word of the sequencer that has the turn (R33, R44, R48, R85). -/
namespace Sys2Proof.Proofs
open Sys2Proof.Machine Sys2Proof.Safety Sys2Proof.Laws

/-! ### What a translation leaves to the fetch -/

/-- The two states read the same group of the same sequencer, with the same turn next. -/
def sameGroup (s t : State) : Prop := s.unit = t.unit ∧ s.turn = t.turn ∧ s.core.pfx = t.core.pfx

theorem sameGroup_refl (s : State) : sameGroup s s := ⟨rfl, rfl, rfl⟩

theorem sameGroup_trans {s t u : State} (h : sameGroup s t) (k : sameGroup t u) : sameGroup s u :=
  ⟨h.1.trans k.1, h.2.1.trans k.2.1, h.2.2.trans k.2.2⟩

theorem markRows_pfx (m : Tab Byte) (pa n : Nat) (c : Core) : (c.markRows m pa n).pfx = c.pfx := by
  unfold Core.markRows
  split <;> rfl

theorem sameGroup_writePhysLE (s : State) (pa n v : Nat) : sameGroup (s.writePhysLE pa n v) s :=
  ⟨rfl, rfl, markRows_pfx _ _ _ _⟩

theorem sameGroup_setAD (s : State) (entry : Nat) (e : Word) (write : Bool) : sameGroup (setAD s entry e write) s := by
  unfold setAD
  extract_lets e'
  split
  · exact sameGroup_refl s
  · split
    · exact List.foldlRecOn _ _ (motive := fun t => sameGroup t s) (sameGroup_refl s)
        (fun t h _ _ => sameGroup_trans (sameGroup_writePhysLE t _ _ _) h)
    · exact sameGroup_writePhysLE s _ _ _

theorem sameGroup_translate {s t : State} {tenant pa : Nat} {va leaf : Word} {acc : AccKind}
    (h : translate s tenant va acc = .ok (pa, leaf, t)) : sameGroup t s := by
  unfold Machine.translate at h
  simp only [] at h
  split at h
  next => cases ok_of_check (ok_of_check h); exact sameGroup_refl s
  next =>
    split at h
    next => cases h
    next => cases h
    next => cases ok_of_check (ok_of_check h); exact sameGroup_setAD s _ _ _

/-! ### Fetching -/

theorem midWord_of_underway {s : State} (h : s.core.underway = false) : s.midWord = false := by
  simp [State.midWord, h]

theorem midWord_of_engine {s : State} (h : s.unit ≠ .cc) : s.midWord = false := by
  simp [State.midWord, h]

theorem fetch_engine {s : State} (hu : s.unit ≠ .cc) (ha : (s.core.eng s.unit).upc + 4 * s.pfx.count < 0x10000)
    (hm : s.core.markHit .imem (engIx s.unit * 0x10000 + ((s.core.eng s.unit).upc + 4 * s.pfx.count)) 4 = none) :
    fetch s = .word ((s.core.eng s.unit).imem.get (((s.core.eng s.unit).upc + 4 * s.pfx.count) / 4)) s := by
  have hf : fetch s = fetchEngine s s.unit := by
    cases h : s.unit <;> simp_all [fetch]
  rw [hf, fetchEngine]
  simp [Nat.not_le.2 ha, hm]

/-- A word of local memory, which the CC's instruction cache holds as it is or does not hold (R85). -/
theorem fetchCc_local {s t : State} {pa : Nat} {leaf : Word}
    (hc : canonical (s.core.pc + BitVec.ofNat 64 (4 * s.pfx.count)) = true)
    (ha : (s.core.pc + BitVec.ofNat 64 (4 * s.pfx.count)).toNat % 4 = 0) (hh : s.fetchHeld = false)
    (ht : translate s s.core.tenant (s.core.pc + BitVec.ofNat 64 (4 * s.pfx.count)) 2 = .ok (pa, leaf, t))
    (hl : t.isLocal pa = true) (hm : t.memMark pa 4 = none)
    (hw : Tab.find? t.core.icache.words (pa / 4) = none
      ∨ Tab.find? t.core.icache.words (pa / 4) = some (BitVec.ofNat 32 (readLE t.mem pa 4))) :
    fetchCc s = .word (BitVec.ofNat 32 (readLE t.mem pa 4))
      (t.setICache (if Tab.find? t.core.icache.words (pa / 4) = none then fillLine t pa t.core.icache else t.core.icache)) := by
  unfold fetchCc
  obtain hw | hw := hw <;>
    simp only [hc, ha, hh, ht, hl, hm, hw, cachedWord, State.readPhys, Bool.not_true, Bool.false_eq_true, ne_eq,
      not_true_eq_false, reduceCtorEq, if_true, if_false]

/-! ### The turn of a sequencer -/

/-- The word that the turn of a sequencer decodes: the one under way, or the one that it fetches. -/
def turnWord (s : State) : Fetched := if s.midWord then .word (s.core.curWord.get 0) s else fetch s

theorem fetchMove_of_ok {s t : State} {w : BitVec 32} {i : Instr} (hf : turnWord s = .word w t)
    (hd : decodeIn t.unit t.pfx w.toNat = .ok i) :
    fetchMove s = .run i (if isPrefix i then { noteWord t w with turn := .seq t.unit } else noteWord t w) := by
  have hd' : decodeIn (noteWord t w).unit (noteWord t w).pfx w.toNat = .ok i := hd
  unfold turnWord at hf
  simp only [fetchMove, hf, hd']
  rfl

theorem fetchMove_of_error {s t : State} {w : BitVec 32} {e : Nat} (hf : turnWord s = .word w t)
    (hd : decodeIn t.unit t.pfx w.toNat = .error (.step e)) :
    fetchMove s = .rest (if e = 6 ∧ majorOf w.toNat = 2 then joinBad w { noteWord t w with turn := .seq t.unit }
      else faultOf (noteWord t w) t.unit (decodeFault (.step e))) := by
  have hd' : decodeIn (noteWord t w).unit (noteWord t w).pfx w.toNat = .error (.step e) := hd
  unfold turnWord at hf
  simp only [fetchMove, hf, hd', DecodeError.step.injEq]
  split <;> rfl

/-- The state in which a sequencer has its turn. -/
def inTurn (s : State) (u : Sqr) : State := { s with unit := u, turn := turnAfter u }

theorem seqMove_engine {s : State} {u : Sqr} (hu : u ≠ .cc) (hm : s.core.mode = .running)
    (hr : (s.core.eng u).run.isSome = true) (he : (s.core.eng u).ending = none) : seqMove s u = fetchMove (inTurn s u) := by
  have hw : (inTurn s u).midWord = false := midWord_of_engine hu
  unfold inTurn at hw ⊢
  obtain ⟨c, hr⟩ := Option.isSome_iff_exists.1 hr
  cases u <;> simp_all [seqMove]

theorem seqMove_cc {s : State} (hm : s.core.mode = .running) (ho : s.core.underway = false → s.core.orphanPending = false) :
    seqMove s .cc = fetchMove (inTurn s .cc) := by
  cases hw : s.core.underway with
  | true => simp [seqMove, State.midWord, hm, hw, inTurn]
  | false => simp [seqMove, State.midWord, hm, hw, ho hw, inTurn]

/-! ### The step -/

section
variable {s : State} {u : Sqr} (hn : s.noUpsets = true) (ha : s.agenda = []) (hd : s.dues = []) (ht : s.turn = .seq u)
  (hs : seqMove s u = fetchMove (inTurn s u))
include hn ha hd ht hs

theorem step_of_run {i : Instr} {t : State} (h : fetchMove (inTurn s u) = .run i t) : step s = exec i t := by
  simp only [step, correcting, hn, if_true, moveStep, nextMove, ha, hd, ht, hs, h]

theorem step_of_rest {t : State} (h : fetchMove (inTurn s u) = .rest t) : step s = .next t := by
  simp only [step, correcting, hn, if_true, moveStep, nextMove, ha, hd, ht, hs, h]

/-- A step runs the instruction of the word, in the state that the fetch left, with the word noted and the turn passed. -/
theorem step_of_decode {t : State} {w : BitVec 32} {i : Instr} (hf : turnWord (inTurn s u) = .word w t)
    (hg : sameGroup t (inTurn s u)) (hi : decodeIn u (s.core.pfx.get (sqIx u)) w.toNat = .ok i) :
    step s = exec i { t with core := { t.core with curWord := t.core.curWord.set (sqIx u) w },
                             turn := if isPrefix i then .seq u else turnAfter u } := by
  obtain ⟨hu, htu, hp⟩ := hg
  have hu' : t.unit = u := hu
  have hp' : t.pfx = s.core.pfx.get (sqIx u) := by rw [State.pfx, hp, hu']; rfl
  rw [step_of_run hn ha hd ht hs (fetchMove_of_ok hf (by rw [hu', hp']; exact hi))]
  have htu' : t.turn = turnAfter u := htu
  cases isPrefix i <;> simp [noteWord, hu', ← htu']

theorem step_of_decode_error {t : State} {w : BitVec 32} {e : Nat} (hf : turnWord (inTurn s u) = .word w t)
    (hg : sameGroup t (inTurn s u)) (hi : decodeIn u (s.core.pfx.get (sqIx u)) w.toNat = .error (.step e)) :
    step s = .next (if e = 6 ∧ majorOf w.toNat = 2 then joinBad w { noteWord t w with turn := .seq u }
      else faultOf (noteWord t w) u (decodeFault (.step e))) := by
  obtain ⟨hu, -, hp⟩ := hg
  have hu' : t.unit = u := hu
  have hp' : t.pfx = s.core.pfx.get (sqIx u) := by rw [State.pfx, hp, hu']; rfl
  rw [step_of_rest hn ha hd ht hs (fetchMove_of_error hf (by rw [hu', hp']; exact hi)), hu']

end

theorem step_of_event {s : State} {i : Instr} {rest : List Instr} (hn : s.noUpsets = true) (ha : s.agenda = i :: rest)
    (hi : encode i = none) : step s = exec i { s with agenda := rest } := by
  simp [step, correcting, hn, moveStep, nextMove, ha, hi]

/-- Settles O24: the turn of a sequencer is a fetch, a decoding and, where they give an instruction, its `exec`. -/
theorem stepRunsDecodedWord : Obligations.StepRunsDecodedWord := by
  intro s u i n s1 noted a p x fetches noted1
  have engine (hm : s.core.mode = .running) (h : fetches) :
      seqMove s u = fetchMove (inTurn s u) ∧ turnWord (inTurn s u) = .word x s1 := by
    obtain ⟨hu, hr, he, hlt, hmark⟩ := h
    refine ⟨seqMove_engine hu hm hr he, ?_⟩
    rw [turnWord, midWord_of_engine (s := inTurn s u) hu]
    exact fetch_engine (s := inTurn s u) hu hlt hmark
  refine ⟨fun hn ha hd ht hm => ⟨fun h hi => ?_, fun h e hi he => ?_, fun h hi hj => ?_, fun hu hw hi => ?_,
    fun hu hw ho hc ha4 hh pa leaf t htr hl hmk hcw hi => ?_⟩, fun rest hn ha hi => step_of_event hn ha hi⟩
  · obtain ⟨hs, hf⟩ := engine hm h
    exact step_of_decode hn ha hd ht hs hf (sameGroup_refl _) hi
  · obtain ⟨hs, hf⟩ := engine hm h
    rw [step_of_decode_error hn ha hd ht hs hf (sameGroup_refl _) hi, if_neg (fun h => he h.1 h.2)]
    rfl
  · obtain ⟨hs, hf⟩ := engine hm h
    rw [step_of_decode_error hn ha hd ht hs hf (sameGroup_refl _) hi, if_pos ⟨rfl, hj⟩]
    rfl
  · subst hu
    have hf : turnWord (inTurn s .cc) = .word (s.core.curWord.get 0) s1 := by
      simp [turnWord, State.midWord, inTurn, hw, hm, s1]
    exact step_of_decode hn ha hd ht (seqMove_cc hm (by simp [hw])) hf (sameGroup_refl _) hi
  · subst hu
    have hf : turnWord (inTurn s .cc) = fetchCc (inTurn s .cc) := by
      rw [turnWord, midWord_of_underway (s := inTurn s .cc) hw]
      rfl
    have hg : sameGroup t s1 := sameGroup_translate htr
    have hl' := fetchCc_local (s := inTurn s .cc) hc ha4 hh htr hl hmk hcw
    exact step_of_decode hn ha hd ht (seqMove_cc hm (fun _ => ho)) (hf.trans hl') hg hi

end Sys2Proof.Proofs
end

section
/-! Words of the SE that run place by place: what their turns come to, from the issue to the retirement (R238, R249). -/
namespace Sys2Proof.Proofs
open Sys2Proof.Machine Sys2Proof.Safety Sys2Proof.Laws

/-! ### What a run leaves as it is -/

/-- A core but for what a place of a scan or a move writes: the bytes of AB and of the SRF, and the flags of the word. -/
def unwritten (c : Core) : Core := { c with ab := [], srf := [], seFlags := 0#6 }

/-- A core but for what a word of the SE moves from its issue to its last place. -/
def unmoved (c : Core) : Core :=
  { unwritten c with seprog := 0#64, pfx := [], blocked := [], cause := [], underway := false, tokens := [], vword := 0 }

/-- The bytes that a word of the SE writes: those of AB and of the SRF. -/
abbrev SeBytes := Tab Byte × Tab Byte

def seBytes (s : State) : SeBytes := (s.core.ab, s.core.srf)

/-- A word of the SE that issued in `s` has come to `u`: only its writes and its place have moved, and its group has as many words. -/
structure Along (s u : State) : Prop where
  beside : u.mapCore unmoved = s.mapCore unmoved
  count : (u.core.pfx.get (sqIx s.unit)).count = (s.core.pfx.get (sqIx s.unit)).count

section
variable {s u : State}

theorem Along.refl (s : State) : Along s s := ⟨rfl, rfl⟩

/-- What reads nothing that such a word moves reads the same. -/
theorem Along.same {α : Type} (h : Along s u) (f : State → α) (hf : ∀ t : State, f (t.mapCore unmoved) = f t) : f u = f s := by
  rw [← hf u, h.beside, hf s]

theorem Along.unit (h : Along s u) : u.unit = s.unit := h.same State.unit fun _ => rfl
theorem Along.marks (h : Along s u) : u.core.marks = s.core.marks := h.same (fun t => t.core.marks) fun _ => rfl
theorem Along.slots (h : Along s u) : u.core.slots = s.core.slots := h.same (fun t => t.core.slots) fun _ => rfl
theorem Along.hyp (h : Along s u) : u.hyp = s.hyp := h.same State.hyp fun t => by
  simp only [State.hyp, mapCore_unit]; cases t.unit <;> rfl
theorem Along.baseAddr (h : Along s u) (hu : s.unit = .se) : u.baseAddr = s.baseAddr := by
  have hupc : u.core.se.upc = s.core.se.upc := h.same (fun t => t.core.se.upc) fun _ => rfl
  have hcount := h.count
  simp only [hu] at hcount
  simp only [State.baseAddr, State.groupAddr, State.pfx, h.unit, hu, Core.eng, hupc, hcount]
theorem Along.active (h : Along s u) (hu : s.unit = .se) : u.active = s.active := by
  have hmode : u.core.mode = s.core.mode := h.same (fun t => t.core.mode) fun _ => rfl
  have hse : u.core.se = s.core.se := h.same (fun t => t.core.se) fun _ => rfl
  simp [State.active, State.midWord, h.unit, hu, Core.eng, hmode, hse, show (Sqr.se == Sqr.cc) = false from rfl]
theorem Along.sameUnits (h : Along s u) : sameUnits u.core s.core :=
  ⟨h.same (fun t => t.core.pc) fun _ => rfl, h.same (fun t => t.core.ae) fun _ => rfl, h.same (fun t => t.core.me) fun _ => rfl,
    h.same (fun t => t.core.se) fun _ => rfl, h.same (fun t => t.core.ve) fun _ => rfl⟩
theorem Along.reg (h : Along s u) (v : Sqr) (n : Nat) : u.core.reg v n = s.core.reg v n :=
  h.same (fun t => t.core.reg v n) fun t => by cases v <;> rfl

/-- The ring waits of a word of the SE are taken. -/
theorem Along.takeRing (i : Instr) (s : State) : Along s (takeRing i s) :=
  ⟨by rw [takeRing_eq]; rfl, by rw [takeRing_eq]⟩

/-- A place has been visited. -/
theorem Along.write {f : Core → Core} (h : Along s u) (hf : unwritten (f u.core) = unwritten u.core) : Along s (u.mapCore f) where
  beside := (congrArg (fun c : Core => { u with core := { c with
    seprog := 0#64, pfx := [], blocked := [], cause := [], underway := false, tokens := [], vword := 0 } }) hf).trans h.beside
  count := (congrArg (fun c : Core => (c.pfx.get (sqIx s.unit)).count) hf).trans h.count

/-- A cycle of a word of the SE that goes on moves what counts blocked cycles, and may note that its stamp is met. -/
theorem stayUnderway_se (hu : u.unit = .se) : ∃ p b k y, stayUnderway u
    = u.mapCore (fun c => { c with pfx := p, blocked := b, cause := k, underway := y })
      ∧ (p.get (sqIx .se)).count = (u.core.pfx.get (sqIx .se)).count := by
  have hcc : ¬(u.unit = .cc ∧ u.core.underway = true) := by simp [hu]
  rw [stayUnderway, if_neg hcc, metStamp]
  split
  · exact ⟨_, _, _, _, mapCore_mapCore _ _ _, by simp [State.pfx, hu]⟩
  · exact ⟨_, _, _, _, rfl, rfl⟩

theorem unmoved_moved (c : Core) (q p b k y) :
    unmoved { c with seprog := q, pfx := p, blocked := b, cause := k, underway := y } = unmoved c := rfl

/-- The word stands at its next place for a cycle. -/
theorem Along.stay (h : Along s u) (hu : s.unit = .se) (q : SePos) :
    Along s (stayUnderway (u.atPlace q)) ∧ seBytes (stayUnderway (u.atPlace q)) = seBytes u
      ∧ (stayUnderway (u.atPlace q)).core.seprog = q.word := by
  have hat : (u.atPlace q).unit = .se := by rw [State.atPlace, mapCore_unit, h.unit, hu]
  obtain ⟨p, b, k, y, he, hp⟩ := stayUnderway_se hat
  rw [he, State.atPlace, mapCore_mapCore]
  rw [State.atPlace, mapCore_core] at hp
  refine ⟨⟨?_, ?_⟩, ?_, ?_⟩
  · rw [mapCore_mapCore, ← h.beside]
    exact congrArg u.mapCore (funext fun c => unmoved_moved c q.word p b k y)
  · rw [mapCore_core, ← h.count, hu]
    exact hp
  · rw [seBytes, mapCore_core, seBytes]
  · rw [mapCore_core]

end

/-! ### Places -/

/-- The fields of a place fit into SEPROG. -/
def placeFits (p : SePos) : Prop := p.phase < 4 ∧ p.level < 32 ∧ p.j < 2 ^ 16 ∧ p.el < 2 ^ 16

theorem word_toNat {p : SePos} (h : placeFits p) :
    p.word.toNat = p.phase + 4 * p.level + 2 ^ 7 * p.j + 2 ^ 23 * p.el + 2 ^ 39 := by
  obtain ⟨hphase, hlevel, hj, hel⟩ := h
  rw [SePos.word, BitVec.toNat_ofNat, Nat.mod_eq_of_lt (by omega)]

theorem word_goesOn {p : SePos} (h : placeFits p) : p.word.getLsbD 39 = true := by
  obtain ⟨hphase, hlevel, hj, hel⟩ := id h
  rw [BitVec.getLsbD, word_toNat h, Nat.testBit_eq_decide_div_mod_eq, decide_eq_true_eq]
  omega

theorem ofWord_word {p : SePos} (h : placeFits p) : SePos.ofWord p.word = p := by
  obtain ⟨hphase, hlevel, hj, hel⟩ := id h
  obtain ⟨phase, level, j, el⟩ := p
  simp only [SePos.ofWord, bits, word_toNat h, SePos.mk.injEq] at *
  refine ⟨?_, ?_, ?_, ?_⟩ <;> omega

/-- From a place that SEPROG records, that place and those after it are left. -/
theorem left_of_place {w : SeWord} {u : State} {q : SePos} {rest : List SePos} (hs : (q :: rest) <:+ w.places)
    (hk : w.places.Pairwise (fun p q => p.key < q.key)) (hq : placeFits q) (hu : u.core.seprog = q.word) : w.left u = q :: rest := by
  obtain ⟨before, hp⟩ := hs
  rw [← hp, List.pairwise_append, List.pairwise_cons] at hk
  obtain ⟨-, ⟨hrest, -⟩, hbefore⟩ := hk
  rw [SeWord.left, hu, if_pos (word_goesOn hq), ofWord_word hq, ← hp, List.filter_append,
    List.filter_eq_nil_iff.mpr fun p hp => by have := hbefore p hp q (by simp); simpa using this, List.nil_append,
    List.filter_eq_self.mpr]
  intro p hp
  rcases List.mem_cons.mp hp with rfl | hp
  · simp
  · simpa using (hrest p hp).le

theorem left_of_start {w : SeWord} {u : State} (hu : u.core.seprog.getLsbD 39 = false) : w.left u = w.places := by
  exact if_neg (by rw [hu]; decide)

/-! ### Issue and retirement -/

/-- A word that issues meets an active sequencer, has no early fault, and does not go on from a place. -/
theorem of_issues {s : State} {i : Instr} (h : issues s i) : s.active = true ∧ earlyFault i s = none ∧ s.resumes i = false := by
  obtain ⟨hr, -⟩ := h
  simp only [State.ready, Bool.and_eq_true, Option.isNone_iff_eq_none, Bool.not_eq_true'] at hr
  obtain ⟨⟨⟨⟨⟨⟨ha, -⟩, he⟩, -⟩, -⟩, -⟩, hn⟩ := hr
  exact ⟨ha, he, hn⟩

/-- Only the SE has the words of majors 0x30 to 0x36 (R49). -/
theorem unit_of_seMajor {s : State} {i : Instr} {w : Nat} (hw : encode i = some w) (hm : 0x30 ≤ majorOf w ∧ majorOf w ≤ 0x36)
    (h : issues s i) : s.unit = .se := by
  obtain ⟨-, he, -⟩ := of_issues h
  have hin : majorIn (majorOf w) s.unit = true := by
    by_contra hn
    have hd : decodeCheck i s.unit s.pfx = some ⟨cStream, 3, 0#64⟩ := by
      rw [decodeCheck, hw]
      simp [hn]
    rw [earlyFault_of_decodeCheck hd] at he
    cases he
  revert hin
  cases s.unit <;> simp [majorIn] <;> omega

/-- What the body of a word says passes as it is where the word takes no step of the VE. -/
theorem steppedResult_se {u : State} (hu : u.unit = .se) (r : WordResult) :
    (match r with
      | .ok t k => .ok (stepAfter u.unit t) k
      | r => r) = r := by
  cases r <;> simp [stepAfter, hu]

theorem issue_ready_se {i : Instr} {body : State → WordResult} {s : State} (hu : s.unit = .se) (h : issues s i) :
    issue i body s = finishWord i s (body (takeRing i s)) :=
  (issue_ready h).trans (congrArg (finishWord i s) (steppedResult_se hu _))

/-- A word of the SE goes on from its place. -/
theorem issue_resumes {i : Instr} {body : State → WordResult} {u : State} (hu : u.unit = .se) (ha : u.active = true)
    (hr : u.resumes i = true) : issue i body u = finishWord i u (body u) := by
  have hm : u.midWord = false := by simp [State.midWord, hu]
  rw [issue, issueWith, ha, hm, hr]
  exact congrArg (finishWord i u) (steppedResult_se hu _)

/-! ### The turns of a word -/

/-- Every place of `w` that a run from `s` visits is clean and writes what `F` says, and SEPROG can record the places in their order. -/
structure Visits (s : State) (w : SeWord) (F : SeBytes → SePos → SeBytes) : Prop where
  rising : w.places.Pairwise (fun p q => p.key < q.key)
  fits : ∀ p ∈ w.places, placeFits p
  clean : ∀ u p, Along s u → w.mark u p = none
  acts : ∀ u, ∀ p ∈ w.places, Along s u → Along s (w.act u p) ∧ seBytes (w.act u p) = F (seBytes u) p

/-- A word of the SE that issued in `s` has retired in `t`, with no effect but on the bytes of AB and of the SRF, and on the flags. -/
structure Ends (s t : State) : Prop where
  retired : retired s t
  mem : t.mem = s.mem
  reg : ∀ v n, t.core.reg v n = s.core.reg v n
  wb : t.core.wb = s.core.wb
  as : t.core.as = s.core.as
  slots : t.core.slots = s.core.slots

theorem eq_of_still {α : Type} {s t : State} (h : still s = still t) (f : State → α) (hf : ∀ t, f (still t) = f t) : f s = f t := by
  rw [← hf s, h, hf t]

section
variable {s b x v : State} {i : Instr} {w : SeWord} {F : SeBytes → SePos → SeBytes}

theorem leaveSe_same (x : State) : x.leaveSe.mem = x.mem ∧ (∀ v n, x.leaveSe.core.reg v n = x.core.reg v n) ∧ x.leaveSe.core.wb = x.core.wb
    ∧ x.leaveSe.core.as = x.core.as ∧ x.leaveSe.core.slots = x.core.slots ∧ seBytes x.leaveSe = seBytes x ∧ sameUnits x.leaveSe.core x.core :=
  ⟨rfl, fun v n => by cases v <;> rfl, rfl, rfl, rfl, rfl, rfl, rfl, rfl, rfl, rfl⟩

theorem ends_of_retire (hu : s.unit = .se) (hb : Along s b) (hx : Along s x) :
    Ends s (retire i b .next x.leaveSe) ∧ seBytes (retire i b .next x.leaveSe) = seBytes x := by
  obtain ⟨hmem, hreg, hwb, has, hslots, hbytes, hunits⟩ := leaveSe_same x
  have hs := still_retire i b .next x.leaveSe
  have hstand : standing (retire i b .next x.leaveSe).core = standing (s.core.advance s.unit s.baseAddr .next) := by
    rw [standing_retire, hb.unit, hb.baseAddr hu]
    exact standing_advance_same (sameUnits_trans hunits hx.sameUnits) _ _ _
  have hprog : (retire i b .next x.leaveSe).core.seprog = 0#64 := eq_of_still hs (fun t => t.core.seprog) fun _ => rfl
  refine ⟨⟨⟨by rw [hprog]; decide, hstand⟩, ?_, fun v n => ?_, ?_, ?_, ?_⟩, ?_⟩
  · exact (eq_of_still hs State.mem fun _ => rfl).trans (hmem.trans (hx.same State.mem fun _ => rfl))
  · exact (eq_of_still hs (fun t => t.core.reg v n) fun t => by cases v <;> rfl).trans ((hreg v n).trans (hx.reg v n))
  · exact (eq_of_still hs (fun t => t.core.wb) fun _ => rfl).trans (hwb.trans (hx.same (fun t => t.core.wb) fun _ => rfl))
  · exact (eq_of_still hs (fun t => t.core.as) fun _ => rfl).trans (has.trans (hx.same (fun t => t.core.as) fun _ => rfl))
  · exact (eq_of_still hs (fun t => t.core.slots) fun _ => rfl).trans (hslots.trans hx.slots)
  · exact (eq_of_still hs seBytes fun _ => rfl).trans hbytes

theorem turn_over (hl : w.left v = []) : w.turn v = .next v.leaveSe := by
  rw [SeWord.turn, hl]

theorem turn_last {p : SePos} (hl : w.left v = [p]) (hm : w.mark v p = none) : w.turn v = .next (w.act v p).leaveSe := by
  simp only [SeWord.turn, hl, hm]

theorem turn_more {p q : SePos} {rest : List SePos} (hl : w.left v = p :: q :: rest) (hm : w.mark v p = none) :
    w.turn v = .busy (fun _ => (w.act v p).atPlace q) := by
  simp only [SeWord.turn, hl, hm]

/-- The places that are left are visited in turn, and then the word retires. -/
theorem turns_of_left (hu : s.unit = .se) (hv : Visits s w F)
    (hgo : ∀ u, Along s u → u.core.seprog.getLsbD 39 = true → exec i u = .next (finishWord i u (w.turn u)))
    (ps : List SePos) : ∀ b v, Along s b → Along s v → exec i b = .next (finishWord i b (w.turn v)) → w.left v = ps → ps <:+ w.places →
      ∃ u n t, exec i b = .next u ∧ turns i n u t ∧ Ends s t ∧ seBytes t = ps.foldl F (seBytes v) := by
  induction ps with
  | nil =>
    intro b v hb hs hx hl _
    rw [turn_over hl] at hx
    exact ⟨_, 0, _, hx, rfl, ends_of_retire hu hb hs⟩
  | cons p rest ih =>
    intro b v hb hs hx hl hsuf
    obtain ⟨hact, hbytes⟩ := hv.acts v p (hsuf.subset (by simp)) hs
    have hm := hv.clean v p hs
    cases rest with
    | nil =>
      rw [turn_last hl hm] at hx
      obtain ⟨he, hr⟩ := ends_of_retire (i := i) hu hb hact
      exact ⟨_, 0, _, hx, rfl, he, hr.trans hbytes⟩
    | cons q rest =>
      rw [turn_more hl hm] at hx
      have hsuf' : (q :: rest) <:+ w.places := (List.suffix_cons p _).trans hsuf
      obtain ⟨hstay, hkeep, hprog⟩ := hact.stay hu q
      have hq := hv.fits q (hsuf'.subset (by simp))
      obtain ⟨u, n, t, hxu, ht, he, hr⟩ := ih _ _ hstay hstay (hgo _ hstay (by rw [hprog, word_goesOn hq]))
        (left_of_place hsuf' hv.rising hq hprog) hsuf'
      exact ⟨_, n + 1, t, hx, ⟨u, hxu, ht⟩, he, by rw [hr, hkeep, hbytes]; rfl⟩

end

/-! ### The first turn -/

/-- What a word of the SE does when it issues: it starts, and takes its first turn. -/
def seStart (start : State → Except Flt (Option State)) (W : State → SeWord) (s : State) : WordResult :=
  match start s with
  | .error f => .fault f
  | .ok none => .next s
  | .ok (some t) => (W t).turn t

/-- What a word of the SE does in one turn: it goes on from its place, or it starts. -/
def seBody (i : Instr) (start : State → Except Flt (Option State)) (W : State → SeWord) (s : State) : WordResult :=
  if s.resumes i then (W s).turn s else seStart start W s

theorem issueSe_eq (i : Instr) (start : State → Except Flt (Option State)) (W : State → SeWord) (s : State) :
    issueSe i start W s = .next (issue i (seBody i start W) s) := rfl

section
variable {s : State} {i : Instr} {start : State → Except Flt (Option State)} {W : State → SeWord}
  (hx : ∀ u, exec i u = issueSe i start W u)

theorem seBody_issued (h : issues s i) : seBody i start W (takeRing i s) = seStart start W (takeRing i s) := by
  obtain ⟨-, -, hn⟩ := of_issues h
  have hr : (takeRing i s).resumes i = s.resumes i := by rw [takeRing_eq]; rfl
  rw [seBody, hr, hn, if_neg Bool.false_ne_true]

include hx

/-- A word of the SE whose checks fail has not issued. -/
theorem seWord_faults {f : Flt} (hs : start (takeRing i s) = .error f) : faults s i f := fun h =>
  exec_of_fault ((hx s).trans (issueSe_eq i start W s)) ((seBody_issued h).trans (by rw [seStart, hs])) h

/-- A word of the SE that has nothing to do retires at once. -/
theorem seWord_empty (hs : start (takeRing i s) = .ok none) : does s i id := fun h =>
  completes_of_ok ((hx s).trans (issueSe_eq i start W s)) ((seBody_issued h).trans (by rw [seStart, hs]; rfl)) h

/-- A word of the SE that issues and starts runs through all its places and retires. -/
theorem seWord_runs {w : SeWord} {F : SeBytes → SePos → SeBytes} (hi : isSeWord i = true)
    (h : issues s i) (hu : s.unit = .se) (hs : start (takeRing i s) = .ok (some (takeRing i s))) (hW : ∀ u, Along s u → W u = w)
    (hv : Visits s w F) :
    ∃ u n t, exec i s = .next u ∧ turns i n u t ∧ Ends s t ∧ seBytes t = w.places.foldl F (seBytes s) := by
  obtain ⟨hactive, -, hfresh⟩ := of_issues h
  have hring := Along.takeRing i s
  have hidle : s.core.seprog.getLsbD 39 = false := by simpa [State.resumes, hu, hi] using hfresh
  have hprog : (takeRing i s).core.seprog = s.core.seprog := by rw [takeRing_eq]
  have hbytes : seBytes (takeRing i s) = seBytes s := by rw [takeRing_eq]; rfl
  have hfirst : exec i s = .next (finishWord i s (w.turn (takeRing i s))) := by
    rw [hx, issueSe_eq, issue_ready_se hu h, seBody_issued h, seStart, hs, ← hW _ hring]
  have hgo (u : State) (ha : Along s u) (hp : u.core.seprog.getLsbD 39 = true) : exec i u = .next (finishWord i u (w.turn u)) := by
    have hr : u.resumes i = true := by simp [State.resumes, ha.unit, hu, hi, hp]
    rw [hx, issueSe_eq, issue_resumes (ha.unit.trans hu) ((ha.active hu).trans hactive) hr, seBody, if_pos hr, hW u ha]
  rw [← hbytes]
  exact turns_of_left hu hv hgo _ s _ (Along.refl s) hring hfirst (left_of_start (by rw [hprog, hidle])) (List.suffix_refl _)

end

end Sys2Proof.Proofs
end

section
/-! Tuples of a state window in a byte table: what a write of one tuple, or of a row of them, leaves and is read back as. -/
namespace Sys2Proof.Proofs
open Sys2Proof.Machine Sys2Proof.Safety Sys2Proof.Laws

/-! ### Tuples and rows in a byte table -/

/-- All planes of element `e` at position `t` of a window, in the bytes `m`. -/
def tupleAt (w : SWin) (m : Tab Byte) (t e : Nat) : List Nat := (List.range w.planes).map (fun p => readLE m (w.elemOff p t e) (stSize w.fmt))

/-- The bytes `m` with the tuple `v` as element `e` at position `t` of a window. -/
def putTuple (w : SWin) (t e : Nat) (v : List Nat) (m : Tab Byte) : Tab Byte :=
  (List.range w.planes).foldl (fun m p => writeLE m (w.elemOff p t e) (stSize w.fmt) (v.getD p 0)) m

/-- The bytes `m` with tuples `v` as the elements at position `t` of a window, one element after another. -/
def putRow (w : SWin) (t : Nat) (v : Tab Byte → Nat → List Nat) (m : Tab Byte) : Tab Byte :=
  (List.range w.elems).foldl (fun m e => putTuple w t e (v m e) m) m

/-- A tuple as the planes of a window hold it. -/
def clip (w : SWin) (v : List Nat) : List Nat := (List.range w.planes).map (fun p => v.getD p 0 % 2 ^ (8 * stSize w.fmt))

/-- Byte `o` belongs to plane `p` of element `e` at position `t` of a window, with elements of `n` bytes. -/
def inElem (n : Nat) (w : SWin) (o p t e : Nat) : Prop :=
  p < w.planes ∧ t < w.pos ∧ e < w.elems ∧ w.elemOff p t e ≤ o ∧ o < w.elemOff p t e + n

/-- No two elements of a window share a byte. -/
def elemsApart (n : Nat) (w : SWin) : Prop :=
  ∀ o p t e p' t' e', inElem n w o p t e → inElem n w o p' t' e' → (p, t, e) = (p', t', e')

/-- The two byte tables differ within the elements of a window only. -/
def sameBeside (w : SWin) (m m' : Tab Byte) : Prop :=
  ∀ o, (∀ p t e, ¬inElem (stSize w.fmt) w o p t e) → Tab.get m' o = Tab.get m o

theorem sameBeside_refl (w : SWin) (m : Tab Byte) : sameBeside w m m := fun _ _ => rfl

theorem sameBeside_trans {w : SWin} {a b c : Tab Byte} (h : sameBeside w a b) (k : sameBeside w b c) : sameBeside w a c :=
  fun o ho => (k o ho).trans (h o ho)

theorem sameBeside_foldl {α : Type} {w : SWin} {f : Tab Byte → α → Tab Byte} (l : List α) (m : Tab Byte)
    (h : ∀ m, ∀ a ∈ l, sameBeside w m (f m a)) : sameBeside w m (l.foldl f m) := by
  induction l generalizing m with
  | nil => exact sameBeside_refl w m
  | cons a l ih => exact sameBeside_trans (h m a (by simp)) (ih _ fun m b hb => h m b (by simp [hb]))

section
variable {w : SWin} {m : Tab Byte} {t e t' e' : Nat} {v : List Nat}

theorem sameBeside_putTuple (ht : t < w.pos) (he : e < w.elems) : sameBeside w m (putTuple w t e v m) := by
  refine sameBeside_foldl _ _ fun m p hp o ho => ?_
  rw [get_writeLE, if_neg]
  exact fun hin => ho p t e ⟨List.mem_range.mp hp, ht, he, hin⟩

theorem sameBeside_putRow {v : Tab Byte → Nat → List Nat} (ht : t < w.pos) : sameBeside w m (putRow w t v m) :=
  sameBeside_foldl _ _ fun _ _ he => sameBeside_putTuple ht (List.mem_range.mp he)

/-- Writes of numbers leave every byte that none of them covers. -/
theorem get_foldl_writeLE {l : List Nat} {a : Nat → Nat} {n : Nat} {x : Nat → Nat} {o : Nat}
    (h : ∀ p ∈ l, ¬(a p ≤ o ∧ o < a p + n)) (m : Tab Byte) : Tab.get (l.foldl (fun m p => writeLE m (a p) n (x p)) m) o = Tab.get m o := by
  induction l generalizing m with
  | nil => rfl
  | cons p l ih => rw [List.foldl_cons, ih fun q hq => h q (by simp [hq]), get_writeLE, if_neg (h p (by simp))]

/-- A number is read back after writes of numbers beside it. -/
theorem readLE_foldl_writeLE {l : List Nat} {a : Nat → Nat} {n : Nat} {x : Nat → Nat} {p : Nat} (hp : p ∈ l)
    (h : ∀ q ∈ l, q ≠ p → ∀ o, a p ≤ o → o < a p + n → ¬(a q ≤ o ∧ o < a q + n)) (m : Tab Byte) :
    readLE (l.foldl (fun m p => writeLE m (a p) n (x p)) m) (a p) n = x p % 256 ^ n := by
  induction l generalizing m with
  | nil => cases hp
  | cons q l ih =>
    have hl : ∀ r ∈ l, r ≠ p → ∀ o, a p ≤ o → o < a p + n → ¬(a r ≤ o ∧ o < a r + n) := fun r hr => h r (by simp [hr])
    by_cases hpl : p ∈ l
    · exact ih hpl hl _
    · obtain rfl : p = q := by simpa [hpl] using hp
      rw [List.foldl_cons, readLE_congr fun o h1 h2 =>
        get_foldl_writeLE (fun r hr => hl r hr (fun hrp => hpl (hrp ▸ hr)) o h1 h2) _, readLE_writeLE]

variable (ha : elemsApart (stSize w.fmt) w)
include ha

theorem tupleAt_putTuple_same (ht : t < w.pos) (he : e < w.elems) : tupleAt w (putTuple w t e v m) t e = clip w v := by
  refine List.map_congr_left fun p hp => ?_
  rw [putTuple, readLE_foldl_writeLE hp, pow_mul]
  · rfl
  intro q hq hne o h1 h2 hin
  cases ha o p t e q t e ⟨List.mem_range.mp hp, ht, he, h1, h2⟩ ⟨List.mem_range.mp hq, ht, he, hin⟩
  exact hne rfl

theorem tupleAt_putTuple_other (ht : t < w.pos) (he : e < w.elems) (ht' : t' < w.pos) (he' : e' < w.elems) (hne : t' ≠ t) :
    tupleAt w (putTuple w t e v m) t' e' = tupleAt w m t' e' := by
  refine List.map_congr_left fun p hp => readLE_congr fun o h1 h2 => get_foldl_writeLE (fun q hq hin => ?_) m
  cases ha o p t' e' q t e ⟨List.mem_range.mp hp, ht', he', h1, h2⟩ ⟨List.mem_range.mp hq, ht, he, hin⟩
  exact hne rfl

/-- A row of one element is read back as it was written; other rows read as before. -/
theorem tupleAt_putRow (h1 : w.elems = 1) {v : Tab Byte → Nat → List Nat} (ht : t < w.pos) (ht' : t' < w.pos) :
    tupleAt w (putRow w t v m) t' 0 = if t' = t then clip w (v m 0) else tupleAt w m t' 0 := by
  have hrow : putRow w t v m = putTuple w t 0 (v m 0) m := by simp [putRow, h1]
  rw [hrow]
  split
  next h => rw [h, tupleAt_putTuple_same ha ht (by omega)]
  next h => exact tupleAt_putTuple_other ha ht (by omega) ht' (by omega) h

end

theorem clip_map_range (w : SWin) (f : Nat → Nat) :
    clip w ((List.range w.planes).map f) = (List.range w.planes).map (fun p => f p % 2 ^ (8 * stSize w.fmt)) := by
  refine List.map_congr_left fun p hp => ?_
  have hlt := List.mem_range.mp hp
  simp [List.getD_eq_getElem?_getD, hlt]

/-- What is read from a window fits into a window of the same planes and format. -/
theorem clip_tupleAt {v w : SWin} (hp : v.planes = w.planes) (hf : v.fmt = w.fmt) (m : Tab Byte) (t e : Nat) :
    clip v (tupleAt w m t e) = tupleAt w m t e := by
  rw [tupleAt, ← hp, clip_map_range, hf]
  refine List.map_congr_left fun p _ => Nat.mod_eq_of_lt ?_
  rw [pow_mul]
  exact readLE_lt m _ _

/-! ### Tuples in AB and in the SRF -/

/-- A core with other bytes in AB, and a state with other bytes in the SRF. -/
def withAb (c : Core) (m : Tab Byte) : Core := { c with ab := m }
def withSrf (s : State) (m : Tab Byte) : State := { s with core := { s.core with srf := m } }

theorem abTuple_eq (w : SWin) (c : Core) (t e : Nat) : w.abTuple c t e = tupleAt w c.ab t e := rfl

theorem putAb_eq (w : SWin) (c : Core) (t e : Nat) (v : List Nat) : w.putAb c t e v = withAb c (putTuple w t e v c.ab) :=
  List.foldl_rel (r := fun c' m => c' = withAb c m) rfl fun _ _ _ _ h => by rw [h]; rfl

/-- No slot holds a version. -/
def noVersions (c : Core) : Prop := ∀ q ∈ c.slots, q.2 = .primary ∨ q.2 = .free

theorem srfTuple_root (w : SWin) (s : State) (t e : Nat) : w.srfTuple s 0 t e = tupleAt w s.core.srf t e := rfl

section
variable {s : State} (hs : noVersions s.core)
include hs

theorem srfTargets_root (slot : Nat) : s.srfTargets 0 slot = [slot] := by
  simp only [State.srfTargets, if_pos, List.cons.injEq, true_and, List.filterMap_eq_nil_iff]
  intro q hq
  rcases hs q hq with h | h <;> rw [h]

theorem srfWrite_root (o n v : Nat) : s.srfWrite 0 o n v = withSrf s (writeLE s.core.srf o n v) := by
  simp only [State.srfWrite, srfTargets_root hs, List.foldl_cons, List.foldl_nil, Nat.div_add_mod]
  rfl

theorem putSrf_root (w : SWin) (t e : Nat) (v : List Nat) : w.putSrf s 0 t e v = withSrf s (putTuple w t e v s.core.srf) :=
  List.foldl_rel (r := fun s' m => s' = withSrf s m) rfl fun p _ s' m h => by
    rw [h, srfWrite_root (s := withSrf s m) hs]; rfl

/-- A row that is written to the SRF at the root, with tuples that no byte of the SRF decides. -/
theorem putSrfRow_root (w : SWin) (t : Nat) {v : State → Nat → List Nat} {x : Nat → List Nat} (hv : ∀ m e, v (withSrf s m) e = x e) :
    w.putSrfRow 0 t v s = withSrf s (putRow w t (fun _ e => x e) s.core.srf) :=
  List.foldl_rel (r := fun s' m => s' = withSrf s m) rfl fun e _ s' m h => by
    rw [h, hv, putSrf_root (s := withSrf s m) hs]; rfl

end

/-- A row of AB that is written with tuples that no byte of AB decides. -/
theorem putAbRow_eq (w : SWin) (t : Nat) (x : Nat → List Nat) (c : Core) :
    (List.range w.elems).foldl (fun c e => w.putAb c t e (x e)) c = withAb c (putRow w t (fun _ e => x e) c.ab) :=
  List.foldl_rel (r := fun c' m => c' = withAb c m) rfl fun e _ c' m h => by rw [h, putAb_eq]; rfl

/-! ### A node -/

/-- What a node at position `j` makes of an element, with the earlier tuple from `early`. -/
def nodeTuple (d : List Word) (w : SWin) (early : Tab Byte → Nat → List Nat) (j : Nat) (m : Tab Byte) (e : Nat) : List Nat :=
  (applyOp d (early m e) (tupleAt w m j e)).1

theorem scanNode_writes {d : List Word} {w : SWin} {early : Core → Nat → List Nat} {x : Tab Byte → Nat → List Nat}
    (hx : ∀ c e, early c e = x c.ab e) (j : Nat) (c : Core) :
    unwritten (scanNode d w early j c) = unwritten c ∧ (scanNode d w early j c).srf = c.srf
      ∧ (scanNode d w early j c).ab = putRow w j (nodeTuple d w x j) c.ab := by
  refine List.foldl_rel (r := fun c' m => unwritten c' = unwritten c ∧ c'.srf = c.srf ∧ c'.ab = m) ⟨rfl, rfl, rfl⟩
    fun e _ c' m ⟨hu, hs, hm⟩ => ?_
  subst hm
  simp only [putAb_eq, hx, abTuple_eq]
  exact ⟨hu, hs, rfl⟩

end Sys2Proof.Proofs
end

section
/-! The places of the scan words, and what a visit to each writes (R246–R248). -/
namespace Sys2Proof.Proofs
open Sys2Proof.Machine Sys2Proof.Safety Sys2Proof.Laws

/-! ### The places of a sweep -/

/-- The place of a node of a chunk of `n` positions. -/
def nodePlace (n : Nat) (p : SePos) : Prop := p.phase ≤ 1 ∧ 1 ≤ p.level ∧ p.level ≤ 15 ∧ p.j < n ∧ p.el = 0

/-- The places of the whole tree: an up-sweep and the down-sweep after it (R246). -/
def treePlaces (n m : Nat) : List SePos := upPlaces n m ++ downPlaces n (m - 1) false

/-- The places are those of nodes of a chunk of `n` positions, in the order that SEPROG gives them. -/
structure Sweep (n : Nat) (l : List SePos) : Prop where
  rising : l.Pairwise (fun p q => p.key < q.key)
  node : ∀ p ∈ l, nodePlace n p

section
variable {n m : Nat} {l l' : List SePos}

theorem pairwise_upTargets (n l : Nat) : (upTargets n l).Pairwise (· < ·) := List.pairwise_lt_range.filter _
theorem pairwise_downTargets (n l : Nat) (carry : Bool) : (downTargets n l carry).Pairwise (· < ·) := List.pairwise_lt_range.filter _
theorem lt_of_mem_upTargets {j l : Nat} (h : j ∈ upTargets n l) : j < n := List.mem_range.mp (List.mem_filter.mp h).1
theorem lt_of_mem_downTargets {j l : Nat} {carry : Bool} (h : j ∈ downTargets n l carry) : j < n :=
  List.mem_range.mp (List.mem_filter.mp h).1

theorem key_up (l j : Nat) : SePos.key ⟨0, l, j, 0⟩ = (l * 2 ^ 16 + j) * 2 ^ 16 := by
  simp [SePos.key]

theorem key_down (l j : Nat) : SePos.key ⟨1, l, j, 0⟩ = ((32 + (31 - l)) * 2 ^ 16 + j) * 2 ^ 16 := by
  simp [SePos.key]

theorem mem_upPlaces {p : SePos} (h : p ∈ upPlaces n m) : p.phase = 0 ∧ 1 ≤ p.level ∧ p.level ≤ m ∧ p.j < n ∧ p.el = 0 := by
  simp only [upPlaces, List.mem_flatMap, List.mem_map, List.mem_range] at h
  obtain ⟨l, ⟨k, hk, rfl⟩, j, hj, rfl⟩ := h
  exact ⟨rfl, by simp, hk, lt_of_mem_upTargets hj, rfl⟩

theorem mem_downPlaces {carry : Bool} {p : SePos} (h : p ∈ downPlaces n m carry) :
    p.phase = 1 ∧ 1 ≤ p.level ∧ p.level ≤ m ∧ p.j < n ∧ p.el = 0 := by
  simp only [downPlaces, List.mem_flatMap, List.mem_map, List.mem_range] at h
  obtain ⟨l, ⟨k, hk, rfl⟩, j, hj, rfl⟩ := h
  exact ⟨rfl, by simp only []; omega, by simp only []; omega, lt_of_mem_downTargets hj, rfl⟩

theorem sweep_up (hn : n < 2 ^ 16) (hm : m < 2 ^ 4) : Sweep n (upPlaces n m) where
  node p hp := by
    obtain ⟨hphase, hlow, hhigh, hj, hel⟩ := mem_upPlaces hp
    exact ⟨by omega, hlow, by omega, hj, hel⟩
  rising := by
    refine List.pairwise_flatMap.mpr ⟨fun l _ => List.pairwise_map.mpr ((pairwise_upTargets n l).imp fun h => ?_),
      List.pairwise_map.mpr (List.pairwise_lt_range.imp fun {a b} hab p hp q hq => ?_)⟩
    · rw [key_up, key_up]; omega
    · obtain ⟨i, hi, rfl⟩ := List.mem_map.mp hp
      obtain ⟨j, hj, rfl⟩ := List.mem_map.mp hq
      have := lt_of_mem_upTargets hi
      rw [key_up, key_up]; omega

theorem sweep_down (hn : n < 2 ^ 16) (hm : m < 2 ^ 4) (carry : Bool) : Sweep n (downPlaces n m carry) where
  node p hp := by
    obtain ⟨hphase, hlow, hhigh, hj, hel⟩ := mem_downPlaces hp
    exact ⟨by omega, hlow, by omega, hj, hel⟩
  rising := by
    refine List.pairwise_flatMap.mpr ⟨fun l _ => List.pairwise_map.mpr ((pairwise_downTargets n l carry).imp fun h => ?_),
      List.pairwise_map.mpr (List.Pairwise.imp_of_mem (fun {a b} ha hb hab p hp q hq => ?_) List.pairwise_lt_range)⟩
    · rw [key_down, key_down]; omega
    · obtain ⟨i, hi, rfl⟩ := List.mem_map.mp hp
      obtain ⟨j, hj, rfl⟩ := List.mem_map.mp hq
      have := lt_of_mem_downTargets hi
      have := List.mem_range.mp ha
      have := List.mem_range.mp hb
      rw [key_down, key_down]; omega

theorem sweep_tree (hn : n < 2 ^ 16) (hm : m < 2 ^ 4) : Sweep n (treePlaces n m) where
  node p hp := (List.mem_append.mp hp).elim ((sweep_up hn hm).node p) ((sweep_down hn (by omega) false).node p)
  rising := by
    refine List.pairwise_append.mpr ⟨(sweep_up hn hm).rising, (sweep_down hn (by omega) false).rising, fun p hp q hq => ?_⟩
    obtain ⟨hphase, -, hl, hj, hel⟩ := mem_upPlaces hp
    obtain ⟨hphase', -, -, -, hel'⟩ := mem_downPlaces hq
    simp only [SePos.key, hphase, hphase', hel, hel', if_pos, zero_ne_one, if_false]
    omega

/-- The write after the last node comes after every node. -/
theorem Sweep.last {tail : List SePos} (h : Sweep n l) (hn : n < 2 ^ 16) (ht : tail = [] ∨ tail = [lastPlace]) :
    (l ++ tail).Pairwise (fun p q => p.key < q.key) := by
  refine List.pairwise_append.mpr ⟨h.rising, ?_, fun p hp q hq => ?_⟩
  · rcases ht with rfl | rfl <;> simp
  · rcases ht with rfl | rfl
    · cases hq
    · obtain rfl : q = lastPlace := by simpa using hq
      obtain ⟨hphase, hlow, hhigh, hj, hel⟩ := h.node p hp
      simp only [SePos.key, lastPlace, hel]
      split <;> simp <;> omega

theorem nodePlace_fits {p : SePos} (hn : n < 2 ^ 16) (h : nodePlace n p) : placeFits p := by
  obtain ⟨hphase, hlow, hhigh, hj, hel⟩ := h
  exact ⟨by omega, by omega, by omega, by omega⟩

end

/-- A word whose places are those of nodes, and perhaps one for a write after the last node. -/
theorem visits_of_sweep {s : State} {w : SeWord} {F : SeBytes → SePos → SeBytes} {n : Nat} {l tail : List SePos}
    (hp : w.places = l ++ tail) (hl : Sweep n l) (ht : tail = [] ∨ tail = [lastPlace]) (hn : n < 2 ^ 16)
    (hm : ∀ u p, Along s u → w.mark u p = none)
    (hnode : ∀ u p, nodePlace n p → Along s u → Along s (w.act u p) ∧ seBytes (w.act u p) = F (seBytes u) p)
    (hlast : ∀ u, Along s u → Along s (w.act u lastPlace) ∧ seBytes (w.act u lastPlace) = F (seBytes u) lastPlace) :
    Visits s w F := by
  have hmem (p : SePos) (h : p ∈ w.places) : nodePlace n p ∨ p = lastPlace := by
    rw [hp, List.mem_append] at h
    rcases ht with rfl | rfl
    · exact .inl (hl.node p (by simpa using h))
    · exact h.imp (hl.node p) (by simp)
  refine ⟨hp ▸ hl.last hn ht, fun p h => ?_, hm, fun u p h hu => ?_⟩
  · rcases hmem p h with h | rfl
    · exact nodePlace_fits hn h
    · exact ⟨by decide, by decide, by decide, by decide⟩
  · rcases hmem p h with h | rfl
    · exact hnode u p h hu
    · exact hlast u hu

/-! ### Clean storage -/

section
variable {u : State} (h : u.core.marks = [])
include h

theorem bufMark_clean (space off n : Nat) : u.core.bufMark space off n = none := by
  simp [Core.bufMark, Core.markHit, h]

theorem srfMark_clean (n : Nat) (os : List Nat) : u.core.srfMark n os = none := by
  simp [Core.srfMark, Core.markHit, h]

theorem rowMark_clean (w : SWin) (t : Nat) : w.rowMark u.core t = none := by
  simp [SWin.rowMark, bufMark_clean h]

theorem srfRowMark_clean (w : SWin) (hyp t : Nat) (write : Bool) : w.srfRowMark u hyp t write = none := by
  simp [SWin.srfRowMark, srfMark_clean h]

theorem nodeMark_clean (w : SWin) (l j : Nat) : w.nodeMark u.core l j = none := by
  simp [SWin.nodeMark, rowMark_clean h]

end

/-! ### What the places write -/

/-- The node at position `j` of a level: the earlier element lies 2^(l−1) positions before. -/
def treeStep (d : List Word) (wx : SWin) (l j : Nat) (b : SeBytes) : SeBytes :=
  (putRow wx j (nodeTuple d wx (fun m e => tupleAt wx m (j - 2 ^ (l - 1)) e) j) b.1, b.2)

/-- The node at position `j` with IN of the state window as its earlier element. -/
def carryStep (d : List Word) (wx ws : SWin) (j : Nat) (b : SeBytes) : SeBytes :=
  (putRow wx j (nodeTuple d wx (fun _ e => tupleAt ws b.2 0 e) j) b.1, b.2)

/-- A row of the state window gets a row of the chunk, or what does not depend on the state window. -/
def stateStep (ws : SWin) (t : Nat) (v : Tab Byte → Nat → List Nat) (b : SeBytes) : SeBytes :=
  (b.1, putRow ws t (fun _ e => v b.1 e) b.2)

/-- A row of the chunk gets OUT. -/
def outStep (wx ws : SWin) (b : SeBytes) : SeBytes :=
  (putRow wx (wx.pos - 1) (fun _ e => tupleAt ws b.2 1 e) b.1, b.2)

/-- A place of SCAN: R246. -/
def scanStep (d : List Word) (wx : SWin) (ws : Option SWin) (b : SeBytes) (p : SePos) : SeBytes :=
  if p.level = 0 then match ws with
    | none => b
    | some w => stateStep w 0 (fun m e => tupleAt wx m (wx.pos - 1) e) b
  else treeStep d wx p.level p.j b

/-- A place of SCAN.RED: R247. -/
def redStep (d : List Word) (wx ws : SWin) (b : SeBytes) (p : SePos) : SeBytes :=
  if p.level = 0 then
    stateStep ws 1 (fun m e => if wx.pos = 2 ^ wx.clog then tupleAt wx m (wx.pos - 1) e else (List.range wx.planes).map (opIdent d)) b
  else treeStep d wx p.level p.j b

/-- A place of SCAN.APPLY: R248. -/
def applyStep (d : List Word) (wx ws : SWin) (first : Bool) (b : SeBytes) (p : SePos) : SeBytes :=
  if p.level = 0 then outStep wx ws b
  else if first = false ∧ p.j + 1 = 2 ^ (p.level - 1) then carryStep d wx ws p.j b
  else treeStep d wx p.level p.j b

section
variable {s u : State} (h : Along s u)
include h

/-- A node keeps the run on its way. -/
theorem along_scanNode {d : List Word} {w : SWin} {early : Core → Nat → List Nat} {x : Tab Byte → Nat → List Nat}
    (hx : ∀ c e, early c e = x c.ab e) (j : Nat) : Along s (u.mapCore (scanNode d w early j))
      ∧ seBytes (u.mapCore (scanNode d w early j)) = (putRow w j (nodeTuple d w x j) u.core.ab, u.core.srf) := by
  obtain ⟨hu, hsrf, hab⟩ := scanNode_writes (d := d) (w := w) hx j u.core
  exact ⟨h.write hu, by rw [seBytes, mapCore_core, hsrf, hab]⟩

theorem along_treeNode (d : List Word) (w : SWin) (l j : Nat) :
    Along s (u.mapCore (treeNode d w l j)) ∧ seBytes (u.mapCore (treeNode d w l j)) = treeStep d w l j (seBytes u) :=
  along_scanNode h (fun c e => abTuple_eq w c _ e) j

theorem along_withSrf (m : Tab Byte) : Along s (withSrf u m) ∧ seBytes (withSrf u m) = (u.core.ab, m) :=
  ⟨h.write (f := fun c => { c with srf := m }) rfl, rfl⟩

theorem along_putSrfRow (hs : noVersions s.core) (w : SWin) (t : Nat) {v : State → Nat → List Nat} {x : Tab Byte → Nat → List Nat}
    (hv : ∀ m e, v (withSrf u m) e = x u.core.ab e) :
    Along s (w.putSrfRow 0 t v u) ∧ seBytes (w.putSrfRow 0 t v u) = stateStep w t x (seBytes u) := by
  have hu : noVersions u.core := by rw [noVersions, h.slots]; exact hs
  rw [putSrfRow_root hu w t hv]
  exact along_withSrf h _

end

section
variable {s : State} {wx : SWin} (hm : s.core.marks = []) (hs : noVersions s.core) (hn : wx.pos < 2 ^ 16) (hc : wx.clog < 2 ^ 4)
include hm hn hc

include hs in
theorem visits_treeScan (d : List Word) (ws : Option SWin) : Visits s (treeScan d wx ws 0) (scanStep d wx ws) := by
  refine visits_of_sweep (l := treePlaces wx.pos wx.clog) rfl (sweep_tree hn hc) ?_ hn
    (fun u p hu => ?_) (fun u p hp hu => ?_) (fun u hu => ?_)
  · cases ws <;> simp
  · have hclean := hu.marks.trans hm
    simp only [treeScan]
    split
    · cases ws <;> simp [rowMark_clean hclean, srfRowMark_clean hclean]
    · exact nodeMark_clean hclean _ _ _
  · obtain ⟨-, hlow, -⟩ := hp
    simp only [treeScan, scanStep, if_neg (show ¬p.level = 0 by omega)]
    exact along_treeNode hu _ _ _ _
  · cases ws with
    | none => exact ⟨hu, rfl⟩
    | some w =>
      simp only [treeScan, scanStep, show lastPlace.level = 0 from rfl, if_pos]
      exact along_putSrfRow hu hs w 0 fun _ _ => rfl

include hs in
theorem visits_chunkRed (d : List Word) (ws : SWin) : Visits s (chunkRed d wx ws 0) (redStep d wx ws) := by
  refine visits_of_sweep (l := upPlaces wx.pos wx.clog) rfl (sweep_up hn hc) (.inr rfl) hn
    (fun u p hu => ?_) (fun u p hp hu => ?_) (fun u hu => ?_)
  · have hclean := hu.marks.trans hm
    simp only [chunkRed, rowMark_clean hclean, srfRowMark_clean hclean, nodeMark_clean hclean, ite_self, Option.or_none]
  · obtain ⟨-, hlow, -⟩ := hp
    simp only [chunkRed, redStep, if_neg (show ¬p.level = 0 by omega)]
    exact along_treeNode hu _ _ _ _
  · simp only [chunkRed, redStep, show lastPlace.level = 0 from rfl, if_pos, beq_iff_eq]
    exact along_putSrfRow hu hs ws 1 fun _ _ => rfl

theorem visits_chunkApply (d : List Word) (ws : SWin) (first : Bool) :
    Visits s (chunkApply d wx ws first 0) (applyStep d wx ws first) := by
  refine visits_of_sweep (l := downPlaces wx.pos wx.clog (!first)) rfl (sweep_down hn hc _) ?_ hn
    (fun u p hu => ?_) (fun u p hp hu => ?_) (fun u hu => ?_)
  · split <;> simp
  · have hclean := hu.marks.trans hm
    simp only [chunkApply, rowMark_clean hclean, srfRowMark_clean hclean, nodeMark_clean hclean, ite_self, Option.or_none]
  · obtain ⟨-, hlow, -⟩ := hp
    simp only [chunkApply, applyStep, if_neg (show ¬p.level = 0 by omega), Bool.and_eq_true, Bool.not_eq_true', beq_iff_eq]
    split
    · exact along_scanNode hu (fun c e => srfTuple_root ws u 0 e) p.j
    · exact along_treeNode hu _ _ _ _
  · simp only [chunkApply, applyStep, show lastPlace.level = 0 from rfl, if_pos, putAbRow_eq]
    exact ⟨hu.write rfl, rfl⟩

end

end Sys2Proof.Proofs
end

section
/-! The local scans (R245–R248): SCAN, SCAN.SW, SCAN.RED, SCAN.APPLY and SCAN.APPLY.FIRST. -/
namespace Sys2Proof.Proofs
open Sys2Proof.Machine Sys2Proof.Safety Sys2Proof.Laws

/-! ### Only the windows of a word change -/

/-- The bytes of AB differ within the chunk only, and those of the SRF within the state window only. -/
def within (wx ws : SWin) (b b' : SeBytes) : Prop := sameBeside wx b.1 b'.1 ∧ sameBeside ws b.2 b'.2

theorem within_foldl {wx ws : SWin} {F : SeBytes → SePos → SeBytes} {l : List SePos}
    (h : ∀ b, ∀ p ∈ l, within wx ws b (F b p)) (b : SeBytes) : within wx ws b (l.foldl F b) := by
  induction l generalizing b with
  | nil => exact ⟨sameBeside_refl _ _, sameBeside_refl _ _⟩
  | cons p l ih =>
    obtain ⟨hab, hsrf⟩ := h b p (by simp)
    obtain ⟨hab', hsrf'⟩ := ih (fun b q hq => h b q (by simp [hq])) (F b p)
    exact ⟨sameBeside_trans hab hab', sameBeside_trans hsrf hsrf'⟩

/-- Places that leave the SRF leave it together. -/
theorem foldl_snd {F : SeBytes → SePos → SeBytes} {l : List SePos} (h : ∀ b, ∀ p ∈ l, (F b p).2 = b.2)
    (b : SeBytes) : (l.foldl F b).2 = b.2 := by
  induction l generalizing b with
  | nil => rfl
  | cons p l ih => rw [List.foldl_cons, ih fun b q hq => h b q (by simp [hq]), h b p (by simp)]

section
variable {wx ws : SWin} {d : List Word} {l j : Nat} {b : SeBytes} {p : SePos}

theorem treeStep_within (hj : j < wx.pos) : within wx ws b (treeStep d wx l j b) :=
  ⟨sameBeside_putRow hj, sameBeside_refl _ _⟩

theorem carryStep_within (hj : j < wx.pos) : within wx ws b (carryStep d wx ws j b) :=
  ⟨sameBeside_putRow hj, sameBeside_refl _ _⟩

theorem stateStep_within {t : Nat} {v : Tab Byte → Nat → List Nat} (ht : t < ws.pos) : within wx ws b (stateStep ws t v b) :=
  ⟨sameBeside_refl _ _, sameBeside_putRow ht⟩

theorem outStep_within (hp : 1 ≤ wx.pos) : within wx ws b (outStep wx ws b) :=
  ⟨sameBeside_putRow (by omega), sameBeside_refl _ _⟩

variable (hj : p.level ≠ 0 → p.j < wx.pos)
include hj

theorem scanStep_within {o : Option SWin} (ho : ∀ v, o = some v → v = ws ∧ 0 < ws.pos) : within wx ws b (scanStep d wx o b p) := by
  unfold scanStep
  split
  · cases o with
    | none => exact ⟨sameBeside_refl _ _, sameBeside_refl _ _⟩
    | some v =>
      obtain ⟨rfl, hpos⟩ := ho v rfl
      exact stateStep_within hpos
  next h => exact treeStep_within (hj h)

theorem redStep_within (hpos : 1 < ws.pos) : within wx ws b (redStep d wx ws b p) := by
  unfold redStep
  split
  · exact stateStep_within hpos
  next h => exact treeStep_within (hj h)

theorem applyStep_within {first : Bool} (hp : 1 ≤ wx.pos) : within wx ws b (applyStep d wx ws first b p) := by
  unfold applyStep
  split
  · exact outStep_within hp
  next h =>
    split
    · exact carryStep_within (hj h)
    · exact treeStep_within (hj h)

end

theorem applyStep_snd (d : List Word) (wx ws : SWin) (first : Bool) (b : SeBytes) (p : SePos) :
    (applyStep d wx ws first b p).2 = b.2 := by
  unfold applyStep
  split
  · rfl
  · split <;> rfl

/-- A place at a level above 0 lies in the chunk. -/
theorem node_lt {n : Nat} {l tail : List SePos} (hl : Sweep n l) (ht : tail = [] ∨ tail = [lastPlace]) :
    ∀ p ∈ l ++ tail, p.level ≠ 0 → p.j < n := by
  intro p hp h0
  rcases List.mem_append.mp hp with hp | hp
  · obtain ⟨-, -, -, hj, -⟩ := hl.node p hp
    exact hj
  · rcases ht with rfl | rfl
    · cases hp
    · exact absurd (by rw [List.mem_singleton.mp hp]; rfl) h0

/-! ### The tuples after a word on one element per row -/

/-- The node of an operator, as the planes of the chunk hold its result. -/
def nodeOp (d : List Word) (wx : SWin) (e l : List Nat) : List Nat := clip wx (applyOp d e l).1

section
variable {wx ws : SWin} (h1 : wx.elems = 1) (ha : elemsApart (stSize wx.fmt) wx) {d : List Word} {b : SeBytes} {j t : Nat}
include h1 ha

theorem treeStep_tuple (l : Nat) (hj : j < wx.pos) (ht : t < wx.pos) : tupleAt wx (treeStep d wx l j b).1 t 0 =
    if t = j then nodeOp d wx (tupleAt wx b.1 (j - 2 ^ (l - 1)) 0) (tupleAt wx b.1 j 0) else tupleAt wx b.1 t 0 :=
  tupleAt_putRow ha h1 hj ht

theorem carryStep_tuple (hj : j < wx.pos) (ht : t < wx.pos) : tupleAt wx (carryStep d wx ws j b).1 t 0 =
    if t = j then nodeOp d wx (tupleAt ws b.2 0 0) (tupleAt wx b.1 j 0) else tupleAt wx b.1 t 0 :=
  tupleAt_putRow ha h1 hj ht

theorem outStep_tuple (hp : wx.planes = ws.planes) (hf : wx.fmt = ws.fmt) (ht : t < wx.pos) : tupleAt wx (outStep wx ws b).1 t 0 =
    if t = wx.pos - 1 then tupleAt ws b.2 1 0 else tupleAt wx b.1 t 0 := by
  rw [outStep, tupleAt_putRow ha h1 (by omega) ht, clip_tupleAt hp hf]

/-- The nodes of the tree of R77 on one, two and four positions. -/
theorem tree_tuples (hc : wx.clog = scanDepth wx.pos) (o : Option SWin) :
    let m := ((treePlaces wx.pos wx.clog).foldl (scanStep d wx o) b).1
    let x (t : Nat) : List Nat := tupleAt wx b.1 t 0
    let y (t : Nat) : List Nat := tupleAt wx m t 0
    (wx.pos = 1 → y 0 = x 0) ∧ (wx.pos = 2 → y 0 = x 0 ∧ y 1 = nodeOp d wx (x 0) (x 1))
    ∧ (wx.pos = 4 → y 0 = x 0 ∧ y 1 = nodeOp d wx (x 0) (x 1) ∧ y 2 = nodeOp d wx (nodeOp d wx (x 0) (x 1)) (x 2)
        ∧ y 3 = nodeOp d wx (nodeOp d wx (x 0) (x 1)) (nodeOp d wx (x 2) (x 3))) := by
  refine ⟨fun hp => ?_, fun hp => ?_, fun hp => ?_⟩
  · have hl : treePlaces wx.pos wx.clog = [] := by rw [hc, hp]; decide
    simp [hl]
  · have hl : treePlaces wx.pos wx.clog = [⟨0, 1, 1, 0⟩] := by rw [hc, hp]; decide
    simp only [hl]
    simp [scanStep, treeStep_tuple h1 ha, hp]
  · have hl : treePlaces wx.pos wx.clog = [⟨0, 1, 1, 0⟩, ⟨0, 1, 3, 0⟩, ⟨0, 2, 3, 0⟩, ⟨1, 1, 2, 0⟩] := by rw [hc, hp]; decide
    simp only [hl]
    simp [scanStep, treeStep_tuple h1 ha, hp]

end

section
variable {wx ws : SWin} (h1 : ws.elems = 1) (ha : elemsApart (stSize ws.fmt) ws) {b : SeBytes} {t t' : Nat}
include h1 ha

theorem stateStep_tuple {v : Tab Byte → Nat → List Nat} (ht : t < ws.pos) (ht' : t' < ws.pos) :
    tupleAt ws (stateStep ws t v b).2 t' 0 = if t' = t then clip ws (v b.1 0) else tupleAt ws b.2 t' 0 :=
  tupleAt_putRow ha h1 ht ht'

end

/-! ### Checks and chunks -/

theorem eq_scanDepth_iff {n m : Nat} (hn : 1 ≤ n) : m = scanDepth n ↔ 1 ≤ m ∧ n ≤ 2 ^ m ∧ (m = 1 ∨ 2 ^ (m - 1) < n) := by
  unfold scanDepth
  split
  next h2 =>
    refine ⟨fun h => by subst h; exact ⟨le_rfl, h2, .inl rfl⟩, fun ⟨hm, _, hlow⟩ => hlow.elim id fun hlow => ?_⟩
    have : 2 ^ (m - 1) < 2 ^ 1 := by omega
    have := (Nat.pow_lt_pow_iff_right (by omega)).mp this
    omega
  next h2 =>
    constructor
    · rintro rfl
      obtain ⟨hlow, hhigh⟩ := (Nat.log2_eq_iff (n := n - 1) (by omega)).mp rfl
      exact ⟨by omega, by omega, .inr (by simp only [Nat.add_sub_cancel]; omega)⟩
    · rintro ⟨hm, hhigh, rfl | hlow⟩
      · omega
      · rw [(Nat.log2_eq_iff (k := m - 1) (by omega)).mpr ⟨by omega, by rw [Nat.sub_add_cancel hm]; omega⟩]
        omega

/-- What the checks of R245 leave: the operator has the format of the chunk, and the state window fits the chunk. -/
theorem scanChecks_some {s : State} {wx : SWin} {arg : Option (SWin × Nat)} {k : BitVec 4} {d : List Word}
    (h : scanChecks s wx arg k = .ok (some d)) : d = (s.core.opd.get k.toNat).dwords ∧ 1 ≤ wx.pos ∧ wx.fmt = opFmt d
      ∧ ∀ w n, arg = some (w, n) → w.elems = wx.elems ∧ w.fmt = wx.fmt ∧ w.planes = wx.planes ∧ w.pos = n := by
  unfold scanChecks at h
  split at h
  next => cases h
  next =>
    split at h
    next => cases h
    next hempty =>
      have hpos : 1 ≤ wx.pos := by
        simp only [SWin.isEmpty, Bool.or_eq_true, beq_iff_eq, not_or] at hempty
        omega
      simp only [] at h
      split at h
      next => cases h
      next hopd =>
        simp only [not_or, not_not] at hopd
        obtain ⟨-, hfmt, -⟩ := hopd
        split at h
        next v m =>
          split at h
          next => cases h
          next hfit =>
            cases h
            simp only [not_or, not_not] at hfit
            exact ⟨rfl, hpos, hfmt, fun w n hw => by cases hw; exact hfit⟩
        next =>
          cases h
          exact ⟨rfl, hpos, hfmt, fun w n hw => by cases hw⟩

theorem swinOf_bounds (v : BitVec 128) : (swinOf v).pos < 2 ^ 16 ∧ (swinOf v).clog < 2 ^ 4 :=
  ⟨Nat.mod_lt _ (by decide), Nat.mod_lt _ (by decide)⟩

/-! ### What the statement says of a scan word -/

/-- The SE runs at the root, with no versions, no marked word and no flag that stands (R68, R228, R397). -/
def plainRun (s : State) : Prop := s.hyp = 0#8 ∧ noVersions s.core ∧ s.core.marks = [] ∧ s.core.seFlags = 0#6

/-- A tuple of one element per row, with elements of `n` bytes. -/
def tupleOf (n : Nat) (w : SWin) (m : Tab Byte) (t : Nat) : List Nat := (List.range w.planes).map (fun p => readLE m (w.elemOff p t 0) n)

/-- The clause of the statement for the word `i`, with the state window and its positions in `arg`, the chunk rule `chunk`, and
`result` for one element per row. -/
def meetsScan (s : State) (wx ws : SWin) (k : BitVec 4) (i : Instr) (arg : Option (SWin × Nat)) (chunk : Prop)
    (result : List Word → State → Prop) : Prop :=
  (∀ f, scanChecks (takeRing i s) wx arg k = .error f → faults s i f)
  ∧ (scanChecks (takeRing i s) wx arg k = .ok none → does s i id)
  ∧ (∀ d, scanChecks (takeRing i s) wx arg k = .ok (some d) →
      (¬chunk → faults s i ⟨0x12, 0, 0#64⟩)
      ∧ (chunk → plainRun s → issues s i → ∃ u n t, exec i s = .next u ∧ turns i n u t ∧ retired s t ∧ t.mem = s.mem
          ∧ (∀ u m, t.core.reg u m = s.core.reg u m) ∧ t.core.wb = s.core.wb ∧ t.core.as = s.core.as ∧ t.core.slots = s.core.slots
          ∧ (∀ o, (∀ p tt e, ¬inElem (stSize wx.fmt) wx o p tt e) → Tab.get t.core.ab o = Tab.get s.core.ab o)
          ∧ (∀ o, (∀ p tt e, ¬inElem (stSize wx.fmt) ws o p tt e) → Tab.get t.core.srf o = Tab.get s.core.srf o)
          ∧ (arg = none → t.core.srf = s.core.srf)
          ∧ (wx.elems = 1 → elemsApart (stSize wx.fmt) wx → elemsApart (stSize wx.fmt) ws → result d t)))

/-- The state window that a word names fits its chunk, with `n` positions (R245). -/
structure Fits (wx ws : SWin) (n : Nat) : Prop where
  elems : ws.elems = wx.elems
  fmt : ws.fmt = wx.fmt
  planes : ws.planes = wx.planes
  pos : ws.pos = n

/-- What a scan word shows of its run, where its checks have passed with the operator `d`: it visits places that stay within its
windows, leaves the SRF where it names no state window, and comes to `result` on one element per row. -/
structure RunsAs (s : State) (wx ws : SWin) (noState : Prop) (W : State → SeWord) (result : State → Prop) (w : SeWord)
    (F : SeBytes → SePos → SeBytes) : Prop where
  word : ∀ u, Along s u → W u = w
  visits : Visits s w F
  inside : ∀ b, ∀ p ∈ w.places, within wx ws b (F b p)
  keeps : noState → ∀ b, ∀ p ∈ w.places, (F b p).2 = b.2
  comes : wx.elems = 1 → elemsApart (stSize wx.fmt) wx → elemsApart (stSize wx.fmt) ws → ∀ t,
    seBytes t = w.places.foldl F (seBytes s) → result t

section
variable {s : State} {wx : SWin} {arg : Option (SWin × Nat)} {k : BitVec 4} {c : Bool} {ts : List Nat} {d : List Word}

theorem scanStart_error {f : Flt} (h : scanChecks s wx arg k = .error f) : scanStart wx arg k c ts s = .error f := by
  simp only [scanStart, h]

theorem scanStart_empty (h : scanChecks s wx arg k = .ok none) : scanStart wx arg k c ts s = .ok none := by
  simp only [scanStart, h]

theorem scanStart_chunk (h : scanChecks s wx arg k = .ok (some d)) : scanStart wx arg k false ts s = .error srfFault := by
  simp only [scanStart, h, Bool.not_false, if_true]

/-- At the root no version is made. -/
theorem ensureSlots_root (s : State) (l : List Nat) : ensureSlots s 0 l = .ok s := by
  cases l <;> rfl

theorem scanStart_passes (h : scanChecks s wx arg k = .ok (some d)) (hh : s.hyp = 0#8) :
    scanStart wx arg k true ts s = .ok (some s) := by
  simp only [scanStart, h, hh, Bool.not_true, Bool.false_eq_true, if_false, BitVec.toNat_zero, ensureSlots_root]
  cases arg <;> rfl

end

/-- The clause of a scan word from its run: its checks decide between the fault, no effect and the run (R245). -/
theorem meetsScan_of_runs {s : State} {wx ws : SWin} {k : BitVec 4} {i : Instr} {n : Option Nat} {chunk : Prop}
    {result : List Word → State → Prop} {start : State → Except Flt (Option State)} {W : State → SeWord} {c : Bool} {ts : List Nat}
    (hx : ∀ u, exec i u = issueSe i start W u) (hi : isSeWord i = true) (hu : issues s i → s.unit = .se)
    (hs : start (takeRing i s) = scanStart wx (n.map (ws, ·)) k c ts (takeRing i s)) (hc : 1 ≤ wx.pos → (c = true ↔ chunk))
    (hr : ∀ d, d = (s.core.opd.get k.toNat).dwords → wx.fmt = opFmt d → 1 ≤ wx.pos → (∀ m, n = some m → Fits wx ws m) →
      chunk → plainRun s → ∃ w F, RunsAs s wx ws (n = none) W (result d) w F) :
    meetsScan s wx ws k i (n.map (ws, ·)) chunk result := by
  refine ⟨fun f h => seWord_faults hx (hs.trans (scanStart_error h)), fun h => seWord_empty hx (hs.trans (scanStart_empty h)),
    fun d h => ?_⟩
  obtain ⟨hd, hpos, hfmt, hfit⟩ := scanChecks_some h
  have hfits (m : Nat) (hm : n = some m) : Fits wx ws m := by
    obtain ⟨he, hf, hp, hn⟩ := hfit ws m (by rw [hm]; rfl)
    exact ⟨he, hf, hp, hn⟩
  refine ⟨fun hno => ?_, fun hch hplain hissue => ?_⟩
  · obtain rfl : c = false := by simpa using mt (hc hpos).mp hno
    exact seWord_faults hx (hs.trans (scanStart_chunk h))
  · obtain rfl : c = true := (hc hpos).mpr hch
    rw [show (takeRing i s).core.opd = s.core.opd by rw [takeRing_eq]] at hd
    obtain ⟨w, F, hw⟩ := hr d hd hfmt hpos hfits hch hplain
    obtain ⟨u, m, t, hxu, ht, he, hb⟩ := seWord_runs hx hi hissue (hu hissue)
      (hs.trans (scanStart_passes h ((takeRing_hyp i s).trans hplain.1))) hw.word hw.visits
    obtain ⟨hab, hsrf⟩ : within wx ws (seBytes s) (seBytes t) := hb ▸ within_foldl hw.inside _
    have hkeep (hn : n = none) : t.core.srf = s.core.srf := (congrArg Prod.snd hb).trans (foldl_snd (hw.keeps hn) _)
    refine ⟨u, m, t, hxu, ht, he.retired, he.mem, he.reg, he.wb, he.as, he.slots, hab, fun o ho => ?_, fun hn => ?_,
      fun h1 ha ha' => hw.comes h1 ha ha' t hb⟩
    · cases hn : n with
      | none => rw [hkeep hn]
      | some m => exact hsrf o (by rw [(hfits m hn).fmt]; exact ho)
    · exact hkeep (by simpa using hn)

/-! ### What a scan word reads of its operands -/

theorem takeRing_swin (i : Instr) (s : State) (x : BitVec 4) : (takeRing i s).swin x = s.swin x := by
  rw [takeRing_eq]; rfl

theorem Along.swin {s u : State} (h : Along s u) (x : BitVec 4) : u.swin x = s.swin x := h.same (fun t => t.swin x) fun _ => rfl
theorem Along.opd {s u : State} (h : Along s u) : u.core.opd = s.core.opd := h.same (fun t => t.core.opd) fun _ => rfl

theorem swin_bounds (s : State) (x : BitVec 4) : (s.swin x).pos < 2 ^ 16 ∧ (s.swin x).clog < 2 ^ 4 := swinOf_bounds _

/-! ### SCAN and SCAN.SW: R246 -/

/-- The chunk rule of R246: the level of the chunk is that of its positions. -/
def wholeChunk (w : SWin) : Prop := 1 ≤ w.clog ∧ w.pos ≤ 2 ^ w.clog ∧ (w.clog = 1 ∨ 2 ^ (w.clog - 1) < w.pos)

/-- The chunk rule of R247 and R248. -/
def partChunk (w : SWin) : Prop := 1 ≤ w.clog ∧ w.pos ≤ 2 ^ w.clog

theorem chunkOk_iff (w : SWin) : w.chunkOk = true ↔ partChunk w := by
  simp only [SWin.chunkOk, partChunk, decide_eq_true_eq]

/-- The nodes of the tree on one, two and four positions, from the bytes `m` to the bytes `m'` of AB. -/
def treeResult (d : List Word) (wx : SWin) (m m' : Tab Byte) : Prop :=
  let x := tupleOf (stSize wx.fmt) wx m
  let y := tupleOf (stSize wx.fmt) wx m'
  (wx.pos = 1 → y 0 = x 0) ∧ (wx.pos = 2 → y 0 = x 0 ∧ y 1 = nodeOp d wx (x 0) (x 1))
    ∧ (wx.pos = 4 → y 0 = x 0 ∧ y 1 = nodeOp d wx (x 0) (x 1) ∧ y 2 = nodeOp d wx (nodeOp d wx (x 0) (x 1)) (x 2)
        ∧ y 3 = nodeOp d wx (nodeOp d wx (x 0) (x 1)) (nodeOp d wx (x 2) (x 3)))

section
variable {s : State} {d : List Word} {wx ws : SWin} {noState : Prop} {W : State → SeWord} {result : State → Prop}
  (hplain : plainRun s) (hn : wx.pos < 2 ^ 16) (hc : wx.clog < 2 ^ 4)
include hplain hn hc

theorem treeScan_runsAs {o : Option SWin} (hW : ∀ u, Along s u → W u = treeScan d wx o 0) (ho : ∀ v, o = some v → v = ws ∧ 0 < ws.pos)
    (hno : noState → o = none)
    (hcomes : wx.elems = 1 → elemsApart (stSize wx.fmt) wx → elemsApart (stSize wx.fmt) ws → ∀ t,
      seBytes t = (treeScan d wx o 0).places.foldl (scanStep d wx o) (seBytes s) → result t) :
    RunsAs s wx ws noState W result (treeScan d wx o 0) (scanStep d wx o) := by
  obtain ⟨-, hver, hmark, -⟩ := hplain
  have hlt : ∀ p ∈ (treeScan d wx o 0).places, p.level ≠ 0 → p.j < wx.pos := node_lt (sweep_tree hn hc) (by cases o <;> simp)
  refine ⟨hW, visits_treeScan hmark hver hn hc d o, fun b p hp => scanStep_within (hlt p hp) ho, fun h b p _ => ?_, hcomes⟩
  obtain rfl := hno h
  unfold scanStep
  split <;> rfl

theorem chunkRed_runsAs (hW : ∀ u, Along s u → W u = chunkRed d wx ws 0) (hpos : ws.pos = 2) (hno : ¬noState)
    (hcomes : wx.elems = 1 → elemsApart (stSize wx.fmt) wx → elemsApart (stSize wx.fmt) ws → ∀ t,
      seBytes t = (chunkRed d wx ws 0).places.foldl (redStep d wx ws) (seBytes s) → result t) :
    RunsAs s wx ws noState W result (chunkRed d wx ws 0) (redStep d wx ws) := by
  obtain ⟨-, hver, hmark, -⟩ := hplain
  have hlt : ∀ p ∈ (chunkRed d wx ws 0).places, p.level ≠ 0 → p.j < wx.pos := node_lt (sweep_up hn hc) (.inr rfl)
  exact ⟨hW, visits_chunkRed hmark hver hn hc d ws, fun b p hp => redStep_within (hlt p hp) (by omega), fun h => absurd h hno, hcomes⟩

theorem chunkApply_runsAs {first : Bool} (hW : ∀ u, Along s u → W u = chunkApply d wx ws first 0) (hpos : 1 ≤ wx.pos)
    (hcomes : wx.elems = 1 → elemsApart (stSize wx.fmt) wx → ∀ t,
      seBytes t = (chunkApply d wx ws first 0).places.foldl (applyStep d wx ws first) (seBytes s) → result t) :
    RunsAs s wx ws noState W result (chunkApply d wx ws first 0) (applyStep d wx ws first) := by
  obtain ⟨-, -, hmark, -⟩ := hplain
  have hlt : ∀ p ∈ (chunkApply d wx ws first 0).places, p.level ≠ 0 → p.j < wx.pos :=
    node_lt (sweep_down hn hc _) (by split <;> simp)
  exact ⟨hW, visits_chunkApply hmark hn hc d ws first, fun b p hp => applyStep_within (hlt p hp) hpos,
    fun _ b p _ => applyStep_snd d wx ws first b p, fun h1 ha _ => hcomes h1 ha⟩

end

/-- SCAN writes nothing after its last node, and SCAN.SW the last row. -/
theorem treeScan_fold_none (d : List Word) (wx : SWin) (b : SeBytes) :
    (treeScan d wx none 0).places.foldl (scanStep d wx none) b
      = (treePlaces wx.pos wx.clog).foldl (scanStep d wx none) b :=
  congrArg (List.foldl _ b) (List.append_nil _)

theorem treeScan_fold_some (d : List Word) (wx ws : SWin) (b : SeBytes) :
    (treeScan d wx (some ws) 0).places.foldl (scanStep d wx (some ws)) b
      = stateStep ws 0 (fun m e => tupleAt wx m (wx.pos - 1) e)
        ((treePlaces wx.pos wx.clog).foldl (scanStep d wx (some ws)) b) :=
  List.foldl_append

/-- The scan words are words of major 0x32. -/
theorem unit_of_scan {s : State} {i : Instr} (r x w k : BitVec 4)
    (hi : i ∈ [.scan r x k, .scanSw r x w k, .scanRed r x w k, .scanApply r x w k, .scanApplyFirst r x w k]) (h : issues s i) :
    s.unit = .se := by
  have hr := r.isLt
  have hx := x.isLt
  have hw := w.isLt
  have hk := k.isLt
  simp only [List.mem_cons, List.not_mem_nil, or_false] at hi
  rcases hi with rfl | rfl | rfl | rfl | rfl <;> exact unit_of_seMajor rfl (by unfold majorOf; omega) h

/-! ### The tuples of the state window -/

section
variable {wx ws : SWin} {n : Nat} (h : Fits wx ws n)
include h

theorem Fits.tupleOf_eq (m : Tab Byte) (t : Nat) : tupleOf (stSize wx.fmt) ws m t = tupleAt ws m t 0 := by
  rw [← h.fmt]; rfl

theorem Fits.stateRow (h1 : wx.elems = 1) (ha : elemsApart (stSize wx.fmt) ws) {t t' : Nat} (ht : t < n) (ht' : t' < n)
    (v : Tab Byte → Nat → List Nat) (b : SeBytes) : tupleOf (stSize wx.fmt) ws (stateStep ws t v b).2 t' =
      if t' = t then clip ws (v b.1 0) else tupleOf (stSize wx.fmt) ws b.2 t' := by
  rw [h.tupleOf_eq, h.tupleOf_eq]
  exact stateStep_tuple (h.elems.trans h1) (h.fmt ▸ ha) (h.pos ▸ ht) (h.pos ▸ ht')

end

/-! ### SCAN.RED: R247 -/

/-- The chunk of two positions with its sum in OUT, the identity there for a chunk that is not full, and IN as it was. -/
def redResult (d : List Word) (wx ws : SWin) (b b' : SeBytes) : Prop :=
  let x := tupleOf (stSize wx.fmt) wx b.1
  let y := tupleOf (stSize wx.fmt) wx b'.1
  let v := tupleOf (stSize wx.fmt) ws b'.2
  (wx.pos = 2 → wx.clog = 1 → y 0 = x 0 ∧ y 1 = nodeOp d wx (x 0) (x 1) ∧ v 1 = y 1)
    ∧ (wx.pos < 2 ^ wx.clog → v 1 = (List.range wx.planes).map (opIdent d)) ∧ v 0 = tupleOf (stSize wx.fmt) ws b.2 0

theorem chunkRed_fold (d : List Word) (wx ws : SWin) (b : SeBytes) :
    (chunkRed d wx ws 0).places.foldl (redStep d wx ws) b
      = stateStep ws 1 (fun m e => if wx.pos = 2 ^ wx.clog then tupleAt wx m (wx.pos - 1) e else (List.range wx.planes).map (opIdent d))
        ((upPlaces wx.pos wx.clog).foldl (redStep d wx ws) b) :=
  List.foldl_append

theorem clip_opIdent {d : List Word} {wx ws : SWin} {n : Nat} (h : Fits wx ws n) (hd : wx.fmt = opFmt d) :
    clip ws ((List.range wx.planes).map (opIdent d)) = (List.range wx.planes).map (opIdent d) := by
  rw [← h.planes, clip_map_range, h.fmt, hd]
  exact List.map_congr_left fun p _ => Nat.mod_mod _ _

theorem redResult_fold {d : List Word} {wx ws : SWin} (h : Fits wx ws 2) (hd : wx.fmt = opFmt d) (h1 : wx.elems = 1)
    (ha : elemsApart (stSize wx.fmt) wx) (ha' : elemsApart (stSize wx.fmt) ws) (b : SeBytes) :
    redResult d wx ws b ((chunkRed d wx ws 0).places.foldl (redStep d wx ws) b) := by
  rw [chunkRed_fold]
  refine ⟨fun hp hc => ?_, fun hlt => ?_, ?_⟩
  · have hl : upPlaces wx.pos wx.clog = [⟨0, 1, 1, 0⟩] := by rw [hp, hc]; decide
    have hb : (upPlaces wx.pos wx.clog).foldl (redStep d wx ws) b = treeStep d wx 1 1 b := by rw [hl]; rfl
    have hy (t : Nat) (ht : t < wx.pos) := treeStep_tuple (b := b) (d := d) h1 ha 1 (show 1 < wx.pos by omega) ht
    rw [hb, h.stateRow h1 ha' (by decide) (by decide), if_pos rfl, if_pos (show wx.pos = 2 ^ wx.clog by rw [hp, hc]; rfl), hp,
      clip_tupleAt h.planes h.fmt]
    exact ⟨hy 0 (by omega), hy 1 (by omega), rfl⟩
  · rw [h.stateRow h1 ha' (by decide) (by decide), if_pos rfl, if_neg hlt.ne, clip_opIdent h hd]
  · rw [h.stateRow h1 ha' (by decide) (by decide), if_neg (by decide), foldl_snd fun b p hp => ?_]
    obtain ⟨-, hlow, -⟩ := mem_upPlaces hp
    rw [redStep, if_neg (by omega)]
    rfl

/-! ### SCAN.APPLY and SCAN.APPLY.FIRST: R248 -/

/-- The chunk of one and of two positions after the down-sweep, whose first position `first` gives; OUT ends a full chunk. -/
def applyResult (wx ws : SWin) (first : List Nat) (b b' : SeBytes) : Prop :=
  let y := tupleOf (stSize wx.fmt) wx b'.1
  (wx.pos = 2 → wx.clog = 1 → y 0 = first ∧ y 1 = tupleOf (stSize wx.fmt) ws b.2 1) ∧ (wx.pos = 1 → wx.clog = 1 → y 0 = first)

section
variable {d : List Word} {wx ws : SWin} (h : Fits wx ws 2) (h1 : wx.elems = 1) (ha : elemsApart (stSize wx.fmt) wx)
  (b : SeBytes)
include h h1 ha

theorem applyResult_fold : applyResult wx ws (nodeOp d wx (tupleOf (stSize wx.fmt) ws b.2 0) (tupleOf (stSize wx.fmt) wx b.1 0)) b
    ((chunkApply d wx ws false 0).places.foldl (applyStep d wx ws false) b) := by
  refine ⟨fun hp hc => ?_, fun hp hc => ?_⟩
  · have hl : (chunkApply d wx ws false 0).places = [⟨1, 1, 0, 0⟩, lastPlace] := by simp only [chunkApply, hp, hc]; decide
    have hb : (chunkApply d wx ws false 0).places.foldl (applyStep d wx ws false) b = outStep wx ws (carryStep d wx ws 0 b) := by
      rw [hl]; rfl
    have hy (t : Nat) (ht : t < wx.pos) := outStep_tuple (b := carryStep d wx ws 0 b) h1 ha h.planes.symm h.fmt.symm ht
    rw [hb, h.tupleOf_eq, h.tupleOf_eq]
    refine ⟨(hy 0 (by omega)).trans ?_, (hy 1 (by omega)).trans (if_pos (by omega))⟩
    rw [if_neg (by omega), carryStep_tuple h1 ha (by omega) (by omega), if_pos rfl]
    rfl
  · have hl : (chunkApply d wx ws false 0).places = [⟨1, 1, 0, 0⟩] := by simp only [chunkApply, hp, hc]; decide
    have hb : (chunkApply d wx ws false 0).places.foldl (applyStep d wx ws false) b = carryStep d wx ws 0 b := by rw [hl]; rfl
    rw [hb, h.tupleOf_eq]
    exact (carryStep_tuple h1 ha (by omega) (by omega)).trans (if_pos rfl)

theorem applyFirstResult_fold : applyResult wx ws (tupleOf (stSize wx.fmt) wx b.1 0) b
    ((chunkApply d wx ws true 0).places.foldl (applyStep d wx ws true) b) := by
  refine ⟨fun hp hc => ?_, fun hp hc => ?_⟩
  · have hl : (chunkApply d wx ws true 0).places = [lastPlace] := by simp only [chunkApply, hp, hc]; decide
    have hb : (chunkApply d wx ws true 0).places.foldl (applyStep d wx ws true) b = outStep wx ws b := by rw [hl]; rfl
    have hy (t : Nat) (ht : t < wx.pos) := outStep_tuple (b := b) h1 ha h.planes.symm h.fmt.symm ht
    rw [hb, h.tupleOf_eq]
    exact ⟨(hy 0 (by omega)).trans (if_neg (by omega)), (hy 1 (by omega)).trans (if_pos (by omega))⟩
  · have hl : (chunkApply d wx ws true 0).places = [] := by simp only [chunkApply, hp, hc]; decide
    rw [hl]; rfl

end

/-! ### The five words -/

section
variable (s : State) (r x w k : BitVec 4)

theorem meetsScan_scan (ws : SWin) : meetsScan s (s.swin x) ws k (.scan r x k) none (wholeChunk (s.swin x))
    (fun d t => treeResult d (s.swin x) s.core.ab t.core.ab) := by
  obtain ⟨hn, hc⟩ := swin_bounds s x
  refine meetsScan_of_runs (n := none) (fun u => rfl) rfl (unit_of_scan r x 0#4 k (by simp)) (by simp only [takeRing_swin]; rfl)
    (fun hp => beq_iff_eq.trans (eq_scanDepth_iff hp)) fun d hd _ hp _ hch hplain => ⟨_, _,
      treeScan_runsAs (d := d) (o := none) hplain hn hc (fun u hu => ?_) (fun v hv => by cases hv) (fun _ => rfl) fun h1 ha _ t hb => ?_⟩
  · rw [hu.opd, hu.swin, hu.hyp, hplain.1, ← hd]; rfl
  · have hab : t.core.ab = _ := congrArg Prod.fst (hb.trans (treeScan_fold_none d (s.swin x) _))
    rw [hab]
    exact tree_tuples h1 ha ((eq_scanDepth_iff hp).mpr hch) none

theorem meetsScan_scanSw : meetsScan s (s.swin x) (s.swin w) k (.scanSw r x w k) (some (s.swin w, 1)) (wholeChunk (s.swin x))
    (fun d t => treeResult d (s.swin x) s.core.ab t.core.ab
      ∧ tupleOf (stSize (s.swin x).fmt) (s.swin w) t.core.srf 0 = tupleOf (stSize (s.swin x).fmt) (s.swin x) t.core.ab ((s.swin x).pos - 1)) := by
  obtain ⟨hn, hc⟩ := swin_bounds s x
  refine meetsScan_of_runs (n := some 1) (fun u => rfl) rfl (unit_of_scan r x w k (by simp)) (by simp only [takeRing_swin]; rfl)
    (fun hp => beq_iff_eq.trans (eq_scanDepth_iff hp)) fun d hd _ hp hfit hch hplain => ?_
  have hf := hfit 1 rfl
  refine ⟨_, _, treeScan_runsAs (d := d) (o := some (s.swin w)) hplain hn hc (fun u hu => ?_)
    (fun v hv => ⟨(Option.some.inj hv).symm, by rw [hf.pos]; decide⟩) (fun h => by cases h) fun h1 ha ha' t hb => ?_⟩
  · simp only [hu.opd, hu.swin, hu.hyp, hplain.1, ← hd]; rfl
  · have ht := hb.trans (treeScan_fold_some d (s.swin x) (s.swin w) _)
    have hab : t.core.ab = _ := congrArg Prod.fst ht
    have hsrf : t.core.srf = _ := congrArg Prod.snd ht
    refine ⟨hab ▸ tree_tuples h1 ha ((eq_scanDepth_iff hp).mpr hch) _, ?_⟩
    rw [hsrf, hf.stateRow h1 ha' (by decide) (by decide), if_pos rfl, clip_tupleAt hf.planes hf.fmt, hab]
    rfl

theorem meetsScan_scanRed : meetsScan s (s.swin x) (s.swin w) k (.scanRed r x w k) (some (s.swin w, 2)) (partChunk (s.swin x))
    (fun d t => redResult d (s.swin x) (s.swin w) (seBytes s) (seBytes t)) := by
  obtain ⟨hn, hc⟩ := swin_bounds s x
  refine meetsScan_of_runs (n := some 2) (fun u => rfl) rfl (unit_of_scan r x w k (by simp)) (by simp only [takeRing_swin]; rfl)
    (fun _ => chunkOk_iff _) fun d hd hfmt _ hfit _ hplain => ?_
  have hf := hfit 2 rfl
  refine ⟨_, _, chunkRed_runsAs (d := d) hplain hn hc (fun u hu => ?_) hf.pos (by simp) fun h1 ha ha' t hb => ?_⟩
  · rw [hu.opd, hu.swin, hu.swin, hu.hyp, hplain.1, ← hd]; rfl
  · rw [hb]; exact redResult_fold hf hfmt h1 ha ha' _

/-- SCAN.APPLY and its form for the first chunk differ in what they leave at the first position. -/
theorem meetsScan_apply {i : Instr} {first : Bool} {y : List Word → List Nat} (hx : ∀ u, exec i u = applyWord i first x w k u)
    (hi : isSeWord i = true) (hu : issues s i → s.unit = .se)
    (hy : ∀ d, Fits (s.swin x) (s.swin w) 2 → (s.swin x).elems = 1 → elemsApart (stSize (s.swin x).fmt) (s.swin x) →
      applyResult (s.swin x) (s.swin w) (y d) (seBytes s)
        ((chunkApply d (s.swin x) (s.swin w) first 0).places.foldl (applyStep d (s.swin x) (s.swin w) first) (seBytes s))) :
    meetsScan s (s.swin x) (s.swin w) k i (some (s.swin w, 2)) (partChunk (s.swin x))
      (fun d t => t.core.srf = s.core.srf ∧ applyResult (s.swin x) (s.swin w) (y d) (seBytes s) (seBytes t)) := by
  obtain ⟨hn, hc⟩ := swin_bounds s x
  refine meetsScan_of_runs (n := some 2) hx hi hu (by simp only [takeRing_swin]; rfl)
    (fun _ => chunkOk_iff _) fun d hd _ hp hfit _ hplain => ⟨_, _,
      chunkApply_runsAs (d := d) (first := first) hplain hn hc (fun u hu => ?_) hp fun h1 ha t hb => ⟨?_, ?_⟩⟩
  · rw [hu.opd, hu.swin, hu.swin, hu.hyp, hplain.1, ← hd]; rfl
  · exact (congrArg Prod.snd hb).trans (foldl_snd (fun b p _ => applyStep_snd _ _ _ _ b p) _)
  · rw [hb]; exact hy d (hfit 2 rfl) h1 ha

end

/-- Settles O48: each word runs through the places of its sweep, and its clause is read off what they write. -/
theorem scanWords : Obligations.ScanWords := by
  intro s r x w k
  exact ⟨meetsScan_scan s r x k _, meetsScan_scanSw s r x w k, meetsScan_scanRed s r x w k,
    meetsScan_apply s x w k (fun _ => rfl) rfl (unit_of_scan r x w k (by simp)) fun _ hf h1 ha => applyResult_fold hf h1 ha (seBytes s),
    meetsScan_apply s x w k (fun _ => rfl) rfl (unit_of_scan r x w k (by simp)) fun _ hf h1 ha => applyFirstResult_fold hf h1 ha (seBytes s)⟩

end Sys2Proof.Proofs
end

section
/-! Words of format R (R37): their fields, what they decode to, and the words of their majors that decode to nothing (R48 steps 4 and 6). -/
namespace Sys2Proof.Proofs
open Sys2Proof.Machine Sys2Proof.Safety

/-! ### Fields -/

section
variable (r : BitVec 4) {m : Nat} (d a b : BitVec 5) {f : Nat}

theorem majorOf_wordR (hm : m < 64) (hf : f < 128) : majorOf (wordR r m d a b f) = m := by
  simp only [majorOf, wordR]
  omega

theorem wordR_mod (hf : f < 128) : wordR r m d a b f % 128 = f := by
  simp only [wordR]
  omega

theorem fld_wordR (hf : f < 128) :
    fld (wordR r m d a b f) 17 5 = d ∧ fld (wordR r m d a b f) 12 5 = a ∧ fld (wordR r m d a b f) 7 5 = b := by
  simp only [fld, ← BitVec.toNat_inj, BitVec.toNat_ofNat, wordR]
  omega

end

/-! ### Decoding -/

theorem decodeRaw_of_encode {i : Instr} {n w : Nat} (he : encode i = some n) (hn : n = w) (hwf : i.wf = true) :
    decodeRaw w = .ok i := by
  subst hn
  exact (decodeRaw_iff_encode (encode_lt he)).2 ⟨he, hwf⟩

/-- A major whose words are no prefixes and that some stream has. -/
def plainMajor (m : Nat) : Bool := m != 1 && m != 2 && !reservedMajor m

theorem prefixOk_of_plain {w : Nat} (hm : plainMajor (majorOf w) = true) :
    prefixOk {} w = true ∧ reservedMajor (majorOf w) = false := by
  simp only [plainMajor, Bool.and_eq_true, bne_iff_ne, Bool.not_eq_true'] at hm
  obtain ⟨⟨h1, h2⟩, hr⟩ := hm
  exact ⟨by simp [prefixOk, h1, h2], hr⟩

theorem decodeRaw_no_row {w m : Nat} (hm : majorOf w = m) (hp : plainMajor m = true) (hc : candidateOf m w = none) :
    decodeRaw w = .error (.step 4) := by
  subst hm
  obtain ⟨hq, hr⟩ := prefixOk_of_plain hp
  simp [decodeRaw, hq, hr, candidate_eq, hc]

theorem decodeRaw_plain {w : Nat} (hm : plainMajor (majorOf w) = true) :
    (∃ i, decodeRaw w = .ok i) ∨ ∃ e, decodeRaw w = .error (.step e) ∧ (e = 4 ∨ e = 6) := by
  cases hc : candidate w with
  | none => exact .inr ⟨4, decodeRaw_no_row rfl hm hc, .inl rfl⟩
  | some c =>
    obtain ⟨hp, hr⟩ := prefixOk_of_plain hm
    cases hz : c.2 && c.1.wf with
    | true => exact .inl ⟨c.1, by simp [decodeRaw, hp, hr, hc, hz]⟩
    | false => exact .inr ⟨6, by simp [decodeRaw, hp, hr, hc, hz], .inr rfl⟩

/-- A word of format R that no instruction has faults at decode. -/
theorem wordR_illegal {r : BitVec 4} {m : Nat} {d a b : BitVec 5} {f : Nat} (hm : m < 64) (hp : plainMajor m = true) (hf : f < 128)
    (h : ∀ i, candidateOf m (wordR r m d a b f) = some (i, true) → i.wf = true → False) :
    ∃ e, decodeRaw (wordR r m d a b f) = .error (.step e) ∧ (e = 4 ∨ e = 6) := by
  have hw := majorOf_wordR r d a b hm hf
  refine (decodeRaw_plain (hw.symm ▸ hp)).resolve_left fun ⟨i, hi⟩ => ?_
  obtain ⟨-, hc, hwf⟩ := decodeRaw_eq_ok_iff.1 hi
  rw [candidate_eq, hw] at hc
  exact h i hc hwf

end Sys2Proof.Proofs
end

section
/-! Register, immediate and shift arithmetic (R87–R92). -/
namespace Sys2Proof.Proofs
open Sys2Proof.Machine Sys2Proof.Safety Sys2Proof.Laws

/-- A word that sets a register writes the value that it has where the word issues. -/
theorem writesReg_of_setsReg {s : State} {i : Instr} {d : BitVec 5} {f : State → Word} {v : Word}
    (hx : exec i s = setsReg i d f s) (hv : f (takeRing i s) = v) : writesReg s i d v := by
  subst hv
  exact completes_of_ok hx rfl

/-! ### Values: R87 -/

/-- The lesser by a key that tells values apart, whichever way ties go; and the greater. -/
theorem ite_lt_eq_ite_le {α : Type} [LinearOrder α] {k : Word → α} (hk : Function.Injective k) (x y : Word) :
    (if k x < k y then x else y) = (if k x ≤ k y then x else y)
      ∧ (if k x < k y then y else x) = if k x ≤ k y then y else x := by
  obtain h | h | h := lt_trichotomy (k x) (k y)
  · simp [h, h.le]
  · simp [hk h]
  · simp [h.not_ge, h.le.not_gt]

theorem ite_slt (x y : Word) : (if x.slt y then x else y) = (if x.toInt ≤ y.toInt then x else y)
    ∧ (if x.slt y then y else x) = if x.toInt ≤ y.toInt then y else x := by
  simpa only [BitVec.slt_iff_toInt_lt] using ite_lt_eq_ite_le (fun _ _ => BitVec.eq_of_toInt_eq) x y

theorem ite_ult (x y : Word) : (if x.ult y then x else y) = (if x.toNat ≤ y.toNat then x else y)
    ∧ (if x.ult y then y else x) = if x.toNat ≤ y.toNat then y else x := by
  simpa only [BitVec.ult_iff_lt, BitVec.lt_def] using ite_lt_eq_ite_le (fun _ _ => BitVec.eq_of_toNat_eq) x y

theorem sextNat_toNat {n : Nat} (hn : 0 < n) (v : BitVec n) : sextNat n v.toNat = v.toInt := by
  have hp : 2 ^ n = 2 * 2 ^ (n - 1) := by rw [← pow_succ', Nat.sub_add_cancel hn]
  simp only [sextNat, BitVec.toInt_eq_toNat_cond, Nat.mod_eq_of_lt v.isLt]
  split <;> split <;> omega

theorem sext32_eq (v : Word) : sext32 v = (v.setWidth 32).signExtend 64 := by
  have h := sextNat_toNat (by decide) (v.setWidth 32)
  simp only [sextNat, BitVec.toNat_setWidth, Nat.mod_mod] at h
  simp only [sext32, sextNat, h]
  rfl

theorem leadingZeros_spec (x : Word) : leadingZeros x ≤ 64 ∧ (∀ k < leadingZeros x, x.getLsbD (63 - k) = false)
    ∧ (leadingZeros x < 64 → x.getLsbD (63 - leadingZeros x) = true) := by
  unfold leadingZeros
  split
  next h => simp [h]
  next h =>
    have h0 : x.toNat ≠ 0 := fun e => h (BitVec.eq_of_toNat_eq e)
    have hl : Nat.log2 x.toNat < 64 := (Nat.log2_lt h0).2 x.isLt
    refine ⟨by omega, fun k hk => ?_, fun _ => ?_⟩
    · exact Nat.testBit_lt_two_pow ((Nat.log2_lt h0).1 (by omega))
    · rw [show 63 - (63 - Nat.log2 x.toNat) = Nat.log2 x.toNat by omega]
      exact Nat.testBit_log2 h0

theorem trailingFrom_spec (x : Word) (fuel n : Nat) : trailingFrom x fuel n ≤ fuel
    ∧ (∀ k < trailingFrom x fuel n, x.getLsbD (n + k) = false)
    ∧ (trailingFrom x fuel n < fuel → x.getLsbD (n + trailingFrom x fuel n) = true) := by
  induction fuel generalizing n with
  | zero => simp [trailingFrom]
  | succ fuel ih =>
    obtain ⟨hle, hz, ho⟩ := ih (n + 1)
    unfold trailingFrom
    split
    next h => simp [h]
    next h =>
      refine ⟨by omega, fun k hk => ?_, fun hk => ?_⟩
      · cases k with
        | zero => simpa using h
        | succ k => simpa [Nat.add_right_comm, Nat.add_assoc, Nat.add_comm 1] using hz k (by omega)
      · simpa [Nat.add_assoc] using ho (by omega)

theorem clampWord_eq (v : Int) : clampWord v = BitVec.ofInt 64 (max (-(2 ^ 63)) (min (2 ^ 63 - 1) v)) := by
  unfold clampWord wordOfInt
  congr 1
  omega

/-- The functs of major 0x04, with the zero field of CLZ, CTZ and POPC. -/
theorem cand04_fields {w : Nat} {i : Instr} (h : cand04 w = some (i, true)) :
    w % 128 < 16 ∧ (12 ≤ w % 128 → w % 128 ≤ 14 → fld w 7 5 = 0#5) := by
  unfold cand04 at h
  split at h
  case h_17 => cases h
  case h_13 | h_14 | h_15 =>
    simp only [Option.some.injEq, Prod.mk.injEq, isZero, beq_iff_eq] at h
    refine ⟨by omega, fun _ _ => BitVec.eq_of_toNat_eq h.2⟩
  all_goals omega

/-- Settles O1: each word sets its register to the value that R87 names, and the table of R49 gives its encoding. -/
theorem aluRegisterResults : Obligations.AluRegisterResults := by
  intro s r d a b
  have hil {f : Nat} (hf : f < 128) (h : 16 ≤ f ∨ (b ≠ 0#5 ∧ 12 ≤ f ∧ f ≤ 14)) :
      ∃ e, decodeRaw (wordR r 0x04 d a b f) = .error (.step e) ∧ (e = 4 ∨ e = 6) := by
    refine wordR_illegal (by decide) rfl hf fun i hc _ => ?_
    simp only [candidateOf_lit] at hc
    obtain ⟨h16, h12⟩ := cand04_fields hc
    rw [wordR_mod _ _ _ _ hf, (fld_wordR _ _ _ _ hf).2.2] at h12
    rw [wordR_mod _ _ _ _ hf] at h16
    obtain h | ⟨hb, h⟩ := h
    · omega
    · exact hb (h12 h.1 h.2)
  refine ⟨writesReg_of_setsReg rfl ?_, writesReg_of_setsReg rfl ?_, writesReg_of_setsReg rfl ?_, writesReg_of_setsReg rfl ?_,
    writesReg_of_setsReg rfl ?_, writesReg_of_setsReg rfl ?_, writesReg_of_setsReg rfl ?_, writesReg_of_setsReg rfl ?_,
    writesReg_of_setsReg rfl ?_, writesReg_of_setsReg rfl ?_, writesReg_of_setsReg rfl ?_, writesReg_of_setsReg rfl ?_,
    ?clz, ?ctz, writesReg_of_setsReg rfl ?_, writesReg_of_setsReg rfl ?_, ?words⟩
  case clz =>
    obtain ⟨h1, h2, h3⟩ := leadingZeros_spec (s.r5 a)
    exact ⟨_, h1, h2, h3, writesReg_of_setsReg rfl (by simp only [takeRing_r5])⟩
  case ctz =>
    obtain ⟨h1, h2, h3⟩ := trailingFrom_spec (s.r5 a) 64 0
    simp only [Nat.zero_add] at h2 h3
    exact ⟨_, h1, h2, h3, writesReg_of_setsReg rfl (by simp only [takeRing_r5]; rfl)⟩
  case words =>
    refine ⟨?_, ?_, ?_, ?_, ?_, ?_, ?_, ?_, ?_, ?_, ?_, ?_, ?_, fun hb => ?zeroField,
      fun hb f h1 h2 => hil (by omega) (.inr ⟨hb, h1, h2⟩), fun f h1 h2 => hil h2 (.inl h1)⟩
    case zeroField =>
      subst hb
      refine ⟨?_, ?_, ?_⟩ <;> exact decodeRaw_of_encode rfl (by simp only [wordR, BitVec.toNat_ofNat]; omega) rfl
    all_goals exact decodeRaw_of_encode rfl (by simp only [wordR]; omega) rfl
  all_goals simp only [takeRing_r5, ite_slt, ite_ult, sext32_eq, clampWord_eq, oneBits]

end Sys2Proof.Proofs
end

section
/-! Immediate, move, address and shift words (R88, R89, R91, R92). -/
namespace Sys2Proof.Proofs
open Sys2Proof.Machine Sys2Proof.Safety Sys2Proof.Laws

/-! ### Immediates: R47 -/

theorem immS_plain {s : State} {n : Nat} (hn : 0 < n) (i : BitVec n) (h : s.pfx.extI = none) : s.immS i = i.toInt := by
  simp only [State.immS, h, sextNat_toNat hn]

theorem immS_extended {s : State} {n : Nat} (i : BitVec n) {e : BitVec 21} (h : s.pfx.extI = some e) :
    s.immS i = (e ++ i).toInt := by
  have hv : e.toNat * 2 ^ n + i.toNat = (e ++ i).toNat := by
    rw [BitVec.toNat_append, ← Nat.shiftLeft_add_eq_or_of_lt i.isLt, Nat.shiftLeft_eq]
  simp only [State.immS, h, hv, Nat.add_comm n, sextNat_toNat (Nat.add_pos_left (by decide : 0 < 21) n)]

/-! ### Shifts: R50, R89 -/

theorem sshiftRight_eq (x : Word) (k : Nat) : x.sshiftRight k = BitVec.ofInt 64 (x.toInt / 2 ^ k) := by
  rw [BitVec.sshiftRight, Int.shiftRight_eq_div_pow]
  rfl

theorem rotateRight_eq (x : Word) {k : Nat} (h : k < 64) : x.rotateRight k = (x >>> k) ||| (x <<< (64 - k)) := by
  rw [BitVec.rotateRight_eq_rotateRightAux_of_lt h]; rfl

theorem shiftImm_eq (n : BitVec 5) (h : BitVec 1) : shiftImm n h = (h ++ n).toNat := by
  rw [shiftImm, BitVec.toNat_append, ← Nat.shiftLeft_add_eq_or_of_lt n.isLt, Nat.shiftLeft_eq]

/-- A shift word shifts by less than the width of a register. -/
theorem shift_lt (v : Word) (n : BitVec 5) (h : BitVec 1) : v.toNat % 64 < 64 ∧ (h ++ n).toNat < 64 :=
  ⟨Nat.mod_lt _ (by decide), (h ++ n).isLt⟩

/-! ### Words that no row of their major has -/

theorem cand05_eq_none {w : Nat} (h : 6 ≤ w / 512 % 8) : cand05 w = none := by
  unfold cand05
  split
  case h_7 => rfl
  all_goals omega

theorem cand06_eq_none {w : Nat} (h : w % 128 % 16 ≠ 0) (h' : w % 128 % 32 ≠ 17) : cand06 w = none := by
  unfold cand06
  split
  case h_13 => rfl
  all_goals omega

theorem cand0F_eq_none {w : Nat} (h : 4 ≤ w / 512 % 8) : cand0F w = none := by
  unfold cand0F
  split
  case h_5 => rfl
  all_goals omega

/-- A word of format I (R37) whose funct no row of its major has. -/
theorem wordI_no_row (r : BitVec 4) {m f : Nat} (d a : BitVec 5) (i : BitVec 9) (hm : m < 64) (hp : plainMajor m = true) (hf : f < 8)
    (hc : ∀ w, w / 512 % 8 = f → candidateOf m w = none) :
    decodeRaw (wordR r m d a 0#5 0 + f * 2 ^ 9 + i.toNat) = .error (.step 4) := by
  refine decodeRaw_no_row (m := m) ?_ hp (hc _ ?_)
  · simp only [majorOf, wordR, BitVec.toNat_ofNat]; omega
  · simp only [wordR, BitVec.toNat_ofNat]; omega

/-- Settles O2: each word sets its register to the value that R88, R89, R91 or R92 names, and the table of R49 gives its encoding. -/
theorem immediateAndShiftResults : Obligations.ImmediateAndShiftResults := by
  intro s r d a b h i m
  have hi5 {f : Nat} (h6 : 6 ≤ f) (h8 : f < 8) : decodeRaw (wordR r 0x05 d a 0#5 0 + f * 2 ^ 9 + i.toNat) = .error (.step 4) :=
    wordI_no_row r d a i (by decide) rfl h8 fun w hw => cand05_eq_none (hw.symm ▸ h6)
  have hiF {f : Nat} (h4 : 4 ≤ f) (h8 : f < 8) : decodeRaw (wordR r 0x0F d a 0#5 0 + f * 2 ^ 9 + i.toNat) = .error (.step 4) :=
    wordI_no_row r d a i (by decide) rfl h8 fun w hw => cand0F_eq_none (hw.symm ▸ h4)
  have hi6 (f : Nat) (hf : f < 128) (h16 : f % 16 ≠ 0) (h17 : f % 32 ≠ 17) : decodeRaw (wordR r 0x06 d a b f) = .error (.step 4) := by
    have hm := majorOf_wordR r d a b (m := 0x06) (by decide) hf
    have hw := wordR_mod r (m := 0x06) d a b hf
    refine decodeRaw_no_row hm rfl ?_
    simp only [candidateOf_lit]
    exact cand06_eq_none (hw.symm ▸ h16) (hw.symm ▸ h17)
  obtain ⟨hk, hn⟩ := shift_lt (s.r5 b) b h
  refine ⟨writesReg_of_setsReg rfl ?_, writesReg_of_setsReg rfl ?_, writesReg_of_setsReg rfl ?_, writesReg_of_setsReg rfl ?_,
    writesReg_of_setsReg rfl ?_, writesReg_of_setsReg rfl ?_, writesReg_of_setsReg rfl ?_, writesReg_of_setsReg rfl ?_,
    writesReg_of_setsReg rfl ?_, writesReg_of_setsReg rfl ?_, writesReg_of_setsReg rfl ?_, writesReg_of_setsReg rfl ?_,
    ⟨writesReg_of_setsReg rfl ?_, writesReg_of_setsReg rfl ?_, writesReg_of_setsReg rfl ?_, writesReg_of_setsReg rfl ?_,
      writesReg_of_setsReg rfl ?_, writesReg_of_setsReg rfl ?_, writesReg_of_setsReg rfl ?_, writesReg_of_setsReg rfl ?_⟩,
    fun he => ⟨immS_plain (by decide) i he, immS_plain (by decide) m he⟩, fun e he => ⟨immS_extended i he, immS_extended m he⟩, ?words⟩
  case words =>
    refine ⟨?_, ?_, ?_, ?_, ?_, ?_, hi5 (by decide) (by decide), hi5 (by decide) (by decide), ?_, ?_, ?_, ?_, fun _ => hiF,
      ?_, ?_, ?_, ?_, ?_, ?_, ?_, ?_, ?_, ?_, hi6⟩
    all_goals exact decodeRaw_of_encode rfl (by simp only [wordR, BitVec.toNat_ofNat]; omega) rfl
  all_goals simp only [takeRing_r5, takeRing_immS, wordOfInt, bitWord, BitVec.slt_iff_toInt_lt, BitVec.ult_iff_lt, BitVec.lt_def,
    BitVec.mul_one, shiftAmount, shiftImm_eq, sshiftRight_eq, rotateRight_eq _ hk, rotateRight_eq _ hn]

end Sys2Proof.Proofs
end

section
/-! Products, quotients and remainders (R90, R83). -/
namespace Sys2Proof.Proofs
open Sys2Proof.Machine Sys2Proof.Safety Sys2Proof.Laws

/-! ### A result that comes after some cycles: R83 -/

/-- A word that sets a register for which later groups wait writes the value that it has where the word issues. -/
theorem completes_of_latency {s : State} {i : Instr} {d : BitVec 5} {f : State → Word} {v : Word} {n : Nat} {division : Bool}
    (hx : exec i s = .next (issue i (fun s => .next ((s.w5 d (f s)).mapCore (fun c => c.latency s.unit n d.toNat division))) s))
    (hv : f (takeRing i s) = v) (h : issues s i) :
    completes s i .next (((takeRing i s).w5 d v).mapCore (fun c => c.latency s.unit n d.toNat division)) := by
  subst hv
  exact completes_of_ok hx rfl h

/-! ### Values: R90 -/

theorem mulHigh_natCast (x y : Nat) : mulHigh x y = BitVec.ofNat 64 (x * y / 2 ^ 64) := by
  rw [mulHigh, wordOfInt, ← BitVec.ofInt_natCast]
  push_cast
  rfl

/-- The quotient of R90 is the truncated one, in the case that overflows too. -/
theorem divSigned_eq (x y : Word) : divSigned x y = if y = 0#64 then 0xFFFFFFFFFFFFFFFF#64
    else if x.toInt = -(2 ^ 63) ∧ y.toInt = -1 then x else BitVec.ofInt 64 (x.toInt.tdiv y.toInt) := by
  unfold divSigned
  split
  · rfl
  · split
    next h =>
      obtain ⟨hx, hy⟩ := h
      rw [← BitVec.ofInt_toInt (x := x), hx, hy]
      rfl
    · rfl

/-- The remainder is what the quotient leaves. -/
theorem remSigned_eq (x y : Word) : remSigned x y = if y = 0#64 then x else x - y * divSigned x y := by
  unfold remSigned divSigned
  split
  · rfl
  · have h := Int.tmod_def x.toInt y.toInt
    simp only [wordOfInt, h, Int.sub_eq_add_neg, BitVec.ofInt_add, BitVec.ofInt_neg, BitVec.ofInt_mul, BitVec.ofInt_toInt, BitVec.sub_eq_add_neg]

theorem cand07_fields {w : Nat} {i : Instr} (h : cand07 w = some (i, true)) : w % 128 < 7 := by
  unfold cand07 at h
  split at h
  case h_8 => cases h
  all_goals omega

/-- Settles O3: each word completes with the value that R90 names, which later groups wait for as R83 says. -/
theorem multiplyDivideResults : Obligations.MultiplyDivideResults := by
  intro s r d a b
  have hil (f : Nat) (h7 : 7 ≤ f) (hf : f < 128) :
      ∃ e, decodeRaw (wordR r 0x07 d a b f) = .error (.step e) ∧ (e = 4 ∨ e = 6) := by
    refine wordR_illegal (by decide) rfl hf fun i hc _ => ?_
    simp only [candidateOf_lit] at hc
    have h := cand07_fields hc
    rw [wordR_mod _ _ _ _ hf] at h
    omega
  refine ⟨completes_of_latency rfl ?_, completes_of_latency rfl ?_, completes_of_latency rfl ?_, completes_of_latency rfl ?_,
    completes_of_latency rfl ?_, completes_of_latency rfl ?_, completes_of_latency rfl ?_, ?words⟩
  case words =>
    refine ⟨?_, ?_, ?_, ?_, ?_, ?_, ?_, hil⟩
    all_goals exact decodeRaw_of_encode rfl (by simp only [wordR]; omega) rfl
  all_goals simp only [takeRing_r5, mulHigh_natCast, remSigned_eq, divSigned_eq, divUnsigned, remUnsigned] <;> rfl

end Sys2Proof.Proofs
end

section
/-! Compares and guard logic (R93, R94), and what a write of a register or guard leaves (R35, R80). -/
namespace Sys2Proof.Proofs
open Sys2Proof.Machine Sys2Proof.Safety Sys2Proof.Laws

/-- A word that sets a guard writes the value that it has where the word issues. -/
theorem writesGuard_of_setsGuard {s : State} {i : Instr} {d : BitVec 5} {f : State → Bool} {v : Bool}
    (hx : exec i s = setsGuard i d f s) (hv : f (takeRing i s) = v) : writesGuard s i d v := by
  subst hv
  exact completes_of_ok hx rfl

theorem gd_eq (s : State) (a : BitVec 5) : s.gd a = decide (a.toNat = 0 ∨ s.core.g.getLsbD a.toNat = true) := by
  simp only [State.gd, Core.guard, Bool.decide_or, Bool.decide_eq_true, Bool.beq_eq_decide_eq]

theorem decide_bne_decide (p q : Prop) [Decidable p] [Decidable q] : (decide p != decide q) = decide (p ↔ ¬q) := by
  by_cases hp : p <;> by_cases hq : q <;> simp [hp, hq]

/-! ### Encodings -/

/-- What a word of major 0x08 that decodes holds: a funct of the table, and a guard number. -/
theorem cand08_fields {w : Nat} {i : Instr} (h : cand08 w = some (i, true)) (hwf : i.wf = true) :
    w % 128 < 7 ∧ (fld w 17 5).toNat ≤ 7 := by
  unfold cand08 at h
  split at h
  case h_8 => cases h
  all_goals
    simp only [Option.some.injEq, Prod.mk.injEq, and_true] at h
    subst h
    exact ⟨by omega, of_decide_eq_true hwf⟩

/-- What a word of major 0x09 that decodes holds: a funct of the table, guard numbers, and zero in the fields that it leaves unused. -/
theorem cand09_fields {w : Nat} {i : Instr} (h : cand09 w = some (i, true)) (hwf : i.wf = true) :
    w % 128 < 8 ∧ (fld w 17 5).toNat ≤ 7 ∧ (fld w 12 5).toNat ≤ 7 ∧ (fld w 7 5).toNat ≤ 7
      ∧ (4 ≤ w % 128 → fld w 7 5 = 0#5) ∧ (6 ≤ w % 128 → fld w 12 5 = 0#5) := by
  have hz {lo : Nat} (h : isZero w lo 5 = true) : fld w lo 5 = 0#5 := BitVec.eq_of_toNat_eq (beq_iff_eq.1 h)
  unfold cand09 at h
  split at h
  case h_9 => cases h
  case h_1 | h_2 | h_3 | h_4 =>
    simp only [Option.some.injEq, Prod.mk.injEq, and_true] at h
    subst h
    obtain ⟨hd, ha, hb⟩ := of_decide_eq_true hwf
    exact ⟨by omega, hd, ha, hb, by omega, by omega⟩
  case h_5 | h_6 =>
    simp only [Option.some.injEq, Prod.mk.injEq] at h
    obtain ⟨rfl, hb⟩ := h
    obtain ⟨hd, ha⟩ := of_decide_eq_true hwf
    exact ⟨by omega, hd, ha, by simp [hz hb], fun _ => hz hb, by omega⟩
  case h_7 | h_8 =>
    simp only [Option.some.injEq, Prod.mk.injEq] at h
    obtain ⟨rfl, hab⟩ := h
    have ha : isZero w 12 5 = true := by simp only [isZero, beq_iff_eq] at hab ⊢; omega
    have hb : isZero w 7 5 = true := by simp only [isZero, beq_iff_eq] at hab ⊢; omega
    exact ⟨by omega, of_decide_eq_true hwf, by simp [hz ha], by simp [hz hb], fun _ => hz hb, fun _ => hz ha⟩

/-- Settles O4: each word sets its guard to the value that R93 or R94 names, and the table of R49 gives its encoding. -/
theorem compareAndGuardResults : Obligations.CompareAndGuardResults := by
  intro s r d a b
  have h8 {f : Nat} (hf : f < 128) (h : 7 ≤ f ∨ 8 ≤ d.toNat) :
      ∃ e, decodeRaw (wordR r 8 d a b f) = .error (.step e) ∧ (e = 4 ∨ e = 6) := by
    refine wordR_illegal (by decide) rfl hf fun i hc hwf => ?_
    simp only [candidateOf_lit] at hc
    have hc := cand08_fields hc hwf
    rw [wordR_mod _ _ _ _ hf, (fld_wordR _ _ _ _ hf).1] at hc
    omega
  have h9 {f : Nat} (hf : f < 128)
      (h : 8 ≤ f ∨ 8 ≤ d.toNat ∨ 8 ≤ a.toNat ∨ 8 ≤ b.toNat ∨ (b ≠ 0#5 ∧ 4 ≤ f) ∨ (a ≠ 0#5 ∧ 6 ≤ f)) :
      ∃ e, decodeRaw (wordR r 9 d a b f) = .error (.step e) ∧ (e = 4 ∨ e = 6) := by
    refine wordR_illegal (by decide) rfl hf fun i hc hwf => ?_
    simp only [candidateOf_lit] at hc
    obtain ⟨hd, ha, hb⟩ := fld_wordR r (m := 9) d a b hf
    have hc := cand09_fields hc hwf
    rw [wordR_mod _ _ _ _ hf, hd, ha, hb] at hc
    obtain ⟨hc, hd, ha, hb, hb0, ha0⟩ := hc
    obtain h | h | h | h | ⟨h, h'⟩ | ⟨h, h'⟩ := h
    exacts [by omega, by omega, by omega, by omega, h (hb0 h'), h (ha0 h')]
  refine ⟨writesGuard_of_setsGuard rfl ?_, writesGuard_of_setsGuard rfl ?_, writesGuard_of_setsGuard rfl ?_,
    writesGuard_of_setsGuard rfl ?_, writesGuard_of_setsGuard rfl ?_, writesGuard_of_setsGuard rfl ?_,
    writesGuard_of_setsGuard rfl ?_, writesGuard_of_setsGuard rfl ?_, writesGuard_of_setsGuard rfl ?_,
    writesGuard_of_setsGuard rfl ?_, writesGuard_of_setsGuard rfl ?_, writesGuard_of_setsGuard rfl ?_,
    writesGuard_of_setsGuard rfl ?_, writesGuard_of_setsGuard rfl rfl, writesGuard_of_setsGuard rfl rfl,
    fun hd => ?compares, fun hd ha hb => ?logic, fun hd ha hb => ?moves, fun hd ha hb => ?sets,
    fun hd f hf => ⟨h8 hf (.inr hd), h9 hf (.inr (.inl hd))⟩, fun hab f hf => h9 hf (.inr (.inr (hab.imp_right .inl))),
    fun hb f h4 hf => h9 (by omega) (.inr (.inr (.inr (.inr (.inl ⟨hb, h4⟩))))),
    fun ha => ⟨h9 (by decide) (.inr (.inr (.inr (.inr (.inr ⟨ha, by decide⟩))))), h9 (by decide) (.inr (.inr (.inr (.inr (.inr ⟨ha, by decide⟩)))))⟩,
    fun f h7 hf => h8 hf (.inl h7), fun f h8 hf => h9 hf (.inl h8), fun _ => rfl⟩
  case compares | logic =>
    and_intros <;> exact decodeRaw_of_encode rfl (by simp only [wordR]; omega) (decide_eq_true (by omega))
  case moves =>
    subst hb
    and_intros <;> exact decodeRaw_of_encode rfl (by simp only [wordR, BitVec.toNat_ofNat]; omega) (decide_eq_true (by omega))
  case sets =>
    subst ha hb
    and_intros <;> exact decodeRaw_of_encode rfl (by simp only [wordR, BitVec.toNat_ofNat]; omega) (decide_eq_true (by omega))
  all_goals simp only [takeRing_r5, takeRing_g, gd_eq, BitVec.slt_eq_decide, BitVec.ult_eq_decide, ← decide_not, ← Bool.decide_and,
    ← Bool.decide_or, decide_bne_decide, not_lt]

end Sys2Proof.Proofs
end

section
/-! What a write of a register or a guard leaves (R35, R80). -/
namespace Sys2Proof.Proofs
open Sys2Proof.Machine Sys2Proof.Laws

theorem setReg_zero (c : Core) (u : Sqr) (v : Word) : c.setReg u 0 v = c := rfl

theorem reg_setReg_same (c : Core) (u : Sqr) {n : Nat} (v : Word) (hn : n ≠ 0) : (c.setReg u n v).reg u n = v := by
  cases u <;> simp [Core.setReg, Core.reg, Core.mapEng, Core.setEng, Core.eng, hn]

theorem reg_setReg_other (c : Core) {u u' : Sqr} {n n' : Nat} (v : Word) (h : u' ≠ u ∨ n' ≠ n) :
    (c.setReg u n v).reg u' n' = c.reg u' n' := by
  unfold Core.setReg
  split
  · rfl
  · cases u <;> cases u' <;> simp_all [Core.reg, Core.mapEng, Core.setEng, Core.eng, get_set_other]

/-- A register write leaves all of the core but the register files. -/
theorem setReg_rest (c : Core) (u : Sqr) (n : Nat) (v : Word) :
    { c.setReg u n v with x := c.x, ae := { (c.setReg u n v).ae with e := c.ae.e }, me := { (c.setReg u n v).me with e := c.me.e },
                          se := { (c.setReg u n v).se with e := c.se.e }, ve := { (c.setReg u n v).ve with e := c.ve.e } } = c := by
  unfold Core.setReg
  split
  · rfl
  · cases u <;> rfl

theorem setGuard_zero (c : Core) (v : Bool) : c.setGuard 0 v = c := rfl

theorem getLsbD_setGuard (c : Core) {n m : Nat} (v : Bool) (hn : n ≠ 0) (hm : m < 8) :
    (c.setGuard n v).g.getLsbD m = if m = n then v else c.g.getLsbD m := by
  cases v <;> by_cases h : m = n <;> simp [Core.setGuard, hn, h, hm] <;> omega

/-- Settles O5: reading back after a write, at the same number and at another one, and what the write leaves of the core. -/
theorem registerAndGuardWrites : Obligations.RegisterAndGuardWrites := by
  refine ⟨fun s d v => ⟨?_, fun u n h => reg_setReg_other _ _ h, ?_⟩, fun c n v hn => ⟨?_, fun m hm h => ?_, ?_⟩⟩
  · split
    next h => subst h; rfl
    next h => exact reg_setReg_same _ _ _ fun e => h (BitVec.eq_of_toNat_eq e)
  · exact congrArg (fun c => { s with core := c }) (setReg_rest s.core s.unit d.toNat v)
  · split
    next h => subst h; rfl
    next h => simp [Core.guard, getLsbD_setGuard c v h hn, h]
  · obtain rfl | h0 := eq_or_ne n 0
    · rfl
    · simp only [Core.guard, getLsbD_setGuard c v h0 hm, if_neg h]
  · unfold Core.setGuard
    split <;> rfl

end Sys2Proof.Proofs
end

section
/-! SEL, branches and jumps (R95–R98). -/
namespace Sys2Proof.Proofs
open Sys2Proof.Machine Sys2Proof.Safety Sys2Proof.Laws

/-- The ring waits move no sequencer. -/
theorem takeRing_baseAddr (i : Instr) (s : State) : (takeRing i s).baseAddr = s.baseAddr := by
  rw [takeRing_eq]
  simp only [State.baseAddr, State.groupAddr, State.pfx]
  cases s.unit <;> rfl

theorem takeRing_link (i : Instr) (s : State) : (takeRing i s).link = BitVec.ofNat 64 s.baseAddr + 4#64 := by
  rw [State.link, State.nextAddr, takeRing_baseAddr, BitVec.ofNat_add]

theorem takeRing_wordsOff (i : Instr) (s : State) (k : Int) :
    (takeRing i s).wordsOff k = (BitVec.ofNat 64 s.baseAddr + BitVec.ofInt 64 (4 * k)).toNat := by
  rw [State.wordsOff, takeRing_baseAddr]
  rfl

/-- Settles O6: each word's body, seen where its ring waits have been taken. -/
theorem selectAndJumpResults : Obligations.SelectAndJumpResults := by
  intro s r g n d a o m
  refine ⟨writesReg_of_setsReg rfl (takeRing_r5 _ _ _), completes_of_ok rfl ?_, completes_of_ok rfl ?_,
    fun h h4 hc => completes_of_ok rfl ?_ h, fun h4 => exec_of_fault rfl ?_, fun h4 hc => exec_of_fault rfl ?_⟩
  · simp only [takeRing_immS, takeRing_wordsOff]
  · simp only [takeRing_immS, takeRing_wordsOff, takeRing_link]
  · simp [h4, hc, takeRing_link]
  · simp [h4, cAlign]
  · simp [h4, hc, cPage]

end Sys2Proof.Proofs
end

section
/-! SYSR and SYSW (R81–R83, R101, R102). -/
namespace Sys2Proof.Proofs
open Sys2Proof.Machine Sys2Proof.Safety Sys2Proof.Laws

/-- A fault that a word's own check finds before the ring waits. -/
theorem faults_of_pre {pre : State → Option Flt} {i : Instr} {body : State → WordResult} {s : State} {f : Flt}
    (hx : exec i s = .next (issueWith pre i body s)) (hp : pre s = some f) : faults s i f := by
  rintro ⟨hr, -⟩
  simp only [State.ready, Bool.and_eq_true, Bool.or_eq_true, Bool.not_eq_true', Option.isNone_iff_eq_none, beq_iff_eq] at hr
  obtain ⟨⟨⟨⟨⟨⟨ha, hm⟩, he⟩, hs⟩, hd⟩, hb⟩, hn⟩ := hr
  have hi : s.interlocked i = false := by
    cases h : s.interlocked i with
    | false => rfl
    | true => simp [issueBlock, h] at hb
  rw [hx]
  simp only [issueWith, ha, hm, hn, he, Bool.not_true, Bool.false_eq_true, if_false]
  rcases hs with hs | hs <;> simp [hs, hd, hp, hi]

theorem does_of_issuePre {pre : State → Option Flt} {i : Instr} {f : State → State} {s : State}
    (hx : exec i s = .next (issuePre pre i f s)) (hp : pre s = none) : does s i f :=
  fun h => completes_issueWith h hx hp rfl rfl

/-- Settles O8: an unassigned number is checked before the ring waits, and an assigned one is read or written as its table entry says. -/
theorem systemRegisterAccess : Obligations.SystemRegisterAccess := by
  intro s r d b n
  have hsome (h : (s.sysreg n.toNat).isSome = true) : unassigned n s = none := by
    obtain ⟨v, hv⟩ := Option.isSome_iff_exists.1 h
    simp [unassigned, hv]
  have hnone (h : s.sysreg n.toNat = none) : unassigned n s = some ⟨0x01, 8, 0#64⟩ := by
    simp [unassigned, h, cIllegal]
  refine ⟨fun h => does_of_issuePre rfl (hsome h), fun h => ?_, fun h => ⟨faults_of_pre rfl (hnone h), faults_of_pre rfl (hnone h)⟩⟩
  have hd := does_of_issuePre (s := s) (i := .sysw r n b) rfl (hsome h)
  have hn (k : Nat) (hk : k < 2 ^ 10) : n.toNat = k ↔ n = BitVec.ofNat 10 k := by
    rw [← BitVec.toNat_inj, BitVec.toNat_ofNat, Nat.mod_eq_of_lt hk]
  simpa only [Core.setSysreg, winMask, hn 0x004 (by decide), hn 0x005 (by decide), hn 0x051 (by decide)] using hd

end Sys2Proof.Proofs
end

section
/-! What a read of memory leaves as it is: whatever looks at no memory, no translation cache and no version; and reads do not look at ring tokens. -/
namespace Sys2Proof.Proofs
open Sys2Proof.Machine Sys2Proof.Laws

/-! ### Views that a read leaves -/

/-- What a view of the state does not look at: memory with the rows armed in it, translation caches, and versions. -/
structure Unread {α : Type} (φ : State → α) : Prop where
  setMem : ∀ s m pa n, φ (s.setMem m pa n) = φ s
  tlbs : ∀ (s : State) m, φ { s with tlbs := m } = φ s
  vers : ∀ (s : State) l n, φ { s with vers := l, verAge := n } = φ s

namespace Unread

variable {α : Type} {φ : State → α} (hφ : Unread φ)
include hφ

theorem setAD (s : State) (entry : Nat) (e : Word) (write : Bool) : φ (Machine.setAD s entry e write) = φ s := by
  unfold Machine.setAD
  extract_lets e'
  split
  · rfl
  · split
    · exact List.foldlRecOn _ _ (motive := fun t => φ t = φ s) rfl fun t h _ _ => (hφ.setMem t _ _ _).trans h
    · exact hφ.setMem s _ _ _

theorem translate {s t : State} {tenant pa : Nat} {va leaf : Word} {acc : AccKind}
    (h : Machine.translate s tenant va acc = .ok (pa, leaf, t)) : φ t = φ s := by
  unfold Machine.translate at h
  simp only [] at h
  split at h
  next => cases ok_of_check (ok_of_check h); exact hφ.tlbs s _
  next =>
    split at h
    next => cases h
    next => cases h
    next => cases ok_of_check (ok_of_check h); exact (hφ.tlbs _ _).trans (hφ.setAD s _ _ _)

theorem blockPage {s t : State} {va : Word} {acc : AccKind} {pa : Nat} (h : Machine.blockPage s va acc = .ok (pa, t)) : φ t = φ s := by
  unfold Machine.blockPage at h
  replace h := ok_of_check h
  split at h
  next => cases h
  next ht => cases h; exact hφ.translate ht

theorem touchVers (s : State) (h pa n : Nat) : φ (Machine.touchVers s h pa n) = φ s := by
  unfold Machine.touchVers
  split
  · rfl
  · exact hφ.vers s _ _

theorem readVirtFrom {fuel : Nat} {s t : State} {h n : Nat} {va : Word} {bs : List Byte}
    (hr : Machine.readVirtFrom s h va n fuel = .ok (bs, t)) : φ t = φ s := by
  induction fuel generalizing s va n bs t with
  | zero => cases hr; rfl
  | succ fuel ih =>
    rw [Machine.readVirtFrom] at hr
    split at hr
    · cases hr; rfl
    · simp only [] at hr
      split at hr
      next => cases hr
      next hp =>
        split at hr
        next => cases hr
        next =>
          split at hr
          next => cases hr
          next ht => cases hr; exact (hφ.touchVers _ _ _ _).trans ((ih ht).trans (hφ.blockPage hp))

theorem ccBlock {s t : State} {a : Word} {n align : Nat} {bs : List Byte} (h : Machine.ccBlock s a n align = .ok (bs, t)) : φ t = φ s := by
  unfold Machine.ccBlock at h
  split at h
  · split at h
    next => cases h
    next => cases h; rfl
  · exact hφ.readVirtFrom (ok_of_check (ok_of_check h))

end Unread

/-! ### The ring waits and a read of memory -/

/-- The state with other ring tokens and another vector word number. -/
def withWaits (t : Tab TokenFifo) (v : Nat) (s : State) : State := { s with core := { s.core with tokens := t, vword := v } }

section
variable (t : Tab TokenFifo) (v : Nat) (s : State)

theorem walk_withWaits (tb va level : Nat) : walk (withWaits t v s) tb va level = walk s tb va level := by
  induction level generalizing tb with
  | zero => rfl
  | succ level ih =>
    rw [walk, walk, ih]
    rfl

theorem setMem_withWaits (m : Tab Byte) (pa n : Nat) : (withWaits t v s).setMem m pa n = withWaits t v (s.setMem m pa n) := by
  have h : (withWaits t v s).core.markRows m pa n = { s.core.markRows m pa n with tokens := t, vword := v } := by
    unfold Core.markRows withWaits
    split <;> rfl
  rw [State.setMem, h]
  rfl

@[simp] theorem isLocal_withWaits (pa : Nat) : (withWaits t v s).isLocal pa = s.isLocal pa := rfl
@[simp] theorem tlbs_withWaits : (withWaits t v s).tlbs = s.tlbs := rfl
@[simp] theorem lnum_withWaits : (withWaits t v s).lnum = s.lnum := rfl
@[simp] theorem roots_withWaits : (withWaits t v s).roots = s.roots := rfl
@[simp] theorem tenant_withWaits : (withWaits t v s).core.tenant = s.core.tenant := rfl
@[simp] theorem memMark_withWaits (pa n : Nat) : (withWaits t v s).memMark pa n = s.memMark pa n := rfl

theorem setAD_withWaits (entry : Nat) (e : Word) (write : Bool) :
    setAD (withWaits t v s) entry e write = withWaits t v (setAD s entry e write) := by
  unfold setAD
  extract_lets e'
  rw [isLocal_withWaits]
  by_cases h : e' = e ∨ s.isLocal entry = false
  · simp only [if_pos h]
  · simp only [if_neg h]
    split
    · exact List.foldl_hom (withWaits t v) fun u k => (setMem_withWaits t v u _ _ _)
    · exact setMem_withWaits t v s _ _ _

theorem translate_withWaits (tenant : Nat) (va : Word) (acc : AccKind) :
    translate (withWaits t v s) tenant va acc = (translate s tenant va acc).map (fun p => (p.1, p.2.1, withWaits t v p.2.2)) := by
  unfold Machine.translate
  simp only [tlbs_withWaits, lnum_withWaits, roots_withWaits, isLocal_withWaits, walk_withWaits, setAD_withWaits]
  split
  · rw [apply_ite (Except.map _), apply_ite (Except.map _)]
    rfl
  · split
    · rfl
    · rfl
    · simp only [apply_ite (Except.map _)]
      rfl

theorem blockPage_withWaits (va : Word) (acc : AccKind) :
    blockPage (withWaits t v s) va acc = (blockPage s va acc).map (fun p => (p.1, withWaits t v p.2)) := by
  unfold blockPage
  split
  · rfl
  · rw [tenant_withWaits, translate_withWaits]
    cases Machine.translate s s.core.tenant va acc <;> rfl

theorem readVirtFrom_error_withWaits {h n : Nat} {va : Word} {fuel : Nat} {f : Flt} (hr : readVirtFrom (withWaits t v s) h va n fuel = .error f) :
    readVirtFrom s h va n fuel = .error f := by
  induction fuel generalizing s va n with
  | zero => cases hr
  | succ fuel ih =>
    rw [readVirtFrom, blockPage_withWaits] at hr
    rw [readVirtFrom]
    split
    next h0 => rw [if_pos h0] at hr; cases hr
    next h0 =>
      rw [if_neg h0] at hr
      simp only [] at hr ⊢
      cases hb : blockPage s va 0 with
      | error e => rw [hb] at hr; exact hr
      | ok p =>
        simp only [hb, Except.map, memMark_withWaits] at hr
        cases hm : p.2.memMark p.1 (min n (4096 - va.toNat % 4096)) with
        | some e => simpa only [hm] using hr
        | none =>
          simp only [hm] at hr ⊢
          split at hr
          next e he =>
            cases hr
            rw [ih _ he]
          next => cases hr

/-- An error after a check, or of the check, from an error of what follows it. -/
theorem error_after_check {ε α : Type} {c : Prop} [Decidable c] {e f : ε} {r q : Except ε α} (h : r = .error f → q = .error f)
    (hr : (if c then .error e else r) = .error f) : (if c then .error e else q) = .error f := by
  split
  next hc => rwa [if_pos hc] at hr
  next hc => exact h ((if_neg hc).symm.trans hr)

theorem ccBlock_error_withWaits {a : Word} {n align : Nat} {f : Flt} (hr : ccBlock (withWaits t v s) a n align = .error f) :
    ccBlock s a n align = .error f := by
  unfold ccBlock at hr ⊢
  split
  next h0 =>
    rw [if_pos h0] at hr
    have hc : checkBuf (withWaits t v s).core .cc a n align false 0#8 = checkBuf s.core .cc a n align false 0#8 := rfl
    rw [hc] at hr
    cases hb : checkBuf s.core .cc a n align false 0#8 with
    | error e => simpa only [hb] using hr
    | ok u => simp only [hb] at hr; cases hr
  next h0 =>
    have hh : (withWaits t v s).hyp = s.hyp := by simp only [State.hyp]; cases hu : s.unit <;> simp only [withWaits, hu] <;> rfl
    rw [if_neg h0, hh] at hr
    exact error_after_check (error_after_check (readVirtFrom_error_withWaits t v s)) hr

theorem partsAway_withWaits (ps : List (Word × Nat)) : partsAway (withWaits t v s) ps = partsAway s ps := by
  induction ps with
  | nil => rfl
  | cons p ps ih =>
    rw [partsAway, partsAway, tenant_withWaits, translate_withWaits, ih]
    cases Machine.translate s s.core.tenant p.1 0 <;> rfl

theorem remoteParts_withWaits (bs : List (Word × Nat)) : remoteParts (withWaits t v s) bs = remoteParts s bs :=
  partsAway_withWaits t v s _

end

end Sys2Proof.Proofs
end

section
/-! QR.SEED, QR.PT and QR.DIRLD (R267–R270, R275–R277). -/
namespace Sys2Proof.Proofs
open Sys2Proof.Machine Sys2Proof.Safety Sys2Proof.Laws

/-! ### The point function without a scramble: R268 -/

theorem getLsbD_foldl_xor (l : List (BitVec 32)) (v : BitVec 32) (m : Nat) :
    (l.foldl (· ^^^ ·) v).getLsbD m = (v.getLsbD m ^^ (l.countP (·.getLsbD m) % 2 == 1)) := by
  induction l generalizing v with
  | nil => simp
  | cons a l ih =>
    rw [List.foldl_cons, ih, BitVec.getLsbD_xor, List.countP_cons, Bool.xor_assoc]
    congr 1
    cases a.getLsbD m
    · simp
    · obtain h | h := Nat.mod_two_eq_zero_or_one (l.countP (·.getLsbD m)) <;> simp [Nat.add_mod, h]

theorem getLsbD_point (c : Core) (i : BitVec 32) (d m : Nat) (h : bits c.qrseed 48 48 = 0) :
    (c.point i d).getLsbD m = ((List.range 32).countP (fun j =>
      (i ^^^ (i >>> 1)).getLsbD j && (c.ldsTab.get (32 * d + j)).getLsbD m) % 2 == 1) := by
  have hs : seedScr c.qrseed = false := by simp [seedScr, h]
  simp only [Core.point, pointOf, hs, Bool.false_eq_true, if_false, xorAll, getLsbD_foldl_xor, List.countP_filterMap,
    BitVec.getLsbD_zero, Bool.false_xor]
  congr 2
  refine List.countP_congr fun j hj => ?_
  have hr : (ldsRow c.ldsTab d)[j]? = some (c.ldsTab.get (32 * d + j)) := by
    simp [ldsRow, List.getElem?_range (List.mem_range.1 hj)]
  cases hg : (i ^^^ (i >>> 1)).getLsbD j <;> simp [hr]

/-! ### QR.DIRLD: R275 -/

theorem exec_of_spent {i : Instr} {body : State → WordResult} {s : State} {m : State → State} {f : Flt}
    (hx : exec i s = .next (issue i body s)) (hb : body (takeRing i s) = .spent m f) (h : issues s i) :
    exec i s = .next (faultOf (m s) s.unit f) := by
  rw [hx, issue_ready h, hb]
  simp only [finishWord, leaveWord_of_issues h]

theorem overlayBulk_nil {s : State} (h : s.core.bulk = []) : overlayBulk s = s := by
  simp only [overlayBulk, h, List.foldl_nil]

theorem clearBulk_nil {s : State} (h : s.core.bulk = []) : s.mapCore (fun c => { c with bulk := [] }) = s := by
  rw [State.mapCore, ← h]

/-- The direction table with a row of 128 bytes in it. -/
def rowLoaded (m : Tab (BitVec 32)) (d : Nat) (bs : List Byte) : Tab (BitVec 32) :=
  (List.range 32).foldl (fun m j => m.set (32 * d + j) (BitVec.ofNat 32 (bytesToNat ((bs.drop (4 * j)).take 4)))) m

section
variable {s : State}

theorem unfetched_row_nil {a : Word} (hr : bits a 63 32 = 0 ∨ a.toNat % 128 ≠ 0 ∨ remoteParts s (blockOf a 128) = []) :
    (if bits a 63 32 = 0 ∨ a.toNat % 128 ≠ 0 then [] else unfetched s [(a, 128)]) = [] := by
  split
  · rfl
  next h =>
    obtain ⟨h0, ha⟩ := not_or.1 h
    have hp : remoteParts s [(a, 128)] = [] := by simpa [blockOf, h0] using (hr.resolve_left h0).resolve_left ha
    simp only [unfetched, hp, List.filter_nil]

variable (hk : s.core.bulk = [])
include hk

theorem dirLoad_fault {a : Word} {d n : Nat} {f : Flt} (hn : n ≠ 0)
    (hr : bits a 63 32 = 0 ∨ a.toNat % 128 ≠ 0 ∨ remoteParts s (blockOf a 128) = []) (hb : ccBlock s a 128 128 = .error f) :
    dirLoad s a d n = (s, .fault f) := by
  obtain ⟨n, rfl⟩ := Nat.exists_eq_succ_of_ne_zero hn
  have hb : dirBlock s a = .error f := hb
  simp only [dirLoad, unfetched_row_nil hr, overlayBulk_nil hk, hb, List.isEmpty_nil, Bool.not_true, Bool.false_eq_true, if_false]

theorem dirLoad_row {a : Word} {d n : Nat} {bs : List Byte} {t : State}
    (hr : remoteParts s (blockOf a 128) = []) (hb : ccBlock s a 128 128 = .ok (bs, t)) :
    dirLoad s a d (n + 1) = dirLoad (t.mapCore (fun c => { c with ldsTab := rowLoaded s.core.ldsTab d bs })) (a + 128#64) (d + 1) n := by
  have hb : dirBlock s a = .ok (bs, t) := hb
  simp only [dirLoad, unfetched_row_nil (.inr (.inr hr)), overlayBulk_nil hk, hb, hk, List.isEmpty_nil, Bool.not_true, Bool.false_eq_true, if_false,
    if_true]
  rfl

end

theorem unread_bulk : Unread (fun s => s.core.bulk) where
  setMem s m pa n := by simp only [State.setMem, Core.markRows]; split <;> rfl
  tlbs _ _ := rfl
  vers _ _ _ := rfl

theorem unread_ldsTab : Unread (fun s => s.core.ldsTab) where
  setMem s m pa n := by simp only [State.setMem, Core.markRows]; split <;> rfl
  tlbs _ _ := rfl
  vers _ _ _ := rfl

/-- Rows whose bytes are here, each read in the state that the one before it leaves. -/
theorem dirLoad_rows {n : Nat} {st u : Nat → State} {bs : Nat → List Byte} {va : Word} {d : Nat} (hk : (st 0).core.bulk = [])
    (h : ∀ k < n, remoteParts (st k) (blockOf (va + BitVec.ofNat 64 (128 * k)) 128) = []
      ∧ ccBlock (st k) (va + BitVec.ofNat 64 (128 * k)) 128 128 = .ok (bs k, u k)
      ∧ st (k + 1) = (u k).mapCore (fun c => { c with ldsTab := rowLoaded c.ldsTab (d + k) (bs k) })) :
    dirLoad (st 0) va d n = (st n, .loaded) ∧ (st n).core.bulk = [] := by
  induction n generalizing st u bs va d with
  | zero => exact ⟨rfl, hk⟩
  | succ n ih =>
    obtain ⟨hr, hb, hs⟩ := h 0 (Nat.succ_pos n)
    simp only [Nat.mul_zero, BitVec.add_zero, Nat.add_zero] at hr hb hs
    have hl : (u 0).core.ldsTab = (st 0).core.ldsTab := unread_ldsTab.ccBlock hb
    have hrow : (u 0).mapCore (fun c => { c with ldsTab := rowLoaded (u 0).core.ldsTab d (bs 0) }) = st (0 + 1) := hs.symm
    have hk1 : (st (0 + 1)).core.bulk = [] := hrow ▸ (unread_bulk.ccBlock hb).trans hk
    rw [dirLoad_row hk hr hb, ← hl, hrow]
    refine ih (st := fun k => st (k + 1)) (u := fun k => u (k + 1)) (bs := fun k => bs (k + 1)) hk1 fun k hk => ?_
    obtain ⟨hr, hb, hs⟩ := h (k + 1) (Nat.succ_lt_succ hk)
    have ha : va + BitVec.ofNat 64 (128 * (k + 1)) = va + 128#64 + BitVec.ofNat 64 (128 * k) := by
      rw [Nat.mul_succ, Nat.add_comm, BitVec.ofNat_add, BitVec.add_assoc]
    rw [ha] at hr hb
    rw [Nat.add_right_comm d 1 k]
    exact ⟨hr, hb, hs⟩

/-! ### The words -/

section
variable {s : State} {r : BitVec 4} {d a b : BitVec 5}

theorem qrPt_refused (h : bits (s.r5 b) 63 10 ≠ 0 ∨ bits (s.r5 b) 9 8 = 3) : faults s (.qrPt r d a b) ⟨0x15, 0, 0#64⟩ :=
  exec_of_fault rfl (by simp only [takeRing_r5, if_pos h]; rfl)

theorem qrPt_answers (h : ¬(bits (s.r5 b) 63 10 ≠ 0 ∨ bits (s.r5 b) 9 8 = 3)) : does s (.qrPt r d a b) (fun t =>
    (t.w5 d (BitVec.ofNat 64 (formOut (bits (s.r5 b) 9 8) (t.core.point ((s.r5 a).setWidth 32) (bits (s.r5 b) 7 0))))).mapCore
      (fun c => c.latency t.unit 3 d.toNat false)) :=
  completes_of_ok rfl (by simp only [takeRing_r5, if_neg h]; rfl)

/-- The operand of QR.DIRLD names rows that are not there. -/
abbrev rowsOutside (x : Word) : Prop := bits x 63 17 ≠ 0 ∨ 256 < bits x 16 8 ∨ 256 < bits x 7 0 + bits x 16 8

theorem qrDirld_refused (h : rowsOutside (s.r5 b)) : faults s (.qrDirld r a b) ⟨0x15, 0, 0#64⟩ :=
  exec_of_fault rfl (by simp only [takeRing_r5, if_pos h]; rfl)

variable (hr : ¬rowsOutside (s.r5 b))
include hr

theorem qrDirld_empty (h0 : bits (s.r5 b) 16 8 = 0) : does s (.qrDirld r a b) id :=
  completes_of_ok rfl (by simp only [takeRing_r5, if_neg hr, if_pos h0]; rfl)

variable (hn : bits (s.r5 b) 16 8 ≠ 0)
include hn

theorem qrDirld_waits (hp : s.unitPending .cc = true) (h : issues s (.qrDirld r a b)) :
    exec (.qrDirld r a b) s = .next (stayUnderway s) :=
  exec_of_busy (m := id) rfl (by simp only [takeRing_r5, if_neg hr, if_neg hn, takeRing_unitPending, hp, if_true]) h

variable (hp : s.unitPending .cc = false) (hk : s.core.bulk = [])
include hp hk

/-- A first row that may not be read leaves the table as it is. -/
theorem qrDirld_faults {f : Flt} (hh : bits (s.r5 a) 63 32 = 0 ∨ (s.r5 a).toNat % 128 ≠ 0
      ∨ remoteParts (takeRing (.qrDirld r a b) s) (blockOf (s.r5 a) 128) = [])
    (hb : ccBlock (takeRing (.qrDirld r a b) s) (s.r5 a) 128 128 = .error f) : faults s (.qrDirld r a b) f := by
  intro h
  have hk' : (takeRing (.qrDirld r a b) s).core.bulk = [] := by rw [takeRing_eq]; exact hk
  have hl (d : Nat) := dirLoad_fault hk' (d := d) hn hh hb
  have hs (d : Nat) : dirLoad s (s.r5 a) d (bits (s.r5 b) 16 8) = (s, .fault f) := by
    rw [takeRing_eq] at hh hb
    exact dirLoad_fault hk hn (by rwa [← remoteParts_withWaits]) (ccBlock_error_withWaits _ _ s hb)
  rw [exec_of_spent (m := fun u => (dirLoad u (s.r5 a) (bits (s.r5 b) 7 0) (bits (s.r5 b) 16 8)).1.mapCore (fun c => { c with bulk := [] }))
    (f := f) rfl ?_ h, hs, clearBulk_nil hk]
  simp only [takeRing_r5, if_neg hr, if_neg hn, takeRing_unitPending, hp, hl, Bool.false_eq_true, if_false]

theorem qrDirld_loads {st u : Nat → State} {bs : Nat → List Byte} (h0 : st 0 = takeRing (.qrDirld r a b) s)
    (hs : ∀ k < bits (s.r5 b) 16 8, remoteParts (st k) (blockOf (s.r5 a + BitVec.ofNat 64 (128 * k)) 128) = []
      ∧ ccBlock (st k) (s.r5 a + BitVec.ofNat 64 (128 * k)) 128 128 = .ok (bs k, u k)
      ∧ st (k + 1) = (u k).mapCore (fun c => { c with ldsTab := rowLoaded c.ldsTab (bits (s.r5 b) 7 0 + k) (bs k) }))
    (h : issues s (.qrDirld r a b)) : completes s (.qrDirld r a b) .next (st (bits (s.r5 b) 16 8)) := by
  have hk' : (st 0).core.bulk = [] := by rw [h0, takeRing_eq]; exact hk
  obtain ⟨hl, hb⟩ := dirLoad_rows hk' hs
  rw [h0] at hl
  refine completes_of_ok rfl ?_ h
  simp only [takeRing_r5, if_neg hr, if_neg hn, takeRing_unitPending, hp, hl, Bool.false_eq_true, if_false, clearBulk_nil hb]
  rfl

end

end Sys2Proof.Proofs
end

section
/-! QR.GEN (R278): a word that takes one step leaves its writes pending, with three steps left. -/
namespace Sys2Proof.Proofs
open Sys2Proof.Machine Sys2Proof.Safety Sys2Proof.Laws

/-! ### Pending writes in one step -/

/-- Where a pending write lands, with what, and in how many steps. -/
def landing (w : VWrite) : Nat × List Byte × Nat := (w.addr, w.bytes, w.left)

theorem forall_left {l : List VWrite} {m : List (Nat × List Byte × Nat)} {p : Nat → Prop} (h : l.map landing = m) (hm : ∀ x ∈ m, p x.2.2) :
    ∀ w ∈ l, p w.left :=
  fun w hw => hm (landing w) (h ▸ List.mem_map_of_mem hw)

theorem landings_range {l : List VWrite} {n : Nat} {φ : Nat → Nat × List Byte × Nat} (h : l.map landing = (List.range n).map φ) :
    l.length = n ∧ ∀ k < n, ∃ v, l[k]? = some v ∧ v.addr = (φ k).1 ∧ v.left = (φ k).2.2 ∧ v.bytes = (φ k).2.1 := by
  have hl := congrArg List.length h
  rw [List.length_map, List.length_map, List.length_range] at hl
  refine ⟨hl, fun k hk => ?_⟩
  have hk' : (l.map landing)[k]? = some (φ k) := by rw [h, List.getElem?_map, List.getElem?_range hk]; rfl
  rw [List.getElem?_map, Option.map_eq_some_iff] at hk'
  obtain ⟨v, hv, he⟩ := hk'
  exact ⟨v, hv, by rw [← he]; exact ⟨rfl, rfl, rfl⟩⟩

/-- The local buffers, and the words that wait to retire. -/
def besideWrites (c : Core) : Tab Byte × Tab Byte × Tab Byte × List VRetire := (c.wb, c.ab, c.as, c.vretire)

/-- The same writes are pending, over the same buffers. -/
def sameWrites (c d : Core) : Prop := c.vpend.map landing = d.vpend.map landing ∧ besideWrites c = besideWrites d

theorem sameWrites_trans {c d e : Core} (h : sameWrites c d) (k : sameWrites d e) : sameWrites c e :=
  ⟨h.1.trans k.1, h.2.trans k.2⟩

/-- Packets begin to count; what lands stays as it is. -/
theorem sameWrites_countPackets (n : Nat) (c : Core) : sameWrites (countPackets n c) c := by
  induction n generalizing c with
  | zero => exact ⟨rfl, rfl⟩
  | succ n ih =>
    unfold countPackets
    split
    · exact ⟨rfl, rfl⟩
    · extract_lets k
      split
      · exact ⟨rfl, rfl⟩
      · refine sameWrites_trans (ih _) ⟨?_, rfl⟩
        rw [List.map_map]
        refine List.map_congr_left fun v _ => ?_
        simp only [Function.comp_apply]
        split <;> rfl

/-- The writes of one packet wait for the last of them, which is no later where all are as near. -/
theorem foldl_max_left {ws : List VWrite} {n : Nat} (p : VWrite → Bool) (h : ∀ w ∈ ws, w.left = n) :
    ws.foldl (fun m w => if p w then max m w.left else m) n = n := by
  refine List.foldlRecOn _ _ (motive := fun m => m = n) rfl fun m hm w hw => ?_
  simp only [hm, h w hw, Nat.max_self, ite_self]

theorem pushWrites_first {c : Core} {ws : List VWrite} {n : Nat} (hv : c.vpend = []) (hl : ∀ w ∈ ws, w.left = n) :
    (c.pushWrites ws).vpend.map landing = ws.map landing ∧ besideWrites (c.pushWrites ws) = besideWrites c := by
  unfold Core.pushWrites
  extract_lets ws' late counted
  have hw : ws'.map landing = ws.map landing := List.map_map.trans (List.map_congr_left fun w _ => rfl)
  have hl' : ∀ w ∈ ws', w.left = n := by simpa only [ws', List.forall_mem_map] using hl
  split
  · exact ⟨by simp only [hv, List.nil_append, hw], rfl⟩
  · obtain ⟨h, hb⟩ := sameWrites_countPackets ws'.length { c with vpend := c.vpend.map late ++ ws'.map (fun w => late (counted w)) }
    refine ⟨h.trans ?_, hb⟩
    rw [hv, List.map_nil, List.nil_append, ← hw, List.map_map]
    refine List.map_congr_left fun w hmem => ?_
    have hc : (counted w).left = n := hl' w hmem
    simp only [Function.comp_apply, late, hc, foldl_max_left _ hl']
    split
    · rw [← hc]; rfl
    · rfl

/-- Pending writes a step later. -/
def nearer (ws : List VWrite) : List VWrite := ws.map (fun w => { w with left := w.left - 1 })

theorem vStep_counts {c : Core} (hr : c.vretire = []) (hl : ∀ w ∈ c.vpend, 2 ≤ w.left) : c.vStep = { c with vpend := nearer c.vpend } := by
  have hleft : ∀ w ∈ nearer c.vpend, 0 < w.left := List.forall_mem_map.2 fun w hw => Nat.sub_pos_of_lt (hl w hw)
  have hd : (nearer c.vpend).filter (fun w => w.left == 0) = [] :=
    List.filter_eq_nil_iff.2 fun w hw h0 => (hleft w hw).ne' (beq_iff_eq.1 h0)
  have hk : (nearer c.vpend).filter (fun w => decide (0 < w.left)) = nearer c.vpend :=
    List.filter_eq_self.2 fun w hw => decide_eq_true (hleft w hw)
  unfold nearer at hd hk ⊢
  simp only [Core.vStep, hd, hk, Core.landAll, Core.vRetire, hr, List.filter_nil, List.map_nil, List.append_nil, List.nil_append, List.foldl_nil]

theorem vStep_idle {c : Core} (hv : c.vpend = []) (hr : c.vretire = []) : c.vStep = c := by
  rw [vStep_counts hr (by simp [hv]), hv, nearer, List.map_nil, ← hv]

theorem vSend_nil {s : State} (hv : s.core.vpend = []) : vSend s = s := by
  simp [vSend, hv]

/-- No window write goes out while each has steps left. -/
theorem vSend_waits {s : State} (hl : ∀ w ∈ s.core.vpend, w.left ≠ 0) : sameWrites (vSend s).core s.core ∧ (vSend s).mem = s.mem := by
  have hc := sameWrites_countPackets s.core.vpend.length s.core
  have hd : (countPackets s.core.vpend.length s.core).windowDue = none := by
    have h0 := forall_left (p := (· ≠ 0)) hc.1 (List.forall_mem_map.2 hl)
    exact List.find?_eq_none.2 fun w hw => by simp [h0 w hw]
  have hs (n : Nat) : sendVector n (s.mapCore (countPackets s.core.vpend.length)) = s.mapCore (countPackets s.core.vpend.length) := by
    cases n with
    | zero => rfl
    | succ n => simp only [sendVector, mapCore_core, hd]
  unfold vSend
  split
  · exact ⟨⟨rfl, rfl⟩, rfl⟩
  · simp only [hs]
    exact ⟨hc, rfl⟩

/-- The writes of a step are pending after it, a step nearer. -/
theorem pushWrites_vStep {c : Core} {ws : List VWrite} {n : Nat} (hv : c.vpend = []) (hr : c.vretire = []) (hn : 1 ≤ n) (hl : ∀ w ∈ ws, w.left = n + 1) :
    (c.pushWrites ws).vStep.vpend.map landing = ws.map (fun w => (w.addr, w.bytes, n)) ∧ besideWrites (c.pushWrites ws).vStep = besideWrites c := by
  obtain ⟨hp, hb⟩ := pushWrites_first hv hl
  have hr' : (c.pushWrites ws).vretire = [] := (congrArg (·.2.2.2) hb).trans hr
  have hleft := forall_left (p := (· = n + 1)) hp (List.forall_mem_map.2 hl)
  rw [vStep_counts hr' fun w hw => by rw [hleft w hw]; omega]
  refine ⟨?_, hb⟩
  have hm := congrArg (List.map (fun x : Nat × List Byte × Nat => (x.1, x.2.1, x.2.2 - 1))) hp
  rw [List.map_map, List.map_map] at hm
  rw [nearer, List.map_map]
  refine hm.trans (List.map_congr_left fun w hw => ?_)
  simp [landing, hl w hw]

/-! ### The word -/

theorem exec_of_issueWith {i : Instr} {body : State → WordResult} {s : State} {x : WordResult}
    (hx : exec i s = .next (issueWith (fun _ => none) i body s)) (hb : body (takeRing i s) = x) (h : issues s i) :
    exec i s = .next (finishWord i s x) := by
  rw [hx, issueWith_ready h rfl, hb]

theorem faults_of_issueWith {i : Instr} {body : State → WordResult} {s : State} {f : Flt}
    (hx : exec i s = .next (issueWith (fun _ => none) i body s)) (hb : body (takeRing i s) = .fault f) : faults s i f := fun h => by
  rw [exec_of_issueWith hx hb h]
  simp only [finishWord, leaveWord_of_issues h]

theorem blocks_of_issueWith {i : Instr} {body : State → WordResult} {s : State} {m : State → State} {c : Nat}
    (hx : exec i s = .next (issueWith (fun _ => none) i body s)) (hb : body (takeRing i s) = .blocked m c) (hm : m s = s) :
    blocks s i c := fun h => by
  rw [exec_of_issueWith hx hb h]
  simp only [finishWord, leaveWord_of_issues h, blockOrStamp, hm, cStamp]

@[simp] theorem takeRing_vpend (i : Instr) (s : State) : (takeRing i s).core.vpend = s.core.vpend := by rw [takeRing_eq]
@[simp] theorem takeRing_vretire (i : Instr) (s : State) : (takeRing i s).core.vretire = s.core.vretire := by rw [takeRing_eq]
@[simp] theorem takeRing_noRoom (i : Instr) (s : State) (rd : Region) : rd.noRoom (takeRing i s).core = rd.noRoom s.core := by
  rw [takeRing_eq]; rfl

/-- The local buffers and memory. -/
def buffers (s : State) : Tab Byte × Tab Byte × Tab Byte × Tab Byte := (s.core.wb, s.core.ab, s.core.as, s.mem)

theorem vpend_of_still {s t : State} (h : still s = still t) : s.core.vpend = t.core.vpend :=
  eq_of_still h (fun s => s.core.vpend) fun _ => rfl

theorem buffers_of_still {s t : State} (h : still s = still t) : buffers s = buffers t := eq_of_still h buffers fun _ => rfl

theorem stepsOf_one {n e : Nat} (hn : n ≠ 0) (he : n ≤ e) : stepsOf n e = 1 := by
  have h : (n + e - 1) / e = 1 := Nat.div_eq_of_lt_le (by omega) (by omega)
  rw [stepsOf, h]; rfl

/-- The operand of QR.GEN names no dimensions, or some that are not there. -/
abbrev dimsOutside (x : Word) : Prop := bits x 63 17 ≠ 0 ∨ bits x 16 8 = 0 ∨ 256 < bits x 7 0 + bits x 16 8

/-- QR.GEN with elements to write and dimensions that are there; `v` and `x` are its operands. -/
def genInside (rd : Region) (v x : Word) (s : State) : WordResult :=
  match checkRegion s.core rd true false 0 rd.count s.hyp with
  | some f => .fault f
  | none =>
    if rd.fmt ≠ 1 ∧ rd.fmt ≠ 2 ∧ rd.fmt ≠ 9 then .fault ⟨cBufacc, 0x81, rd.addr⟩
    else if rd.noRoom (vSend s).core then .blocked vSend 8
    else .next (vDone (vSend s) (genSteps rd s.core.qrseed (v.setWidth 32) (BitVec.ofNat 32 (bits v 63 32)) (bits x 7 0) (bits x 16 8)
      (if rd.full then 16 else 8) (stepsOf rd.count (if rd.full then 16 else 8)) 0 (vSend s).core) 0#6)

/-- QR.GEN where its ring waits have been taken. -/
def genBody (rd : Region) (v x : Word) (s : State) : WordResult :=
  if rd.count = 0 then .next (stepAfter s.unit s)
  else if dimsOutside x then .fault ⟨cQueue, 0, 0#64⟩
  else genInside rd v x s

/-- The region that QR.GEN writes. -/
def genRegion (d : BitVec 4) (s : State) : Region := regionOf (s.core.d.get d.toNat)

theorem takeRing_genRegion (i : Instr) (d : BitVec 4) (s : State) : genRegion d (takeRing i s) = genRegion d s := by rw [takeRing_eq]; rfl

theorem exec_qrGen (r d a b : BitVec 4) (s : State) : exec (.qrGen r d a b) s = .next (issueWith (fun _ => none) (.qrGen r d a b)
    (fun t => genBody (genRegion d t) (t.r5 a) (t.r5 b) t) s) := rfl

theorem genBody_takeRing (i : Instr) (d a b : BitVec 4) (s : State) :
    genBody (genRegion d (takeRing i s)) ((takeRing i s).r5 a) ((takeRing i s).r5 b) (takeRing i s)
      = genBody (genRegion d s) (s.r5 a) (s.r5 b) (takeRing i s) := by
  rw [takeRing_r5, takeRing_r5, takeRing_genRegion]

/-- The point of element `k`: the dimensions go round, and the index goes on after each round (R278). -/
def genPoint (c : Core) (v x : Word) (k : Nat) : BitVec 32 :=
  c.point (v.setWidth 32 + BitVec.ofNat 32 (k / bits x 16 8) * BitVec.ofNat 32 (bits v 63 32)) (bits x 7 0 + k % bits x 16 8)

/-- The writes of a QR.GEN that takes one step. -/
def genWrites (rd : Region) (v x : Word) (c : Core) : List VWrite :=
  genElems rd c.qrseed (v.setWidth 32) (BitVec.ofNat 32 (bits v 63 32)) (bits x 7 0) (bits x 16 8) c 0 rd.count

/-- Where the point of element `k` lands after the step that writes it, in which form, and when. -/
def genLanding (rd : Region) (v x : Word) (c : Core) (k : Nat) : Nat × List Byte × Nat :=
  (rd.space * 2 ^ 28 + (rd.place k).1, natToBytes rd.size (formOut (if rd.fmt = 9 then 0 else rd.fmt) (genPoint c v x k)), 3)

theorem genWrites_landing (rd : Region) (v x : Word) (c : Core) :
    (genWrites rd v x c).map (fun w => (w.addr, w.bytes, 3)) = (List.range rd.count).map (genLanding rd v x c) := by
  rw [genWrites, genElems, List.map_map]
  refine List.map_congr_left fun k _ => ?_
  simp only [Function.comp_apply, Nat.zero_add]
  rfl

section
variable {rd : Region} {v x : Word} {t : State}

theorem genBody_refused (hc : rd.count ≠ 0) (h : dimsOutside x) : genBody rd v x t = .fault ⟨0x15, 0, 0#64⟩ := by
  simp only [genBody, if_neg hc, if_pos h, cQueue]

theorem genBody_inside (hc : rd.count ≠ 0) (hx : ¬dimsOutside x) : genBody rd v x t = genInside rd v x t := by
  simp only [genBody, if_neg hc, if_neg hx]

theorem genInside_fault {f : Flt} (hb : checkRegion t.core rd true false 0 rd.count t.hyp = some f) : genInside rd v x t = .fault f := by
  simp only [genInside, hb]

variable (hb : checkRegion t.core rd true false 0 rd.count t.hyp = none)
include hb

theorem genInside_format (hf : rd.fmt ≠ 1 ∧ rd.fmt ≠ 2 ∧ rd.fmt ≠ 9) : genInside rd v x t = .fault ⟨0x03, 0x81, rd.addr⟩ := by
  simp only [genInside, hb, if_pos hf, cBufacc]

variable (hf : rd.fmt = 1 ∨ rd.fmt = 2 ∨ rd.fmt = 9) (hv : t.core.vpend = [])
include hf hv

theorem genInside_full (hr : rd.noRoom t.core = true) : genInside rd v x t = .blocked vSend 8 := by
  simp only [genInside, hb, if_neg (show ¬(rd.fmt ≠ 1 ∧ rd.fmt ≠ 2 ∧ rd.fmt ≠ 9) by omega), vSend_nil hv, hr, if_true]

/-- The elements of one step are all pending, with three steps left. -/
theorem genInside_writes (hr : rd.noRoom t.core = false) (hq : t.core.vretire = []) (hc : rd.count ≠ 0)
    (hn : rd.count ≤ if rd.full then 16 else 8) : ∃ u, genInside rd v x t = .next u
      ∧ u.core.vpend.map landing = (List.range rd.count).map (genLanding rd v x t.core)
      ∧ buffers u = buffers t := by
  have hleft : ∀ w ∈ genWrites rd v x t.core, w.left = 3 + 1 := List.forall_mem_map.2 fun _ _ => rfl
  obtain ⟨hw, hs⟩ := pushWrites_vStep hv hq (by decide) hleft
  rw [genWrites_landing] at hw
  obtain ⟨⟨hl, hb'⟩, hm⟩ := vSend_waits (s := { t with core := (t.core.pushWrites (genWrites rd v x t.core)).vStep })
    (forall_left (p := (· ≠ 0)) hw (List.forall_mem_map.2 fun _ _ => Nat.succ_ne_zero 2))
  refine ⟨_, ?_, hl.trans hw, by simp_all [buffers, besideWrites]⟩
  simp only [genInside, hb, if_neg (show ¬(rd.fmt ≠ 1 ∧ rd.fmt ≠ 2 ∧ rd.fmt ≠ 9) by omega), vSend_nil hv, hr, stepsOf_one hc hn,
    Bool.false_eq_true, if_false, genSteps, Nat.sub_zero, Nat.min_eq_right hn, vDone, Core.flagsAtRetire, if_true, genWrites]

end

section
variable {s : State} {r d a b : BitVec 4}

theorem qrGen_empty (hv : s.core.vpend = []) (hq : s.core.vretire = []) (hc : (genRegion d s).count = 0) (h : issues s (.qrGen r d a b)) :
    ∃ t, exec (.qrGen r d a b) s = .next t ∧ t.core.vpend = [] ∧ buffers t = buffers s := by
  have hx := exec_of_issueWith (exec_qrGen r d a b s) ((genBody_takeRing _ _ _ _ _).trans (if_pos hc)) h
  have hi : (takeRing (.qrGen r d a b) s).core.vStep = (takeRing (.qrGen r d a b) s).core :=
    vStep_idle ((takeRing_vpend _ s).trans hv) ((takeRing_vretire _ s).trans hq)
  have hs : stepAfter (takeRing (.qrGen r d a b) s).unit (takeRing (.qrGen r d a b) s) = takeRing (.qrGen r d a b) s := by
    unfold stepAfter
    rw [hi]
    exact ite_self _
  have hst : still (finishWord (.qrGen r d a b) s (.next (stepAfter (takeRing (.qrGen r d a b) s).unit (takeRing (.qrGen r d a b) s)))) = still s := by
    rw [hs]
    exact (still_retire _ _ _ _).trans (still_takeRing _ _)
  exact ⟨_, hx, (vpend_of_still hst).trans hv, buffers_of_still hst⟩

variable (hc : (genRegion d s).count ≠ 0)
include hc

theorem qrGen_refused (hx : dimsOutside (s.r5 b)) : faults s (.qrGen r d a b) ⟨0x15, 0, 0#64⟩ :=
  faults_of_issueWith (exec_qrGen r d a b s) ((genBody_takeRing _ _ _ _ _).trans (genBody_refused hc hx))

variable (hx : ¬dimsOutside (s.r5 b))
include hx

theorem qrGen_body {u : WordResult} (hu : genInside (genRegion d s) (s.r5 a) (s.r5 b) (takeRing (.qrGen r d a b) s) = u) :
    genBody (genRegion d (takeRing (.qrGen r d a b) s)) ((takeRing (.qrGen r d a b) s).r5 a) ((takeRing (.qrGen r d a b) s).r5 b)
      (takeRing (.qrGen r d a b) s) = u :=
  (genBody_takeRing _ _ _ _ _).trans ((genBody_inside hc hx).trans hu)

theorem qrGen_faults {f : Flt} (hu : genInside (genRegion d s) (s.r5 a) (s.r5 b) (takeRing (.qrGen r d a b) s) = .fault f) :
    faults s (.qrGen r d a b) f :=
  faults_of_issueWith (exec_qrGen r d a b s) (qrGen_body hc hx hu)

variable (hb : checkRegion (takeRing (.qrGen r d a b) s).core (genRegion d s) true false 0 (genRegion d s).count s.hyp = none)
  (hf : (genRegion d s).fmt = 1 ∨ (genRegion d s).fmt = 2 ∨ (genRegion d s).fmt = 9) (hv : s.core.vpend = [])
include hb hf hv

theorem qrGen_blocks (hr : (genRegion d s).noRoom s.core = true) : blocks s (.qrGen r d a b) 8 := by
  rw [← takeRing_hyp (.qrGen r d a b)] at hb
  have hv' := (takeRing_vpend (.qrGen r d a b) s).trans hv
  have hr' := (takeRing_noRoom (.qrGen r d a b) s _).trans hr
  exact blocks_of_issueWith (exec_qrGen r d a b s) (qrGen_body hc hx (genInside_full hb hf hv' hr')) (vSend_nil hv)

theorem qrGen_writes (hr : (genRegion d s).noRoom s.core = false) (hq : s.core.vretire = [])
    (hn : (genRegion d s).count ≤ if (genRegion d s).full then 16 else 8) (h : issues s (.qrGen r d a b)) :
    ∃ t, exec (.qrGen r d a b) s = .next t
      ∧ t.core.vpend.map landing = (List.range (genRegion d s).count).map (genLanding (genRegion d s) (s.r5 a) (s.r5 b) s.core)
      ∧ buffers t = buffers s := by
  have hv' := (takeRing_vpend (.qrGen r d a b) s).trans hv
  have hq' := (takeRing_vretire (.qrGen r d a b) s).trans hq
  have hr' := (takeRing_noRoom (.qrGen r d a b) s _).trans hr
  have hl : genLanding (genRegion d s) (s.r5 a) (s.r5 b) (takeRing (.qrGen r d a b) s).core
      = genLanding (genRegion d s) (s.r5 a) (s.r5 b) s.core := by rw [takeRing_eq]; rfl
  rw [← takeRing_hyp (.qrGen r d a b)] at hb
  obtain ⟨u, hu, hw, hs⟩ := genInside_writes (v := s.r5 a) (x := s.r5 b) hb hf hv' hr' hq' hc hn
  have ht := still_retire (.qrGen r d a b) s .next u
  refine ⟨_, exec_of_issueWith (exec_qrGen r d a b s) (qrGen_body hc hx hu) h, ?_,
    (buffers_of_still ht).trans (hs.trans (buffers_of_still (still_takeRing _ _)))⟩
  rw [← hl, ← hw]
  exact congrArg (List.map landing) (vpend_of_still ht)

end

/-- Settles O51: the words of the CC by their checks in order, QR.DIRLD row by row, and QR.GEN by the one step that its elements take. -/
theorem pointGeneration : Obligations.PointGeneration := by
  intro s r d a b e f g h
  have hrows : ¬(bits (s.r5 b) 63 17 = 0 ∧ bits (s.r5 b) 16 8 ≤ 256 ∧ bits (s.r5 b) 7 0 + bits (s.r5 b) 16 8 ≤ 256) ↔ rowsOutside (s.r5 b) := by
    omega
  refine ⟨completes_of_ok rfl rfl, qrPt_refused, qrPt_answers, fun hs m _ => getLsbD_point _ _ _ _ hs, ?dirld, ?gen⟩
  case dirld =>
    refine ⟨fun hr => qrDirld_refused (hrows.1 hr), fun hr h0 => qrDirld_empty (mt hrows.2 (not_not.2 hr)) h0,
      fun hr hn hp h => qrDirld_waits (mt hrows.2 (not_not.2 hr)) hn hp h,
      fun hr hn hp hk hh f hb => qrDirld_faults (mt hrows.2 (not_not.2 hr)) hn hp hk hh hb,
      fun hr hn hp hk st u bs h0 hs h => qrDirld_loads (mt hrows.2 (not_not.2 hr)) hn hp hk h0 hs h⟩
  case gen =>
    intro w rd v y d0 nd range bad point _ hv hq
    have hrange : ¬range ↔ dimsOutside (s.r5 h) := by
      simp only [range, nd, d0, y]; omega
    have hin (hr : range) : ¬dimsOutside (s.r5 h) := mt hrange.2 (not_not.2 hr)
    refine ⟨fun hc hi => ?_, fun hc hr => qrGen_refused hc (hrange.1 hr),
      fun hc hr q hb => qrGen_faults hc (hin hr) (genInside_fault ((takeRing_hyp w s).symm ▸ hb)),
      fun hc hr hb h1 h2 h9 => qrGen_faults hc (hin hr) (genInside_format ((takeRing_hyp w s).symm ▸ hb) ⟨h1, h2, h9⟩),
      fun hc hr hb hf hroom => qrGen_blocks hc (hin hr) hb hf hv hroom, fun hc hr hb hf hroom hn hi => ?_⟩
    · obtain ⟨t, hx, ht⟩ := qrGen_empty hv hq hc hi
      simp only [buffers, Prod.mk.injEq] at ht
      obtain ⟨hp, hwb, hab, has, -⟩ := ht
      exact ⟨t, hx, hp, hwb, hab, has⟩
    · obtain ⟨t, hx, hl, ht⟩ := qrGen_writes hc (hin hr) hb hf hv hroom hq hn hi
      simp only [buffers, Prod.mk.injEq] at ht
      obtain ⟨hwb, hab, has, hm⟩ := ht
      obtain ⟨hlen, hw⟩ := landings_range hl
      exact ⟨t, hx, hlen, hwb, hab, has, hm, hw⟩

end Sys2Proof.Proofs
end

section
/-! What the ring waits leave to the words of sequencing (engines, queues and counters), one engine of a core, and the core in focus. -/
namespace Sys2Proof.Proofs
open Sys2Proof.Machine Sys2Proof.Safety Sys2Proof.Laws

@[simp] theorem takeRing_eng (i : Instr) (s : State) (u : Sqr) : (takeRing i s).core.eng u = s.core.eng u := by
  rw [takeRing_eq]; cases u <;> rfl
@[simp] theorem takeRing_fmtq (i : Instr) (s : State) : (takeRing i s).core.fmtq = s.core.fmtq := by rw [takeRing_eq]
@[simp] theorem takeRing_rq (i : Instr) (s : State) : (takeRing i s).core.rq = s.core.rq := by rw [takeRing_eq]
@[simp] theorem takeRing_gated (i : Instr) (s : State) (u : Sqr) (q n : Nat) :
    (takeRing i s).core.gated u q n = s.core.gated u q n := by
  simp only [Core.gated, takeRing_pend, takeRing_vretire]
@[simp] theorem takeRing_cntLd (i : Instr) (s : State) : (takeRing i s).core.cntLd = s.core.cntLd := by rw [takeRing_eq]
@[simp] theorem takeRing_cntSt (i : Instr) (s : State) : (takeRing i s).core.cntSt = s.core.cntSt := by rw [takeRing_eq]
@[simp] theorem takeRing_cntCp (i : Instr) (s : State) : (takeRing i s).core.cntCp = s.core.cntCp := by rw [takeRing_eq]
@[simp] theorem takeRing_cntTl (i : Instr) (s : State) : (takeRing i s).core.cntTl = s.core.cntTl := by rw [takeRing_eq]

/-! ### One engine of a core -/

theorem eng_mapEng_same (c : Core) {u : Sqr} (h : u ≠ .cc) (f : Engine → Engine) : (c.mapEng u f).eng u = f (c.eng u) := by
  cases u with
  | cc => exact absurd rfl h
  | _ => rfl

theorem eng_mapEng_other (c : Core) {u v : Sqr} (h : v ≠ u) (f : Engine → Engine) : (c.mapEng u f).eng v = c.eng v := by
  cases u <;> cases v <;> simp_all [Core.mapEng, Core.setEng, Core.eng]

theorem mapEng_mapEng (c : Core) (u : Sqr) (f g : Engine → Engine) : (c.mapEng u f).mapEng u g = c.mapEng u (fun e => g (f e)) := by
  cases u <;> rfl

theorem reg_of_engine (c : Core) {u : Sqr} (h : u ≠ .cc) (n : Nat) : c.reg u n = if n = 0 then 0#64 else (c.eng u).e.get n := by
  cases u with
  | cc => exact absurd rfl h
  | _ => rfl

theorem setReg_of_engine (c : Core) {u : Sqr} (h : u ≠ .cc) {n : Nat} (hn : n ≠ 0) (v : Word) :
    c.setReg u n v = c.mapEng u (fun e => { e with e := e.e.set n v }) := by
  unfold Core.setReg
  rw [if_neg hn]
  cases u with
  | cc => exact absurd rfl h
  | _ => rfl

theorem reg_mapEng_other (c : Core) {u v : Sqr} (h : v ≠ u) (f : Engine → Engine) (n : Nat) : (c.mapEng u f).reg v n = c.reg v n := by
  cases u <;> cases v <;> simp_all [Core.mapEng, Core.setEng, Core.reg, Core.eng]

/-! ### The core in focus -/

/-- What comes back to the core in focus is there already. -/
theorem within_focused {f : State → State} {s : State} (h : (f s).lnum = s.lnum) : Machine.within s.lnum f s = f s :=
  (within_self f s).trans (if_pos h.symm)

end Sys2Proof.Proofs
end

section
/-! The queues: ENG.CMD, BQ.ENQ, FMT.ENQ, RQ.ENQ, RQ.DEQ and the branches on outcomes (R105, R113, R118–R120). -/
namespace Sys2Proof.Proofs
open Sys2Proof.Machine Sys2Proof.Safety Sys2Proof.Laws

/-! ### Pushes -/

/-- Settles O10: each word pushes where its queue has room, and blocks where it is full. -/
theorem queuePushes : Obligations.QueuePushes := by
  intro s r e u a b n cmd full push
  refine ⟨fun h => completes_of_ok rfl (if_neg ?_), fun h => exec_of_blocked rfl (if_pos ?_),
    fun h => completes_of_ok rfl (if_neg ?_), fun h => exec_of_blocked rfl (if_pos ?_),
    fun h => completes_of_ok rfl (if_neg (not_le.2 ?_)), fun h => exec_of_blocked rfl (if_pos ?_),
    fun h => completes_of_ok rfl (if_neg (not_le.2 ?_)), fun h => exec_of_blocked rfl (if_pos ?_),
    fun h => completes_of_ok rfl (if_neg (not_le.2 ?_)), fun h => exec_of_blocked rfl (if_pos ?_)⟩
  all_goals
    simp only [takeRing_eng, takeRing_fmtq, takeRing_rq]
    exact h

/-! ### RQ.DEQ -/

section
variable {s : State} {r : BitVec 4} {d x : BitVec 5}

theorem rqDeq_empty (h : s.core.rq.items = []) : blocks s (.rqDeq r d x) 5 :=
  exec_of_blocked rfl (by simp only [takeRing_rq, h])

theorem rqDeq_pops {e : RqEntry} {t : List RqEntry} {v : Word} (h : s.core.rq.items = e :: t) (hv : e.val = some v)
    (hg : e.src = 0 ∨ s.core.gated (codeEng e.src) 9 (s.core.rq.items.filter (fun y => y.src == e.src)).length = false) :
    does s (.rqDeq r d x)
      (fun s => ((s.mapCore (fun c => { c with rq := c.rq.pop 16 })).w5 d v).w5 x (BitVec.ofNat 64 e.src)) := by
  have hn : ¬(e.src ≠ 0 ∧ s.core.gated (codeEng e.src) 9 (s.core.rq.items.filter (fun y => y.src == e.src)).length = true) := by
    rw [not_and_or, not_not, Bool.not_eq_true]
    exact hg
  refine completes_of_ok rfl ?_
  rw [h] at hn
  simp only [takeRing_rq, takeRing_gated, h, hv]
  exact if_neg hn

end

/-! ### The branches on outcomes -/

section
variable {s : State} {i : Instr} {on : Bool} {o : BitVec 15} (hx : exec i s = .next (issue i (bqBranch on o) s))
include hx

theorem bqBranch_outside (h : (s.baseAddr + 4 * s.immS o : Int) < 0 ∨ (0xFFFC : Int) < s.baseAddr + 4 * s.immS o) :
    faults s i ⟨0x01, 10, 0#64⟩ :=
  exec_of_fault hx (by simp only [bqBranch, takeRing_baseAddr, takeRing_immS, if_pos h, cIllegal])

variable (h0 : (0 : Int) ≤ s.baseAddr + 4 * s.immS o) (h1 : (s.baseAddr + 4 * s.immS o : Int) ≤ 0xFFFC)
include h0 h1

theorem bqBranch_empty (h : (s.core.eng s.unit).bq.items = []) : blocks s i 4 :=
  exec_of_blocked hx (by
    simp only [bqBranch, takeRing_baseAddr, takeRing_immS, if_neg (not_or.2 ⟨not_lt.2 h0, not_lt.2 h1⟩), takeRing_eng, takeRing_unit, h])

theorem bqBranch_pops {b : Bool} {y : BitVec 8} {t : List (Bool × BitVec 8)} (h : (s.core.eng s.unit).bq.items = (b, y) :: t)
    (hg : s.core.gated .cc (4 + engIx s.unit) (t.length + 1) = false) (hi : issues s i) :
    let s' := (takeRing i s).mapCore (fun c => c.mapEng s.unit (fun e => { e with bq := e.bq.pop 8 }))
    let target : Int := s.baseAddr + 4 * s.immS o
    completes s i (if b = on then .jump target.toNat else .next)
      (if b = on then s'.mapCore (fun c => c.mapEng s.unit (fun e => e.leaveLoops target.toNat)) else s') := by
  refine completes_of_ok hx ?_ hi
  simp only [bqBranch, takeRing_baseAddr, takeRing_immS, if_neg (not_or.2 ⟨not_lt.2 h0, not_lt.2 h1⟩), takeRing_eng, takeRing_unit, h,
    takeRing_gated, List.length_cons, hg]
  by_cases hb : b = on
  · simp only [if_pos hb]; rfl
  · simp only [if_neg hb]; rfl

end

/-- Settles O11: an entry that may be popped is there, or the queue is empty; the target of a branch is checked before. -/
theorem queuePops : Obligations.QueuePops := by
  intro s r d x o target pop leave
  refine ⟨fun e t v => rqDeq_pops, rqDeq_empty, fun b y t h hg h0 h1 => ⟨fun hi => ?_, fun hi => ?_⟩,
    fun h h0 h1 => ⟨bqBranch_empty rfl h0 h1 h, bqBranch_empty rfl h0 h1 h⟩, fun h => ⟨bqBranch_outside rfl h, bqBranch_outside rfl h⟩⟩
  · exact bqBranch_pops rfl h0 h1 h hg hi
  · have hp := bqBranch_pops rfl h0 h1 h hg hi
    cases b <;> exact hp

end Sys2Proof.Proofs
end

section
/-! ARG and LOOP (R109, R111, R114). -/
namespace Sys2Proof.Proofs
open Sys2Proof.Machine Sys2Proof.Safety Sys2Proof.Laws

/-! ### ARG -/

theorem argItem_takeRing (i : Instr) (s : State) (k : Nat) : argItem (takeRing i s) k = argItem s k := by
  simp only [argItem, takeRing_eng, takeRing_unit]

/-- Settles O12: each form of ARG sees the items as they are where the word issues. -/
theorem argumentItems : Obligations.ArgumentItems := by
  intro s r d b i e c k l v item write bad
  have hitem : argItem (takeRing (.argWrite r d i b) s) k = item := argItem_takeRing _ s k
  refine ⟨writesReg_of_setsReg rfl (argItem_takeRing _ s k), fun hb => completes_of_ok rfl ?_, fun hb => exec_of_fault rfl ?_⟩
  · simp only [takeRing_r5, ← hitem]
    exact if_neg hb
  · simp only [takeRing_r5]
    exact if_pos hb

/-! ### LOOP -/

/-- What R111 refuses of a LOOP. -/
abbrev loopRefused (s : State) (n : Nat) (p : LoopPlan) : Prop :=
  0xFFFFFF < p.trips ∨ ((s.core.eng s.unit).loops.get n).a = true ∨ p.stop < p.start ∨ 0xFFFC < p.stop ∨ 0x10000 < p.skip
    ∨ badOverlap (s.core.eng s.unit) p.start p.stop = true

theorem loopFault_eq (s : State) (n : Nat) (p : LoopPlan) : loopFault s n p = if loopRefused s n p then some ⟨0x14, 0, 0#64⟩ else none := by
  simp only [loopFault, loopRefused, Bool.or_eq_true, decide_eq_true_eq, or_assoc, cLoop]

theorem loopPlan_takeRing (i : Instr) (s : State) (n trips len : Nat) : loopPlan (takeRing i s) n trips len = loopPlan s n trips len := by
  simp only [loopPlan, takeRing_eng, takeRing_unit, takeRing_baseAddr]

section
variable {s : State} {i : Instr} {n : BitVec 2} {trips : State → Nat} {l : BitVec 7}
  (hx : exec i s = .next (loopWord i n trips l s))
include hx

theorem loopWord_faults (h : loopRefused s n.toNat (loopPlan s n.toNat (trips s) (s.immU l))) : faults s i ⟨0x14, 0, 0#64⟩ := by
  rw [loopWord] at hx
  exact faults_of_pre hx ((loopFault_eq _ _ _).trans (if_pos h))

theorem loopWord_enters {t : State} {k : Ctl} (ht : trips (takeRing i s) = trips s)
    (h : ¬loopRefused s n.toNat (loopPlan s n.toNat (trips s) (s.immU l)))
    (he : enterLoop (takeRing i s) n.toNat (loopPlan s n.toNat (trips s) (s.immU l)) = .ok t k) (hi : issues s i) : completes s i k t := by
  rw [loopWord] at hx
  refine completes_issueWith (t := stepAfter s.unit t) hi hx ((loopFault_eq _ _ _).trans (if_neg h)) ?_ rfl
  simp only [ht, takeRing_immU, loopPlan_takeRing, he, takeRing_unit]

end

/-- Settles O13: both words enter by the plan that they have before their ring waits, which move nothing that it reads. -/
theorem loopEntry : Obligations.LoopEntry := by
  intro s r n m c l e x start stop skip overlaps bad enter enters
  have hloop (i : Instr) (trips : State → Nat) (hx : exec i s = .next (loopWord i n trips l s)) (ht : trips (takeRing i s) = trips s) :
      enters i (trips s) := by
    refine ⟨fun h => loopWord_enters hx ht h ?_, loopWord_faults hx⟩
    simp only [enterLoop, enter]
    by_cases h0 : trips s = 0
    · simp only [loopPlan, h0, if_true]
      rfl
    · simp only [loopPlan, h0, if_false]
      rfl
  exact ⟨hloop _ (fun _ => m.toNat) rfl rfl, hloop _ (fun s => (s.r5 c).toNat) rfl (congrArg BitVec.toNat (takeRing_r5 _ _ _))⟩

end Sys2Proof.Proofs
end

section
/-! ENG.FENCE, WAITC and ENG.BUSY (R121, R122, R124). -/
namespace Sys2Proof.Proofs
open Sys2Proof.Machine Sys2Proof.Safety Sys2Proof.Laws

theorem within15_iff (a : BitVec 4) (n : Nat) : within15 a.toNat n = true ↔ a = 15#4 ∨ n ≤ a.toNat := by
  rw [within15, Bool.or_eq_true, beq_iff_eq, decide_eq_true_eq, ← BitVec.toNat_inj]
  rfl

/-- An engine of the mask is busy (R121). -/
theorem any_engBusy (m : BitVec 5) (s : State) : engines.any (fun u => m.getLsbD (engIx u) && s.engBusy u) = true
    ↔ ∃ u ∈ [Sqr.ae, .me, .se, .ve], m.getLsbD (engIx u) = true ∧ s.engBusy u = true := by
  simp only [List.any_eq_true, Bool.and_eq_true, engines]

/-- Settles O14: the body of each word, as ENG.FENCE, WAITC and ENG.BUSY find the engines and the counters. -/
theorem waitsAndBusy : Obligations.WaitsAndBusy := by
  intro s r m d a b c e i w ok met
  have hmet : (within15 a.toNat (takeRing w s).core.cntLd && within15 b.toNat (takeRing w s).core.cntSt
      && within15 c.toNat (takeRing w s).core.cntCp && within15 e.toNat (takeRing w s).core.cntTl) = true ↔ met := by
    simp only [takeRing_cntLd, takeRing_cntSt, takeRing_cntCp, takeRing_cntTl, Bool.and_eq_true, within15_iff, and_assoc, met, ok]
  refine ⟨fun h => completes_of_ok rfl (if_neg fun hb => ?_), fun h => exec_of_blocked rfl (if_pos ((any_engBusy _ _).2 h)),
    fun h => completes_of_ok rfl (if_pos (hmet.2 h)), fun h => exec_of_blocked rfl (if_neg (mt hmet.1 h)), completes_of_ok rfl ?_⟩
  · obtain ⟨u, hu, hm, hb⟩ := (any_engBusy _ _).1 hb
    exact Bool.false_ne_true ((h u hu hm).symm.trans hb)
  · simp only [engines, List.map_cons, List.map_nil, List.foldl_cons, List.foldl_nil, Nat.zero_add]
    rfl

end Sys2Proof.Proofs
end

section
/-! The start and the end of a routine (R106, R107, R211). -/
namespace Sys2Proof.Proofs
open Sys2Proof.Machine Sys2Proof.Safety Sys2Proof.Laws

/-! ### Taking a command -/

theorem markHit_nil {c : Core} (h : c.marks = []) (st : Store) (lo n : Nat) : c.markHit st lo n = none := by
  simp only [Core.markHit, h, List.find?_nil, Option.map_none]

/-- An engine that has taken its oldest command `c` (R106). -/
def takenEngine (c : Command) (e : Engine) : Engine :=
  { e with cmdq := e.cmdq.pop 16, run := some c, e := (e.e.set 1 c.a).set 2 c.b, upc := (e.rtab.get c.entry.toNat).toNat / 4 % 2 ^ 14 * 4 }

theorem reg_takenEngine {c : Core} {u : Sqr} (h : u ≠ .cc) (x : Command) (n : Nat) :
    (c.mapEng u (takenEngine x)).reg u n = if n = 1 then x.a else if n = 2 then x.b else c.reg u n := by
  simp only [reg_of_engine _ h, eng_mapEng_same _ h, takenEngine, get_set]
  obtain rfl | h1 := eq_or_ne n 1
  · rfl
  · simp only [if_neg h1]
    split <;> split <;> first | rfl | omega

theorem startRoutine_valid {s : State} {u : Sqr} {c : Command} (hu : u ≠ .cc) (hv : ((s.core.eng u).rtab.get c.entry.toNat).getLsbD 31 = true) :
    startRoutine (s.mapCore (fun k => k.mapEng u (fun e => { e with cmdq := e.cmdq.pop 16 }))) u c =
      s.mapCore (fun k => k.mapEng u (takenEngine c)) := by
  simp only [startRoutine, mapCore_mapCore, mapCore_core, setReg_of_engine _ hu one_ne_zero, setReg_of_engine _ hu two_ne_zero, mapEng_mapEng,
    eng_mapEng_same _ hu, hv, if_true]
  rfl

section
variable {s : State} {u : Sqr} {c : Command} {rest : List Command} (hu : u ≠ .cc) (hm : s.core.mode = .running) (hr : (s.core.eng u).run = none)
  (hme : u = .me → s.core.relocs = []) (hq : (s.core.eng u).cmdq.items = c :: rest)
  (hg : s.core.gated .cc (engIx u) (rest.length + 1) = false) (hk : s.core.marks = [])
  (hv : ((s.core.eng u).rtab.get c.entry.toNat).getLsbD 31 = true)
include hu hm hr hme hq hg hk hv

theorem takeCommand_starts : takeCommand s u = s.mapCore (fun k => k.mapEng u (takenEngine c)) := by
  have hrel : (if u = .me then s.core.relocs.head? else none) = none := by
    split
    next h => rw [hme h, List.head?_nil]
    next => rfl
  rw [← startRoutine_valid hu hv]
  simp only [takeCommand, hm, hr, hrel, hq, List.length_cons, hg, markHit_nil hk]
  rfl

theorem exec_engineCommandTake :
    exec (.engineCommandTake s.lnum u) s = .next ({ s with unit := u }.mapCore (fun k => k.mapEng u (takenEngine c))) := by
  have ht := takeCommand_starts (s := { s with unit := u }) hu hm hr hme hq hg hk hv
  have hf : Machine.within s.lnum (fun s => takeCommand { s with unit := u } u) s = takeCommand { s with unit := u } u :=
    within_focused (by simp only [ht, mapCore_lnum])
  exact congrArg Host.Outcome.next (hf.trans ht)

end

/-! ### A step of the VE looks at no engine -/

section
variable (e : Engine)

theorem foldl_setVe {α : Type} {f : Core → α → Core} (hf : ∀ c a, f (c.setEng .ve e) a = (f c a).setEng .ve e) (l : List α) (c : Core) :
    l.foldl f (c.setEng .ve e) = (l.foldl f c).setEng .ve e :=
  List.foldl_hom (fun c : Core => c.setEng .ve e) hf

theorem fillSignals_setVe (c : Core) (u : Sqr) (sb sa : Bool) (h : BitVec 8) :
    (c.setEng .ve e).fillSignals u sb sa h = (c.fillSignals u sb sa h).setEng .ve e := by
  cases sb <;> cases sa <;> rfl

theorem setBuf_setVe (c : Core) (space : Nat) (m : Tab Byte) : (c.setEng .ve e).setBuf space m = (c.setBuf space m).setEng .ve e := by
  unfold Core.setBuf
  split <;> rfl

theorem landWrite_setVe (c : Core) (w : VWrite) : (c.setEng .ve e).landWrite w = (c.landWrite w).setEng .ve e := by
  unfold Core.landWrite Core.putNibble Core.putBytes
  simp only []
  split <;> exact setBuf_setVe e c _ _

theorem landAll_setVe (c : Core) (ws : List VWrite) : (c.setEng .ve e).landAll ws = (c.landAll ws).setEng .ve e := by
  simp only [Core.landAll]
  rw [foldl_setVe e (landWrite_setVe e)]
  rfl

theorem vRetire_setVe (c : Core) : (c.setEng .ve e).vRetire = c.vRetire.setEng .ve e := by
  simp only [Core.vRetire]
  exact foldl_setVe e (fun c r => fillSignals_setVe e (c.raiseFlags r.flags) .ve r.sb r.sa r.hyp) _
    { c with vretire := c.vretire.filter (fun r => !r.ready c.vpend) }

theorem vStep_setVe (c : Core) : (c.setEng .ve e).vStep = c.vStep.setEng .ve e := by
  simp only [Core.vStep]
  rw [← vRetire_setVe, ← landAll_setVe]
  rfl

end

theorem vStep_mapVe (c : Core) (f : Engine → Engine) : (c.mapEng .ve f).vStep = c.vStep.mapEng .ve f := by
  obtain ⟨-, -, -, -, hve⟩ := sameUnits_vStep c
  rw [Core.mapEng, vStep_setVe, Core.mapEng, show c.vStep.eng .ve = c.eng .ve from hve]

theorem stepAfter_unit (u : Sqr) (s : State) : (stepAfter u s).unit = s.unit := by
  unfold stepAfter
  split <;> rfl

theorem stepAfter_mapEng (s : State) (f : Engine → Engine) :
    stepAfter s.unit (s.mapCore (fun c => c.mapEng s.unit f)) = (stepAfter s.unit s).mapCore (fun c => c.mapEng s.unit f) := by
  by_cases hu : s.unit = .ve
  · simp only [stepAfter, hu, if_true, State.mapCore, vStep_mapVe]
  · simp only [stepAfter, hu, if_false]

/-! ### ENDR -/

theorem endRoutine_own {s : State} (h : s.unit = .me → s.core.meOwn = none) : endRoutine s = s.mapCore (fun c => c.mapEng s.unit Engine.ended) := by
  unfold endRoutine
  split
  next hu ho => rw [h hu] at ho; cases ho
  next => rfl

section
variable {s : State} {r : BitVec 4}

/-- What ENDR does where it issues: it waits for the writes of the VE, or ends the routine. -/
def endrBody (r : BitVec 4) (s : State) : WordResult :=
  if s.unit = .ve ∧ !(stepAfter s.unit s).core.vpend.isEmpty then
    .ok ((stepAfter s.unit s).mapCore (fun k => (k.reserveSignals .ve r).mapEng .ve (fun e => { e with ending := some r.toNat }))) .pending
  else .ok (endRoutine (stepAfter s.unit s)) .ended

theorem exec_endr (r : BitVec 4) (s : State) : exec (.endr r) s = .next (issueWith (fun _ => none) (.endr r) (endrBody r) s) := rfl

theorem endr_ends (hv : s.unit = .ve → (stepAfter .ve (takeRing (.endr r) s)).core.vpend = []) (ho : s.unit = .me → s.core.meOwn = none)
    (h : issues s (.endr r)) : completes s (.endr r) .ended ((takeRing (.endr r) s).mapCore (fun c => c.mapEng s.unit Engine.ended)) := by
  refine completes_issueWith h (exec_endr r s) rfl (if_neg ?_) ?_
  · rintro ⟨hu, he⟩
    rw [takeRing_unit] at hu
    rw [takeRing_unit, hu, hv hu] at he
    cases he
  · have hown : (stepAfter (takeRing (.endr r) s).unit (takeRing (.endr r) s)).unit = .me →
        (stepAfter (takeRing (.endr r) s).unit (takeRing (.endr r) s)).core.meOwn = none := by
      intro hu
      rw [stepAfter_unit, takeRing_unit] at hu
      rw [takeRing_unit, stepAfter, if_neg (by simp [hu]), takeRing_eq]
      exact ho hu
    rw [endRoutine_own hown, stepAfter_unit]
    exact (stepAfter_mapEng (takeRing (.endr r) s) Engine.ended).symm

theorem endr_waits (hu : s.unit = .ve) (h : issues s (.endr r)) (hv : (stepAfter .ve (takeRing (.endr r) s)).core.vpend ≠ []) :
    ∃ t, exec (.endr r) s = .next t ∧ t.core.ve = { s.core.ve with ending := some r.toNat } := by
  have hb : endrBody r (takeRing (.endr r) s) = .ok ((stepAfter .ve (takeRing (.endr r) s)).mapCore
      (fun k => (k.reserveSignals .ve r).mapEng .ve (fun e => { e with ending := some r.toNat }))) .pending := by
    rw [endrBody, takeRing_unit, hu, if_pos ⟨rfl, by simp [hv]⟩]
  refine ⟨_, exec_of_issueWith (exec_endr r s) hb h, ?_⟩
  obtain ⟨-, -, -, -, hs⟩ := sameUnits_trans (sameUnits_stepAfter .ve (takeRing (.endr r) s)) (sameUnits_takeRing (.endr r) s)
  have hr (c : Core) : (c.reserveSignals .ve r).ve = c.ve := by
    unfold Core.reserveSignals
    split <;> split <;> rfl
  have hn (k : Ctl) (c : Core) : noteFetch (.endr r) s k c = c := if_pos (by simp [hu])
  simp only [finishWord, retire, hn]
  rw [hu]
  exact congrArg (fun e : Engine => { e with ending := some r.toNat }) ((hr _).trans hs)

end

/-- Settles O15: the engine that takes a command changes alone, and ENDR ends or waits by the writes that are pending. -/
theorem routineTakeAndEnd : Obligations.RoutineTakeAndEnd := by
  refine ⟨fun s u c rest hu hm hr hme hq hg hk hv => ⟨_, exec_engineCommandTake hu hm hr hme hq hg hk hv, ?_⟩,
    fun s r hv ho h => endr_ends hv ho h, fun s r hu h hv => ?_⟩
  · have heng : (s.core.mapEng u (takenEngine c)).eng u = takenEngine c (s.core.eng u) := eng_mapEng_same _ hu _
    have hreg := reg_takenEngine (c := s.core) hu c
    have hcmdq : ((s.core.eng u).cmdq.pop 16).items = rest := by simp only [Queue.pop, hq]
    simp only [mapCore_core, heng]
    exact ⟨rfl, hcmdq, (hreg 1).trans (if_pos rfl), (hreg 2).trans rfl, rfl,
      fun n h1 h2 => by rw [hreg, if_neg h1, if_neg h2], fun v h => ⟨reg_mapEng_other _ h _, eng_mapEng_other _ h _⟩, rfl, rfl⟩
  · obtain ⟨t, ht, hve⟩ := endr_waits hu h hv
    exact ⟨t, ht, by rw [hve], by rw [hve], by rw [hve]⟩

end Sys2Proof.Proofs
end

section
/-! Ring tokens (R20, R115). -/
namespace Sys2Proof.Proofs
open Sys2Proof.Machine Sys2Proof.Safety Sys2Proof.Laws

/-! ### What the ring bits do to the token FIFOs -/

/-- The ring bits `r` of a word of sequencer `u` wait on FIFO `k`. -/
def waitsOn (u : Sqr) (r : BitVec 4) (k : Nat) : Bool := (wbBit r && k == waitBefore u) || (waBit r && k == waitAfter u)

/-- The ring bits `r` of a word of sequencer `u` signal FIFO `k`. -/
def signalsTo (u : Sqr) (r : BitVec 4) (k : Nat) : Bool := (sbBit r && k == signalBefore u) || (saBit r && k == signalAfter u)

theorem toks_popToken (c : Core) (i k : Nat) :
    ((c.popToken i).tokens.get k).toks = if k = i then (c.tokens.get k).toks.tail else (c.tokens.get k).toks := by
  simp only [Core.popToken, get_set]
  split
  next h => rw [h, List.drop_one]
  next => rfl

theorem toks_pushToken (c : Core) (i k : Nat) (h : BitVec 8) :
    ((c.pushToken i h).tokens.get k).toks = (c.tokens.get k).toks ++ if k = i then [h] else [] := by
  simp only [Core.pushToken, get_set]
  split
  next hk => rw [hk]
  next => rw [List.append_nil]

theorem waitBefore_ne (u : Sqr) : waitBefore u ≠ waitAfter u := by cases u <;> decide
theorem signalBefore_ne (u : Sqr) : signalBefore u ≠ signalAfter u := by cases u <;> decide

theorem toks_takeWaits (c : Core) (u : Sqr) (r : BitVec 4) (k : Nat) :
    ((c.takeWaits u r).tokens.get k).toks = if waitsOn u r k then (c.tokens.get k).toks.tail else (c.tokens.get k).toks := by
  have hne := waitBefore_ne u
  unfold Core.takeWaits waitsOn
  split <;> split <;> grind [toks_popToken]

theorem toks_giveSignals (c : Core) (u : Sqr) (r : BitVec 4) (h : BitVec 8) (k : Nat) :
    ((c.giveSignals u r h).tokens.get k).toks = (c.tokens.get k).toks ++ if signalsTo u r k then [h] else [] := by
  have hne := signalBefore_ne u
  unfold Core.giveSignals signalsTo
  split <;> split <;> grind [toks_pushToken]

theorem forall_ringFifo {b a : Bool} {m n : Nat} {p : Nat → Bool} :
    ((!b || p m) && (!a || p n)) = true ↔ ∀ k, ((b && k == m) || (a && k == n)) = true → p k = true := by
  cases b <;> cases a <;> simp [or_imp, forall_and]

theorem waitsReady_iff (c : Core) (u : Sqr) (r : BitVec 4) :
    c.waitsReady u r = true ↔ ∀ k, waitsOn u r k = true → (c.tokens.get k).toks ≠ [] := by
  refine Iff.trans (forall_ringFifo (p := fun k => (c.tokens.get k).hasToken)) (forall₂_congr fun k _ => ?_)
  rw [TokenFifo.hasToken, Bool.not_eq_true', List.isEmpty_eq_false_iff]

theorem signalsReady_iff (c : Core) (u : Sqr) (r : BitVec 4) :
    c.signalsReady u r = true ↔ ∀ k, signalsTo u r k = true → (c.tokens.get k).toks.length + (c.tokens.get k).reserved < 32 := by
  refine Iff.trans (forall_ringFifo (p := fun k => (c.tokens.get k).hasPlace)) (forall₂_congr fun k _ => ?_)
  rw [TokenFifo.hasPlace, decide_eq_true_eq]
  rfl

/-! ### The tokens after a word -/

theorem tokens_advance (c : Core) (u : Sqr) (a : Nat) (k : Ctl) : (c.advance u a k).tokens = c.tokens := by
  cases k <;> cases u <;> rfl

theorem tokens_noteFetch (i : Instr) (b : State) (k : Ctl) (c : Core) : (noteFetch i b k c).tokens = c.tokens := by
  unfold noteFetch
  split <;> rfl

theorem tokens_retire {i : Instr} {b t : State} (hi : isHypOk i = false) :
    (retire i b .next t).core.tokens = (giveRing i b.unit b.hyp t).core.tokens := by
  simp only [retire, tokens_noteFetch, tokens_advance, hi]
  rfl

/-- With nothing of the sequencer outstanding the signals of a word push at once (R115). -/
theorem giveRing_quiet (i : Instr) (u : Sqr) (h : BitVec 8) {s : State} (hv : s.core.vpend = []) (hp : s.unitPending u = false) :
    (giveRing i u h s).core = s.core.giveSignals u i.ring h := by
  have hr : VRetire.ready ⟨s.core.vword, false, false, h, 0#6, false⟩ s.core.vpend = true := by rw [hv]; rfl
  simp only [giveRing, hr, hp, Bool.not_true, Bool.and_false, Bool.false_eq_true, if_false, Bool.and_eq_true, Bool.not_eq_true']
  split
  next h0 =>
    obtain ⟨hb, ha⟩ := h0
    simp only [Core.giveSignals, hb, ha]
    rfl
  next => rfl

/-! ### NOP -/

/-- Nothing but the ring keeps a NOP from issuing (R48, R83, R126, R387). -/
structure NopFree (s : State) (r : BitVec 4) : Prop where
  active : s.active = true
  entire : s.midWord = false
  legal : earlyFault (.nop r) s = none
  unstamped : stampState s = .free
  undivided : s.dividing (.nop r) = false
  unwindowed : s.unit = .ve → s.core.windowWaits = false

section
variable {s : State} {r : BitVec 4} (h : NopFree s r)
include h

theorem issueBlock_nop : issueBlock (.nop r) s =
    if !s.core.waitsReady s.unit r then some 0 else if !s.core.signalsReady s.unit r then some 1 else none := by
  have hw : (s.unit == .ve && s.core.windowWaits) = false := by
    rw [Bool.and_eq_false_imp, beq_iff_eq]
    exact h.unwindowed
  have hi : s.interlocked (.nop r) = false := rfl
  exact if_neg (by rw [hi, hw]; decide)

theorem nop_stands {c : Nat} (hb : issueBlock (.nop r) s = some c) : exec (.nop r) s = .next (noteBlocked s c) := by
  have hn : s.resumes (.nop r) = false := Bool.and_false _
  have hx : exec (.nop r) s = .next (issue (.nop r) .next s) := rfl
  rw [hx]
  simp only [issue, issueWith, h.active, h.entire, hn, h.legal, h.unstamped, h.undivided, hb, blockOrStamp]
  rfl

theorem nop_issues (hw : s.core.waitsReady s.unit r = true) (hs : s.core.signalsReady s.unit r = true) : issues s (.nop r) := by
  have hn : s.resumes (.nop r) = false := Bool.and_false _
  have hb : issueBlock (.nop r) s = none := by rw [issueBlock_nop h, hw, hs]; rfl
  refine ⟨?_, rfl⟩
  simp only [State.ready, h.active, h.entire, hn, h.legal, h.unstamped, h.undivided, hb]
  rfl

theorem nop_toks (hw : s.core.waitsReady s.unit r = true) (hs : s.core.signalsReady s.unit r = true) (hp : s.unitPending s.unit = false)
    (hv : s.core.vpend = []) (hq : s.core.vretire = []) : ∃ t, exec (.nop r) s = .next t
      ∧ ∀ k, (t.core.tokens.get k).toks = (if waitsOn s.unit r k then (s.core.tokens.get k).toks.tail else (s.core.tokens.get k).toks)
        ++ if signalsTo s.unit r k then [s.hyp] else [] := by
  have hx : exec (.nop r) s = .next (issue (.nop r) .next s) := rfl
  have hidle : stepAfter s.unit (takeRing (.nop r) s) = takeRing (.nop r) s := by
    unfold stepAfter
    rw [vStep_idle ((takeRing_vpend _ s).trans hv) ((takeRing_vretire _ s).trans hq)]
    exact ite_self _
  refine ⟨_, hx.trans (congrArg _ (issue_ready (nop_issues h hw hs))), fun k => ?_⟩
  have hgive := giveRing_quiet (.nop r) s.unit s.hyp ((takeRing_vpend (.nop r) s).trans hv) ((takeRing_unitPending (.nop r) s s.unit).trans hp)
  have htake : (takeRing (.nop r) s).core.tokens = (s.core.takeWaits s.unit r).tokens := by
    unfold takeRing
    split <;> rfl
  simp only [WordResult.next, finishWord, hidle]
  rw [tokens_retire rfl, hgive, toks_giveSignals, htake, toks_takeWaits]
  rfl

end

theorem hypOf_eq (c : Core) (u : Sqr) : c.hypOf u = if u = .cc then c.hyp else ((c.eng u).run.getD default).hyp := by
  have hrun (o : Option Command) : (match o with | some r => r.hyp | none => 0#8) = (o.getD default).hyp := by cases o <;> rfl
  cases u with
  | cc => rfl
  | _ => exact hrun _

/-- Settles O31: a NOP goes by its ring bits alone; its tokens pop before the word and push after it. -/
theorem ringTokens : Obligations.RingTokens := by
  intro s r u waitB waitA sigB sigA waits signals toks h free room
  have hh : h = s.hyp := (hypOf_eq s.core s.unit).symm
  have hfree (hf : free) : NopFree s r := by
    obtain ⟨ha, hm, he, hs, hd, hw⟩ := hf
    exact ⟨ha, hm, he, hs, hd, hw⟩
  have hready : s.core.waitsReady s.unit r = true ↔ ∀ k, waits k = true → toks s k ≠ [] := waitsReady_iff _ _ _
  have hplace : s.core.signalsReady s.unit r = true ↔ ∀ k, signals k = true → room k := signalsReady_iff _ _ _
  refine ⟨fun hf hw hs hp hk hv hq => ?_, fun hf hw => ?_, fun hf hw hs => ?_⟩
  · rw [hh]
    refine nop_toks (hfree hf) (hready.2 hw) (hplace.2 hs) ?_ hv hq
    rw [State.unitPending, State.storeInFlight, hp, hk]
    rfl
  · have hn : s.core.waitsReady s.unit r = false := by
      rw [← Bool.not_eq_true, hready]
      obtain ⟨k, hk, ht⟩ := hw
      exact fun h => h k hk ht
    exact nop_stands (hfree hf) (by rw [issueBlock_nop (hfree hf), hn]; rfl)
  · have hn : s.core.signalsReady s.unit r = false := by
      rw [← Bool.not_eq_true, hplace]
      obtain ⟨k, hk, ht⟩ := hs
      exact fun h => ht (h k hk)
    exact nop_stands (hfree hf) (by rw [issueBlock_nop (hfree hf), hready.2 hw, hn]; rfl)

end Sys2Proof.Proofs
end

section
/-! Hardware loops (R112). -/
namespace Sys2Proof.Proofs
open Sys2Proof.Machine Sys2Proof.Safety Sys2Proof.Laws

theorem engineStanding_of_standing {c d : Core} (h : standing c = standing d) {u : Sqr} (hu : u ≠ .cc) :
    engineStanding (c.eng u) = engineStanding (d.eng u) := by
  simp only [standing, Prod.mk.injEq, List.cons.injEq, and_true] at h
  obtain ⟨-, hae, hme, hse, hve⟩ := h
  cases u with
  | cc => exact absurd rfl hu
  | ae => exact hae
  | me => exact hme
  | se => exact hse
  | ve => exact hve

theorem eng_advance (c : Core) {u : Sqr} (hu : u ≠ .cc) (a : Nat) : (c.advance u a .next).eng u = (c.eng u).advance a (a + 4) := by
  cases u with
  | cc => exact absurd rfl hu
  | _ => rfl

theorem nop_advances {s : State} {r : BitVec 4} (hu : s.unit ≠ .cc) (h : issues s (.nop r)) : ∃ t, exec (.nop r) s = .next t
    ∧ engineStanding (t.core.eng s.unit) = engineStanding ((s.core.eng s.unit).advance s.baseAddr (s.baseAddr + 4)) := by
  obtain ⟨t, hx, -, hs⟩ := completes_of_ok (i := .nop r) (body := .next) rfl rfl h
  rw [standing_advance_same (sameUnits_takeRing _ _)] at hs
  exact ⟨t, hx, (engineStanding_of_standing hs hu).trans (congrArg engineStanding (eng_advance _ hu _))⟩

section
variable {e : Engine} {a n : Nat} {l : List Nat}

theorem loopsAt_elsewhere (h : (e.loops.get n).stop.toNat ≠ a) : loopsAt e a (n :: l) = loopsAt e a l := if_pos h

variable (h : (e.loops.get n).stop.toNat = a)
include h

theorem loopsAt_back (hc : (e.loops.get n).count ≠ 0#24) : loopsAt e a (n :: l) =
    ({ e with loops := e.loops.set n { e.loops.get n with count := (e.loops.get n).count - 1 } }, some (e.loops.get n).start.toNat) :=
  (if_neg (not_not.2 h)).trans (if_neg hc)

theorem loopsAt_over (hc : (e.loops.get n).count = 0#24) : loopsAt e a (n :: l) =
    loopsAt { e with loops := e.loops.set n { e.loops.get n with a := false }, loopOrder := e.loopOrder.filter (· != n) } a l :=
  (if_neg (not_not.2 h)).trans (if_pos hc)

end

/-- Settles O32: where the engine stands after a NOP is what `loopsAt` says of its loops, the most recently entered first. -/
theorem loopIteration : Obligations.LoopIteration := by
  intro s r n m hu hi hne e a after at' more
  obtain ⟨t, hx, ht⟩ := nop_advances hu hi
  have hafter {f : Engine → Prop} {l : List Nat} {x : Engine} {b : Option Nat} (ho : e.loopOrder = l) (hl : loopsAt e a l = (x, b))
      (hf : ∀ y : Engine, y.upc = b.getD (a + 4) → y.loops = x.loops → y.loopOrder = x.loopOrder → f y) : after f := by
    refine ⟨t, hx, ?_⟩
    have hadv : e.advance a (a + 4) = { x with upc := b.getD (a + 4) } := by simp only [Engine.advance, ho, hl]
    rw [hadv] at ht
    simp only [engineStanding, Prod.mk.injEq] at ht
    obtain ⟨hp, hloops, horder⟩ := ht
    exact hf _ hp hloops horder
  clear_value after
  have hother {k : Nat} (v : LoopReg) (h : k ≠ n) : (e.loops.set n v).get k = e.loops.get k := get_set_other _ _ h
  refine ⟨fun ho => hafter ho rfl fun y hp hl _ => ⟨hp, hl⟩,
    fun ho he => hafter ho (loopsAt_elsewhere he) fun y hp hl _ => ⟨hp, hl⟩,
    fun ho he hm => hafter ho (loopsAt_back he hm) fun y hp hl _ => ⟨hp, by rw [hl, get_set_same], fun k hk => by rw [hl, hother _ hk]⟩,
    fun ho he hm => hafter ho (loopsAt_over he (not_not.1 hm)) fun y hp hl ho' =>
      ⟨hp, by rw [hl, get_set_same], ?_, fun k hk => by rw [hl, hother _ hk]⟩,
    fun ho he he' hm hm' => ?_⟩
  · rw [ho', ho]
    simp
  · have hm_kept (v : LoopReg) : (e.loops.set n v).get m = e.loops.get m := hother v hne.symm
    have hl : loopsAt e a [n, m] = _ := (loopsAt_over he (not_not.1 hm)).trans
      (loopsAt_back ((congrArg (·.stop.toNat) (hm_kept _)).trans he') (mt (congrArg (·.count) (hm_kept _)).symm.trans hm'))
    refine hafter ho hl fun y hp hloops _ => ⟨?_, ?_, ?_⟩
    · exact hp.trans (congrArg (·.start.toNat) (hm_kept _))
    · rw [hloops, get_set_other _ _ hne, get_set_same]
    · rw [hloops, get_set_same, hm_kept]

end Sys2Proof.Proofs
end

section
/-! What fires after an access has been performed (R117, R149, R155, R162–R164): signals, fences, and the write-backs that fences wait for. -/
namespace Sys2Proof.Proofs
open Sys2Proof.Machine Sys2Proof.Safety Sys2Proof.Laws

/-! ### Write-backs go onto the fabric and change nothing else -/

/-- A device but for its fabric: packets, their numbers, the answers that are waited for, and dirty lines of other devices. -/
def offFabric (s : State) : State := { s with packets := [], flowSeq := [], packetId := 0, waiting := [], dirtyRemote := [] }

/-- What does not look at the fabric reads the same. -/
theorem same_of_offFabric {α : Type} {s t : State} (h : offFabric s = offFabric t) (f : State → α) (hf : ∀ s, f (offFabric s) = f s) :
    f s = f t :=
  (hf s).symm.trans ((congrArg f h).trans (hf t))

theorem offFabric_foldl {α : Type} {f : State → α → State} (hf : ∀ s a, offFabric (f s a) = offFabric s) (l : List α) (s : State) :
    offFabric (l.foldl f s) = offFabric s :=
  List.foldlRecOn l f (motive := fun t => offFabric t = offFabric s) rfl fun t h a _ => (hf t a).trans h

theorem offFabric_launchOne (s : State) (iod : Bool) (lnum : Nat) (p : Packet) : offFabric (s.launchOne iod lnum p).2 = offFabric s := by
  cases iod <;> rfl

theorem offFabric_sendFor (x : Source) (s : State) (dstDev dstLnum key : Nat) (req : Request) (kind : WaitKind) :
    offFabric (sendFor x s dstDev dstLnum key req kind).2 = offFabric s :=
  (offFabric_launchOne _ _ _ _).trans (offFabric_foldl (fun t p => offFabric_launchOne t _ _ p) _ s)

theorem offFabric_writeBackAt (die : Nat) (p : Nat → Bool) (s : State) : offFabric (writeBackAt die p s) = offFabric s := by
  unfold writeBackAt
  exact offFabric_foldl (fun t _ => offFabric_sendFor _ t _ _ _ _ _) _ s

theorem offFabric_writeBackDies (dies : List Nat) (p : Nat → Bool) (s : State) : offFabric (writeBackDies dies p s) = offFabric s :=
  offFabric_foldl (fun t die => offFabric_writeBackAt die p t) dies s

theorem offFabric_cleanFor (a : Access) (s : State) : offFabric (cleanFor a s) = offFabric s := by
  unfold cleanFor
  split
  · rfl
  · exact offFabric_writeBackDies _ _ s

/-! ### What signals and fences leave as they fire -/

/-- The accesses in flight, without the signals and fences among them. -/
def accessesOf (l : List Access) : List Access := l.filter (fun x => x.kind.isAccess)

/-- A core but for ring tokens, the marks of armed rows, what its instruction cache holds, and the signals and fences that wait. -/
def beside (c : Core) : Core := { c with tokens := [], smp := [], icache := default, pend := accessesOf c.pend }

/-- What reads nothing of these reads the same. -/
theorem same_of_beside {α : Type} {c d : Core} (h : beside c = beside d) (f : Core → α) (hf : ∀ c, f (beside c) = f c) : f c = f d :=
  (hf c).symm.trans ((congrArg f h).trans (hf d))

theorem reg_beside (u : Sqr) (n : Nat) (c : Core) : (beside c).reg u n = c.reg u n := by cases u <;> rfl

theorem beside_tokens (c : Core) (t : Tab TokenFifo) : beside { c with tokens := t } = beside c := rfl

theorem beside_fillSignals (c : Core) (u : Sqr) (sb sa : Bool) (h : BitVec 8) : beside (c.fillSignals u sb sa h) = beside c := by
  have hfill (c : Core) (i : Nat) : beside ((c.unreserveToken i).pushToken i h) = beside c :=
    (beside_tokens (c.unreserveToken i) _).trans (beside_tokens c _)
  unfold Core.fillSignals
  split <;> split <;> simp only [hfill]

theorem beside_markRows (m : Tab Byte) (pa n : Nat) (c : Core) : beside (c.markRows m pa n) = beside c := by
  unfold Core.markRows
  split <;> rfl

theorem beside_noteOwn (a : Access) (pa : Nat) (s : State) : beside (noteOwn a pa s).core = beside s.core := by
  unfold noteOwn
  split <;> rfl

theorem noteOwn_mem (a : Access) (pa : Nat) (s : State) : (noteOwn a pa s).mem = s.mem := by
  unfold noteOwn
  split <;> rfl

theorem noteOwn_lnum (a : Access) (pa : Nat) (s : State) : (noteOwn a pa s).lnum = s.lnum := by
  unfold noteOwn
  split <;> rfl

/-- Signals and fences leave the list, and no access does. -/
theorem drainList_accesses (ready : Access → Bool) (l kept : List Access) :
    accessesOf (drainList ready l kept).1 = accessesOf (kept.reverse ++ l) := by
  unfold accessesOf
  induction l generalizing kept with
  | nil => simp [drainList]
  | cons a l ih =>
    rw [drainList]
    split
    next h =>
      simp only [Bool.and_eq_true, Bool.not_eq_true'] at h
      obtain ⟨⟨ha, -⟩, -⟩ := h
      simp [ih, ha]
    next => simp [ih]

/-- The state that fires its signals and fences: the lines that fences wait for are written back (R149, R164). -/
def cleaned (s : State) : State := (sysFences s.core.pend []).foldl (fun s a => cleanFor a s) s

theorem offFabric_cleaned (s : State) : offFabric (cleaned s) = offFabric s := offFabric_foldl (fun t a => offFabric_cleanFor a t) _ s

theorem drain_mem (s : State) : (drain s).mem = s.mem := same_of_offFabric (offFabric_cleaned s) State.mem fun _ => rfl

theorem drain_lnum (s : State) : (drain s).lnum = s.lnum := same_of_offFabric (offFabric_cleaned s) State.lnum fun _ => rfl

theorem beside_foldl {α : Type} {f : Core → α → Core} (hf : ∀ c a, beside (f c a) = beside c) (l : List α) (c : Core) :
    beside (l.foldl f c) = beside c :=
  List.foldlRecOn l f (motive := fun d => beside d = beside c) rfl fun d h a _ => (hf d a).trans h

theorem beside_drain (s : State) : beside (drain s).core = beside s.core := by
  have hc : (cleaned s).core = s.core := same_of_offFabric (offFabric_cleaned s) State.core fun _ => rfl
  rw [← hc]
  refine (beside_foldl (fun c a => ?_) _ _).trans ?_
  · split
    · exact beside_fillSignals _ _ _ _ _
    · rfl
  · have hl := drainList_accesses (cleaned s).fires (cleaned s).core.pend []
    exact congrArg (fun l => { beside (cleaned s).core with pend := l }) hl

end Sys2Proof.Proofs
end

section
/-! The numbers that accesses leave in memory (R3, R143, R144). -/
namespace Sys2Proof.Proofs
open Sys2Proof.Machine Sys2Proof.Safety Sys2Proof.Laws

/-! ### What a write of memory leaves -/

theorem writeBytes_natToBytes (m : Tab Byte) (a n v : Nat) : writeBytes m a (natToBytes n v) = writeLE m a n v := by
  induction n generalizing m a v with
  | zero => rfl
  | succ n ih => exact ih _ _ _

theorem bytesToNat_readBytes (m : Tab Byte) (a n : Nat) : bytesToNat (readBytes m a n) = readLE m a n := by
  induction n generalizing a with
  | zero => rfl
  | succ n ih =>
    rw [readLE, ← ih, readBytes, List.range_succ_eq_map, List.map_cons, List.map_map, bytesToNat, readBytes]
    simp only [Function.comp_def, Nat.add_succ, Nat.succ_add, Nat.add_zero]

theorem two_pow_eight_mul (n : Nat) : 256 ^ n = 2 ^ (8 * n) := (pow_mul 2 8 n).symm

/-- `t` has the number `v` in the `n` bytes of memory from `pa`, and every other byte as in `s`. -/
def holdsAt (s t : State) (pa n v : Nat) : Prop :=
  readLE t.mem pa n = v ∧ ∀ y, ¬(pa ≤ y ∧ y < pa + n) → Tab.get t.mem y = Tab.get s.mem y

theorem holdsAt_writePhysLE (s : State) (pa n v : Nat) : holdsAt s (s.writePhysLE pa n v) pa n (v % 2 ^ (8 * n)) := by
  have hm : (s.writePhysLE pa n v).mem = writeLE s.mem pa n v := writeBytes_natToBytes _ _ _ _
  exact ⟨by rw [hm, readLE_writeLE, two_pow_eight_mul], fun y hy => by rw [hm, get_writeLE, if_neg hy]⟩

theorem beside_writePhys (s : State) (pa : Nat) (bs : List Byte) : beside (s.writePhys pa bs).core = beside s.core :=
  beside_markRows _ _ _ _

/-! ### Values: R143, R144 -/

theorem readLE_lt_width (m : Tab Byte) (a n : Nat) : readLE m a n < 2 ^ (8 * n) := two_pow_eight_mul n ▸ readLE_lt m a n

/-- A number of `n` bits below `2 ^ n`, read as two's complement. -/
def signedAt (n x : Nat) : Int := if x < 2 ^ n / 2 then x else x - (2 ^ n : Nat)

theorem sextNat_eq_signedAt {n x : Nat} (hn : 1 ≤ n) (hx : x < 2 ^ n) : sextNat n x = signedAt n x := by
  obtain ⟨k, rfl⟩ : ∃ k, n = k + 1 := ⟨n - 1, by omega⟩
  have hk : 2 ^ (k + 1) / 2 = 2 ^ k := by rw [pow_succ, Nat.mul_div_cancel _ two_pos]
  simp only [sextNat, signedAt, Nat.mod_eq_of_lt hx, Nat.add_sub_cancel, hk]

theorem sextNat_lt_iff {n x y : Nat} (hx : x < 2 ^ n) (hy : y < 2 ^ n) : sextNat n x < sextNat n y ↔ signedAt n x < signedAt n y := by
  obtain rfl | hn := Nat.eq_zero_or_pos n
  · obtain rfl : x = 0 := by omega
    obtain rfl : y = 0 := by omega
    rfl
  · rw [sextNat_eq_signedAt hn hx, sextNat_eq_signedAt hn hy]

theorem lowBytes_lt (w : Nat) (v : Word) : lowBytes w v < 2 ^ (8 * w) := Nat.mod_lt _ (by positivity)

section
variable {w old : Nat} (h : old < 2 ^ (8 * w)) (v c : Word)
include h

theorem amoNew_lt {op n : Nat} (hn : amoNew op w old v c = some n) : n < 2 ^ (8 * w) := by
  have hv := lowBytes_lt w v
  unfold amoNew at hn
  split at hn
  case h_1 => cases hn; exact hv
  case h_2 => cases hn; exact Nat.mod_lt _ (by positivity)
  case h_3 => cases hn; exact Nat.and_lt_two_pow _ hv
  case h_4 => cases hn; exact Nat.or_lt_two_pow h hv
  case h_5 => cases hn; exact Nat.xor_lt_two_pow h hv
  case h_6 | h_7 => cases hn; split <;> assumption
  case h_8 =>
    split at hn <;> cases hn
    exact hv

theorem amoNew_value (op : Nat) : (amoNew op w old v c).getD old =
    if op = 0 then lowBytes w v else if op = 1 then (old + lowBytes w v) % 2 ^ (8 * w) else if op = 2 then old &&& lowBytes w v
    else if op = 3 then old ||| lowBytes w v else if op = 4 then old ^^^ lowBytes w v
    else if op = 5 then (if signedAt (8 * w) old < signedAt (8 * w) (lowBytes w v) then lowBytes w v else old)
    else if op = 6 then (if signedAt (8 * w) (lowBytes w v) < signedAt (8 * w) old then lowBytes w v else old)
    else (if old = lowBytes w c then lowBytes w v else old) := by
  have hv := lowBytes_lt w v
  simp only [← sextNat_lt_iff h hv, ← sextNat_lt_iff hv h]
  match op with
  | 0 | 1 | 2 | 3 | 4 | 5 | 6 => rfl
  | n + 7 => exact apply_ite (fun o : Option Nat => o.getD old) _ _ _

theorem redNew_value (op : Nat) : redNew op w old v % 2 ^ (8 * w) =
    if op = 0 then (old + lowBytes w v) % 2 ^ (8 * w) else if op = 1 then old &&& lowBytes w v else if op = 2 then old ||| lowBytes w v
    else if op = 3 then old ^^^ lowBytes w v
    else if op = 4 then (if signedAt (8 * w) old < signedAt (8 * w) (lowBytes w v) then lowBytes w v else old)
    else if op = 5 then (if signedAt (8 * w) (lowBytes w v) < signedAt (8 * w) old then lowBytes w v else old)
    else if op = 6 then (f32.addC .rne old (lowBytes w v)).1 % 2 ^ (8 * w) else (f64.addC .rne old (lowBytes w v)).1 % 2 ^ (8 * w) := by
  have hv := lowBytes_lt w v
  simp only [← sextNat_lt_iff h hv, ← sextNat_lt_iff hv h]
  have hite (p : Prop) [Decidable p] : (if p then lowBytes w v else old) < 2 ^ (8 * w) := by split <;> assumption
  match op with
  | 0 => exact Nat.mod_mod _ _
  | 1 => exact Nat.mod_eq_of_lt (Nat.and_lt_two_pow _ hv)
  | 2 => exact Nat.mod_eq_of_lt (Nat.or_lt_two_pow h hv)
  | 3 => exact Nat.mod_eq_of_lt (Nat.xor_lt_two_pow h hv)
  | 4 | 5 => exact Nat.mod_eq_of_lt (hite _)
  | 6 => rfl
  | n + 7 => rfl

end

end Sys2Proof.Proofs
end

section
/-! Accesses of this device's memory, performed (R117, R123, R137, R140–R144). -/
namespace Sys2Proof.Proofs
open Sys2Proof.Machine Sys2Proof.Safety Sys2Proof.Laws

/-! ### One access -/

theorem holdsAt_amoPhys (s : State) (pa w op : Nat) (v c : Word) :
    holdsAt s (amoPhys s pa w op v c).2 pa w ((amoNew op w (readLE s.mem pa w) v c).getD (readLE s.mem pa w)) := by
  unfold amoPhys
  cases hn : amoNew op w (readLE s.mem pa w) v c with
  | none =>
    simp only [State.readPhys, hn]
    exact ⟨rfl, fun _ _ => rfl⟩
  | some n =>
    simp only [State.readPhys, hn]
    have hw := holdsAt_writePhysLE s pa w n
    rwa [Nat.mod_eq_of_lt (amoNew_lt (readLE_lt_width _ _ _) v c hn)] at hw

theorem amoPhys_lnum (s : State) (pa w op : Nat) (v c : Word) : (amoPhys s pa w op v c).2.lnum = s.lnum := by
  unfold amoPhys
  extract_lets old
  split <;> rfl

theorem beside_amoPhys (s : State) (pa w op : Nat) (v c : Word) : beside (amoPhys s pa w op v c).2.core = beside s.core := by
  unfold amoPhys
  extract_lets old
  split
  · exact beside_writePhys _ _ _
  · rfl

section
variable {s : State} {k va pa : Nat} {a : Access} (hm : s.core.mode = .running) (hk : s.core.pend[k]? = some a) (hc : s.canPerform k = true)
  (hp : a.place = .mem va pa) (hl : s.isLocal pa = true) (hs : s.mustSend a = false)
include hm hk hc hp hl hs

/-- A local access that finds no fault is performed (R123, R137). -/
theorem performNow_local {u : State} (hu : performLocal (s.dropPend k) a = .ok u) (hb : u.core.mode = s.core.mode) : performNow s k = drain u := by
  have hr : s.isRemote a = false := by rw [State.isRemote, hp]; simp [hl]
  have he : performEntry s k = .ok (drain u) := by
    simp only [performEntry, hk, hr, hu, Bool.false_eq_true, if_false]
    split
    next dies p hd =>
      simp only [State.mustSend, hd, bne_eq_false_iff_eq] at hs
      rw [hs]
      rfl
    next => rfl
  have hmode : (drain u).core.mode = .running := (same_of_beside (beside_drain u) (·.mode) fun _ => rfl).trans (hb.trans hm)
  simp only [performNow, hc, he, Bool.not_true, Bool.false_eq_true, if_false, resettle, hmode]

theorem exec_loadValueReturn {u : State} (hr : a.kind.returns = true) (hu : performLocal (s.dropPend k) a = .ok u) (hb : u.core.mode = s.core.mode)
    (hn : u.lnum = s.lnum) : exec (.loadValueReturn s.lnum k) s = .next (drain u) := by
  have hd := performNow_local hm hk hc hp hl hs hu hb
  have hx : exec (.loadValueReturn s.lnum k) s = execLoadValueReturn s.lnum k s := rfl
  rw [hx, execLoadValueReturn, within_focused] <;> simp only [hk, hr, hd, if_true]
  rw [drain_lnum, hn]

theorem exec_storePerformed {u : State} (ha : a.kind.isAccess = true) (hr : a.kind.returns = false) (hu : performLocal (s.dropPend k) a = .ok u)
    (hb : u.core.mode = s.core.mode) (hn : u.lnum = s.lnum) : exec (.storePerformed s.lnum k) s = .next (drain u) := by
  have hd := performNow_local hm hk hc hp hl hs hu hb
  have hx : exec (.storePerformed s.lnum k) s = execStorePerformed s.lnum k s := rfl
  rw [hx, execStorePerformed, within_focused] <;> simp only [hk, ha, hr, hd, Bool.not_false, Bool.and_true, if_true]
  rw [drain_lnum, hn]

end

section
variable {s : State} {va pa : Nat} {a : Access} (hp : a.place = .mem va pa) (hk : s.memMark pa a.size = none)
include hp hk

theorem accessMark_none : s.accessMark a = none := by rw [State.accessMark, hp]; exact hk

theorem performLocal_load (hh : a.hyp = 0#8) {sgn : Bool} (h : a.kind = .load sgn) :
    performLocal s a = .ok (s.returnValue a (readLE s.mem pa a.size)) := by
  rw [performLocal, accessMark_none hp hk, hp, h]
  simp only [hh]
  rw [← bytesToNat_readBytes]
  rfl

theorem performLocal_amo {op : Nat} {x c : Word} (h : a.kind = .amo op x c) :
    performLocal s a = .ok ((noteOwn a pa (amoPhys s pa a.size op x c).2).returnValue a (readLE s.mem pa a.size)) := by
  have ho : (amoPhys s pa a.size op x c).1 = readLE s.mem pa a.size := by
    unfold amoPhys
    extract_lets old
    split <;> rfl
  rw [performLocal, accessMark_none hp hk, hp, h, ← ho]

theorem performLocal_store (hh : a.hyp = 0#8) (h : a.kind = .store) :
    performLocal s a = .ok (noteOwn a pa (s.writePhysLE pa a.size a.data.toNat)).storeDone := by
  rw [performLocal, accessMark_none hp hk, hp, h]
  simp only [hh]
  rfl

theorem performLocal_red {op : Nat} {x : Word} (h : a.kind = .red op x) :
    performLocal s a = .ok (noteOwn a pa (redPhys s pa a.size op x)).storeDone := by
  rw [performLocal, accessMark_none hp hk, hp, h]

end

/-! ### What an access that has been performed has moved -/

theorem extend_eq (sgn : Bool) {n v : Nat} (hn : 1 ≤ n) (hv : v < 2 ^ (8 * n)) :
    extend sgn n v = if sgn then BitVec.ofInt 64 (signedAt (8 * n) v) else BitVec.ofNat 64 v := by
  rw [extend, sextNat_eq_signedAt (by omega) hv, Nat.mod_eq_of_lt hv]
  rfl

theorem accessesOf_beside (c : Core) : accessesOf (beside c).pend = accessesOf c.pend := by
  simp only [beside, accessesOf, List.filter_filter, Bool.and_self]

theorem reg_dropPend (s : State) (k : Nat) (u : Sqr) (n : Nat) : (s.dropPend k).core.reg u n = s.core.reg u n := by cases u <;> rfl
theorem reg_lowerLd (c : Core) (x : Nat) (u : Sqr) (n : Nat) : { c with cntLd := x }.reg u n = c.reg u n := by cases u <;> rfl
theorem reg_lowerSt (c : Core) (x : Nat) (u : Sqr) (n : Nat) : { c with cntSt := x }.reg u n = c.reg u n := by cases u <;> rfl

/-- A value has gone to register `n` of sequencer `u`, and ld has fallen. -/
def returned (s : State) (k : Nat) (u : Sqr) (n : Nat) (w : Word) (c : Core) : Prop :=
  c.reg u n = (if n = 0 then 0#64 else w) ∧ c.cntLd = s.core.cntLd - 1 ∧ c.cntSt = s.core.cntSt
    ∧ (∀ v m, v ≠ u ∨ m ≠ n → c.reg v m = s.core.reg v m) ∧ c.g = s.core.g ∧ c.pc = s.core.pc
    ∧ accessesOf c.pend = accessesOf (s.core.pend.eraseIdx k)

/-- A store is over, and st has fallen. -/
def storeOver (s : State) (k : Nat) (c : Core) : Prop :=
  c.cntSt = s.core.cntSt - 1 ∧ c.cntLd = s.core.cntLd ∧ (∀ v m, c.reg v m = s.core.reg v m) ∧ c.g = s.core.g ∧ c.pc = s.core.pc
    ∧ accessesOf c.pend = accessesOf (s.core.pend.eraseIdx k)

section
variable {s u : State} {k : Nat} {a : Access} (hu : beside u.core = beside (s.dropPend k).core)
include hu

theorem returned_drain {v : Nat} {w : Word} (hw : (u.returnValue a v).core = { u.core.setReg a.unit a.rd w with cntLd := u.core.cntLd - 1 }) :
    returned s k a.unit a.rd w (drain (u.returnValue a v)).core := by
  have hc := beside_drain (u.returnValue a v)
  rw [hw] at hc
  refine ⟨?_, ?_, ?_, fun x m h => ?_, ?_, ?_, ?_⟩
  · rw [same_of_beside hc (·.reg a.unit a.rd) (reg_beside _ _), reg_lowerLd]
    split
    next h => rw [h]; rfl
    next h => exact reg_setReg_same _ _ _ h
  · exact (same_of_beside hc (·.cntLd) fun _ => rfl).trans (congrArg (· - 1) (same_of_beside hu (·.cntLd) fun _ => rfl))
  · exact (same_of_beside hc (·.cntSt) fun _ => rfl).trans ((setReg_cntSt _ _ _ _).trans (same_of_beside hu (·.cntSt) fun _ => rfl))
  · rw [same_of_beside hc (·.reg x m) (reg_beside _ _), reg_lowerLd, reg_setReg_other _ _ h, same_of_beside hu (·.reg x m) (reg_beside _ _),
      reg_dropPend]
  · exact (same_of_beside hc (·.g) fun _ => rfl).trans ((setReg_g _ _ _ _).trans (same_of_beside hu (·.g) fun _ => rfl))
  · exact (same_of_beside hc (·.pc) fun _ => rfl).trans ((setReg_pc _ _ _ _).trans (same_of_beside hu (·.pc) fun _ => rfl))
  · have hset := congrArg accessesOf (setReg_pend u.core a.unit a.rd w)
    exact (same_of_beside hc (accessesOf ·.pend) accessesOf_beside).trans (hset.trans (same_of_beside hu (accessesOf ·.pend) accessesOf_beside))

theorem storeOver_drain : storeOver s k (drain u.storeDone).core := by
  have hc := beside_drain u.storeDone
  refine ⟨?_, ?_, fun x m => ?_, ?_, ?_, ?_⟩
  · exact (same_of_beside hc (·.cntSt) fun _ => rfl).trans (congrArg (· - 1) (same_of_beside hu (·.cntSt) fun _ => rfl))
  · exact (same_of_beside hc (·.cntLd) fun _ => rfl).trans (same_of_beside hu (·.cntLd) fun _ => rfl)
  · rw [same_of_beside hc (·.reg x m) (reg_beside _ _), State.storeDone, reg_lowerSt, same_of_beside hu (·.reg x m) (reg_beside _ _), reg_dropPend]
  · exact (same_of_beside hc (·.g) fun _ => rfl).trans (same_of_beside hu (·.g) fun _ => rfl)
  · exact (same_of_beside hc (·.pc) fun _ => rfl).trans (same_of_beside hu (·.pc) fun _ => rfl)
  · exact (same_of_beside hc (accessesOf ·.pend) accessesOf_beside).trans (same_of_beside hu (accessesOf ·.pend) accessesOf_beside)

end

/-! ### Loads, atomics, stores and reductions -/

section
variable {s : State} {k va pa : Nat} {a : Access} (hm : s.core.mode = .running) (hk : s.core.pend[k]? = some a) (hc : s.canPerform k = true)
  (hp : a.place = .mem va pa) (hl : s.isLocal pa = true) (hs : s.mustSend a = false)
include hm hk hc hp hl hs

theorem store_done {v : Nat} (ha : a.kind.isAccess = true) (hr : a.kind.returns = false)
    (hx : performLocal (s.dropPend k) a = .ok (noteOwn a pa ((s.dropPend k).writePhysLE pa a.size v)).storeDone) :
    ∃ t, exec (.storePerformed s.lnum k) s = .next t ∧ holdsAt s t pa a.size (v % 2 ^ (8 * a.size)) ∧ storeOver s k t.core := by
  have hu : beside (noteOwn a pa ((s.dropPend k).writePhysLE pa a.size v)).core = beside (s.dropPend k).core :=
    (beside_noteOwn _ _ _).trans (beside_writePhys _ _ _)
  refine ⟨_, exec_storePerformed hm hk hc hp hl hs ha hr hx (same_of_beside hu (·.mode) fun _ => rfl) (noteOwn_lnum _ _ _), ?_,
    storeOver_drain hu⟩
  have hw := holdsAt_writePhysLE (s.dropPend k) pa a.size v
  rw [holdsAt, drain_mem]
  simp only [State.storeDone, noteOwn_mem]
  exact hw

variable (hn : s.memMark pa a.size = none)
include hn

theorem load_returns (hh : a.hyp = 0#8) (h1 : 1 ≤ a.size) {sgn : Bool} (ha : a.kind = .load sgn) :
    ∃ t, exec (.loadValueReturn s.lnum k) s = .next t ∧ t.mem = s.mem ∧ returned s k a.unit a.rd
      (if sgn then BitVec.ofInt 64 (signedAt (8 * a.size) (readLE s.mem pa a.size)) else BitVec.ofNat 64 (readLE s.mem pa a.size)) t.core := by
  refine ⟨_, exec_loadValueReturn hm hk hc hp hl hs (by rw [ha]; rfl) (performLocal_load hp hn hh ha) (setReg_mode _ _ _ _) rfl,
    drain_mem _, returned_drain (u := s.dropPend k) rfl ?_⟩
  rw [← extend_eq sgn h1 (readLE_lt_width _ _ _)]
  simp only [State.returnValue, ha]
  rfl

theorem amo_returns (h1 : 1 ≤ a.size) {op : Nat} {x c : Word} (ha : a.kind = .amo op x c) : ∃ t, exec (.loadValueReturn s.lnum k) s = .next t
    ∧ holdsAt s t pa a.size ((amoNew op a.size (readLE s.mem pa a.size) x c).getD (readLE s.mem pa a.size))
    ∧ returned s k a.unit a.rd (BitVec.ofNat 64 (readLE s.mem pa a.size)) t.core := by
  have hu : beside (noteOwn a pa (amoPhys (s.dropPend k) pa a.size op x c).2).core = beside (s.dropPend k).core :=
    (beside_noteOwn _ _ _).trans (beside_amoPhys _ _ _ _ _ _)
  have hx := exec_loadValueReturn hm hk hc hp hl hs (by rw [ha]; rfl) (performLocal_amo (s := s.dropPend k) hp hn ha)
    ((setReg_mode _ _ _ _).trans (same_of_beside hu (·.mode) fun _ => rfl)) ((noteOwn_lnum _ _ _).trans (amoPhys_lnum _ _ _ _ _ _))
  refine ⟨_, hx, ?_, returned_drain hu ?_⟩
  · have hw := holdsAt_amoPhys (s.dropPend k) pa a.size op x c
    rw [holdsAt, drain_mem]
    simp only [State.returnValue, noteOwn_mem]
    exact hw
  · have he : extend false a.size (readLE (s.dropPend k).mem pa a.size) = BitVec.ofNat 64 (readLE s.mem pa a.size) :=
      extend_eq false h1 (readLE_lt_width _ _ _)
    simp only [State.returnValue, ha, he]

end

/-- Settles O21: a local access is performed by `performLocal`, and what fires after it touches no register and no memory. -/
theorem returningAccesses : Obligations.ReturningAccesses := by
  intro s k a va pa hm hk hc hp h1 hl hn hh hs old wide v sg new moved
  refine ⟨fun sgn ha => load_returns hm hk hc hp hl hs hn hh h1 ha, fun op x c ha => ?_⟩
  obtain ⟨t, hx, ⟨hv, hother⟩, hmoved⟩ := amo_returns hm hk hc hp hl hs hn h1 ha
  exact ⟨t, hx, hmoved, hv.trans (amoNew_value (readLE_lt_width _ _ _) _ _ _), hother⟩

/-- Settles O22: stores and reductions write one number, and what fires after them touches no register and no memory. -/
theorem storesPerformed : Obligations.StoresPerformed := by
  intro s k a va pa hm hk hc hp hl hn hh hs old wide v sg new done
  have hdone {n : Nat} (h : ∃ t, exec (.storePerformed s.lnum k) s = .next t ∧ holdsAt s t pa a.size n ∧ storeOver s k t.core) : done n := by
    obtain ⟨t, hx, ⟨hv, hother⟩, hst, hld, hreg, hg, hpc, hpend⟩ := h
    exact ⟨t, hx, hv, hother, hst, hld, hreg, hg, hpc, hpend⟩
  refine ⟨fun ha => hdone ?_, fun op x ha => hdone ?_⟩
  · exact store_done hm hk hc hp hl hs (by rw [ha]; rfl) (by rw [ha]; rfl) (performLocal_store (s := s.dropPend k) hp hn hh ha)
  · have hred : redNew op a.size old x % wide = new op x := redNew_value (readLE_lt_width _ _ _) _ _
    rw [← hred]
    exact store_done hm hk hc hp hl hs (by rw [ha]; rfl) (by rw [ha]; rfl) (performLocal_red (s := s.dropPend k) hp hn ha)

end Sys2Proof.Proofs
end

section
/-! Words that issue an access to memory: what the checks of R133, the rule of hypotheses and the counters make of it (R123, R299, R304,
R362). -/
namespace Sys2Proof.Proofs
open Sys2Proof.Machine Sys2Proof.Safety Sys2Proof.Laws

/-! ### What the checks leave to the rest of an issue -/

theorem unread_hyp : Unread State.hyp where
  setMem s m pa n := by simp only [State.hyp, State.setMem, Core.markRows]; split <;> rfl
  tlbs _ _ := rfl
  vers _ _ _ := rfl

theorem unread_dev : Unread State.dev where
  setMem _ _ _ _ := rfl
  tlbs _ _ := rfl
  vers _ _ _ := rfl

theorem checkMem_eq_translate {s : State} {va : Word} {align : Nat} (hc : canonical va = true) (ha : va.toNat % align = 0) (acc : AccKind) :
    checkMem s va align acc = translate s s.core.tenant va acc := by
  simp [checkMem, hc, ha]

theorem checkMem_error_of_not_canonical {va : Word} (hc : canonical va = false) (s : State) (align : Nat) (acc : AccKind) :
    checkMem s va align acc = .error ⟨0x05, 0x40 + 8 * acc, va⟩ := by
  simp [checkMem, hc, cPage]

theorem checkMem_error_of_misaligned {va : Word} {align : Nat} (hc : canonical va = true) (ha : va.toNat % align ≠ 0) (s : State)
    (acc : AccKind) : checkMem s va align acc = .error ⟨0x04, 0, va⟩ := by
  simp [checkMem, hc, ha, cAlign]

theorem Unread.checkMem {α : Type} {φ : State → α} (hφ : Unread φ) {s t : State} {va leaf : Word} {align pa : Nat} {acc : AccKind}
    (h : Machine.checkMem s va align acc = .ok (pa, leaf, t)) : φ t = φ s :=
  hφ.translate (ok_of_check (ok_of_check h))

/-! ### The access of a word -/

/-- A hypothesis forbids the access (R299, R143). -/
abbrev hypForbids (s : State) (so pa : Nat) (leaf : Word) : Prop :=
  s.hyp ≠ 0#8 ∧ (so = 2 ∨ (so = 1 ∧ (pteKind leaf = 0 ∨ paDev pa ≠ s.dev.toNat)))

section
variable {s : State} {va : Word} {acc : AccKind} {so : Nat} {a : Access}

theorem memWord_fault {f : Flt} (h : checkMem s va a.size acc = .error f) : memWord va acc so a s = .fault f := by
  simp only [memWord, h]

theorem memWord_mapped {pa : Nat} {leaf : Word} {t : State} (h : checkMem s va a.size acc = .ok (pa, leaf, t)) :
    memWord va acc so a s = if hypForbids s so pa leaf then .fault ⟨0x0D, 0, va⟩
      else if t.noRoom (a.withLeaf va pa leaf) = true then .blocked id 8
      else if t.tagRefuted (a.withLeaf va pa leaf) = true then .next t
      else .next (t.pushAccess (a.withLeaf va pa leaf)) := by
  have hforbids : (t.hyp ≠ 0#8 ∧ (so = 2 ∨ (so = 1 ∧ ((a.withLeaf va pa leaf).kindSO = true ∨ (!t.isLocal pa) = true))))
      = hypForbids s so pa leaf := by
    simp only [hypForbids, unread_hyp.checkMem h, State.isLocal, unread_dev.checkMem h, Access.withLeaf, beq_iff_eq, Bool.not_eq_true',
      beq_eq_false_iff_ne]
  simp only [memWord, h, hforbids, cHypso]

theorem pushAccess_eq (s : State) (h : a.kind.stores = !a.kind.returns) : s.pushAccess a = s.mapCore (fun c =>
    { c with pend := c.pend ++ [a], cntLd := c.cntLd + (if a.kind.returns then 1 else 0),
             cntSt := c.cntSt + (if a.kind.returns then 0 else 1) }) := by
  cases hr : a.kind.returns <;> simp only [State.pushAccess, h, hr] <;> rfl

end

/-! ### What the ring waits leave to an access -/

@[simp] theorem takeRing_access (i : Instr) (s : State) (k : AccessKind) (size rd : Nat) (v : Word) :
    (takeRing i s).access k size rd v = plainAccess s k size rd v := by
  simp only [State.access, takeRing_hyp]
  rw [takeRing_eq]
  rfl

theorem tenant_takeRing (i : Instr) (s : State) : (takeRing i s).core.tenant = s.core.tenant := by
  simp only [Core.tenant, takeRing_ctx]

theorem hypForbids_takeRing (i : Instr) (s : State) (so pa : Nat) (leaf : Word) :
    hypForbids (takeRing i s) so pa leaf = hypForbids s so pa leaf := by
  simp only [hypForbids, takeRing_hyp]
  rfl

/-- A word whose body issues an access does what R133 and R123 say of it. -/
theorem accesses_of_memWord {s : State} {i : Instr} {body : State → WordResult} {va : Word} {acc : AccKind} {so : Nat} {a : Access}
    (hx : issues s i → exec i s = .next (issue i body s)) (hb : body (takeRing i s) = memWord va acc so a (takeRing i s))
    (hk : a.kind.stores = !a.kind.returns) : accesses s i va acc so a := by
  have hfault {f : Flt} (hf : checkMem (takeRing i s) va a.size acc = .error f) : faults s i f :=
    fun h => exec_of_fault (hx h) (hb.trans (memWord_fault hf)) h
  refine ⟨fun hc => hfault (checkMem_error_of_not_canonical hc _ _ _), fun hc ha => hfault (checkMem_error_of_misaligned hc ha _ _),
    fun hc ha f hf => hfault ?_, fun hc ha pa leaf t ht => ?_⟩
  · rw [checkMem_eq_translate hc ha, tenant_takeRing]
    exact hf
  rw [← tenant_takeRing i, ← checkMem_eq_translate hc ha] at ht
  have hm := hb.trans (memWord_mapped ht)
  simp only [hypForbids_takeRing] at hm
  intro x forbidden
  refine ⟨fun hf h => exec_of_fault (hx h) (hm.trans (if_pos hf)) h, fun hf hn h => exec_of_blocked (hx h) (hm.trans ?_) h,
    fun hf hn hr h => completes_of_ok (hx h) (hm.trans ?_) h, fun hf hn hr h => completes_of_ok (hx h) (hm.trans ?_) h⟩
  · rw [if_neg hf, if_pos hn]
  · rw [if_neg hf, hn, if_neg Bool.false_ne_true, if_pos hr]; rfl
  · rw [if_neg hf, hn, if_neg Bool.false_ne_true, hr, if_neg Bool.false_ne_true]
    exact congrArg WordResult.next (pushAccess_eq (a := x) t hk)

end Sys2Proof.Proofs
end

section
/-! Loads and stores (R133, R140, R141). -/
namespace Sys2Proof.Proofs
open Sys2Proof.Machine Sys2Proof.Safety Sys2Proof.Laws

section
variable {s : State} {i : Instr} {size : Nat} {a : BitVec 5}

theorem loadWord_accesses {sgn : Bool} {d : BitVec 5} {m : BitVec 9} (hx : exec i s = loadWord i sgn size d a m s) :
    accesses s i (s.r5 a + BitVec.ofInt 64 (s.immS m * size)) 0 0 (plainAccess s (.load sgn) size d.toNat 0#64) := by
  refine accesses_of_memWord (fun _ => hx) ?_ rfl
  simp only [takeRing_r5, takeRing_immS, takeRing_access, wordOfInt]

theorem storeWord_accesses {b o : BitVec 5} (hx : exec i s = storeWord i size o a b s) :
    accesses s i (s.r5 a + BitVec.ofInt 64 (s.immS o * size)) 1 1 (plainAccess s .store size 0 (s.r5 b)) := by
  refine accesses_of_memWord (fun _ => hx) ?_ rfl
  simp only [takeRing_r5, takeRing_immS, takeRing_access, wordOfInt]

end

/-- Settles O16: each word is a load or a store of its size and extension, whose body is one access. -/
theorem loadsAndStores : Obligations.LoadsAndStores := by
  intro s r d a b o m g n at' ld to' st
  exact ⟨loadWord_accesses rfl, loadWord_accesses rfl, loadWord_accesses rfl, loadWord_accesses rfl, loadWord_accesses rfl,
    loadWord_accesses rfl, loadWord_accesses rfl, storeWord_accesses rfl, storeWord_accesses rfl, storeWord_accesses rfl,
    storeWord_accesses rfl⟩

end Sys2Proof.Proofs
end

section
/-! Words that issue with a check of their own or in some streams only (R47, R49), as the words of `issue` do. -/
namespace Sys2Proof.Proofs
open Sys2Proof.Machine Sys2Proof.Safety Sys2Proof.Laws

/-- A fault that a ready word's own check finds before the ring waits, whatever its guard. -/
theorem exec_of_pre {pre : State → Option Flt} {i : Instr} {body : State → WordResult} {s : State} {f : Flt}
    (hx : exec i s = .next (issueWith pre i body s)) (hr : s.ready i = true) (hp : pre s = some f) :
    exec i s = .next (faultOf s s.unit f) := by
  simp only [State.ready, Bool.and_eq_true, Bool.or_eq_true, Bool.not_eq_true', Option.isNone_iff_eq_none, beq_iff_eq] at hr
  obtain ⟨⟨⟨⟨⟨⟨ha, hm⟩, he⟩, hs⟩, hd⟩, hb⟩, hn⟩ := hr
  have hi : s.interlocked i = false := by
    by_contra hc
    simp [issueBlock, Bool.eq_true_of_not_eq_false hc] at hb
  rw [hx]
  simp only [issueWith, ha, hm, hn, he, Bool.not_true, Bool.false_eq_true, if_false]
  rcases hs with hs | hs <;> simp [hs, hd, hp, hi]

/-- The word of an instruction has the major of its row (R32). -/
theorem majorOf_of_layout {i : Instr} {r : BitVec 4} {m : Nat} {t : Layout} (hl : layout i = body r m t) :
    ∃ w, encode i = some w ∧ majorOf w = m := by
  have hw := encode_of_layout hl
  obtain ⟨l, hl', hin⟩ := (encode_eq_some_iff (encode_lt hw)).1 hw
  obtain rfl : _ = l := Option.some.inj (hl.symm.trans hl')
  exact ⟨_, hw, hin.2.1⟩

/-- A word does not issue in a sequencer whose stream has not its major (R48, R49). -/
theorem unit_ne_of_major {s : State} {i : Instr} {u : Sqr} {r : BitVec 4} {m : Nat} {t : Layout} (hl : layout i = body r m t)
    (hm : majorIn m u = false) (h : issues s i) : s.unit ≠ u := by
  rintro rfl
  obtain ⟨w, hw, rfl⟩ := majorOf_of_layout hl
  obtain ⟨-, he, -⟩ := of_issues h
  have hd : decodeCheck i s.unit s.pfx = some ⟨cStream, 3, 0#64⟩ := by
    simp [decodeCheck, hw, hm]
  rw [earlyFault_of_decodeCheck hd] at he
  cases he

/-- What a body says passes as it is outside the VE. -/
theorem steppedResult_of_ne_ve {u : Sqr} (hu : u ≠ .ve) (r : WordResult) :
    (match r with
      | .ok t k => .ok (stepAfter u t) k
      | r => r) = r := by
  cases r <;> simp [stepAfter, hu]

/-- Outside the VE, a word whose own check passes issues as a word without one. -/
theorem issueWith_eq_issue {pre : State → Option Flt} {i : Instr} {body : State → WordResult} {s : State} (hp : pre s = none)
    (hu : s.unit ≠ .ve) (h : issues s i) : issueWith pre i body s = issue i body s :=
  (issueWith_ready h hp).trans ((issue_ready h).trans (congrArg (finishWord i s) (steppedResult_of_ne_ve hu _))).symm

end Sys2Proof.Proofs
end

section
/-! Atomics and reductions (R143–R145, R158). -/
namespace Sys2Proof.Proofs
open Sys2Proof.Machine Sys2Proof.Safety Sys2Proof.Laws

theorem calmFault_eq_some {s : State} (h : s.core.calm = true) : calmFault s = some ⟨0x0B, 0, 0#64⟩ := by
  simp [calmFault, h, cCalm]

@[simp] theorem takeRing_extM (i : Instr) (s : State) : (takeRing i s).extM = s.extM := by
  simp only [State.extM, takeRing_pfx]

section
variable {s : State} {i : Instr} {op : Nat} {a b : BitVec 5}

section
variable {acq rel : Bool} {sc w : Nat} (hm : s.extM = (acq, rel, sc, w))
include hm

theorem amoWord_accesses {pro : Bool} {d : BitVec 5} (hx : exec i s = amoWord pro i op d a b s) (hu : issues s i → s.unit ≠ .ve)
    (hc : s.core.calm = false) : accesses s i (s.r5 a) 3 2
      { plainAccess s (.amo op (s.r5 b) (s.r5 d)) w d.toNat 0#64 with acq := acq, rel := rel, scope := sc, promote := pro } := by
  refine accesses_of_memWord (fun h => hx.trans (congrArg _ (issueWith_eq_issue (calmFault_eq_none hc) (hu h) h))) ?_ rfl
  simp only [takeRing_r5, takeRing_extM, takeRing_access, hm]

/-- The floating reductions have a size of their own; the others have that of EXT.M and do not mind Calm mode (R144). -/
theorem redWord_accesses {size : Nat} (hs : (if op = 6 then 4 else if op = 7 then 8 else w) = size) (hc : op < 6 ∨ s.core.calm = false)
    (hx : exec i s = redWord i op a b s) (hu : issues s i → s.unit ≠ .ve) : accesses s i (s.r5 a) 3 2
      { plainAccess s (.red op (s.r5 b)) size 0 0#64 with acq := acq, rel := rel, scope := sc } := by
  subst hs
  have hp : (if 6 ≤ op then calmFault s else none) = none := by
    split
    next h => exact calmFault_eq_none (hc.resolve_left (not_lt.2 h))
    next => rfl
  refine accesses_of_memWord (fun h => hx.trans (congrArg _ (issueWith_eq_issue hp (hu h) h))) ?_ rfl
  simp only [takeRing_r5, takeRing_extM, takeRing_access, hm]

end

variable (hc : s.core.calm = true) (hr : s.ready i = true)
include hc hr

theorem amoWord_calm {pro : Bool} {d : BitVec 5} (hx : exec i s = amoWord pro i op d a b s) :
    exec i s = .next (faultOf s s.unit ⟨0x0B, 0, 0#64⟩) :=
  exec_of_pre hx hr (calmFault_eq_some hc)

theorem redWord_calm (h6 : 6 ≤ op) (hx : exec i s = redWord i op a b s) : exec i s = .next (faultOf s s.unit ⟨0x0B, 0, 0#64⟩) :=
  exec_of_pre hx hr ((if_pos h6).trans (calmFault_eq_some hc))

end

/-- Settles O17: order, scope and width are those of `State.extM`; only the CC and the AE have these words, so no step of the VE
follows. -/
theorem atomicsAndReductions : Obligations.AtomicsAndReductions := by
  intro s r g n d a b m w acq rel sc ordered promoting amo pro red fadd
  have hm : s.extM = (acq, rel, sc, w) := by
    simp only [State.extM, acq, rel, sc, w, m]
    cases s.pfx.extM <;> rfl
  have hamo {i : Instr} {op : Nat} {p : Bool} (hx : exec i s = amoWord p i op d a b s) (hu : issues s i → s.unit ≠ .ve) :
      promoting i op p :=
    ⟨amoWord_accesses hm hx hu, fun hc hr => amoWord_calm hc hr hx⟩
  have hint {i : Instr} {op : Nat} (h6 : op < 6) (hs : (if op = 6 then 4 else if op = 7 then 8 else w) = w)
      (hx : exec i s = redWord i op a b s) (hu : issues s i → s.unit ≠ .ve) : red i op w :=
    redWord_accesses hm hs (.inl h6) hx hu
  have hfadd {i : Instr} {op size : Nat} (h6 : 6 ≤ op) (hs : (if op = 6 then 4 else if op = 7 then 8 else w) = size)
      (hx : exec i s = redWord i op a b s) (hu : issues s i → s.unit ≠ .ve) : fadd i op size :=
    ⟨fun hc => redWord_accesses hm hs (.inr hc) hx hu, fun hc hr => redWord_calm hc hr h6 hx⟩
  refine ⟨hamo rfl ?_, hamo rfl ?_, hamo rfl ?_, hamo rfl ?_, hamo rfl ?_, hamo rfl ?_, hamo rfl ?_, hamo rfl ?_, hamo rfl ?_,
    hamo rfl ?_, hamo rfl ?_, hint (by decide) rfl rfl ?_, hint (by decide) rfl rfl ?_, hint (by decide) rfl rfl ?_, hint (by decide) rfl rfl ?_,
    hint (by decide) rfl rfl ?_, hint (by decide) rfl rfl ?_, hfadd (by decide) rfl rfl ?_, hfadd (by decide) rfl rfl ?_⟩
  all_goals exact unit_ne_of_major rfl rfl

end Sys2Proof.Proofs
end

section
/-! Buffer words (R131, R132, R142). -/
namespace Sys2Proof.Proofs
open Sys2Proof.Machine Sys2Proof.Safety Sys2Proof.Laws

/-! ### The checks of R131 -/

/-- The first check of R131 that fails for `size` bytes at the buffer address `b` answers `f`. -/
abbrev bufRefuses (c : Core) (u : Sqr) (b : Word) (size : Nat) (write : Bool) (hyp : BitVec 8) (f : Flt) : Prop :=
  if 2 ^ 32 ≤ b.toNat then f = ⟨0x03, 0x11, b⟩
  else if bufRight u (bufSpace b.toNat) write = false then f = ⟨0x03, 0x12, b⟩
  else if bufSpace b.toNat < 8 then
    (if spaceSize (bufSpace b.toNat) < bufOff b.toNat + size then f = ⟨0x03, 0x13, b⟩
     else if bufOff b.toNat % size ≠ 0 then f = ⟨0x04, 0, b⟩ else c.bufMark (bufSpace b.toNat) (bufOff b.toNat) size = some f)
  else checkWin c (bufSpace b.toNat - 8) (bufOff b.toNat) size size (if write then hyp else 0#8) b = .error f

theorem bits_high_ne_zero (b : Word) : bits b 63 32 ≠ 0 ↔ 2 ^ 32 ≤ b.toNat := by
  have := b.isLt
  unfold bits
  omega

theorem check_eq_error_iff {ε α : Type} {c : Prop} [Decidable c] {e f : ε} {r : Except ε α} :
    (if c then .error e else r) = .error f ↔ if c then f = e else r = .error f := by
  split
  · rw [Except.error.injEq, eq_comm]
  · rfl

theorem checkBuf_error_iff {c : Core} {u : Sqr} {b : Word} {size : Nat} {write : Bool} {hyp : BitVec 8} {f : Flt} :
    checkBuf c u b size size write hyp = .error f ↔ bufRefuses c u b size write hyp f := by
  simp only [checkBuf, bufRefuses, check_eq_error_iff, bits_high_ne_zero, Bool.not_eq_true', cBufacc]
  by_cases h8 : bufSpace b.toNat < 8
  · cases hm : c.bufMark (bufSpace b.toNat) (bufOff b.toNat) size <;>
      simp only [if_neg (not_le.2 h8), if_pos h8, check_eq_error_iff, gt_iff_lt, cAlign, Except.error.injEq, Option.some.injEq,
        reduceCtorEq]
  · simp only [if_pos (not_lt.1 h8), if_neg h8]

theorem checkBuf_ok {c : Core} {u : Sqr} {b : Word} {size : Nat} {write : Bool} {hyp : BitVec 8}
    (h : ∀ f, ¬bufRefuses c u b size write hyp f) : checkBuf c u b size size write hyp = .ok () := by
  cases hc : checkBuf c u b size size write hyp with
  | ok => rfl
  | error f => exact absurd (checkBuf_error_iff.1 hc) (h f)

theorem checkBuf_takeRing (i : Instr) (s : State) (b : Word) (size : Nat) (write : Bool) (hyp : BitVec 8) :
    checkBuf (takeRing i s).core (takeRing i s).unit b size size write hyp = checkBuf s.core s.unit b size size write hyp := by
  rw [takeRing_eq]
  rfl

/-! ### The access of a buffer word -/

/-- The buffer address of a word (R142). -/
abbrev bufAddr (s : State) (size : Nat) (a : BitVec 5) (m : BitVec 9) : Word := s.r5 a + BitVec.ofInt 64 (s.immS m * size)

/-- The access of a buffer word at `b`. -/
abbrev bufAccess (s : State) (k : AccessKind) (size rd : Nat) (b v : Word) : Access :=
  { plainAccess s k size rd v with place := .buf (bufSpace b.toNat) (bufOff b.toNat), kindSO := true }

theorem noRoom_of_returns {x : Access} (h : x.kind.returns = true) (s : State) : s.noRoom x = decide (65535 ≤ s.core.cntLd) :=
  if_pos h

theorem noRoom_inBuf {x : Access} {space : Nat} (h : x.kind.returns = false) (h8 : space < 8) (s : State) (off : Nat) (v : Word) :
    s.noRoom (x.inBuf space off v) = decide (65535 ≤ s.core.cntSt) := by
  have hr : s.isRemote (x.inBuf space off v) = false := decide_eq_false (not_le.2 h8)
  have hk : ¬(x.inBuf space off v).kind.returns = true := (Bool.not_eq_true _).symm ▸ h
  rw [State.noRoom, if_neg hk, hr, Bool.false_and, Bool.or_false, counterMax]

/-! ### Loads -/

section
variable {s : State} {i : Instr} {size : Nat} {d a : BitVec 5} {m : BitVec 9} (hx : exec i s = bufLoad i size d a m s)
include hx

theorem bufLoad_faults {f : Flt} (h : bufRefuses s.core s.unit (bufAddr s size a m) size false s.hyp f) : faults s i f := by
  refine exec_of_fault hx ?_
  simp only [takeRing_r5, takeRing_immS, takeRing_hyp, checkBuf_takeRing, wordOfInt, checkBuf_error_iff.2 h]

variable (h : ∀ f, ¬bufRefuses s.core s.unit (bufAddr s size a m) size false s.hyp f)
include h

theorem bufLoad_blocks (hn : 65535 ≤ s.core.cntLd) : blocks s i 8 := by
  refine exec_of_blocked hx ?_
  simp only [takeRing_r5, takeRing_immS, takeRing_hyp, checkBuf_takeRing, wordOfInt, checkBuf_ok h]
  exact if_pos ((noRoom_of_returns rfl _).trans (decide_eq_true (by rwa [takeRing_cntLd])))

theorem bufLoad_does (hn : s.core.cntLd < 65535) : does s i (fun t => t.mapCore (fun c => { c with
    pend := c.pend ++ [bufAccess s (.load false) size d.toNat (bufAddr s size a m)
      (if 8 ≤ bufSpace (bufAddr s size a m).toNat then c.win.get (bufSpace (bufAddr s size a m).toNat - 8) else 0#64)],
    cntLd := c.cntLd + 1 })) := by
  refine completes_of_ok hx ?_
  simp only [takeRing_r5, takeRing_immS, takeRing_hyp, checkBuf_takeRing, wordOfInt, checkBuf_ok h, takeRing_access]
  rw [noRoom_of_returns rfl, takeRing_cntLd, decide_eq_false (not_le.2 hn)]
  rfl

end

/-! ### Posted writes through a window: R132, R362 -/

theorem ordered_eq_false {s : State} (h : ∀ x ∈ s.core.pend, x.unit = s.unit → x.kind ≠ .fence ∧ x.acq = false) :
    s.ordered = false := by
  simp only [State.ordered, List.any_eq_false, Bool.and_eq_true, Bool.or_eq_true, beq_iff_eq, not_and, not_or, Bool.not_eq_true]
  exact h

theorem bufPending_eq_false {s : State} (h : ∀ x ∈ s.core.pend, x.unit = s.unit → x.pid = 0 → ∀ m o, x.place ≠ .buf m o) :
    s.bufPending = false := by
  simp only [State.bufPending, List.any_eq_false, Bool.and_eq_true, beq_iff_eq, not_and, and_imp]
  intro x hx hu hp
  cases hpl : x.place with
  | buf m o => exact absurd hpl (h x hx hu hp m o)
  | _ => exact Bool.false_ne_true

section
variable {s : State} {k off : Nat} {bs : List Byte}

theorem postWindow_waits (h : s.core.winRoom k = false ∨ 65535 ≤ s.core.cntSt) : postWindow s k off bs = .blocked id 8 := by
  refine if_pos ?_
  obtain h | h := h <;> simp [h, counterMax]

theorem postWindow_sends (hw : s.core.winRoom k = true) (ho : s.ordered = false) (hb : s.bufPending = false) (hc : s.core.cntSt < 65535) :
    postWindow s k off bs = .next (send (s.mapCore (fun c => { c.addOut k with cntSt := c.cntSt + 1 }))
      (winDev (s.core.win.get k)) (winLnum (s.core.win.get k)) (winKey (s.core.win.get k)) (.winWrite (winSpace (s.core.win.get k)) off bs none)
      (.window k true)).2 := by
  refine if_neg ?_
  simp [hw, ho, hb, counterMax, not_le.2 hc]

end

@[simp] theorem takeRing_win (i : Instr) (s : State) : (takeRing i s).core.win = s.core.win := by rw [takeRing_eq]

@[simp] theorem takeRing_winRoom (i : Instr) (s : State) (k : Nat) : (takeRing i s).core.winRoom k = s.core.winRoom k := by
  rw [takeRing_eq]
  rfl

@[simp] theorem takeRing_ordered (i : Instr) (s : State) : (takeRing i s).ordered = s.ordered := by
  simp only [State.ordered, takeRing_pend, takeRing_unit]

@[simp] theorem takeRing_bufPending (i : Instr) (s : State) : (takeRing i s).bufPending = s.bufPending := by
  simp only [State.bufPending, takeRing_pend, takeRing_unit]

/-! ### Stores -/

section
variable {s : State} {i : Instr} {size : Nat} {d a : BitVec 5} {m : BitVec 9} (hx : exec i s = bufStore i size d a m s)
include hx

theorem bufStore_faults {f : Flt} (h : bufRefuses s.core s.unit (bufAddr s size a m) size true s.hyp f) : faults s i f := by
  refine exec_of_fault hx ?_
  simp only [takeRing_r5, takeRing_immS, takeRing_hyp, checkBuf_takeRing, wordOfInt, checkBuf_error_iff.2 h]

variable (h : ∀ f, ¬bufRefuses s.core s.unit (bufAddr s size a m) size true s.hyp f)
include h

section
variable (h8 : bufSpace (bufAddr s size a m).toNat < 8)
include h8

theorem bufStore_local_blocks (hn : 65535 ≤ s.core.cntSt) : blocks s i 8 := by
  refine exec_of_blocked hx ?_
  simp only [takeRing_r5, takeRing_immS, takeRing_hyp, checkBuf_takeRing, wordOfInt, checkBuf_ok h, if_neg (not_le.2 h8)]
  exact if_pos ((noRoom_inBuf rfl h8 _ _ _).trans (decide_eq_true (by rwa [takeRing_cntSt])))

theorem bufStore_local_does (hn : s.core.cntSt < 65535) : does s i (fun t => t.mapCore (fun c => { c with
    pend := c.pend ++ [bufAccess s .store size 0 (bufAddr s size a m) (t.r5 d)], cntSt := c.cntSt + 1 })) := by
  refine completes_of_ok hx ?_
  simp only [takeRing_r5, takeRing_immS, takeRing_hyp, checkBuf_takeRing, wordOfInt, checkBuf_ok h, takeRing_access, if_neg (not_le.2 h8)]
  rw [noRoom_inBuf rfl h8, takeRing_cntSt, decide_eq_false (not_le.2 hn)]
  rfl

end

section
variable (h8 : 8 ≤ bufSpace (bufAddr s size a m).toNat)
include h8

theorem bufStore_window_blocks
    (hn : s.core.winRoom (bufSpace (bufAddr s size a m).toNat - 8) = false ∨ 65535 ≤ s.core.cntSt) : blocks s i 8 := by
  refine exec_of_blocked hx ?_
  simp only [takeRing_r5, takeRing_immS, takeRing_hyp, checkBuf_takeRing, wordOfInt, checkBuf_ok h, if_pos h8]
  exact postWindow_waits (by simpa only [takeRing_winRoom, takeRing_cntSt] using hn)

theorem bufStore_window_does {k : Nat} {w : Word} (hk : bufSpace (bufAddr s size a m).toNat - 8 = k) (hw : s.core.win.get k = w)
    (hr : s.core.winRoom k = true) (hn : s.core.cntSt < 65535) (ho : s.ordered = false) (hb : s.bufPending = false) :
    does s i (fun t => (send (t.mapCore (fun c => { c.addOut k with cntSt := c.cntSt + 1 })) (winDev w) (winLnum w) (winKey w)
      (.winWrite (winSpace w) (bufOff (bufAddr s size a m).toNat) (natToBytes size (t.r5 d).toNat) none) (.window k true)).2) := by
  subst hk hw
  refine completes_of_ok hx ?_
  simp only [takeRing_r5, takeRing_immS, takeRing_hyp, checkBuf_takeRing, wordOfInt, checkBuf_ok h, if_pos h8]
  rw [postWindow_sends (by rwa [takeRing_winRoom]) (by rwa [takeRing_ordered]) (by rwa [takeRing_bufPending])
    (by rwa [takeRing_cntSt]), takeRing_win]
  rfl

end

theorem bufStore_blocks (hn : 65535 ≤ s.core.cntSt) : blocks s i 8 := by
  obtain h8 | h8 := lt_or_ge (bufSpace (bufAddr s size a m).toNat) 8
  · exact bufStore_local_blocks hx h h8 hn
  · exact bufStore_window_blocks hx h h8 (.inr hn)

end

/-- Settles O19: a load is one access; a store is one to a local buffer and a packet through a window, by the space of its address. -/
theorem bufferAccesses : Obligations.BufferAccesses := by
  intro s r d a m at' bad good space off acc ld st
  have hld {i : Instr} {size : Nat} (hx : exec i s = bufLoad i size d a m s) : ld i size :=
    ⟨fun _ => bufLoad_faults hx, bufLoad_blocks hx, bufLoad_does hx⟩
  have hst {i : Instr} {size : Nat} (hx : exec i s = bufStore i size d a m s) : st i size := by
    refine ⟨fun _ => bufStore_faults hx, bufStore_blocks hx, bufStore_local_does hx,
      fun h h8 hn hq => ⟨fun hw => ?_, fun hw => ?_⟩⟩
    · have ho : s.ordered = false := ordered_eq_false fun x hm hu => by
        obtain ⟨hk, ha, -⟩ := hq x hm hu
        exact ⟨hk, ha⟩
      have hb : s.bufPending = false := bufPending_eq_false fun x hm hu => by
        obtain ⟨-, -, hp⟩ := hq x hm hu
        exact hp
      exact bufStore_window_does hx h h8 rfl rfl (decide_eq_true hw) hn ho hb
    · exact bufStore_window_blocks hx h h8 (.inl (decide_eq_false (not_lt.2 hw)))
  exact ⟨hld rfl, hld rfl, hld rfl, hld rfl, hst rfl, hst rfl, hst rfl, hst rfl⟩

end Sys2Proof.Proofs
end

section
/-! Acquiring loads, releasing stores and FENCE (R149, R155–R157, R162–R164). -/
namespace Sys2Proof.Proofs
open Sys2Proof.Machine Sys2Proof.Safety Sys2Proof.Laws

/-! ### An order that has nothing to wait for -/

/-- Nothing of the core in focus is on its way: no vector write, no packet without its answer, no dirty line of another device. -/
def nothingSent (s : State) : Prop := s.core.vpend = [] ∧ s.waiting = [] ∧ s.dirtyRemote = []

/-- The access joins those in flight and raises no counter, as that of a fence does not (R123). -/
abbrev withPend (a : Access) (s : State) : State := s.mapCore (fun c => { c with pend := c.pend ++ [a] })

theorem nothingSent_takeRing (i : Instr) (s : State) : nothingSent (takeRing i s) = nothingSent s := by
  rw [nothingSent, takeRing_vpend]
  rfl

section
variable {s : State} (h : nothingSent s)
include h

theorem storeInFlight_of_nothingSent (u : Sqr) : s.storeInFlight u = false := by
  obtain ⟨-, hw, -⟩ := h
  rw [State.storeInFlight, hw, List.any_nil]

theorem sendable_of_nothingSent (die : Nat) (p : Nat → Bool) : s.sendable die p = [] := by
  obtain ⟨-, -, hd⟩ := h
  simp only [State.sendable, State.dirtyOf, hd, List.filter_nil]

theorem cleaning_of_nothingSent (dies : List Nat) (p : Nat → Bool) : s.cleaning dies p = .clean := by
  simp only [State.cleaning, sendable_of_nothingSent h, List.isEmpty_nil, Bool.not_true]
  obtain ⟨-, hw, hd⟩ := h
  simp [State.dirtyAny, State.dirtyOf, State.leavingAny, hw, hd]

/-- Only a PROMOTE form looks at what other cores have posted (R151). -/
theorem postedWait_of_nothingSent {a : Access} (hp : a.promote = false) : s.postedWait a = false := by
  obtain ⟨hv, hw, -⟩ := h
  simp [State.postedWait, State.postedOf, hp, hv, hw]

theorem mustSend_of_nothingSent (a : Access) : s.mustSend a = false := by
  unfold State.mustSend
  split
  · rfl
  · rw [cleaning_of_nothingSent h]
    rfl

theorem sysReady_of_nothingSent {a : Access} (hp : a.promote = false) : s.sysReady a = true := by
  rw [State.sysReady, postedWait_of_nothingSent h hp]
  split
  · rfl
  · rw [cleaning_of_nothingSent h]
    rfl

theorem fires_of_nothingSent {a : Access} (hp : a.promote = false) : s.fires a = true := by
  unfold State.fires
  split
  · rw [storeInFlight_of_nothingSent h, postedWait_of_nothingSent h hp, Bool.not_false, Bool.or_true]
    split
    · rfl
    · rw [cleaning_of_nothingSent h]
      rfl
  · rw [storeInFlight_of_nothingSent h]
    rfl

theorem writeBackAt_of_nothingSent (die : Nat) (p : Nat → Bool) : writeBackAt die p s = s := by
  have hf (q : Nat × DirtyByte → Bool) : s.dirtyRemote.filter q = s.dirtyRemote := by
    obtain ⟨-, -, hd⟩ := h
    rw [hd, List.filter_nil]
  simp only [writeBackAt, sendable_of_nothingSent h, dirtyRuns, List.foldl_nil, hf]

theorem cleanFor_of_nothingSent (a : Access) : cleanFor a s = s := by
  unfold cleanFor
  split
  · rfl
  next dies p _ =>
    exact List.foldlRecOn dies _ (motive := (· = s)) rfl fun _ ht die _ => ht ▸ writeBackAt_of_nothingSent h die p

theorem cleaned_of_nothingSent : cleaned s = s :=
  List.foldlRecOn _ _ (motive := (· = s)) rfl fun _ ht a _ => ht ▸ cleanFor_of_nothingSent h a

/-- A fence that stands alone has nothing to wait for (R155). -/
theorem drain_fence {a : Access} (hs : s.core.pend = [a]) (hk : a.kind = .fence) (hp : a.promote = false) :
    drain s = s.mapCore (fun c => { c with pend := [] }) := by
  have hc : (sysFences [a] []).foldl (fun s a => cleanFor a s) s = s := hs ▸ cleaned_of_nothingSent h
  have hl : drainList s.fires [a] [] = ([], [a]) := by
    simp [drainList, hk, AccessKind.isAccess, fires_of_nothingSent h hp]
  simp only [drain, hs, hc, hl, List.foldl_cons, List.foldl_nil, hk]
  rfl

/-- A fence that joins an empty list leaves it at once. -/
theorem drain_withFence {a : Access} (hs : s.core.pend = []) (hk : a.kind = .fence) (hp : a.promote = false) : drain (withPend a s) = s := by
  rw [drain_fence (s := withPend a s) h (congrArg (· ++ [a]) hs) hk hp, State.mapCore, ← hs]
  rfl

end

/-! ### The words -/

theorem acqWord_accesses {s : State} {i : Instr} {a d : BitVec 5} {sc : BitVec 3} {acq rel pro : Bool} {o w : Nat}
    (hm : s.extM = (acq, rel, o, w)) (hx : exec i s = acqWord pro i d a sc s) : accesses s i (s.r5 a) 0 0
      { plainAccess s (.load false) w d.toNat 0#64 with acq := true, scope := sc.toNat, promote := pro } := by
  refine accesses_of_memWord (fun _ => hx) ?_ rfl
  simp only [takeRing_r5, takeRing_extM, takeRing_access, hm]

theorem stRel_accesses {s : State} {r : BitVec 4} {g : BitVec 3} {n : BitVec 1} {a b : BitVec 5} {sc : BitVec 3} {acq rel : Bool} {o w : Nat}
    (hm : s.extM = (acq, rel, o, w)) : accesses s (.stRel r g n sc a b) (s.r5 a) 1 1
      { plainAccess s .store w 0 (s.r5 b) with rel := true, scope := sc.toNat } := by
  refine accesses_of_memWord (fun _ => rfl) ?_ rfl
  simp only [takeRing_r5, takeRing_extM, takeRing_access, hm]

/-- The access of a FENCE (R155). -/
abbrev fenceAccess (s : State) (sc : BitVec 3) : Access :=
  { plainAccess s .fence 0 0 0#64 with acq := true, rel := true, scope := sc.toNat }

theorem fence_joins (s : State) (r : BitVec 4) (sc : BitVec 3) :
    does s (.fence r sc) (fun t => drain (withPend (fenceAccess s sc) t)) := by
  refine completes_of_ok rfl ?_
  simp only [takeRing_access]
  rfl

/-- Settles O18: the loads and the store are one access each, and a fence that stands alone leaves the list at once. -/
theorem acquireReleaseFence : Obligations.AcquireReleaseFence := by
  intro s r g n d a b sc w ld st fence
  have hm : s.extM = (s.extM.1, s.extM.2.1, s.extM.2.2.1, w) := by
    simp only [State.extM, w]
    cases s.pfx.extM <;> rfl
  refine ⟨acqWord_accesses hm rfl, acqWord_accesses hm rfl, stRel_accesses hm, fence_joins s r sc, fun hp hv hw hd h => ?_⟩
  have hq : nothingSent (takeRing (.fence r sc) s) := nothingSent_takeRing _ s ▸ ⟨hv, hw, hd⟩
  have hl : drain (withPend (fenceAccess s sc) (takeRing (.fence r sc) s)) = takeRing (.fence r sc) s :=
    drain_withFence hq ((takeRing_pend _ s).trans hp) rfl rfl
  exact (congrArg (completes s _ .next) hl).mp (fence_joins s r sc h)

end Sys2Proof.Proofs
end

section
/-! A transaction barrier: its updates, where it lies, and what holds no word on it up (R165–R167, R169). -/
namespace Sys2Proof.Proofs
open Sys2Proof.Machine Sys2Proof.Safety Sys2Proof.Laws

/-! ### The updates of a barrier: R165, R167, R169 -/

/-- TBAR.INIT refuses a value with a bit above 54, or with no arrival (R169). -/
abbrev initRefused (v : Nat) : Prop := v / 2 ^ 55 ≠ 0 ∨ v % 2 ^ 20 = 0

theorem bits_init_refused (v : Word) : (bits v 63 55 ≠ 0 ∨ bits v 19 0 = 0) = initRefused v.toNat := by
  have := v.isLt
  simp only [bits, initRefused, eq_iff_iff]
  omega

theorem bar_init_refused {b : Bar} {v : Word} (h : initRefused v.toNat) : b.init v = none :=
  if_pos ((bits_init_refused v).mpr h)

theorem bar_init_takes {b : Bar} {v : Word} (h : ¬initRefused v.toNat) : b.init v =
    some ⟨b.phase, v.toNat % 2 ^ 20, (v.toNat / 2 ^ 20 % 2 ^ 35 : Nat), false, v.toNat % 2 ^ 20, v.toNat / 2 ^ 20 % 2 ^ 35⟩ := by
  have h0 : bits v 19 0 = v.toNat % 2 ^ 20 := by rw [bits, pow_zero, Nat.div_one]
  rw [Bar.init, if_neg ((bits_init_refused v).mp.mt h), h0, bits]

theorem bar_arrive_refused {b : Bar} {n : Nat} (h : b.arr < n) : b.arrive n = none := if_pos h

theorem bar_arrive_takes {b : Bar} {n : Nat} (h : n ≤ b.arr) : b.arrive n = some (if n = 0 then b else Bar.settle { b with arr := b.arr - n }) := by
  rw [Bar.arrive, if_neg (not_lt.2 h)]
  split <;> rfl

theorem bar_expect_refused {b : Bar} {n : Nat} (h : 2 ^ 35 - 1 < b.sec + n) : b.expect n = none := if_pos h

theorem bar_expect_takes {b : Bar} {n : Nat} (h : b.sec + n ≤ 2 ^ 35 - 1) : b.expect n = some (Bar.settle { b with sec := b.sec + n }) :=
  if_neg (not_lt.2 h)

@[simp] theorem writeBar_unit (s : State) (p : BarPlace) (b : Bar) : (writeBar s p b).unit = s.unit := by
  unfold writeBar
  split
  · rfl
  · rw [State.writePhysLE, State.writePhys, setMem_unit]
  · rfl

/-! ### Where a barrier lies: R166 -/

/-- The barrier at `a` lies at `p` on this device: in the core's own AB or in memory. -/
inductive BarHere (s : State) (a : Word) : BarPlace → Prop
  | ab {off : Nat} (ha : BitVec.ofNat 64 (2 ^ 28 + off) = a) : BarHere s a (.ab off)
  | mem {pa : Nat} {leaf : Word} (hl : s.isLocal pa = true) : BarHere s a (.mem pa leaf)

/-- An address of the AB is its space and its offset. -/
theorem ofNat_bufAddr_ab {a : Word} (hh : bits a 63 32 = 0) (hs : bufSpace a.toNat = 1) : BitVec.ofNat 64 (2 ^ 28 + bufOff a.toNat) = a := by
  apply BitVec.eq_of_toNat_eq
  have := a.isLt
  simp only [bits, bufSpace, bufOff, BitVec.toNat_ofNat] at *
  omega

/-- A barrier is found in the core's own AB, behind a window, or in memory by its translation. -/
theorem barPlace_cases {s t : State} {u : Sqr} {a : Word} {arrive : Bool} {p : BarPlace} (h : barPlace s u a arrive = .ok (p, t)) :
    (∃ off, p = .ab off ∧ t = s ∧ BitVec.ofNat 64 (2 ^ 28 + off) = a) ∨ (∃ k off, p = .win k off ∧ t = s)
      ∨ ∃ pa leaf, p = .mem pa leaf ∧ checkMem s a 16 3 = .ok (pa, leaf, t) := by
  unfold barPlace at h
  split at h
  next hh =>
    simp only [] at h
    split at h
    next hs =>
      cases ok_of_check (ok_of_check h)
      exact .inl ⟨_, rfl, rfl, ofNat_bufAddr_ab hh hs⟩
    next =>
      split at h
      next =>
        split at h
        next => cases h
        next => cases ok_of_check h; exact .inr (.inl ⟨_, _, rfl, rfl⟩)
      next => cases h
  next =>
    split at h
    next =>
      split at h
      next => cases h
      next hc => cases h; exact .inr (.inr ⟨_, _, rfl, hc⟩)
    next => cases h

theorem barHere_of_barPlace {s t : State} {u : Sqr} {a : Word} {arrive : Bool} {p : BarPlace} (h : barPlace s u a arrive = .ok (p, t))
    (hp : p.remote t = false) : BarHere t a p := by
  obtain ⟨off, rfl, -, ha⟩ | ⟨k, off, rfl, -⟩ | ⟨pa, leaf, rfl, -⟩ := barPlace_cases h
  · exact .ab ha
  · cases hp
  · exact .mem (by simpa [BarPlace.remote] using hp)

theorem Unread.barPlace {α : Type} {φ : State → α} (hφ : Unread φ) {s t : State} {u : Sqr} {a : Word} {arrive : Bool} {p : BarPlace}
    (h : Machine.barPlace s u a arrive = .ok (p, t)) : φ t = φ s := by
  obtain ⟨off, -, rfl, -⟩ | ⟨k, off, -, rfl⟩ | ⟨pa, leaf, -, hc⟩ := barPlace_cases h
  · rfl
  · rfl
  · exact hφ.checkMem hc

theorem unread_r5 (f : BitVec 5) : Unread (fun s => s.r5 f) where
  setMem s m pa n := by simp only [State.r5, State.reg, State.setMem, Core.markRows]; split <;> cases s.unit <;> rfl
  tlbs _ _ := rfl
  vers _ _ _ := rfl

/-- Finding a barrier writes no register. -/
theorem r5_of_barPlace {i : Instr} {s t : State} {a : Word} {arrive : Bool} {p : BarPlace}
    (h : barPlace (takeRing i s) s.unit a arrive = .ok (p, t)) (f : BitVec 5) : t.r5 f = s.r5 f :=
  ((unread_r5 f).barPlace h).trans (takeRing_r5 i s f)

theorem unread_pend : Unread (fun s => s.core.pend) where
  setMem s m pa n := by simp only [State.setMem, Core.markRows]; split <;> rfl
  tlbs _ _ := rfl
  vers _ _ _ := rfl

theorem unread_nothingSent : Unread nothingSent where
  setMem s m pa n := by simp only [nothingSent, State.setMem, Core.markRows]; split <;> rfl
  tlbs _ _ := rfl
  vers _ _ _ := rfl

/-! ### A barrier word that nothing holds up -/

section
variable (s : State) (p : BarPlace) (a v : Word) (op rd : Nat)

@[simp] theorem barEntry_unit : (s.barEntry p a op rd v).unit = s.unit := by cases p <;> rfl
@[simp] theorem barEntry_rd : (s.barEntry p a op rd v).rd = rd := by cases p <;> rfl
@[simp] theorem barEntry_promote : (s.barEntry p a op rd v).promote = false := by cases p <;> rfl

end

/-- The barrier at `a` lies here, none of its words is marked, and nothing of the core in focus is outstanding. -/
structure BarFree (t : State) (a : Word) (p : BarPlace) : Prop where
  here : BarHere t a p
  pend : t.core.pend = []
  sent : nothingSent t
  marked : t.marked = []
  marks : t.core.marks = []

section
variable {t : State} {a : Word} {p : BarPlace} (h : BarFree t a p)
include h

theorem remote_of_barFree : p.remote t = false := by
  obtain ⟨hh, -⟩ := h
  cases hh with
  | ab => rfl
  | mem hl => simp only [BarPlace.remote, hl, Bool.not_true]

theorem flushUnit_of_barFree (u : Sqr) : flushUnit u (2 * t.core.pend.length + 1) t = t := by
  rw [h.pend]
  simp only [List.length_nil, flushUnit, h.pend, List.range_zero, List.find?_nil]

theorem holdBytes_of_barFree (addr n : Nat) : t.core.holdBytes addr n = t.core := by
  obtain ⟨hv, -, -⟩ := h.sent
  exact List.foldlRecOn _ _ (motive := (· = t.core)) rfl fun _ hc _ _ => by rw [hc, hv]; rfl

theorem readyToObserve_of_barFree (x : Access) : readyToObserve x t = t := by
  unfold readyToObserve
  split
  · split
    · rw [State.mapCore, holdBytes_of_barFree h]
    · exact flushUnit_of_barFree h _
  · exact flushUnit_of_barFree h _

theorem barHeld_of_barFree (x : Access) : t.barHeld x = false := by
  rw [State.barHeld, h.pend, List.any_nil]

theorem unitPending_of_barFree (u : Sqr) : t.unitPending u = false := by
  rw [State.unitPending, h.pend, storeInFlight_of_nothingSent h.sent, List.any_nil, Bool.or_false]

theorem ordinaryPending_of_barFree : t.core.ordinaryPending = false := by
  obtain ⟨hv, -, -⟩ := h.sent
  rw [Core.ordinaryPending, hv, List.any_nil]

theorem accessMark_of_barFree (x : Access) : t.accessMark x = none := by
  unfold State.accessMark
  split
  · rw [State.memMark, h.marked]; rfl
  · rw [Core.bufMark, markHit_nil h.marks]; split <;> rfl
  · rfl

theorem performLocal_bar_refused {op rd : Nat} {v : Word} (hb : barPhys t p op v = none) :
    performLocal t (t.barEntry p a op rd v) = .error ⟨cQueue, 0, a⟩ := by
  rw [performLocal, accessMark_of_barFree h]
  cases h.here with
  | ab ha => simp only [State.barEntry, State.access, hb, ha]
  | mem =>
    have hb : barPhys t (.mem _ 0#64) op v = none := hb
    simp only [State.barEntry, State.access, Access.withLeaf, hb, BitVec.ofNat_toNat, BitVec.setWidth_eq]

theorem performLocal_bar_done {op rd r : Nat} {v : Word} {u : State} (hb : barPhys t p op v = some (r, u)) :
    performLocal t (t.barEntry p a op rd v) = .ok (u.barResult (t.barEntry p a op rd v) op r) := by
  rw [performLocal, accessMark_of_barFree h]
  cases h.here with
  | ab ha => simp only [State.barEntry, State.access, hb]
  | mem =>
    have hb : barPhys t (.mem _ 0#64) op v = some (r, u) := hb
    simp only [State.barEntry, State.access, Access.withLeaf, hb]

end

theorem barFree_of_barPlace {i : Instr} {s t : State} {a : Word} {arrive : Bool} {p : BarPlace}
    (h : barPlace (takeRing i s) s.unit a arrive = .ok (p, t)) (hp : p.remote t = false) (hs : s.core.pend = []) (hn : nothingSent s)
    (hm : t.marked = []) (hk : t.core.marks = []) : BarFree t a p where
  here := barHere_of_barPlace h hp
  pend := (unread_pend.barPlace h).trans ((takeRing_pend i s).trans hs)
  sent := (unread_nothingSent.barPlace h).mpr (nothingSent_takeRing i s ▸ hn)
  marked := hm
  marks := hk

end Sys2Proof.Proofs
end

section
/-! TBAR.INIT, ARRIVE, EXPECT, WAIT and TEST (R166–R169). -/
namespace Sys2Proof.Proofs
open Sys2Proof.Machine Sys2Proof.Safety Sys2Proof.Laws

/-! ### A word that faults after it has issued -/

/-- The word has issued and the fault is taken; what its body did stands. -/
theorem exec_of_late {i : Instr} {body : State → WordResult} {s t : State} {f : Flt} (hx : exec i s = .next (issue i body s))
    (hb : body (takeRing i s) = .late t f) (h : issues s i) :
    ∃ u, exec i s = .next (raiseAt u s.unit (raisedBy s s.unit f)) ∧ still u = still t := by
  rw [hx, issue_ready h, hb]
  exact ⟨_, rfl, still_advance t s.unit s.baseAddr .next⟩

/-! ### Updates: INIT, ARRIVE and EXPECT -/

/-- An update of the CC counts in sys.instret once (R81, R169). -/
theorem uncounted_barRetired {s : State} {x : Access} {op : Nat} (hu : x.unit = s.unit) (h2 : op ≤ 2) : (s.barRetired x op).uncounted = s := by
  unfold State.barRetired
  split
  next hc =>
    obtain ⟨hc, -⟩ := hc
    have hs : s.unit = .cc := hu.symm.trans hc
    refine (if_pos hs).trans ?_
    simp only [State.mapCore, BitVec.add_sub_cancel]
  next hc => exact if_neg fun hs => hc ⟨hu.trans hs, h2⟩

/-- The result of an update: INIT has none. -/
theorem barResult_update {s : State} {x : Access} {op r : Nat} (hu : x.unit = s.unit) (h2 : op ≤ 2) :
    (s.barResult x op r).uncounted = if op = 0 then s else s.setReg x.rd (BitVec.ofNat 64 r) := by
  unfold State.barResult
  split
  · exact uncounted_barRetired hu h2
  · rw [hu]
    exact uncounted_barRetired (s := s.setReg x.rd _) hu h2

/-- Nothing keeps an update of a free barrier from being performed as its word issues. -/
theorem unheld_of_barFree {t : State} {a v : Word} {p : BarPlace} {op rd : Nat} (h : BarFree t a p) :
    (t.unitPending t.unit || p.remote t || !t.sysReady (t.barEntry p a op rd v) || t.mustSend (t.barEntry p a op rd v)) = false := by
  rw [unitPending_of_barFree h, remote_of_barFree h, sysReady_of_nothingSent h.sent (barEntry_promote ..), mustSend_of_nothingSent h.sent]
  rfl

section
variable {s t : State} {a v : Word} {p : BarPlace} {op rd : Nat} (hp : barPlace s s.unit a (op == 1) = .ok (p, t)) (h : BarFree t a p)
include hp h

theorem barUpdate_refused (hb : barPhys t p op v = none) : barUpdate op rd a v s = .late t ⟨0x15, 0, a⟩ := by
  have hl := performLocal_bar_refused (rd := rd) h hb
  simp only [barUpdate, hp, flushUnit_of_barFree h, ordinaryPending_of_barFree h]
  cases h.here <;> simp only [unheld_of_barFree h, hl, Bool.false_eq_true, and_false, if_false, if_true, cQueue]

theorem barUpdate_done {r : Nat} {u : State} (hb : barPhys t p op v = some (r, u)) (hu : u.unit = t.unit) (h2 : op ≤ 2) :
    barUpdate op rd a v s = .next (if op = 0 then u else u.setReg rd (BitVec.ofNat 64 r)) := by
  have hl := performLocal_bar_done (rd := rd) h hb
  have hr := barResult_update (r := r) ((barEntry_unit t p a v op rd).trans hu.symm) h2
  rw [barEntry_rd] at hr
  simp only [barUpdate, hp, flushUnit_of_barFree h, ordinaryPending_of_barFree h]
  cases h.here <;> simp only [unheld_of_barFree h, hl, hr, Bool.false_eq_true, and_false, if_false]

end

/-- The word has issued and faults with F.QUEUE at the barrier `a`; the state is what finding the barrier left (R169). -/
abbrev queues (s : State) (i : Instr) (a : Word) (t : State) : Prop :=
  issues s i → ∃ u, exec i s = .next (raiseAt u s.unit (raisedBy s s.unit ⟨0x15, 0, a⟩)) ∧ still u = still t

section
variable {s t : State} {i : Instr} {a v : Word} {p : BarPlace} {op rd : Nat} {body : State → WordResult}
  (hx : exec i s = .next (issue i body s)) (hb : body (takeRing i s) = barUpdate op rd a v (takeRing i s))
  (hp : barPlace (takeRing i s) s.unit a (op == 1) = .ok (p, t)) (h : BarFree t a p)
include hx hb hp h

theorem update_queues (hn : barPhys t p op v = none) : queues s i a t :=
  exec_of_late hx (hb.trans (barUpdate_refused hp h hn))

theorem update_completes {r : Nat} {u : State} (hs : barPhys t p op v = some (r, u)) (hu : u.unit = t.unit) (h2 : op ≤ 2)
    (hi : issues s i) : completes s i .next (if op = 0 then u else u.setReg rd (BitVec.ofNat 64 r)) :=
  completes_of_ok hx (hb.trans (barUpdate_done hp h hs hu h2)) hi

end

section
variable {s t : State} {r : BitVec 4} {d a b : BitVec 5} {p : BarPlace}

section
variable (hp : barPlace (takeRing (.tbarInit r a b) s) s.unit (s.r5 a) false = .ok (p, t)) (h : BarFree t (s.r5 a) p)
include hp h

theorem tbarInit_queues (hv : initRefused (s.r5 b).toNat) : queues s (.tbarInit r a b) (s.r5 a) t := by
  refine update_queues (op := 0) (rd := 0) (v := s.r5 b) rfl (by simp only [takeRing_r5]) hp h ?_
  simp only [barPhys, bar_init_refused hv, Option.map_none]

theorem tbarInit_completes (hv : ¬initRefused (s.r5 b).toNat) (hi : issues s (.tbarInit r a b)) :
    completes s (.tbarInit r a b) .next (writeBar t p ⟨(readBar t p).phase, (s.r5 b).toNat % 2 ^ 20,
      ((s.r5 b).toNat / 2 ^ 20 % 2 ^ 35 : Nat), false, (s.r5 b).toNat % 2 ^ 20, (s.r5 b).toNat / 2 ^ 20 % 2 ^ 35⟩) := by
  refine update_completes (op := 0) (rd := 0) (v := s.r5 b) (r := 0) (u := writeBar t p _) rfl (by simp only [takeRing_r5]) hp h ?_
    (writeBar_unit _ _ _) (Nat.zero_le 2) hi
  simp only [barPhys, bar_init_takes hv, Option.map_some]

end

section
variable {m : Word} (hm : (if b = 0#5 then 1#64 else s.r5 b) = m)
  (hp : barPlace (takeRing (.tbarArrive r d a b) s) s.unit (s.r5 a) true = .ok (p, t)) (h : BarFree t (s.r5 a) p)
include hm hp h

theorem tbarArrive_queues (hn : (readBar t p).arr < m.toNat) : queues s (.tbarArrive r d a b) (s.r5 a) t := by
  refine update_queues (op := 1) (rd := d.toNat) (v := m) rfl (by simp only [takeRing_r5, hm]) hp h ?_
  simp only [barPhys, bar_arrive_refused hn, Option.map_none]

theorem tbarArrive_completes (hn : m.toNat ≤ (readBar t p).arr) (hi : issues s (.tbarArrive r d a b)) :
    completes s (.tbarArrive r d a b) .next ((writeBar t p (if m.toNat = 0 then readBar t p
      else Bar.settle { readBar t p with arr := (readBar t p).arr - m.toNat })).w5 d (BitVec.ofNat 64 (readBar t p).phase)) := by
  refine update_completes (op := 1) (rd := d.toNat) (v := m) (u := writeBar t p _) rfl (by simp only [takeRing_r5, hm]) hp h ?_
    (writeBar_unit _ _ _) (by decide) hi
  simp only [barPhys, bar_arrive_takes hn, Option.map_some]

end

section
variable (hp : barPlace (takeRing (.tbarExpect r d a b) s) s.unit (s.r5 a) false = .ok (p, t)) (h : BarFree t (s.r5 a) p)
include hp h

theorem tbarExpect_queues (hn : 2 ^ 35 - 1 < (readBar t p).sec + (s.r5 b).toNat) : queues s (.tbarExpect r d a b) (s.r5 a) t := by
  refine update_queues (op := 2) (rd := d.toNat) (v := s.r5 b) rfl (by simp only [takeRing_r5]) hp h ?_
  simp only [barPhys, bar_expect_refused hn, Option.map_none]

theorem tbarExpect_completes (hn : (readBar t p).sec + (s.r5 b).toNat ≤ 2 ^ 35 - 1) (hi : issues s (.tbarExpect r d a b)) :
    completes s (.tbarExpect r d a b) .next ((writeBar t p
      (Bar.settle { readBar t p with sec := (readBar t p).sec + (s.r5 b).toNat })).w5 d (BitVec.ofNat 64 (readBar t p).phase)) := by
  refine update_completes (op := 2) (rd := d.toNat) (v := s.r5 b) (u := writeBar t p _) rfl (by simp only [takeRing_r5]) hp h ?_
    (writeBar_unit _ _ _) le_rfl hi
  simp only [barPhys, bar_expect_takes hn, Option.map_some]

end

/-! ### Observations: WAIT and TEST -/

theorem barResult_test {s : State} {x : Access} (hu : x.unit = s.unit) (r : Nat) : s.barResult x 4 r = s.setReg x.rd (BitVec.ofNat 64 r) := by
  rw [State.barResult, if_neg (by decide), State.barRetired, if_neg fun h => absurd h.2 (by decide), hu]
  rfl

section
variable (hp : barPlace (takeRing (.tbarWait r a b) s) s.unit (s.r5 a) false = .ok (p, t)) (h : BarFree t (s.r5 a) p)
include hp h

/-- What a WAIT finds of its barrier. -/
theorem tbarWait_body : ∃ body, exec (.tbarWait r a b) s = .next (issue (.tbarWait r a b) body s)
    ∧ body (takeRing (.tbarWait r a b) s) = if (readBar t p).ovf = true then .fault ⟨0x15, 0, s.r5 a⟩
      else if (readBar t p).phase = (s.r5 b).toNat % 16 then .blocked id 8 else .next t := by
  refine ⟨_, rfl, ?_⟩
  simp only [takeRing_r5, takeRing_unit, hp, readyToObserve_of_barFree h, barHeld_of_barFree h, remote_of_barFree h, accessMark_of_barFree h,
    r5_of_barPlace hp, Bool.false_eq_true, if_false]
  rfl

end

section
variable (hp : barPlace (takeRing (.tbarTest r d a b) s) s.unit (s.r5 a) false = .ok (p, t)) (h : BarFree t (s.r5 a) p)
include hp h

theorem tbarTest_body : ∃ body, exec (.tbarTest r d a b) s = .next (issue (.tbarTest r d a b) body s)
    ∧ body (takeRing (.tbarTest r d a b) s) = if (readBar t p).ovf = true then .fault ⟨0x15, 0, s.r5 a⟩
      else .next (t.w5 d (if (readBar t p).phase = (s.r5 b).toNat % 16 then 0#64 else 1#64)) := by
  refine ⟨_, rfl, ?_⟩
  simp only [takeRing_r5, takeRing_unit, hp, readyToObserve_of_barFree h, barHeld_of_barFree h, remote_of_barFree h,
    r5_of_barPlace hp, Bool.false_eq_true, if_false]
  by_cases ho : (readBar t p).ovf = true
  · have hb : barPhys t p 4 (s.r5 b) = none := if_pos ho
    rw [performLocal_bar_refused h hb, if_pos ho]
    rfl
  · have hb : barPhys t p 4 (s.r5 b) = some (if (readBar t p).phase ≠ (s.r5 b).toNat % 16 then 1 else 0, t) := if_neg ho
    rw [performLocal_bar_done h hb, if_neg ho, barResult_test (barEntry_unit ..), barEntry_rd]
    by_cases he : (readBar t p).phase = (s.r5 b).toNat % 16
    · rw [if_neg (not_not.2 he), if_pos he]; rfl
    · rw [if_pos he, if_neg he]; rfl

end

end

/-- Settles O23: an update is performed as its word issues, and a WAIT or TEST reads the barrier where it was found. -/
theorem barrierWords : Obligations.BarrierWords := by
  intro s r d a b p i t hp hr hs hw hd hv hm hk x v phase queue n
  have h : BarFree t (s.r5 a) p := barFree_of_barPlace hp hr hs ⟨hv, hw, hd⟩ hm hk
  refine ⟨?_, ?_, ?_, ?_, ?_⟩
  · rintro rfl
    rw [decide_eq_false nofun] at hp
    exact ⟨tbarInit_queues hp h, tbarInit_completes hp h⟩
  · rintro rfl
    rw [decide_eq_true rfl] at hp
    have hn : (if b = 0#5 then 1#64 else s.r5 b).toNat = n := apply_ite BitVec.toNat _ _ _
    exact ⟨fun hx => tbarArrive_queues rfl hp h (hn ▸ hx), fun hx => hn ▸ tbarArrive_completes rfl hp h (hn ▸ hx)⟩
  · rintro rfl
    rw [decide_eq_false nofun] at hp
    exact ⟨tbarExpect_queues hp h, tbarExpect_completes hp h⟩
  · rintro rfl
    rw [decide_eq_false nofun] at hp
    obtain ⟨body, hx, hb⟩ := tbarWait_body hp h
    refine ⟨fun ho => exec_of_fault hx (hb.trans (if_pos ho)), fun ho he => exec_of_blocked hx (hb.trans ?_),
      fun ho he => completes_of_ok hx (hb.trans ?_)⟩
    · rw [if_neg (ne_true_of_eq_false ho), if_pos he]
    · rw [if_neg (ne_true_of_eq_false ho), if_neg he]
      rfl
  · rintro rfl
    rw [decide_eq_false nofun] at hp
    obtain ⟨body, hx, hb⟩ := tbarTest_body hp h
    exact ⟨fun ho => exec_of_fault hx (hb.trans (if_pos ho)),
      fun ho => completes_of_ok hx (hb.trans (if_neg (ne_true_of_eq_false ho)))⟩

end Sys2Proof.Proofs
end

section
/-! The copy words: acceptance (R176, R180), the forms (R181–R186). -/
namespace Sys2Proof.Proofs
open Sys2Proof.Machine Sys2Proof.Safety Sys2Proof.Laws

/-! ### What an acceptance reads -/

@[simp] theorem takeRing_copyDesc (i : Instr) (s : State) (n : Nat) : (takeRing i s).core.c.get n = s.core.c.get n := by rw [takeRing_eq]
@[simp] theorem takeRing_calm (i : Instr) (s : State) : (takeRing i s).core.calm = s.core.calm := by rw [Core.calm, takeRing_ctx]; rfl
@[simp] theorem takeRing_copies (i : Instr) (s : State) : (takeRing i s).core.copies = s.core.copies := by rw [takeRing_eq]

theorem unread_copies : Unread (fun s => s.core.copies) where
  setMem s m pa n := by simp only [State.setMem, Core.markRows]; split <;> rfl
  tlbs _ _ := rfl
  vers _ _ _ := rfl

theorem unread_cntCp : Unread (fun s => s.core.cntCp) where
  setMem s m pa n := by simp only [State.setMem, Core.markRows]; split <;> rfl
  tlbs _ _ := rfl
  vers _ _ _ := rfl

/-- The checks of R176 translate a barrier's page at most. -/
theorem Unread.copyChecks {α : Type} {φ : State → α} (hφ : Unread φ) {s t : State} {k : CopyKind} {d : BitVec 384}
    (h : Machine.copyChecks s k d = .ok t) : φ t = φ s := by
  unfold Machine.copyChecks at h
  split at h
  next => cases h
  next =>
    split at h
    next => cases h
    next =>
      replace h := ok_of_check h
      split at h
      next => cases h; rfl
      next =>
        split at h
        next => cases h
        next hc => cases h; exact hφ.checkMem hc

section
variable {i : Instr} {s t : State} {k : CopyKind} {d : BitVec 384} (h : copyChecks (takeRing i s) k d = .ok t)
include h

theorem copies_of_copyChecks : t.core.copies = s.core.copies := (unread_copies.copyChecks h).trans (takeRing_copies i s)
theorem cntCp_of_copyChecks : t.core.cntCp = s.core.cntCp := (unread_cntCp.copyChecks h).trans (takeRing_cntCp i s)

end

/-- A copy of no rows, of empty rows, or to no core (R176). -/
abbrev movesNothing (k : CopyKind) (d : BitVec 384) : Prop :=
  d.toNat / 2 ^ 112 % 2 ^ 16 = 0 ∨ d.toNat / 2 ^ 64 % 2 ^ 32 = 0 ∨ (k = .mcast ∧ d.toNat / 2 ^ 128 % 2 ^ 8 = 0)

theorem isZeroCopy_iff (k : CopyKind) (d : BitVec 384) : isZeroCopy k d = true ↔ movesNothing k d := by
  simp only [isZeroCopy, Bool.or_eq_true, Bool.and_eq_true, beq_iff_eq, or_assoc]
  rfl

/-! ### The bodies of the copy words -/

section
variable (i : Instr) {s : State} {k : CopyKind} {c : BitVec 4}

theorem untimedCopy_calm (h : s.core.calm = true) : untimedCopy k c (takeRing i s) = .fault ⟨0x0B, 0, 0#64⟩ :=
  if_pos ((takeRing_calm i s).trans h)

theorem untimedCopy_nothing (hc : s.core.calm = false) (hz : movesNothing k (s.core.c.get c.toNat)) :
    untimedCopy k c (takeRing i s) = if 65535 ≤ s.core.cntCp then .blocked id 8 else .next (zeroCopy (takeRing i s)) := by
  simp only [untimedCopy, takeRing_calm, takeRing_copyDesc, takeRing_cntCp, hc, (isZeroCopy_iff _ _).2 hz, counterMax, Bool.false_eq_true,
    if_false, if_true]

theorem untimedCopy_refused {f : Flt} (hc : s.core.calm = false) (hz : ¬movesNothing k (s.core.c.get c.toNat))
    (h : copyChecks (takeRing i s) k (s.core.c.get c.toNat) = .error f) : untimedCopy k c (takeRing i s) = .fault f := by
  simp only [untimedCopy, takeRing_calm, takeRing_copyDesc, hc, mt (isZeroCopy_iff _ _).1 hz, h, Bool.false_eq_true, if_false]

theorem untimedCopy_passes {t : State} (hc : s.core.calm = false) (hz : ¬movesNothing k (s.core.c.get c.toNat))
    (h : copyChecks (takeRing i s) k (s.core.c.get c.toNat) = .ok t) : untimedCopy k c (takeRing i s) =
      if 16 ≤ (s.core.copies.filter (fun x => !x.timed)).length ∨ 65535 ≤ s.core.cntCp then .blocked id 8
      else .next (acceptCopy t (newCopy t k (s.core.c.get c.toNat) false 0#64)) := by
  simp only [untimedCopy, takeRing_calm, takeRing_copyDesc, hc, mt (isZeroCopy_iff _ _).1 hz, h, Bool.false_eq_true, if_false,
    copies_of_copyChecks h, cntCp_of_copyChecks h]
  rfl

variable {d e : BitVec 4}

theorem timedCopy_nothing (hz : movesNothing k (s.core.c.get c.toNat)) : timedCopy k c d e (takeRing i s) =
    if 65535 ≤ s.core.cntCp then .blocked id 8 else .next ((zeroCopy (takeRing i s)).w5 d 1#64) := by
  simp only [timedCopy, takeRing_copyDesc, takeRing_cntCp, (isZeroCopy_iff _ _).2 hz, counterMax, if_true]

theorem timedCopy_refused {f : Flt} (hz : ¬movesNothing k (s.core.c.get c.toNat))
    (h : copyChecks (takeRing i s) k (s.core.c.get c.toNat) = .error f) : timedCopy k c d e (takeRing i s) = .fault f := by
  simp only [timedCopy, takeRing_copyDesc, mt (isZeroCopy_iff _ _).1 hz, h, Bool.false_eq_true, if_false]

theorem timedCopy_passes {t : State} (hz : ¬movesNothing k (s.core.c.get c.toNat))
    (h : copyChecks (takeRing i s) k (s.core.c.get c.toNat) = .ok t) : timedCopy k c d e (takeRing i s) =
      if 64 ≤ (s.core.copies.filter (·.timed)).length then .next (t.w5 d 0#64)
      else if 65535 ≤ s.core.cntCp then .blocked id 8
      else .next ((acceptCopy t (newCopy t k (s.core.c.get c.toNat) true (s.r5 e))).w5 d 1#64) := by
  simp only [timedCopy, takeRing_copyDesc, takeRing_r5, mt (isZeroCopy_iff _ _).1 hz, h, Bool.false_eq_true, if_false,
    copies_of_copyChecks h, cntCp_of_copyChecks h]
  rfl

end

/-! ### CD.SET: R181 -/

/-- The 64 bits of a descriptor that field code `f` names (R170). -/
def cdDword (d : BitVec 384) (f : Nat) : Word := d.extractLsb' (320 - 64 * f) 64

theorem cdDword_toNat (d : BitVec 384) (f : Nat) : (cdDword d f).toNat = d.toNat / 2 ^ (320 - 64 * f) % 2 ^ 64 := by
  rw [cdDword, BitVec.extractLsb'_toNat, Nat.shiftRight_eq_div_pow]

theorem getLsbD_cdWith (d : BitVec 384) (f : Nat) (v : Word) {j : Nat} (hj : j < 384) : (cdWith d f v).getLsbD j =
    if 320 - 64 * f ≤ j ∧ j < 320 - 64 * f + 64 then v.getLsbD (j - (320 - 64 * f)) else d.getLsbD j := by
  simp only [cdWith, BitVec.getLsbD_or, BitVec.getLsbD_and, BitVec.getLsbD_not, BitVec.getLsbD_shiftLeft, BitVec.getLsbD_ofNat,
    BitVec.getLsbD_setWidth, Nat.testBit_two_pow_sub_one, hj, decide_true, Bool.true_and]
  generalize 320 - 64 * f = lo
  by_cases h1 : j < lo
  · rw [if_neg (by omega)]
    simp [h1]
  · by_cases h2 : j < lo + 64
    · rw [if_pos (by omega)]
      simp [h1, show j - lo < 64 by omega, show j - lo < 384 by omega]
    · rw [if_neg (by omega)]
      simp [h1, show ¬j - lo < 64 by omega, show 64 ≤ j - lo by omega]

theorem cdDword_cdWith (d : BitVec 384) (v : Word) {f k : Nat} (hf : f < 6) (hk : k < 6) :
    cdDword (cdWith d f v) k = if k = f then v else cdDword d k := by
  apply BitVec.eq_of_getLsbD_eq
  intro j hj
  rw [cdDword, BitVec.getLsbD_extractLsb', getLsbD_cdWith _ _ _ (by omega), decide_eq_true hj, Bool.true_and]
  split
  next h =>
    obtain rfl : k = f := by omega
    rw [if_pos rfl, Nat.add_sub_cancel_left]
  next h =>
    rw [if_neg (by rintro rfl; omega), cdDword, BitVec.getLsbD_extractLsb', decide_eq_true hj, Bool.true_and]

/-- CD.SET issues with the field codes of R170 only. -/
theorem cdSet_field_of_issues {s : State} {r c x : BitVec 4} {f : BitVec 6} (h : issues s (.cdSet r c x f)) : f.toNat < 6 := by
  obtain ⟨-, he, -⟩ := of_issues h
  have hw : decide (c.toNat ≤ 7 ∧ f.toNat ≤ 5) = true := wf_of_earlyFault rfl he
  exact Nat.lt_succ_of_le (of_decide_eq_true hw).2

/-! ### The words -/

/-- Settles O34: the body of each copy word by its checks in order; CD.SET writes one of the six dwords of its descriptor. -/
theorem copyWords : Obligations.CopyWords := by
  intro s r c d t x f desc nothing copy accept once untimed timed
  have hu {i : Instr} {k : CopyKind} (hx : exec i s = .next (issue i (untimedCopy k c) s)) : untimed i k := by
    refine ⟨fun hc => exec_of_fault hx (untimedCopy_calm i hc),
      fun hc hz hn => completes_of_ok hx ((untimedCopy_nothing i hc hz).trans (if_neg (not_le.2 hn))),
      fun hc hz hn => exec_of_blocked hx ((untimedCopy_nothing i hc hz).trans (if_pos hn)),
      fun hc hz f h => exec_of_fault hx (untimedCopy_refused i hc hz h), fun hc hz t h => ?_⟩
    have hb := untimedCopy_passes i hc hz h
    exact ⟨fun ⟨hr, hn⟩ => completes_of_ok hx (hb.trans (if_neg (not_or.2 ⟨not_le.2 hr, not_le.2 hn⟩))),
      fun hr => exec_of_blocked hx (hb.trans (if_pos (by omega)))⟩
  have ht {i : Instr} {k : CopyKind} (hx : exec i s = .next (issue i (timedCopy k c d t) s)) : timed i k := by
    refine ⟨fun hz hn => completes_of_ok hx ((timedCopy_nothing i hz).trans (if_neg (not_le.2 hn))),
      fun hz hn => exec_of_blocked hx ((timedCopy_nothing i hz).trans (if_pos hn)),
      fun hz f h => exec_of_fault hx (timedCopy_refused i hz h), fun hz u h => ?_⟩
    have hb := timedCopy_passes i hz h (d := d) (e := t)
    exact ⟨fun hf => completes_of_ok hx (hb.trans (if_pos hf)),
      fun hf hn => completes_of_ok hx (hb.trans ((if_neg hf).trans (if_neg (not_le.2 hn)))),
      fun hf hn => exec_of_blocked hx (hb.trans ((if_neg hf).trans (if_pos hn)))⟩
  refine ⟨hu rfl, hu rfl, hu rfl, hu rfl, hu rfl, ht rfl, ht rfl, ht rfl, ht rfl, ht rfl, completes_of_ok rfl rfl, ?_⟩
  by_cases hf : f.toNat < 6
  · refine ⟨cdWith desc f.toNat (s.r5 x), completes_of_ok rfl ?_, fun _ => ?_, fun k hk hne => ?_⟩
    · simp only [State.mapCore, takeRing_copyDesc, takeRing_r5]
      rfl
    · rw [← cdDword_toNat, cdDword_cdWith _ _ hf hf, if_pos rfl]
    · rw [← cdDword_toNat, cdDword_cdWith _ _ hf hk, if_neg hne, cdDword_toNat]
  · exact ⟨desc, fun h => absurd (cdSet_field_of_issues h) hf, fun h => absurd h hf, fun _ _ _ => rfl⟩

end Sys2Proof.Proofs
end

section
/-! The local buffers of a core, as copies read and write them (R22, R137): a range of bytes written in parts, and what a write leaves. -/
namespace Sys2Proof.Proofs
open Sys2Proof.Machine Sys2Proof.Laws

/-! ### Ranges of bytes -/

@[simp] theorem length_readBytes (m : Tab Byte) (a n : Nat) : (readBytes m a n).length = n := by
  rw [readBytes, List.length_map, List.length_range]

theorem readBytes_add (m : Tab Byte) (a k n : Nat) : readBytes m a (k + n) = readBytes m a k ++ readBytes m (a + k) n := by
  simp only [readBytes, List.range_add, List.map_append, List.map_map, Function.comp_def, Nat.add_assoc]

theorem writeBytes_append (xs ys : List Byte) (m : Tab Byte) (p : Nat) :
    writeBytes m p (xs ++ ys) = writeBytes (writeBytes m p xs) (p + xs.length) ys := by
  induction xs generalizing m p with
  | nil => rfl
  | cons x xs ih =>
    rw [List.cons_append, writeBytes, ih, writeBytes, List.length_cons, Nat.add_assoc, Nat.add_comm 1]

/-- Bytes read in one table are read back where they were written in another. -/
theorem get_writeBytes_readBytes (m w : Tab Byte) (p o : Nat) {k n : Nat} (h : k < n) :
    Tab.get (writeBytes m p (readBytes w o n)) (p + k) = Tab.get w (o + k) := by
  rw [get_writeBytes, length_readBytes, if_pos (by omega), Nat.add_sub_cancel_left, readBytes, List.getD_eq_getElem _ _ (by simpa using h),
    List.getElem_map, List.getElem_range]

/-! ### Buffers -/

theorem setBuf_eq (c : Core) (b : Nat) (m : Tab Byte) :
    c.setBuf b m = { c with wb := (c.setBuf b m).wb, ab := (c.setBuf b m).ab, as := (c.setBuf b m).as } := by
  unfold Core.setBuf
  split <;> rfl

section
variable (c : Core) {b : Nat} (hb : b ≤ 2) (m : Tab Byte)
include hb

theorem buf_setBuf_same : (c.setBuf b m).buf b = m := by
  interval_cases b <;> rfl

theorem buf_setBuf_other {z : Nat} (h : z ≠ b) : (c.setBuf b m).buf z = c.buf z := by
  interval_cases b
  · unfold Core.buf; split <;> [contradiction; rfl; rfl; rfl]
  · unfold Core.buf; split <;> [rfl; contradiction; rfl; rfl]
  · unfold Core.buf; split <;> [rfl; rfl; contradiction; rfl]

theorem setBuf_setBuf (m' : Tab Byte) : (c.setBuf b m).setBuf b m' = c.setBuf b m' := by
  interval_cases b <;> rfl

end

theorem setBuf_buf (c : Core) (b : Nat) : c.setBuf b (c.buf b) = c := by
  unfold Core.setBuf Core.buf
  split <;> rfl

/-! ### Addresses: R22 -/

theorem isBufAddr_of_lt {a : Word} (h : a.toNat < 2 ^ 32) : isBufAddr a = true := by
  simp only [isBufAddr, bits, beq_iff_eq]
  omega

theorem spaceSize_lt (n : Nat) : spaceSize n < 2 ^ 28 := by
  unfold spaceSize
  split <;> omega

/-- `n` bytes from a buffer address on lie in one local buffer. -/
def inBuffer (a : Word) (n : Nat) : Prop := a.toNat < 2 ^ 32 ∧ bufOff a.toNat + n ≤ spaceSize (bufSpace a.toNat)

theorem inBuffer.addr {a : Word} {n k : Nat} (h : inBuffer a n) (hk : k ≤ n) :
    bufSpace (a + BitVec.ofNat 64 k).toNat = bufSpace a.toNat ∧ bufOff (a + BitVec.ofNat 64 k).toNat = bufOff a.toNat + k := by
  obtain ⟨ha, hn⟩ := h
  have := spaceSize_lt (bufSpace a.toNat)
  have ho : bufOff a.toNat + k < 2 ^ 28 := by omega
  have ht : (a + BitVec.ofNat 64 k).toNat = a.toNat + k := by
    rw [BitVec.toNat_add, BitVec.toNat_ofNat]
    omega
  rw [ht]
  simp only [bufSpace, bufOff] at *
  omega

end Sys2Proof.Proofs
end

section
/-! The events of the copy engine (R173, R174, R185). -/
namespace Sys2Proof.Proofs
open Sys2Proof.Machine Sys2Proof.Safety Sys2Proof.Laws

/-! ### Timed copies: R173 -/

/-- A copy that is due already stays as it is. -/
theorem exec_timedCopyDue (s : State) : exec (.timedCopyDue s.lnum) s = .next (s.mapCore (fun c => { c with
    copies := c.copies.map (fun x => if x.timed = true ∧ x.time.toNat ≤ s.gtc.toNat then { x with due := true } else x) })) := by
  refine congrArg Host.Outcome.next ((within_focused rfl).trans (congrArg (fun f : Copy → Copy => s.mapCore fun c =>
    { c with copies := c.copies.map f }) (funext fun x => ?_)))
  by_cases hd : x.due = true
  · have hx : { x with due := true } = x := by rw [← hd]
    simp only [hx, ite_self]
  · simp only [Copy.isDue, hd, Bool.false_or, Bool.and_eq_true, decide_eq_true_eq]

/-! ### The copy whose turn it is: R174 -/

/-- The copy is the only one of the core in focus, untimed and not to a window, and nothing holds it or marks the core's buffers. -/
structure AloneInTurn (s : State) (cp : Copy) : Prop where
  running : s.core.mode = .running
  alone : s.core.copies = [cp]
  untimed : cp.timed = false
  row : cp.row < cdRows cp.desc
  fetched : cp.fetch = 0
  starts : cp.mayStart s.core = true
  noWindow : bufSpace (cdDst cp.desc).toNat < 8
  room : cp.kind = .sclLd → s.core.sclq.items.length < 64
  marks : s.core.marks = []

section
variable {s : State} {cp : Copy} (h : AloneInTurn s cp)
include h

theorem runnable_alone : cp.runnable s.core = true := by
  have hw : cp.packets = false := by simp [Copy.packets, h.noWindow]
  have hq : (cp.kind != .sclLd || decide (s.core.sclq.items.length < sclqDepth)) = true := by
    rw [Bool.or_eq_true, bne_iff_ne, decide_eq_true_eq, sclqDepth]
    exact imp_iff_not_or.1 h.room
  simp [Copy.runnable, Copy.moved, Copy.winFree, h.row, h.fetched, hw, hq]

theorem nextCopy_alone : nextCopy s.gtc s.core = some cp := by
  have hd : dueCopy s.gtc s.core = none := by simp [dueCopy, h.alone, h.untimed, earliestTimed]
  simp only [nextCopy, hd, h.alone, h.untimed, runnable_alone h, h.starts, List.filter_cons, Bool.not_false, Bool.and_self, if_true,
    List.filter_nil, List.find?_cons, List.find?_nil, List.head?_cons]
  cases decide (s.core.copyTurn < cp.seq) <;> rfl

theorem served_alone {scale : Bool} (hk : (cp.kind == .sclLd) = scale) : s.served scale = some cp := by
  simp [State.served, h.running, nextCopy_alone h, hk]

end

/-- The row in progress is the last one, and nothing else of the copy is outstanding. -/
abbrev lastRow (cp : Copy) : Prop := cdRows cp.desc ≤ cp.row + 1 ∧ cp.waiting = 0

/-- The core after a turn of its only copy, which is `x` now, or is gone, and cp has fallen (R123). -/
def turned (cp x : Copy) (c : Core) : Core :=
  { c with copies := if lastRow cp then [] else [x], cntCp := if lastRow cp then c.cntCp - 1 else c.cntCp, copyTurn := cp.seq }

theorem reg_turned (cp x : Copy) (c : Core) (u : Sqr) (n : Nat) : (turned cp x c).reg u n = c.reg u n := by cases u <;> rfl

section
variable {c : Core} {cp x y : Copy}

theorem settle_single (hc : c.copies = [cp]) (ht : cp.timed = false)
    (hx : x.seq = cp.seq ∧ x.desc = cp.desc ∧ x.row = cp.row + 1 ∧ x.waiting = cp.waiting) (hy : y.seq = cp.seq ∧ y.timed = cp.timed) :
    (c.settleCopy x).turnAfter y = turned cp x c := by
  obtain ⟨hs, hd, hr, hw⟩ := hx
  obtain ⟨hys, hyt⟩ := hy
  simp only [Core.turnAfter, hyt, ht, hys, Bool.false_eq_true, if_false, Core.settleCopy, Copy.moved, Bool.and_eq_true, decide_eq_true_eq, hd, hr,
    hw, turned]
  split
  · simp [Core.endCopy, hc, hs]
  · simp [Core.putCopy, hc, hs]

theorem turned_last (hr : cp.row + 1 = cdRows cp.desc) (hw : cp.waiting = 0) :
    (turned cp x c).copies = [] ∧ (turned cp x c).cntCp = c.cntCp - 1 := ⟨if_pos ⟨hr.ge, hw⟩, if_pos ⟨hr.ge, hw⟩⟩

theorem turned_more (hr : cp.row + 1 < cdRows cp.desc) : (turned cp x c).copies = [x] ∧ (turned cp x c).cntCp = c.cntCp :=
  have h : ¬lastRow cp := fun ⟨hl, _⟩ => absurd hr (not_lt.2 hl)
  ⟨if_neg h, if_neg h⟩

end

/-! ### Sources and destinations in a local buffer -/

/-- The bytes from a buffer address on. -/
abbrev bytesFrom (c : Core) (a : Word) (n : Nat) : List Byte := c.bufBytes (bufSpace a.toNat) (bufOff a.toNat) n

/-- The machine with bytes written from a buffer address on. -/
abbrev withBytes (s : State) (a : Word) (bs : List Byte) : State :=
  { s with core := s.core.putBytes (bufSpace a.toNat) (bufOff a.toNat) bs }

section
variable {s : State} {cp : Copy} {src dst : Word} {n : Nat}

theorem sourceBytes_local (hg : cp.got = none) (hf : isBufAddr (cdSrc cp.desc) = true) (ha : bufSpace src.toNat = 1 ∨ bufSpace src.toNat = 2)
    (hn : n ≠ 0) (hi : bufOff src.toNat + n ≤ spaceSize (bufSpace src.toNat)) (hm : s.core.marks = []) :
    sourceBytes s cp src n = .ok (some (bytesFrom s.core src n), cp, s) := by
  have h8 : ¬8 ≤ bufSpace src.toNat := by omega
  have hl : (bytesFrom s.core src n).length = n := length_readBytes _ _ _
  have hcp : { cp with got := none } = cp := by rw [← hg]
  simp only [sourceBytes, hg, hf, Option.getD_none, List.length_nil, BitVec.add_zero, Nat.sub_zero, hn, h8, if_true,
    if_false, not_lt.2 hi, bufMark_clean hm, List.nil_append, hl, le_refl, hcp]
  rw [List.take_of_length_le hl.le, if_neg (by rcases ha with ha | ha <;> simp [ha])]

theorem pieceTo_local {bs : List Byte} (hk : cp.kind ≠ .mcast) (hf : isBufAddr (cdDst cp.desc) = true) (hbar : cdBar cp.desc = 0#64)
    (hb : bufSpace dst.toNat = 0 ∨ bufSpace dst.toNat = 1) (hi : bufOff dst.toNat + bs.length ≤ spaceSize (bufSpace dst.toNat)) :
    pieceTo s cp dst bs = .ok (some cp, withBytes s dst bs) := by
  have h8 : ¬8 ≤ bufSpace dst.toNat := by omega
  simp only [pieceTo, if_neg hk, hf, if_true, pieceToBuf, h8, if_false, not_lt.2 hi, countOn, hbar, true_or]
  rw [if_neg (by rcases hb with hb | hb <;> simp [hb])]

theorem movePiece_local (hg : cp.got = none) (hs : isBufAddr (cdSrc cp.desc) = true) (ha : bufSpace src.toNat = 1 ∨ bufSpace src.toNat = 2)
    (hn : n ≠ 0) (hi : bufOff src.toNat + n ≤ spaceSize (bufSpace src.toNat)) (hm : s.core.marks = []) (hk : cp.kind ≠ .mcast)
    (hd : isBufAddr (cdDst cp.desc) = true) (hbar : cdBar cp.desc = 0#64) (hb : bufSpace dst.toNat = 0 ∨ bufSpace dst.toNat = 1)
    (ho : bufOff dst.toNat + n ≤ spaceSize (bufSpace dst.toNat)) :
    movePiece s cp src dst n = .ok (true, cp, withBytes s dst (bytesFrom s.core src n)) := by
  have hl : (bytesFrom s.core src n).length = n := length_readBytes _ _ _
  simp only [movePiece, sourceBytes_local hg hs ha hn hi hm, pieceTo_local hk hd hbar hb (by rwa [hl])]

end

/-! ### A burst: R174 -/

/-- The row in progress of a copy lies in two local buffers and counts on no barrier. -/
structure LocalRow (cp : Copy) (src dst : Word) : Prop where
  kind : cp.kind = .cpy
  row : cp.row < cdRows cp.desc
  acked : cp.acked = []
  got : cp.got = none
  bar : cdBar cp.desc = 0#64
  srcField : isBufAddr (cdSrc cp.desc) = true
  dstField : isBufAddr (cdDst cp.desc) = true
  rowSrc : copyRowSrc .cpy cp.desc 0 cp.row = some src
  rowDst : copyRowDst .cpy cp.desc 0 cp.row = some dst
  srcSpace : bufSpace src.toNat = 1 ∨ bufSpace src.toNat = 2
  dstSpace : bufSpace dst.toNat = 0 ∨ bufSpace dst.toNat = 1
  apart : bufSpace src.toNat ≠ bufSpace dst.toNat
  srcIn : inBuffer src (cdLen cp.desc)
  dstIn : inBuffer dst (cdLen cp.desc)

/-- The first `k` bytes of the row have been moved. -/
def copied (s : State) (src dst : Word) (k : Nat) : State := withBytes s dst (bytesFrom s.core src k)

/-- The copy at `k` bytes of its row. -/
def atByte (cp : Copy) (k : Nat) (i : Option Nat) : Copy := { cp with off := k, idx := i }

section
variable (s : State) (src dst : Word)

theorem copied_core (k : Nat) : (copied s src dst k).core = { s.core with
    wb := (copied s src dst k).core.wb, ab := (copied s src dst k).core.ab, as := (copied s src dst k).core.as } := setBuf_eq _ _ _

theorem copies_copied (k : Nat) : (copied s src dst k).core.copies = s.core.copies := by rw [copied_core]
theorem cntCp_copied (k : Nat) : (copied s src dst k).core.cntCp = s.core.cntCp := by rw [copied_core]
theorem marks_copied (k : Nat) : (copied s src dst k).core.marks = s.core.marks := by rw [copied_core]

theorem reg_copied (k : Nat) (u : Sqr) (n : Nat) : (copied s src dst k).core.reg u n = s.core.reg u n := by
  rw [copied_core]
  cases u <;> rfl

theorem copied_zero : copied s src dst 0 = s := by
  have : s.core.putBytes (bufSpace dst.toNat) (bufOff dst.toNat) [] = s.core := setBuf_buf s.core _
  rw [copied, bytesFrom, Core.bufBytes, readBytes, List.range_zero, List.map_nil, withBytes, this]

end

/-- The copy with its row moved. -/
def rowDone (cp : Copy) : Copy := { cp with row := cp.row + 1, off := 0, idx := none }

/-- Length of the piece at `k` bytes of the row. -/
def pieceAt (cp : Copy) (dst : Word) (k : Nat) : Nat := pieceLen (dst + BitVec.ofNat 64 k) false (cdLen cp.desc - k)

theorem pieceAt_bounds {cp : Copy} (dst : Word) {k : Nat} (h : k < cdLen cp.desc) : 0 < pieceAt cp dst k ∧ k + pieceAt cp dst k ≤ cdLen cp.desc := by
  have hpos : 0 < 32 - (dst + BitVec.ofNat 64 k).toNat % 32 := Nat.sub_pos_of_lt (Nat.mod_lt _ (by decide))
  have hle : pieceAt cp dst k ≤ cdLen cp.desc - k := min_le_left _ _
  exact ⟨lt_min (Nat.sub_pos_of_lt h) hpos, by omega⟩

section
variable {s : State} {cp : Copy} {src dst : Word} (h : LocalRow cp src dst)
include h

/-- A further piece of the row. -/
theorem copied_add {k n : Nat} (hk : k ≤ cdLen cp.desc) : copied s src dst (k + n) = withBytes (copied s src dst k) (dst + BitVec.ofNat 64 k)
    (bytesFrom (copied s src dst k).core (src + BitVec.ofNat 64 k) n) := by
  obtain ⟨hs, ho⟩ := h.srcIn.addr hk
  obtain ⟨hd, hp⟩ := h.dstIn.addr hk
  have hb : bufSpace dst.toNat ≤ 2 := by have := h.dstSpace; omega
  simp only [withBytes, bytesFrom, hs, ho, hd, hp]
  simp only [copied, bytesFrom, withBytes, Core.putBytes, Core.bufBytes, buf_setBuf_same _ hb, buf_setBuf_other _ hb _ h.apart,
    setBuf_setBuf _ hb, readBytes_add, writeBytes_append, length_readBytes]

theorem movePiece_row (hm : s.core.marks = []) {k n : Nat} {i : Option Nat} (hn : n ≠ 0) (hk : k + n ≤ cdLen cp.desc) :
    movePiece (copied s src dst k) (atByte cp k i) (src + BitVec.ofNat 64 k) (dst + BitVec.ofNat 64 k) n
      = .ok (true, atByte cp k i, copied s src dst (k + n)) := by
  have hle : k ≤ cdLen cp.desc := by omega
  obtain ⟨hs, ho⟩ := h.srcIn.addr hle
  obtain ⟨hd, hp⟩ := h.dstIn.addr hle
  obtain ⟨-, hsi⟩ := h.srcIn
  obtain ⟨-, hdi⟩ := h.dstIn
  rw [copied_add h hle]
  refine movePiece_local h.got h.srcField (hs ▸ h.srcSpace) hn ?_ ((marks_copied s src dst k).trans hm) ?_ h.dstField h.bar (hd ▸ h.dstSpace) ?_
  · rw [hs, ho]; omega
  · simp [atByte, h.kind]
  · rw [hd, hp]; omega

/-- A burst that stands inside the row moves the next piece, and ends where the row does. -/
theorem burstPieces_piece (hm : s.core.marks = []) {fuel k budget : Nat} {i : Option Nat} (hi : i.getD 0 = 0) (hk : k < cdLen cp.desc)
    (hb : pieceAt cp dst k ≤ budget) : burstPieces (copied s src dst k) (atByte cp k i) budget (fuel + 1) =
      if cdLen cp.desc ≤ k + pieceAt cp dst k then .done (rowDone cp) (copied s src dst (k + pieceAt cp dst k))
      else burstPieces (copied s src dst (k + pieceAt cp dst k)) (atByte cp (k + pieceAt cp dst k) (some 0)) (budget - pieceAt cp dst k) fuel := by
  obtain ⟨hn, hle⟩ := pieceAt_bounds dst hk
  obtain ⟨hd, -⟩ := h.dstIn.addr hk.le
  have hwin : decide (8 ≤ bufSpace dst.toNat) = false := decide_eq_false (by have := h.dstSpace; omega)
  have hroom : ¬budget < pieceAt cp dst k := not_lt.2 hb
  have hmove := movePiece_row h hm (i := some 0) hn.ne' hle
  rw [burstPieces]
  simp only [atByte, rowDone, pieceAt, Copy.moved, not_le.2 h.row, decide_false, Bool.false_eq_true, if_false, h.kind, reduceCtorEq, or_self,
    false_and, hi, Copy.ackedNext, h.acked, List.find?_nil, Option.map_none, h.rowSrc, h.rowDst, h.dstField, h.srcField, hd, hwin,
    Bool.and_false, Bool.false_and, Bool.or_false, Bool.not_true, decide_eq_true_eq] at hmove hroom hn ⊢
  simp only [hroom, if_false, hmove, Copy.advance]
  by_cases hend : cdLen cp.desc ≤ k + pieceLen (dst + BitVec.ofNat 64 k) false (cdLen cp.desc - k)
  · simp only [hend, if_true]
  · simp only [hend, if_false]
    exact if_neg (by omega)

/-- The pieces of a row follow one another to its end. -/
theorem burstPieces_row (hm : s.core.marks = []) {fuel k budget : Nat} {i : Option Nat} (hi : i.getD 0 = 0) (hk : k < cdLen cp.desc)
    (hb : cdLen cp.desc - k ≤ budget) (hf : cdLen cp.desc - k ≤ fuel) :
    burstPieces (copied s src dst k) (atByte cp k i) budget fuel = .done (rowDone cp) (copied s src dst (cdLen cp.desc)) := by
  induction fuel generalizing k budget i with
  | zero => omega
  | succ fuel ih =>
    obtain ⟨hn, hle⟩ := pieceAt_bounds dst hk
    rw [burstPieces_piece h hm hi hk (by omega)]
    split
    next hend => rw [le_antisymm hle hend]
    next hend => exact ih rfl (not_le.1 hend) (by omega) (by omega)

theorem exec_copyBurst_row (ha : AloneInTurn s cp) (ho : cp.off = 0) (hi : cp.idx = none) (h1 : 1 ≤ cdLen cp.desc)
    (h4 : cdLen cp.desc ≤ 4096) : exec (.copyBurst s.lnum) s = .next { s with
      core := turned cp (rowDone cp.start) (copied s src dst (cdLen cp.desc)).core } := by
  have hv := served_alone ha (scale := false) (by rw [h.kind]; rfl)
  have hrow : LocalRow cp.start src dst := { h with }
  have h0 : atByte cp.start 0 none = cp.start := by rw [atByte, Copy.start, ← ho, ← hi]
  have hb := burstPieces_row hrow ha.marks (fuel := 4096) (budget := 4096) (i := none) rfl h1 h4 h4
  rw [copied_zero, h0] at hb
  have hx : copyBurst s = { s with core := turned cp (rowDone cp.start) (copied s src dst (cdLen cp.desc)).core } := by
    simp only [copyBurst, hv, hb]
    exact congrArg (fun c => { s with core := c }) (settle_single (x := rowDone cp.start)
      ((copies_copied s src dst _).trans ha.alone) ha.untimed ⟨rfl, rfl, rfl, rfl⟩ ⟨rfl, rfl⟩)
  refine congrArg Host.Outcome.next ((within_focused ?_).trans hx)
  rw [hx]

end

/-! ### Scale groups: R185 -/

/-- The copy with its scale group pushed. -/
def groupDone (cp : Copy) : Copy := { cp with row := cp.row + 1 }

/-- The core with the group at a buffer address in the SCLQ. -/
def withGroup (c : Core) (a : Word) (hyp : BitVec 8) : Core := { c with sclq := c.sclq.push ⟨bytesFrom c a 64, hyp⟩ }

theorem exec_scaleGroupPush {s : State} {cp : Copy} {src : Word} (h : AloneInTurn s cp) (hk : cp.kind = .sclLd) (hg : cp.got = none)
    (hb : isBufAddr (cdSrc cp.desc) = true) (ha : rowAddr (cdSrc cp.desc) (cdSstr cp.desc) cp.row = some src)
    (hsp : bufSpace src.toNat = 1 ∨ bufSpace src.toNat = 2) (hi : bufOff src.toNat + 64 ≤ spaceSize (bufSpace src.toNat)) :
    exec (.scaleGroupPush s.lnum) s = .next { s with core := turned cp (groupDone cp.start) (withGroup s.core src cp.hyp) } := by
  have hv := served_alone h (scale := true) (by rw [hk]; rfl)
  have ha' : rowAddr (cdSrc cp.start.desc) (cdSstr cp.start.desc) cp.start.row = some src := ha
  have hsrc := sourceBytes_local (cp := cp.start) (n := 64) hg hb hsp (by decide) hi h.marks
  have hx : scalePush s = { s with core := turned cp (groupDone cp.start) (withGroup s.core src cp.hyp) } := by
    simp only [scalePush, hv, ha', hsrc]
    exact congrArg (fun c => { s with core := c }) (settle_single (c := withGroup s.core src cp.hyp) (x := groupDone cp.start) h.alone
      h.untimed ⟨rfl, rfl, rfl, rfl⟩ ⟨rfl, rfl⟩)
  refine congrArg Host.Outcome.next ((within_focused ?_).trans hx)
  rw [hx]

/-! ### The events -/

/-- Settles O35: due times by the copies' own test; a burst by its pieces, which follow one another to the end of the row; a scale
group by the 64 bytes of its row. -/
theorem copyEngineEvents : Obligations.CopyEngineEvents := by
  refine ⟨exec_timedCopyDue, ?_, ?_⟩
  · intro s cp src dst hr hc hk ht hf hg hi ho hrow hbar hs hacked hsf hdf len a b o p h1 h4 hsrc hdst hsw hdw hd8 ha hb hab hoa hpb hm
    have h : LocalRow cp src dst := ⟨hk, hrow, hacked, hg, hbar, isBufAddr_of_lt hsf, isBufAddr_of_lt hdf, hsrc, hdst, ha, hb, hab,
      ⟨hsw, hoa⟩, ⟨hdw, hpb⟩⟩
    have hal : AloneInTurn s cp := ⟨hr, hc, ht, hrow, hf, hs, hd8, fun hq => absurd (hk.symm.trans hq) nofun, hm⟩
    have hb2 : b ≤ 2 := by omega
    have hbuf : (copied s src dst len).core.buf b = writeBytes (s.core.buf b) p (readBytes (s.core.buf a) o len) :=
      buf_setBuf_same s.core hb2 _
    refine ⟨_, exec_copyBurst_row h hal ho hi h1 h4, fun k hk => ?_, fun x hx => ?_, fun z hz => ?_, rfl, fun u n => ?_,
      fun hl hw => ?_, fun hl => ?_⟩
    · exact (congrArg (Tab.get · (p + k)) hbuf).trans (get_writeBytes_readBytes _ _ _ _ hk)
    · refine (congrArg (Tab.get · x) hbuf).trans ?_
      rw [get_writeBytes, length_readBytes, if_neg hx]
    · exact buf_setBuf_other s.core hb2 _ hz
    · exact (reg_turned cp _ _ u n).trans (reg_copied s src dst len u n)
    · obtain ⟨hcp, hn⟩ := turned_last (c := (copied s src dst len).core) (x := rowDone cp.start) hl hw
      exact ⟨hcp, hn.trans (congrArg (· - 1) (cntCp_copied s src dst len))⟩
    · obtain ⟨hcp, hn⟩ := turned_more (c := (copied s src dst len).core) (x := rowDone cp.start) hl
      exact ⟨_, hcp, rfl, rfl, rfl, hn.trans (cntCp_copied s src dst len)⟩
  · intro s cp src hr hc hk ht hf hg hrow hs hq hsf hd0 hsrc hsw a o ha hin hm
    have hal : AloneInTurn s cp := ⟨hr, hc, ht, hrow, hf, hs, by rw [hd0]; decide, fun _ => hq, hm⟩
    refine ⟨_, exec_scaleGroupPush hal hk hg (isBufAddr_of_lt hsf) hsrc ha hin, rfl, turned_last, fun hl => ?_, rfl, rfl, rfl, rfl⟩
    obtain ⟨hcp, hn⟩ := turned_more hl
    exact ⟨⟨_, hcp, rfl⟩, hn⟩

end Sys2Proof.Proofs
end

section
/-! A relocatable command is pulled by a sibling (R197). -/
namespace Sys2Proof.Proofs
open Sys2Proof.Machine Sys2Proof.Safety Sys2Proof.Laws

/-! ### Acting on another core -/

/-- Acting on core `n` is seen in the records of the cores as it leaves them with `n` in focus. -/
theorem coreAt_within (n m : Nat) (f : State → State) (s : State) : (Machine.within n f s).coreAt m = (f (focus n s)).coreAt m :=
  coreAt_focus _ _ _

/-- A change of core `n` is in its own record only. -/
theorem coreAt_within_mapCore (n m : Nat) (f : Core → Core) (s : State) :
    (Machine.within n (fun s => s.mapCore f) s).coreAt m = if m = n then f (s.coreAt n) else s.coreAt m := by
  rw [coreAt_within, coreAt_mapCore, focus_lnum, focus_core, coreAt_focus]

/-! ### Who pulls, and what -/

theorem pullable_oldest {s : State} {issuer : Nat} {c : Command} {rest : List Command} (hm : (s.coreAt issuer).mode = .running)
    (hr : (s.coreAt issuer).me.run.isSome = true) (hq : (s.coreAt issuer).me.cmdq.items = c :: rest) (hc : c.reloc = true)
    (hp : (s.coreAt issuer).pend = []) : pullable s issuer = some c := by
  simp [pullable, hq, hm, hr, hc, Core.gated, hp]

/-- Of the cores of a cluster that may pull, the lowest one does. -/
theorem pullCandidate_lowest {s : State} {issuer n : Nat} (hc : n / 8 = issuer / 8) (hn : canPull s issuer n = true)
    (hl : ∀ m, m / 8 = issuer / 8 → m < n → canPull s issuer m = false) : pullCandidate s issuer = some n := by
  have hfirst : (List.range 8).find? ((fun m => canPull s issuer m) ∘ fun k => issuer - issuer % 8 + k) = some (n % 8) := by
    rw [List.find?_range_eq_some]
    refine ⟨?_, List.mem_range.mpr (Nat.mod_lt _ (by decide)), fun k hk => ?_⟩
    · rw [Function.comp_apply, show issuer - issuer % 8 + n % 8 = n by omega, hn]
    · rw [Function.comp_apply, hl _ (by omega) (by omega), Bool.not_false]
  rw [pullCandidate, clusterCores, List.find?_map, hfirst, Option.map_some]
  exact congrArg some (by omega)

/-! ### The puller and the issuer afterwards -/

/-- The issuer without the command at the head of its ME's queue. -/
def withoutCommand (k : Core) : Core := { k with me := { k.me with cmdq := k.me.cmdq.pop cmdqDepth } }

/-- A core that sets its own ME state aside for a command of core `issuer`. -/
def setAside (issuer : Nat) (k : Core) : Core :=
  { k with
    meOwn := some k.me, tOwn := k.t, t := [], latch := k.latch.clear
    me := { (default : Engine) with cmdq := k.me.cmdq, bq := k.me.bq, imem := k.me.imem, rtab := k.me.rtab, reloc := some issuer } }

/-- A core with the routine of command `c` begun on its ME. -/
def begunMe (c : Command) (k : Core) : Core :=
  { k with me := { k.me with run := some c, e := (k.me.e.set 1 c.a).set 2 c.b, upc := (k.me.rtab.get c.entry.toNat).toNat / 4 % 2 ^ 14 * 4 } }

/-- A core whose ME has pulled command `c` from core `issuer` (R197). -/
def pulledCore (issuer : Nat) (c : Command) (k : Core) : Core := begunMe c (setAside issuer k)

theorem startRoutine_me {s : State} {c : Command} (hv : (s.core.me.rtab.get c.entry.toNat).getLsbD 31 = true) :
    startRoutine s .me c = s.mapCore (begunMe c) := by
  have hme : Sqr.me ≠ .cc := nofun
  replace hv : ((s.core.eng .me).rtab.get c.entry.toNat).getLsbD 31 = true := hv
  simp only [startRoutine, mapCore_mapCore, mapCore_core, setReg_of_engine _ hme one_ne_zero, setReg_of_engine _ hme two_ne_zero, mapEng_mapEng,
    eng_mapEng_same _ hme, hv, if_true]
  rfl

theorem reg_pulledCore_me (issuer : Nat) (c : Command) (k : Core) (r : Nat) :
    (pulledCore issuer c k).reg .me r = if r = 2 then c.b else if r = 1 then c.a else 0#64 := by
  obtain rfl | h0 := eq_or_ne r 0
  · rfl
  · refine (if_neg h0).trans ((get_set _ 2 c.b r).trans ?_)
    rw [get_set]
    rfl

theorem reg_pulledCore_other (issuer : Nat) (c : Command) (k : Core) {u : Sqr} (h : u ≠ .me) (r : Nat) :
    (pulledCore issuer c k).reg u r = k.reg u r := by
  cases u <;> first | rfl | contradiction

/-- The state after the pull (R197). -/
def pulled (issuer n : Nat) (c : Command) (s : State) : State :=
  Machine.within n (fun s => { s with unit := .me }.mapCore (pulledCore issuer c)) (Machine.within issuer (fun s => s.mapCore withoutCommand) s)

theorem coreAt_pulled {s : State} {issuer n : Nat} (c : Command) (hne : n ≠ issuer) (m : Nat) : (pulled issuer n c s).coreAt m =
    if m = n then pulledCore issuer c (s.coreAt n) else if m = issuer then withoutCommand (s.coreAt issuer) else s.coreAt m := by
  have h := coreAt_mapCore (focus n (Machine.within issuer (fun s => s.mapCore withoutCommand) s)) (pulledCore issuer c) m
  rw [focus_lnum, focus_core, coreAt_focus, coreAt_within_mapCore, coreAt_within_mapCore, if_neg hne] at h
  exact (coreAt_within n m _ _).trans h

theorem mem_pulled (issuer n : Nat) (c : Command) (s : State) : (pulled issuer n c s).mem = s.mem := by
  simp only [pulled, Machine.within, focus_mem, mapCore_mem]

theorem exec_relocCommandPull {s : State} {issuer n : Nat} {c : Command} (hc : pullable s issuer = some c)
    (hn : pullCandidate s issuer = some n) (hne : n ≠ issuer) (hv : ((s.coreAt n).me.rtab.get c.entry.toNat).getLsbD 31 = true) :
    exec (.relocCommandPull issuer) s = .next (pulled issuer n c s) := by
  have hcore : (focus n (Machine.within issuer (fun s => s.mapCore withoutCommand) s)).core = s.coreAt n := by
    rw [focus_core, coreAt_within_mapCore, if_neg hne]
  have hx : exec (.relocCommandPull issuer) s = execRelocCommandPull issuer s := rfl
  rw [hx, execRelocCommandPull, hc, hn]
  rw [← hcore] at hv
  exact congrArg (fun t => Host.Outcome.next (focus (Machine.within issuer (fun s => s.mapCore withoutCommand) s).lnum t)) (startRoutine_me hv)

/-- Settles O33: the records of the issuer and of the lowest sibling that may pull, as the pull leaves them. -/
theorem relocatedPull : Obligations.RelocatedPull := by
  intro s issuer n c rest i p hm hr hq hc hp hcl hne hn hl hv
  have hissuer : (pulled issuer n c s).coreAt issuer = withoutCommand i := by rw [coreAt_pulled c hne, if_neg hne.symm, if_pos rfl]
  have hpuller : (pulled issuer n c s).coreAt n = pulledCore issuer c p := by rw [coreAt_pulled c hne, if_pos rfl]
  have hpop : (withoutCommand i).me.cmdq.items = rest := by
    change (i.me.cmdq.pop cmdqDepth).items = rest
    simp only [Queue.pop, hq]
  refine ⟨_, exec_relocCommandPull (pullable_oldest hm hr hq hc hp) (pullCandidate_lowest hcl hn hl) hne hv, ?_⟩
  rw [hissuer, hpuller]
  refine ⟨hpop, rfl, rfl, rfl, reg_pulledCore_me issuer c p 1, reg_pulledCore_me issuer c p 2, fun r hr => ?_, fun k => rfl, fun k => rfl, rfl, rfl,
    rfl, fun u r hu => reg_pulledCore_other issuer c p hu r, mem_pulled issuer n c s⟩
  rw [reg_pulledCore_me, if_neg (by omega), if_neg (by omega)]

end Sys2Proof.Proofs
end

section
/-! What the checks of a tile command look at: neither ring tokens nor vector word numbers; and where the operands of an accepted command lie. -/
namespace Sys2Proof.Proofs
open Sys2Proof.Machine Sys2Proof.Safety Sys2Proof.Laws

/-! ### The ring waits and the commits of earlier commands -/

/-- The core with other ring tokens and another vector word number. -/
def coreWaits (t : Tab TokenFifo) (v : Nat) (c : Core) : Core := { c with tokens := t, vword := v }

section
variable (t : Tab TokenFifo) (v : Nat) (c : Core)

theorem setBuf_coreWaits (space : Nat) (m : Tab Byte) : (coreWaits t v c).setBuf space m = coreWaits t v (c.setBuf space m) := by
  unfold Core.setBuf
  split <;> rfl

theorem buf_coreWaits (space : Nat) : (coreWaits t v c).buf space = c.buf space := rfl

theorem putRange_coreWaits (space off : Nat) (bs : List Byte) : (coreWaits t v c).putRange space off bs = coreWaits t v (c.putRange space off bs) :=
  setBuf_coreWaits t v c space _

theorem commitMm_coreWaits (x : Tile) (g da db z : Bool) (wa wb : Option (List (Nat × List Byte))) (l : Option (Tab Byte)) :
    commitMm (coreWaits t v c) x g da db z wa wb l = ((commitMm c x g da db z wa wb l).map (coreWaits t v) id) := by
  refine Prod.ext ?_ rfl
  unfold commitMm
  simp only [Prod.map_fst]
  split
  · rfl
  · exact putRange_coreWaits t v c _ _ _

theorem commitRd_coreWaits (x : Tile) : commitRd (coreWaits t v c) x = (commitRd c x).map (coreWaits t v) id :=
  Prod.ext (List.foldl_hom (coreWaits t v) fun _ _ => putRange_coreWaits t v _ _ _ _) rfl

theorem commitTile_coreWaits (l : OpLatch) (x : Tile) :
    commitTile (coreWaits t v c) l x = (commitTile c l x).map (coreWaits t v) id := by
  unfold commitTile
  cases x.cmd
  case mm => simp only [commitMm_coreWaits]; rfl
  case mmG => simp only [commitMm_coreWaits]; rfl
  case accRd => simp only [commitRd_coreWaits]; rfl
  all_goals rfl

theorem afterTiles_coreWaits (l : OpLatch) (me : Nat) : (coreWaits t v c).afterTiles l me = coreWaits t v (c.afterTiles l me) := by
  have h := List.foldl_hom (Prod.map (coreWaits t v) (id : OpLatch → OpLatch)) (init := (c, l))
    (l := c.tiles.filter (fun x => x.me == me)) (g₁ := fun p x => ((commitTile p.1 p.2 x).1, (commitTile p.1 p.2 x).2.1))
    (g₂ := fun p x => ((commitTile p.1 p.2 x).1, (commitTile p.1 p.2 x).2.1)) (fun p x => by
      rw [Prod.map_fst, Prod.map_snd, id, commitTile_coreWaits]
      rfl)
  exact congrArg Prod.fst h

theorem tileChecks_coreWaits (d : Core) (i : Instr) (f : Word) (reloc : Bool) (ts : Tab (BitVec 128)) :
    tileChecks (coreWaits t v c) (coreWaits t v d) i f reloc ts = tileChecks c d i f reloc ts := rfl

end

/-! ### Operands of an accepted command -/

theorem tileChecks_spaces {c d : Core} {i : Instr} {f : Word} {reloc : Bool} {ts : Tab (BitVec 128)} {rows : List Nat}
    (h : tileChecks c d i f reloc ts = .ok rows) : (tileOperands i f reloc (tileDescs i ts) []).findSome? TileOperand.spaceFault = none := by
  unfold tileChecks at h
  replace h := ok_of_check h
  simp only [] at h
  split at h
  next => cases h
  next =>
    split at h
    next => cases h
    next hs => exact hs

/-- Outside a relocatable command every operand is of a local space. -/
theorem tileOperands_local {i : Instr} {f : Word} {ds : List (BitVec 128)} {o : TileOperand} (h : o ∈ tileOperands i f false ds []) :
    o.window = false ∧ ∀ sp ∈ o.spaces, sp < 8 := by
  unfold tileOperands at h
  split at h <;> fin_cases h <;> simp [operandC, operandLines]

theorem operandParts_of_spaceFault {o : TileOperand} (hw : o.window = false) (hl : ∀ sp ∈ o.spaces, sp < 8) (h : o.spaceFault = none)
    (l : List Nat × Nat × Nat) : operandParts (o.d, l) = [] := by
  refine if_pos ?_
  simp only [TileOperand.spaceFault, hw, Bool.false_and, Bool.or_false, ite_eq_left_iff, reduceCtorEq, imp_false, not_not,
    List.contains_iff_mem] at h
  exact hl _ h

/-- The lines that a command accesses are of the operands that its checks look at. -/
theorem operandLines_checked {x : Tile} {l : BitVec 128 × List Nat × Nat × Nat} (h : l ∈ x.operandLines) :
    ∃ o ∈ tileOperands x.cmd x.fmt false x.descs [], o.d = l.1 := by
  unfold Tile.operandLines at h
  unfold tileOperands
  split at h <;> fin_cases h <;> simp [operandC, operandLines, *]

/-- A command that has passed its checks outside a relocatable command has no operand in a window. -/
theorem windowed_of_tileChecks {c d : Core} {x : Tile} {ts : Tab (BitVec 128)} {rows : List Nat}
    (h : tileChecks c d x.cmd x.fmt false ts = .ok rows) (hd : x.descs = tileDescs x.cmd ts) : x.windowed = false := by
  have hs := tileChecks_spaces h
  rw [List.findSome?_eq_none_iff, ← hd] at hs
  rw [Tile.windowed, List.any_eq_false]
  intro l hl
  obtain ⟨o, ho, hod⟩ := operandLines_checked hl
  obtain ⟨hw, hsp⟩ := tileOperands_local ho
  have hp := operandParts_of_spaceFault hw hsp (hs o ho) l.2
  rw [hod] at hp
  simp only [hp, List.isEmpty_nil, Bool.not_true, Bool.false_eq_true, not_false_eq_true]

end Sys2Proof.Proofs
end

section
/-! Matrix words: what the acceptance of a tile command comes to (R192–R194, R425), and TD.SET (R200). -/
namespace Sys2Proof.Proofs
open Sys2Proof.Machine Sys2Proof.Safety Sys2Proof.Laws

/-! ### Queues and the tile commands of a core -/

/-- Entries taken from a queue one by one. -/
theorem popped_queue {α : Type} (q : Queue α) (d n : Nat) (h : n ≤ q.items.length) :
    (List.range n).foldl (fun q _ => q.pop d) q = if n = 0 then q else ⟨(q.head + n) % d, q.items.drop n⟩ := by
  rw [List.foldl_const, List.length_range]
  induction n generalizing q with
  | zero => rfl
  | succ n ih =>
    obtain ⟨k, _ | ⟨x, xs⟩⟩ := q
    · exact absurd h (Nat.not_succ_le_zero n)
    · rw [Function.iterate_succ_apply, Queue.pop, ih _ (Nat.succ_le_succ_iff.mp h), if_neg n.succ_ne_zero]
      obtain rfl | hn := eq_or_ne n 0
      · rfl
      · rw [if_neg hn, Nat.mod_add_mod, Nat.add_right_comm, Nat.add_assoc]
        rfl

theorem items_popped_all {α : Type} (q : Queue α) (d : Nat) : ((List.range q.items.length).foldl (fun q _ => q.pop d) q).items = [] := by
  rw [popped_queue q d _ le_rfl]
  split
  next h => exact List.length_eq_zero_iff.mp h
  next => exact List.drop_length

theorem askTiles_asked {s : State} (h : ∀ x ∈ s.core.tiles, x.asked = true) : askTiles s = s := by
  unfold askTiles
  refine List.foldlRecOn _ _ (motive := fun t => t = s) rfl fun t ht k _ => ?_
  subst ht
  split
  · rfl
  next x hx => rw [h x (List.mem_of_getElem? hx)]; rfl

/-- The core with a further tile command, its youngest. -/
def joined (x : Tile) (c : Core) : Core := { c with tiles := c.tiles ++ [x], cntTl := c.cntTl + 1 }

/-- A command without operands in windows joins the tile commands of the core in focus, and nothing is asked for. -/
theorem acceptTile_local {s : State} {x : Tile} (hw : x.windowed = false) (hx : x.asked = true) (h : ∀ y ∈ s.core.tiles, y.asked = true) :
    acceptTile s s.lnum x = s.mapCore (joined x) := by
  have he : ({ x with asked := !x.windowed } : Tile) = x := by rw [hw, Bool.not_false, ← hx]
  have ha : askTiles (s.mapCore (joined x)) = s.mapCore (joined x) := by
    refine askTiles_asked fun y hy => ?_
    obtain hy | hy := List.mem_append.mp hy
    · exact h y hy
    · rw [List.mem_singleton.mp hy, hx]
  rw [acceptTile, he]
  exact (within_focused (f := fun s => askTiles (s.mapCore (joined x))) ((congrArg State.lnum ha).trans (mapCore_lnum s _))).trans ha

/-! ### Acceptance -/

/-- Nothing stands in the way of a tile command of the core's own ME: it is no relocatable command or replay, no format word waits to
be released, and there is room for it (R194, R425). -/
structure TileRoom (s : State) (i : Instr) : Prop where
  reloc : s.inReloc = false
  own : s.core.meOwn = none
  fresh : s.core.tileReplay = none
  gates : ∀ e ∈ s.core.pend, e.kind ≠ .gate 8
  flying : s.tilesInFlight < 4
  index : s.indexWaits i s.core = false
  count : s.core.cntTl < 65535
  asked : ∀ y ∈ s.core.tiles, y.asked = true

theorem tilesInFlight_takeRing (i : Instr) (s : State) : (takeRing i s).tilesInFlight = s.tilesInFlight := by
  have h (n : Nat) : ((takeRing i s).coreAt n).tiles = (s.coreAt n).tiles := by
    rw [takeRing_eq]
    unfold State.coreAt
    split <;> rfl
  have hl : (takeRing i s).lnum = s.lnum := by rw [takeRing_eq]
  simp only [State.tilesInFlight, h, hl]

theorem TileRoom.takeRing {s : State} {i : Instr} (h : TileRoom s i) (j : Instr) : TileRoom (Machine.takeRing j s) i where
  flying := by rw [tilesInFlight_takeRing]; exact h.flying
  reloc := by rw [takeRing_eq]; exact h.reloc
  own := by rw [takeRing_eq]; exact h.own
  fresh := by rw [takeRing_eq]; exact h.fresh
  gates := by rw [takeRing_eq]; exact h.gates
  index := by rw [takeRing_eq]; exact h.index
  count := by rw [takeRing_eq]; exact h.count
  asked := by rw [takeRing_eq]; exact h.asked

/-- The checks of a tile command of the core's own ME in this state (R425). -/
abbrev ownChecks (s : State) (i : Instr) (w : Word) : Except Flt (List Nat) :=
  tileChecks s.core (s.core.afterTiles s.core.latch s.lnum) i w false s.core.t

theorem ownChecks_takeRing (j : Instr) (s : State) (i : Instr) (w : Word) : ownChecks (takeRing j s) i w = ownChecks s i w := by
  rw [takeRing_eq]
  refine (congrArg (fun d => tileChecks _ d i w false _) (afterTiles_coreWaits _ _ s.core _ _)).trans ?_
  exact tileChecks_coreWaits _ _ s.core _ i w false _

/-- The state without the format word at the head of FMTQ, and with the command recorded for the frame; a relocatable command takes none (R192). -/
def wordTaken (i : Instr) (w : Word) (scales : List (List Byte)) (s : State) : State :=
  if s.inReloc then s else (s.mapCore (fun c => { c with fmtq := c.fmtq.pop fmtqDepth })).mapCore (fun c => { c with
    tileReplay := some (recordTile s i w scales) })

/-- The state without `n` scale entries. -/
def scalesTaken (n : Nat) (s : State) : State :=
  s.mapCore (fun c => { c with sclq := (List.range n).foldl (fun q _ => q.pop sclqDepth) c.sclq })

/-- The state without what an accepted command takes. -/
def allTaken (n : Nat) (s : State) : State :=
  let t := scalesTaken n (s.mapCore (fun c => { c with fmtq := c.fmtq.pop fmtqDepth }))
  if t.inReloc then t else t.mapCore (fun c => { c with tileReplay := none })

/-- The scale entries that a tile command with format word `w` takes (R193). -/
abbrev ownNeed (s : State) (i : Instr) (w : Word) : Nat := scalesNeeded i w (tdK ((tileDescs i s.core.t).getD 1 0#128))

/-- A command as it joins the tile commands, with `n` scale entries. -/
def ownTile (s : State) (i : Instr) (w : Word) (rows : List Nat) (n : Nat) : Tile :=
  ⟨i, w, tileDescs i s.core.t, rows, (s.core.sclq.items.take n).map (·.bytes), s.lnum, false, [], [], false, s.core.latch.gen, true,
    s.core.groupWord .me⟩

/-- The core without the format word at the head of FMTQ, before `rest`, and without `n` scale entries. -/
def wordsTaken (rest : List (Word × BitVec 8)) (n : Nat) (q : Core) : Core :=
  { q with fmtq := ⟨(q.fmtq.head + 1) % 16, rest⟩, sclq := if n = 0 then q.sclq else ⟨(q.sclq.head + n) % 64, q.sclq.items.drop n⟩ }

section
variable {s : State} {i : Instr} (h : TileRoom s i)
include h

theorem tileHome_of_room : s.tileHome = s.lnum := by
  rw [State.tileHome, h.own]
  rfl

theorem not_full_of_room : ¬(4 ≤ s.tilesInFlight ∨ counterMax ≤ s.core.cntTl ∨ s.indexWaits i s.core = true) := by
  rintro (hf | hc | hx)
  · exact absurd h.flying (by omega)
  · exact absurd h.count (Nat.not_lt.mpr hc)
  · rw [h.index] at hx
    cases hx

theorem not_gated_of_room {n : Nat} (hn : n ≠ 0) : s.core.gated .cc 8 n = false := by
  have hp : s.core.pend.filter (fun a => a.unit == .cc && a.kind == .gate 8) = [] := by
    rw [List.filter_eq_nil_iff]
    intro a ha
    simp [h.gates a ha]
  simp [Core.gated, hp, hn]

theorem tileCommand_noWord (hq : s.core.fmtq.items = []) : tileCommand i s = .fault ⟨0x07, 0, 0#64⟩ := by
  have hw : tileWord s = none := by simp [tileWord, h.reloc, h.fresh, hq]
  simp only [tileCommand, tileHome_of_room h, coreAt_lnum, if_neg (not_full_of_room h), hq, hw, List.isEmpty_nil, Bool.not_true, Bool.and_false,
    Bool.false_and, Bool.false_eq_true, if_false]
  rfl

variable {w : Word} {hyp : BitVec 8} {rest : List (Word × BitVec 8)} (hq : s.core.fmtq.items = (w, hyp) :: rest)
include hq

/-- With a format word queued, a command with room is decided by its checks and its scale entries. -/
theorem tileCommand_word : tileCommand i s = match ownChecks s i w with
    | .error e => .spent (wordTaken i w []) e
    | .ok rows =>
      let popped := (s.core.sclq.items.take (ownNeed s i w)).map (·.bytes)
      if popped.length < ownNeed s i w then
        if s.core.sclOutstanding then .blocked (fun s => scalesTaken popped.length (wordTaken i w popped s)) 9
        else .spent (fun s => scalesTaken popped.length (wordTaken i w popped s)) ⟨0x08, 0, 0#64⟩
      else .next (acceptTile (allTaken popped.length s) s.lnum { recordTile s i w (popped.take (ownNeed s i w)) with rows := rows }) := by
  have hw : tileWord s = some (w, fun s => s.mapCore (fun c => { c with fmtq := c.fmtq.pop fmtqDepth })) := by
    simp [tileWord, h.reloc, h.fresh, hq]
  have hg : s.core.gated .cc 8 s.core.fmtq.items.length = false := not_gated_of_room h (by simp [hq])
  simp only [tileCommand, tileHome_of_room h, coreAt_lnum, if_neg (not_full_of_room h), hg, hw, h.reloc, h.fresh, Bool.and_false,
    Bool.false_eq_true, if_false]
  rfl

/-- A command that faults has its word off FMTQ and in its record, and has not joined the tile commands. -/
theorem wordTaken_core (scales : List (List Byte)) : (wordTaken i w scales s).core.fmtq.items = rest
      ∧ (wordTaken i w scales s).core.tileReplay.map (·.fmt) = some w ∧ (wordTaken i w scales s).core.tiles = s.core.tiles
      ∧ (wordTaken i w scales s).core.sclq = s.core.sclq := by
  rw [wordTaken, if_neg (Bool.eq_false_iff.mp h.reloc)]
  refine ⟨?_, rfl, rfl, rfl⟩
  simp only [mapCore_core, Queue.pop, hq]

theorem tileCommand_refused {f : Flt} (hc : ownChecks s i w = .error f) : tileCommand i s = .spent (wordTaken i w []) f := by
  rw [tileCommand_word h hq, hc]

theorem allTaken_of_room {n : Nat} (hn : n ≤ s.core.sclq.items.length) : allTaken n s = s.mapCore (wordsTaken rest n) := by
  have hf : s.core.fmtq.pop fmtqDepth = ⟨(s.core.fmtq.head + 1) % 16, rest⟩ := by
    rw [Queue.pop, hq]
    rfl
  refine (if_neg (Bool.eq_false_iff.mp h.reloc)).trans ?_
  simp only [scalesTaken, wordsTaken, State.mapCore, popped_queue _ _ _ hn, hf, ← h.fresh]
  rfl

variable {rows : List Nat} (hc : ownChecks s i w = .ok rows)
include hc

theorem tileCommand_lacks (hn : s.core.sclq.items.length < ownNeed s i w) (hs : ∀ x ∈ s.core.copies, x.kind ≠ .sclLd) :
    ∃ scales, tileCommand i s = .spent (fun t => scalesTaken s.core.sclq.items.length (wordTaken i w scales t)) ⟨0x08, 0, 0#64⟩ := by
  have hl : ((s.core.sclq.items.take (ownNeed s i w)).map (·.bytes)).length = s.core.sclq.items.length := by
    rw [List.take_of_length_le hn.le, List.length_map]
  have ho : s.core.sclOutstanding = false := by
    rw [Core.sclOutstanding, List.any_eq_false]
    exact fun x hx => by simp [hs x hx]
  refine ⟨(s.core.sclq.items.take (ownNeed s i w)).map (·.bytes), ?_⟩
  rw [tileCommand_word h hq, hc]
  simp only [hl, hn, if_true, ho, Bool.false_eq_true, if_false]

theorem tileCommand_accepts (hn : ownNeed s i w ≤ s.core.sclq.items.length) :
    tileCommand i s = .next (s.mapCore (fun q => joined (ownTile s i w rows (ownNeed s i w)) (wordsTaken rest (ownNeed s i w) q))) := by
  have hl : ((s.core.sclq.items.take (ownNeed s i w)).map (·.bytes)).length = ownNeed s i w := by
    rw [List.length_map, List.length_take_of_le hn]
  have hw : ({ recordTile s i w ((s.core.sclq.items.take (ownNeed s i w)).map (·.bytes)) with rows := rows } : Tile) =
      ownTile s i w rows (ownNeed s i w) := by
    simp only [recordTile, ownTile, h.reloc]
  have hlocal : (ownTile s i w rows (ownNeed s i w)).windowed = false := windowed_of_tileChecks hc rfl
  rw [tileCommand_word h hq, hc]
  simp only [hl, lt_irrefl, if_false, List.take_of_length_le hl.le, hw, allTaken_of_room h hq hn]
  exact congrArg WordResult.next (acceptTile_local (s := s.mapCore (wordsTaken rest (ownNeed s i w))) hlocal rfl h.asked)

end

/-! ### The words -/

/-- Settles O36: a tile command with room is decided by its format word, then its checks, then its scale entries; what the checks look
at is no ring token, and a command that passes them outside a relocatable command has no operand in a window. -/
theorem matrixWords : Obligations.MatrixWords := by
  intro s r c a b k z y x ix tile
  have htile (i : Instr) (hx : exec i s = .next (issue i (tileCommand i) s)) : tile i := by
    intro hre hown hrep hgate hfl hix htl hask after
    have hr : TileRoom s i := ⟨hre, hown, hrep, hgate, hfl, hix, htl, hask⟩
    have ht := hr.takeRing i
    have hitems : (takeRing i s).core.fmtq.items = s.core.fmtq.items := by rw [takeRing_eq]
    have hscales : (takeRing i s).core.sclq = s.core.sclq := by rw [takeRing_eq]
    have hcopies : (takeRing i s).core.copies = s.core.copies := takeRing_copies i s
    have hneed (w : Word) : ownNeed (takeRing i s) i w = ownNeed s i w := by rw [takeRing_eq]
    refine ⟨fun hq => exec_of_fault hx (tileCommand_noWord ht (hitems.trans hq)), fun w h rest hq => ?_⟩
    have hq' := hitems.trans hq
    refine ⟨fun f hc hi => ?_, fun rows hc => ⟨fun hn hi => ?_, fun hn hcp hi => ?_⟩⟩
    · obtain ⟨hf, hw, hts, -⟩ := wordTaken_core hr hq []
      exact ⟨_, exec_of_spent hx (tileCommand_refused ht hq' ((ownChecks_takeRing i s i w).trans hc)) hi, hf, hw, hts⟩
    · have hb := tileCommand_accepts ht hq' ((ownChecks_takeRing i s i w).trans hc) (by rw [hneed, hscales]; exact hn)
      rw [hneed] at hb
      exact completes_of_ok hx hb hi
    · obtain ⟨scales, hb⟩ := tileCommand_lacks ht hq' ((ownChecks_takeRing i s i w).trans hc) (by rw [hneed, hscales]; exact hn) (by rwa [hcopies])
      rw [hscales] at hb
      obtain ⟨hf, -, -, hsq⟩ := wordTaken_core hr hq scales
      refine ⟨_, exec_of_spent hx hb hi, hf, ?_⟩
      rw [← hsq]
      exact items_popped_all _ sclqDepth
  exact ⟨htile _ rfl, htile _ rfl, htile _ rfl, htile _ rfl, htile _ rfl, completes_of_ok rfl rfl⟩

end Sys2Proof.Proofs
end

section
/-! The commit of the oldest tile command (R192–R194). -/
namespace Sys2Proof.Proofs
open Sys2Proof.Machine Sys2Proof.Safety Sys2Proof.Laws

/-- The core after its oldest tile command `q` has taken the scale entry `e` at the head of the SCLQ (R192, R193). -/
def withScales (q : Tile) (e : ScaleEntry) (c : Core) : Core :=
  { c with sclq := c.sclq.pop sclqDepth, tiles := c.tiles.set 0 { q with scales := q.scales ++ [e.bytes] } }

/-- A command that lacks scale entries does not commit: it takes the next entry of the SCLQ, as at its acceptance (R192, R193). -/
theorem exec_tileCommit_short {s : State} {q : Tile} {e : ScaleEntry} {rest : List Tile} {es : List ScaleEntry}
    (hm : s.core.mode = .running) (ht : s.core.tiles = q :: rest) (hr : q.ready = true) (hs : 0 < q.short)
    (he : s.core.sclq.items = e :: es) : exec (.tileCommit s.lnum) s = .next (s.mapCore (withScales q e)) := by
  have hf : q.failed = false := by
    simp only [Tile.ready, Bool.and_eq_true, Bool.not_eq_true'] at hr
    exact hr.1.1
  have hhead : s.core.tiles.head?.filter (fun t => !t.failed && decide (0 < t.short)) = some q := by simp [ht, Option.filter, hf, hs]
  have hx : commitNext s = s.mapCore (withScales q e) := by
    simp only [commitNext, hhead, hm, popForReplay, he]
    rfl
  refine congrArg Host.Outcome.next ((within_focused ?_).trans hx)
  rw [hx, mapCore_lnum]

/-- An ACC.RD with BAND set in its format word and without the band entry that it needs: the replay of a frame whose NSCL is 0 (R192,
assumption 19). -/
def bandRead : Tile :=
  { cmd := .accRd 0 2 1, fmt := 0x2212000000000000#64, descs := [0x10000000#32 ++ 0x80#32 ++ 0#64, 0x20000000#32 ++ 0#96], rows := [], scales := []
    me := 0, reloc := false, need := [], got := [], failed := false, gen := 0 }

/-- A running core with that command as its one tile command, and one scale entry in the SCLQ. -/
def bandReading : State :=
  (State.reset.placed .me).mapCore (fun c => { c with tiles := [bandRead], cntTl := 1, sclq := ⟨0, [⟨List.replicate 64 0#8, 0#8⟩]⟩ })

/-- Refutes O37: the statement does not ask that the oldest command hold its scale entries. An ACC.RD with BAND set that is replayed
without its band entry takes that entry from the SCLQ and stays the oldest command, where the statement has it commit. -/
theorem not_tileCommits : ¬ Obligations.TileCommits := by
  intro h
  have hmark : bandRead.mark bandReading.core = none := by decide
  have hready : bandRead.ready = true := by decide
  have hshort : 0 < bandRead.short := by decide
  obtain ⟨-, -, -, -, hread⟩ := h bandReading bandRead [] rfl rfl hready hmark (fun y hy => nomatch hy)
  obtain ⟨t, ht, htiles, -⟩ := hread 0 2 1 rfl
  rw [exec_tileCommit_short rfl rfl hready hshort rfl] at ht
  cases ht
  cases htiles

end Sys2Proof.Proofs
end

section
/-! The special functions at their special inputs (R218, R219). -/
namespace Sys2Proof.Proofs
open Sys2Proof.Machine

/-- A NaN gives the default NaN, whatever the function; a signalling one sets NV (R63, R218). -/
theorem apply_of_nan {fn : SpFn} {code : Nat} {s : Bool} (h : f32.decode code = .nan s) :
    fn.apply code = (0x7FC00000, nvOf (.nan s)) := by
  cases fn <;> cases s <;> simp only [SpFn.apply, h] <;> rfl

set_option exponentiation.threshold 400 in
/-- Settles O39: every row of the table is one evaluation at a closed input; the NaN rows hold for each function. -/
theorem specialFunctionTable : Obligations.SpecialFunctionTable := by
  refine ⟨fun fn => ⟨apply_of_nan (s := false) (by decide), apply_of_nan (s := true) (by decide)⟩, ?_⟩
  and_intros <;> decide

end Sys2Proof.Proofs
end

section
/-! What chains forbid (R213, R222, R224). -/
namespace Sys2Proof.Proofs
open Sys2Proof.Machine Sys2Proof.Safety Sys2Proof.Laws

/-! ### The ring bits and the major of a word: R32 -/

/-- The parts of an instruction's layout lie in its word. -/
theorem in_of_encode {i : Instr} {w : Nat} (hw : encode i = some w) : ∃ l, layout i = some l ∧ l.In w :=
  (encode_eq_some_iff (encode_lt hw)).1 hw

/-- The ring bits of a word stand above everything else. -/
theorem ring_of_encode {i : Instr} {w : Nat} (hw : encode i = some w) (hp : isPrefix i = false) : w / 2 ^ 28 = i.ring.toNat := by
  have hring : fld w 28 4 = i.ring := by
    obtain ⟨l, hl, hin⟩ := in_of_encode hw
    cases i <;> cases hl <;> first
      | exact hin.1
      | cases hp
  have hlt := encode_lt hw
  rw [← hring, fld, BitVec.toNat_ofNat, Nat.mod_eq_of_lt (by omega)]

/-- The words of majors 0x28 to 0x2B are the slot words (R49). -/
theorem exec_of_slotMajor {i : Instr} {w : Nat} (hw : encode i = some w) (hm : 0x28 ≤ majorOf w ∧ majorOf w ≤ 0x2B) (s : State) :
    exec i s = slotWord i s := by
  obtain ⟨l, hl, hin⟩ := in_of_encode hw
  obtain ⟨m, hmaj⟩ : ∃ m, m = w / 2 ^ 22 % 2 ^ 6 := ⟨_, rfl⟩
  obtain ⟨hlo, hhi⟩ : 0x28 ≤ m ∧ m ≤ 0x2B := by rw [hmaj]; exact hm
  cases i
  case vadd | vsub | vmul | vdiv | vmin | vmax | vand | vor | vxor | vshl | vshr | vfma | vfms | vfnma | vsel | vclamp | vcmpEq | vcmpLt
      | vcmpLe | vcvt | vnot | vabs | vneg | vmov | vexp2 | vlog2 | vrcp | vrsq | vsqrt | vsin | vcos | vtanh => rfl
  all_goals
    cases hl <;> (have hc := hmaj.trans hin.2.1; omega)

/-! ### What `chainFault` refuses -/

section
variable {i : Instr} {s : State} (hu : s.unit = .ve)
include hu

theorem chainFault_outside (hc : s.core.chain = none) (h : isDefer i = true ∨ isChainEnd i = true) :
    chainFault i s = some ⟨0x01, 12, 0#64⟩ := by
  simp [chainFault, hu, hc, h, cIllegal]

/-- Inside a chain only VCH.END and the slots without ring bits pass, and these while there is a place for them. -/
theorem chainFault_inside {ch : Chain} {w : Nat} (hc : s.core.chain = some ch) (hw : encode i = some w) (hi : isChainEnd i = false)
    (h : ¬(0x28 ≤ majorOf w ∧ majorOf w ≤ 0x2B) ∧ isDefer i = false ∨ i.ring ≠ 0#4 ∨ 8 ≤ ch.slots.length) :
    chainFault i s = some ⟨0x01, 12, 0#64⟩ := by
  have hno : ((decide (0x28 ≤ majorOf w ∧ majorOf w ≤ 0x2B) || isDefer i) && i.ring == 0#4 && decide (ch.slots.length < 8)) = false := by
    obtain ⟨hs, hd⟩ | hr | hl := h
    · rw [decide_eq_false hs, hd]; rfl
    · rw [beq_eq_false_iff_ne.2 hr, Bool.and_false, Bool.false_and]
    · rw [decide_eq_false (Nat.not_lt.2 hl), Bool.and_false]
  simp only [chainFault, hu, ne_eq, not_true_eq_false, if_false, hc, hw, Option.getD_some, hi, hno, Bool.false_or, Bool.false_eq_true, cIllegal]

/-- A word of the VE that passes the checks of R48 meets what chains forbid next. -/
theorem exec_of_chainFault {w : Nat} {f : Flt} (hw : encode i = some w) (hp : isPrefix i = false) (ha : s.active = true)
    (hd : decodeCheck i .ve s.pfx = none) (h : chainFault i s = some f) : exec i s = .next (faultOf s .ve f) := by
  have he : earlyFault i s = some f := by
    simp [earlyFault, hu, hd, h, State.inReloc]
  have hx := exec_early ha he (by simp [State.midWord, hu]) (by simp [State.resumes, hu]) hw hp
  rwa [hu] at hx

end

/-- A slot word with RA, RB or ND faults outside a chain, as it issues (R213). -/
theorem slotWord_ring_faults {i : Instr} {s : State} (hx : exec i s = slotWord i s) (hc : s.core.chain = none)
    (hb : (encode i).getD 0 / 8 % 8 ≠ 0) : faults s i ⟨0x01, 11, 0#64⟩ := by
  refine faults_of_issueWith hx ?_
  have hc' : (takeRing i s).core.chain = none := by rw [takeRing_eq]; exact hc
  simp only [hc', if_pos hb, cIllegal]

/-- Settles O42: what chains forbid is an early fault of the word, but for RA, RB and ND, which fault as it issues. -/
theorem chainStructure : Obligations.ChainStructure := by
  intro s i w hw hp ha hu hd slot stops
  refine ⟨fun hc h => exec_of_chainFault hu hw hp ha hd (chainFault_outside hu hc h), fun hc hs hb hi => ?_, fun ch hc hi h => ?_⟩
  · have hf := slotWord_ring_faults (exec_of_slotMajor hw hs s) hc (by rwa [hw]) hi
    rwa [hu] at hf
  · refine exec_of_chainFault hu hw hp ha hd (chainFault_inside hu hc hw hi ?_)
    rw [ring_of_encode hw hp] at h
    exact h.imp_right (Or.imp_left fun hr h0 => hr (by rw [h0]; rfl))

end Sys2Proof.Proofs
end

section
/-! The VE's pending writes in local buffers land (R210, R211), and an ENDR that waited for them ends its routine (R107). -/
namespace Sys2Proof.Proofs
open Sys2Proof.Machine Sys2Proof.Safety Sys2Proof.Laws

/-! ### A step of the VE over writes in local buffers -/

/-- A core but for its local buffers. -/
def offBuffers (c : Core) : Core := { c with wb := [], ab := [], as := [] }

theorem offBuffers_setBuf (c : Core) (b : Nat) (m : Tab Byte) : offBuffers (c.setBuf b m) = offBuffers c := by
  rw [setBuf_eq]; rfl

theorem offBuffers_landWrite (c : Core) (w : VWrite) : offBuffers (c.landWrite w) = offBuffers c := by
  unfold Core.landWrite Core.putNibble Core.putBytes
  simp only []
  split <;> exact offBuffers_setBuf _ _ _

theorem offBuffers_foldl_landWrite (ws : List VWrite) (c : Core) : offBuffers (ws.foldl Core.landWrite c) = offBuffers c :=
  List.foldlRecOn ws Core.landWrite (motive := fun d => offBuffers d = offBuffers c) rfl
    fun d hd w _ => (offBuffers_landWrite d w).trans hd

theorem windowed_of_space {w : VWrite} (h : bufSpace w.addr < 3) : w.windowed = false := by
  simp [VWrite.windowed, show ¬8 ≤ bufSpace w.addr by omega]

/-- The writes that are still pending a step later. -/
def stillPending (ws : List VWrite) : List VWrite := (nearer ws).filter (fun w => decide (0 < w.left))

/-- The writes that come due in a step, in the order in which they land: those of special functions last (R211). -/
def comingDue (ws : List VWrite) : List VWrite :=
  let loc := ((nearer ws).filter (fun w => w.left == 0)).filter (fun w => !w.windowed && !w.landed)
  loc.filter (fun w => !w.sf) ++ loc.filter (·.sf)

/-- The core after a step that lands what comes due and brings the rest nearer. -/
def landedCore (c : Core) : Core := (comingDue c.vpend).foldl Core.landWrite { c with vpend := stillPending c.vpend }

theorem offBuffers_landedCore (c : Core) : offBuffers (landedCore c) = offBuffers { c with vpend := stillPending c.vpend } :=
  offBuffers_foldl_landWrite _ _

theorem landedCore_vpend (c : Core) : (landedCore c).vpend = stillPending c.vpend := by
  have h := congrArg Core.vpend (offBuffers_landedCore c)
  exact h
theorem landedCore_vretire (c : Core) : (landedCore c).vretire = c.vretire := by
  have h := congrArg Core.vretire (offBuffers_landedCore c)
  exact h
theorem landedCore_ve (c : Core) : (landedCore c).ve = c.ve := by
  have h := congrArg Core.ve (offBuffers_landedCore c)
  exact h
theorem landedCore_reg (c : Core) (u : Sqr) (n : Nat) : (landedCore c).reg u n = c.reg u n := by
  have h := congrArg (fun c => Core.reg c u n) (offBuffers_landedCore c)
  cases u <;> exact h

/-- With no word that waits to retire, a step lands what comes due in local buffers and brings the rest nearer. -/
theorem vStep_lands {c : Core} (hr : c.vretire = []) (hl : ∀ w ∈ c.vpend, w.windowed = false) :
    c.vStep = landedCore c := by
  have hn : ∀ w ∈ nearer c.vpend, w.windowed = false := List.forall_mem_map.2 hl
  have hw : ((nearer c.vpend).filter (fun w => w.left == 0)).filter (·.windowed) = [] :=
    List.filter_eq_nil_iff.2 fun w hm => by simp [hn w (List.mem_filter.1 hm).1]
  have hland : Core.landAll { c with vpend := stillPending c.vpend } ((nearer c.vpend).filter (fun w => w.left == 0)) = landedCore c := by
    simp only [Core.landAll, hw, List.map_nil, List.nil_append]
    rfl
  have hret : (landedCore c).vretire = [] := (landedCore_vretire c).trans hr
  have hv : c.vStep = (Core.landAll { c with vpend := stillPending c.vpend } ((nearer c.vpend).filter (fun w => w.left == 0))).vRetire := rfl
  rw [hv, hland]
  simp only [Core.vRetire, hret, List.filter_nil, List.foldl_nil]
  rw [← hret]

theorem vSend_local {s : State} (hl : ∀ w ∈ s.core.vpend, w.windowed = false) : vSend s = s := by
  have h : s.core.vpend.any (·.windowed) = false := List.any_eq_false.2 fun w hw => by simp [hl w hw]
  simp [vSend, h]

theorem stillPending_eq (ws : List VWrite) :
    stillPending ws = (ws.filter (fun v => v.left != 1 && v.left != 0)).map (fun v => { v with left := v.left - 1 }) := by
  rw [stillPending, nearer, List.filter_map]
  refine congrArg _ (List.filter_congr fun w _ => ?_)
  match h : w.left with
  | 0 | 1 | n + 2 => simp [h]

theorem stillPending_eq_nil {ws : List VWrite} : stillPending ws = [] ↔ ∀ w ∈ ws, w.left ≤ 1 := by
  rw [stillPending, List.filter_eq_nil_iff, nearer, List.forall_mem_map]
  simp only [decide_eq_true_eq, not_lt, Nat.le_zero]
  exact forall₂_congr fun w _ => by omega

theorem windowed_of_stillPending {ws : List VWrite} (hl : ∀ w ∈ ws, w.windowed = false) : ∀ w ∈ stillPending ws, w.windowed = false := by
  have hn : ∀ w ∈ nearer ws, w.windowed = false := List.forall_mem_map.2 hl
  exact fun w hw => hn w (List.mem_filter.1 hw).1

/-- One write of whole bytes that comes due changes the bytes that it covers in its buffer, and no other. -/
theorem get_landed {c : Core} {w : VWrite} (hs : bufSpace w.addr < 3) (hn : w.nibble = none) (o : Nat) :
    Tab.get ((c.landWrite w).buf (bufSpace w.addr)) o
      = if bufOff w.addr ≤ o ∧ o < bufOff w.addr + w.bytes.length then w.bytes.getD (o - bufOff w.addr) 0#8 else Tab.get (c.buf (bufSpace w.addr)) o := by
  simp only [Core.landWrite, hn, Core.putBytes]
  rw [buf_setBuf_same c (by omega), get_writeBytes]

theorem comingDue_single {w : VWrite} (hs : bufSpace w.addr < 3) (h1 : w.left = 1) (hl : w.landed = false) :
    comingDue [w] = [{ w with left := 0 }] := by
  have hw (f : Bool) : ({ w with left := 0, sf := f, landed := false } : VWrite).windowed = false := windowed_of_space hs
  cases hsf : w.sf <;> simp [comingDue, nearer, h1, hl, hw, hsf]

/-! ### The end of the routine: R107 -/

/-- The ENDR of the VE retires: the engine ends its routine, and of the rest only what an issue moves may change. -/
theorem retireEndr_ends {s : State} {g : Nat} (h : s.core.ve.ending = some g) :
    ∃ t, retireEndr s = t.mapCore (fun c => c.mapEng .ve Engine.ended) ∧ still t = still s := by
  refine ⟨_, by simp only [retireEndr, h]; rfl, (still_giveRing _ _ _ _).trans ?_⟩
  refine congrArg (fun c => { s with core := c }) ?_
  split <;> split <;> rfl

theorem reg_mapEng_ended (c : Core) (u : Sqr) (n : Nat) : (c.mapEng .ve Engine.ended).reg u n = c.reg u n := by
  cases u <;> rfl

theorem reg_of_still {s t : State} (h : still s = still t) (u : Sqr) (n : Nat) : s.core.reg u n = t.core.reg u n :=
  eq_of_still h (fun s => s.core.reg u n) fun _ => by cases u <;> rfl

theorem buf_of_still {s t : State} (h : still s = still t) (b : Nat) : s.core.buf b = t.core.buf b :=
  eq_of_still h (fun s => s.core.buf b) fun _ => rfl

theorem buf_mapEng (c : Core) (u : Sqr) (f : Engine → Engine) (b : Nat) : (c.mapEng u f).buf b = c.buf b := by
  cases u <;> rfl

/-! ### The empty step: R211 -/

section
variable {s : State} {g : Nat} (hm : s.core.mode = .running) (he : s.core.ve.ending = some g) (hr : s.core.vretire = [])
  (hs : ∀ w ∈ s.core.vpend, bufSpace w.addr < 3)

include hr hs in
theorem emptyStep_eq : emptyStep s = if s.core.ve.ending.isSome && (stillPending s.core.vpend).isEmpty then
    retireEndr (s.mapCore landedCore) else s.mapCore landedCore := by
  have hl : ∀ w ∈ s.core.vpend, w.windowed = false := fun w hw => windowed_of_space (hs w hw)
  have hstep : s.mapCore Core.vStep = s.mapCore landedCore := by rw [State.mapCore, vStep_lands hr hl, State.mapCore]
  have hsend : vSend (s.mapCore landedCore) = s.mapCore landedCore :=
    vSend_local (by rw [mapCore_core, landedCore_vpend]; exact windowed_of_stillPending hl)
  simp only [emptyStep, hstep, hsend, mapCore_core, landedCore_vpend, landedCore_ve]

include hm he hr hs

theorem exec_sfWriteLand_goes_on (hp : stillPending s.core.vpend ≠ []) : exec (.sfWriteLand s.lnum) s = .next (s.mapCore landedCore) := by
  have hx : emptyStep s = s.mapCore landedCore := by
    rw [emptyStep_eq hr hs, if_neg (by simp [hp])]
  have hf : (if s.core.mode == .running && s.core.ve.ending.isSome then emptyStep s else s) = s.mapCore landedCore := by
    simp [hm, he, hx]
  refine congrArg Host.Outcome.next ((within_focused ?_).trans hf)
  rw [hf, mapCore_lnum]

theorem exec_sfWriteLand_ends (hp : stillPending s.core.vpend = []) :
    ∃ t, exec (.sfWriteLand s.lnum) s = .next (t.mapCore (fun c => c.mapEng .ve Engine.ended)) ∧ still t = still (s.mapCore landedCore) := by
  obtain ⟨t, ht, hst⟩ := retireEndr_ends (s := s.mapCore landedCore) (g := g) ((congrArg Engine.ending (landedCore_ve s.core)).trans he)
  have hf : (if s.core.mode == .running && s.core.ve.ending.isSome then emptyStep s else s)
      = t.mapCore (fun c => c.mapEng .ve Engine.ended) := by
    rw [if_pos (by simp [hm, he]), emptyStep_eq hr hs, if_pos (by simp [he, hp]), ht]
  refine ⟨t, congrArg Host.Outcome.next ((within_focused ?_).trans hf), hst⟩
  rw [hf]
  exact eq_of_still hst State.lnum fun _ => rfl

end

/-- Settles O43: a step lands what comes due in the local buffers and brings the rest nearer; with nothing left the routine ends. -/
theorem pendingWritesLand : Obligations.PendingWritesLand := by
  intro s w rest g hm he hr hv hs last
  rw [← hv] at hs
  have hbytes (hrest : rest = []) (h1 : w.left = 1) (hn : w.nibble = none) (hl : w.landed = false) (o : Nat) :
      Tab.get ((landedCore s.core).buf (bufSpace w.addr)) o = if bufOff w.addr ≤ o ∧ o < bufOff w.addr + w.bytes.length then
        w.bytes.getD (o - bufOff w.addr) 0#8 else Tab.get (s.core.buf (bufSpace w.addr)) o := by
    have hw : bufSpace w.addr < 3 := hs w (by simp [hv])
    have hc : landedCore s.core = Core.landWrite { s.core with vpend := stillPending s.core.vpend } { w with left := 0 } := by
      rw [landedCore, hv, hrest, comingDue_single hw h1 hl]; rfl
    rw [hc]
    exact get_landed (w := { w with left := 0 }) hw hn o
  have hput (t : State) (hb : ∀ b, t.core.buf b = (landedCore s.core).buf b) : rest = [] → w.left = 1 → w.nibble = none → w.landed = false →
      (∀ k, k < w.bytes.length → Tab.get (t.core.buf (w.addr / 2 ^ 28 % 16)) (w.addr % 2 ^ 28 + k) = w.bytes.getD k 0#8)
      ∧ (∀ o, ¬(w.addr % 2 ^ 28 ≤ o ∧ o < w.addr % 2 ^ 28 + w.bytes.length) →
          Tab.get (t.core.buf (w.addr / 2 ^ 28 % 16)) o = Tab.get (s.core.buf (w.addr / 2 ^ 28 % 16)) o) := by
    intro hrest h1 hn hl
    simp only [hb]
    refine ⟨fun k hk => (hbytes hrest h1 hn hl _).trans ?_, fun o ho => (hbytes hrest h1 hn hl o).trans (if_neg ho)⟩
    rw [if_pos (by unfold bufOff; omega), bufOff, Nat.add_sub_cancel_left]
  have hpend : stillPending s.core.vpend = ((w :: rest).filter (fun v => v.left != 1 && v.left != 0)).map (fun v => { v with left := v.left - 1 }) :=
    (stillPending_eq _).trans (by rw [hv])
  by_cases hp : stillPending s.core.vpend = []
  · obtain ⟨t, hx, ht⟩ := exec_sfWriteLand_ends hm he hr hs hp
    refine ⟨_, hx, ?_, hput _ fun b => (buf_mapEng _ _ _ b).trans (buf_of_still ht b), fun _ => ⟨rfl, rfl⟩, fun _ hv1 => ?_, ?_, fun u n => ?_⟩
    · exact ((vpend_of_still ht).trans (landedCore_vpend _)).trans hpend
    · obtain ⟨v, hvm, hv1⟩ := hv1
      have := stillPending_eq_nil.1 hp v (hv ▸ hvm)
      omega
    · exact eq_of_still ht State.mem fun _ => rfl
    · exact (reg_mapEng_ended _ u n).trans ((reg_of_still ht u n).trans (landedCore_reg _ u n))
  · refine ⟨_, exec_sfWriteLand_goes_on hm he hr hs hp, (landedCore_vpend _).trans hpend, hput _ fun _ => rfl, fun hlast => ?_,
      fun _ _ => ?_, rfl, fun u n => landedCore_reg _ u n⟩
    · exact absurd (stillPending_eq_nil.2 fun v hvm => (hlast v (hv ▸ hvm)).le) hp
    · rw [mapCore_core, landedCore_ve]; exact ⟨rfl, he⟩

end Sys2Proof.Proofs
end

section
/-! A vector word that takes one step leaves its writes pending, and changes nothing else but what the issue of any word moves and the
flags that stand until it retires (R68, R209–R211). -/
namespace Sys2Proof.Proofs
open Sys2Proof.Machine Sys2Proof.Safety Sys2Proof.Laws

/-! ### Pending writes, and everything beside them -/

/-- A pending write but for whether its packet counts, and the word that a frame shows where the packet fails (R340, R362). -/
def bare (w : VWrite) : VWrite := { w with counted := false, group := 0#64 }

/-- A core but for its pending writes and the counts of its windows (R360). -/
def offPending (c : Core) : Core := { c with vpend := [], winst := [] }

/-- The same writes are pending in cores that are otherwise the same. -/
def samePending (c d : Core) : Prop := c.vpend.map bare = d.vpend.map bare ∧ offPending c = offPending d

theorem samePending_trans {c d e : Core} (h : samePending c d) (k : samePending d e) : samePending c e :=
  ⟨h.1.trans k.1, h.2.trans k.2⟩

/-- Packets begin to count; what is pending stays as it is. -/
theorem samePending_countPackets (n : Nat) (c : Core) : samePending (countPackets n c) c := by
  induction n generalizing c with
  | zero => exact ⟨rfl, rfl⟩
  | succ n ih =>
    unfold countPackets
    split
    · exact ⟨rfl, rfl⟩
    · extract_lets k
      split
      · exact ⟨rfl, rfl⟩
      · refine samePending_trans (ih _) ⟨?_, rfl⟩
        rw [List.map_map]
        refine List.map_congr_left fun v _ => ?_
        simp only [Function.comp_apply]
        split <;> rfl

/-- Writes that are as near as each other are pending as they were pushed. -/
theorem pushWrites_empty {c : Core} {ws : List VWrite} {n : Nat} (hv : c.vpend = []) (hl : ∀ w ∈ ws, w.left = n) :
    (c.pushWrites ws).vpend.map bare = ws.map bare ∧ offPending (c.pushWrites ws) = offPending c := by
  unfold Core.pushWrites
  extract_lets ws' late counted
  have hw : ws'.map bare = ws.map bare := List.map_map.trans (List.map_congr_left fun w _ => rfl)
  have hl' : ∀ w ∈ ws', w.left = n := by simpa only [ws', List.forall_mem_map] using hl
  split
  · exact ⟨by simp only [hv, List.nil_append, hw], rfl⟩
  · obtain ⟨h, hb⟩ := samePending_countPackets ws'.length { c with vpend := c.vpend.map late ++ ws'.map (fun w => late (counted w)) }
    refine ⟨h.trans ?_, hb⟩
    rw [hv, List.map_nil, List.nil_append, ← hw, List.map_map]
    refine List.map_congr_left fun w hmem => ?_
    have hc : (counted w).left = n := hl' w hmem
    simp only [Function.comp_apply, late, hc, foldl_max_left _ hl']
    split
    · rw [← hc]; rfl
    · rfl

theorem forall_bare {l m : List VWrite} (h : l.map bare = m.map bare) {p : VWrite → Prop} (hp : ∀ w, p (bare w) ↔ p w)
    (hm : ∀ w ∈ m, p w) : ∀ w ∈ l, p w := by
  intro w hw
  obtain ⟨v, hv, he⟩ := List.mem_map.1 (h ▸ List.mem_map_of_mem hw)
  rw [← hp w, ← he, hp v]
  exact hm v hv

/-- The writes of a step are pending after it, a step nearer. -/
theorem pushWrites_step {c : Core} {ws : List VWrite} {n : Nat} (hv : c.vpend = []) (hr : c.vretire = []) (hn : 1 ≤ n)
    (hl : ∀ w ∈ ws, w.left = n + 1) : (c.pushWrites ws).vStep.vpend.map bare = (nearer ws).map bare
      ∧ offPending (c.pushWrites ws).vStep = offPending c := by
  obtain ⟨hp, ho⟩ := pushWrites_empty hv hl
  have hleft := forall_bare hp (p := fun w => w.left = n + 1) (fun _ => Iff.rfl) hl
  have hr' : (c.pushWrites ws).vretire = [] := by
    have h := congrArg Core.vretire ho
    exact h.trans hr
  rw [vStep_counts hr' fun w hw => by rw [hleft w hw]; omega]
  refine ⟨?_, ho⟩
  have h := congrArg (List.map fun w : VWrite => { w with left := w.left - 1 }) hp
  rw [List.map_map, List.map_map] at h
  rw [nearer, nearer, List.map_map, List.map_map]
  exact h

/-- No window write goes out while each has steps left. -/
theorem vSend_keeps {s : State} (hl : ∀ w ∈ s.core.vpend, w.left ≠ 0) : ∃ c, vSend s = { s with core := c } ∧ samePending c s.core := by
  have hc := samePending_countPackets s.core.vpend.length s.core
  have hd : (countPackets s.core.vpend.length s.core).windowDue = none :=
    List.find?_eq_none.2 fun w hw => by
      have h0 := forall_bare hc.1 (p := fun w => w.left ≠ 0) (fun _ => Iff.rfl) hl w hw
      simp [h0]
  have hs (n : Nat) : sendVector n (s.mapCore (countPackets s.core.vpend.length)) = s.mapCore (countPackets s.core.vpend.length) := by
    cases n with
    | zero => rfl
    | succ n => simp only [sendVector, mapCore_core, hd]
  unfold vSend
  split
  · exact ⟨s.core, rfl, rfl, rfl⟩
  · simp only [hs]
    exact ⟨_, rfl, hc⟩

/-- The flags of a word stand while a write of its own is pending (R68). -/
theorem flagsAtRetire_stand {c : Core} {h : BitVec 8} {fl : FlagSet} (hw : ∃ w ∈ c.vpend, w.landed = false ∧ w.word = c.vword) :
    ∃ rs, c.flagsAtRetire h fl = { c with vretire := rs } := by
  have hr : VRetire.ready ⟨c.vword, false, false, h, fl, false⟩ c.vpend = false := by
    obtain ⟨w, hm, hl, ho⟩ := hw
    have ha : c.vpend.any (fun w => !w.landed && (w.word == c.vword || (!w.sf && decide (w.word < c.vword)))) = true :=
      List.any_eq_true.2 ⟨w, hm, by simp [hl, ho]⟩
    simp only [VRetire.ready, ha, Bool.not_true]
  unfold Core.flagsAtRetire
  simp only [hr, Bool.false_eq_true, if_false]
  split
  · exact ⟨c.vretire, rfl⟩
  · exact ⟨_, rfl⟩

/-! ### The machine after a vector word -/

/-- The machine but for pending vector writes, the counts of windows, and what the issue of any word moves. -/
def offWrites (s : State) : State := { still s with core := offPending (stillCore s.core) }

theorem eq_of_offWrites {α : Type} {s t : State} (h : offWrites s = offWrites t) (f : State → α) (hf : ∀ s, f (offWrites s) = f s) :
    f s = f t := by
  rw [← hf s, h, hf t]

theorem offWrites_of_still {s t : State} (h : still s = still t) : offWrites s = offWrites t :=
  congrArg (fun u : State => { u with core := offPending u.core }) h

theorem offWrites_of_pending {s : State} {c : Core} (h : offPending c = offPending s.core) : offWrites { s with core := c } = offWrites s :=
  congrArg (fun d : Core => { s with core := offPending (stillCore d) }) h

/-- The word has left the writes `ws` pending, and nothing else. -/
def leavesPending (s u : State) (ws : List VWrite) : Prop := u.core.vpend.map bare = ws.map bare ∧ offWrites u = offWrites s

theorem leavesPending_of_exec {i : Instr} {body : State → WordResult} {s u : State} {ws : List VWrite}
    (hx : exec i s = .next (issueWith (fun _ => none) i body s)) (hb : body (takeRing i s) = .next u) (hu : leavesPending (takeRing i s) u ws)
    (h : issues s i) : ∃ u, exec i s = .next u ∧ leavesPending s u ws := by
  have ht := still_retire i s .next u
  refine ⟨_, exec_of_issueWith hx hb h, ?_, ?_⟩
  · rw [← hu.1]
    exact congrArg (List.map bare) (vpend_of_still ht)
  · exact (offWrites_of_still ht).trans (hu.2.trans (offWrites_of_still (still_takeRing i s)))

section
variable {s : State} (hv : s.core.vpend = []) (hr : s.core.vretire = [])
include hv hr

theorem leavesPending_nil : leavesPending s (stepAfter s.unit s) [] := by
  have hs : stepAfter s.unit s = s := by
    unfold stepAfter
    rw [vStep_idle hv hr]
    exact ite_self _
  rw [hs]
  exact ⟨by rw [hv], rfl⟩

end

/-- A word whose writes are pending in `c`, which is otherwise the core that it began with, is done: its flags stand. -/
theorem leavesPending_vDone {s : State} {c : Core} {ws : List VWrite} {fl : FlagSet} (hp : c.vpend.map bare = ws.map bare)
    (ho : offPending c = offPending s.core) (hne : ws ≠ []) (hw : ∀ w ∈ ws, w.left ≠ 0 ∧ w.landed = false ∧ w.word = c.vword) :
    leavesPending s (vDone s c fl) ws := by
  have hpend := forall_bare hp (p := fun w => w.left ≠ 0 ∧ w.landed = false ∧ w.word = c.vword) (fun _ => Iff.rfl) hw
  have hown : ∃ w ∈ c.vpend, w.landed = false ∧ w.word = c.vword := by
    obtain ⟨w, hm⟩ : ∃ w, w ∈ c.vpend := by
      refine List.exists_mem_of_ne_nil _ fun h => hne ?_
      rw [h, eq_comm, List.map_nil, List.map_eq_nil_iff] at hp
      exact hp
    exact ⟨w, hm, (hpend w hm).2⟩
  obtain ⟨rs, hf⟩ := flagsAtRetire_stand (h := s.hyp) (fl := fl) hown
  obtain ⟨d, hd, hdp, hdo⟩ := vSend_keeps (s := { s with core := { c with vretire := rs } }) fun w hm => (hpend w hm).1
  have hdone : vDone s c fl = { s with core := d } := by rw [vDone, hf, hd]
  rw [hdone]
  refine ⟨hdp.trans hp, (offWrites_of_pending (s := { s with core := { c with vretire := rs } }) hdo).trans ?_⟩
  exact (offWrites_of_still rfl : offWrites { s with core := { c with vretire := rs } } = offWrites { s with core := c }).trans
    (offWrites_of_pending ho)

/-- A word's own writes, in its one step. -/
theorem leavesPending_step {s : State} {ws : List VWrite} {n : Nat} {fl : FlagSet} (hv : s.core.vpend = []) (hr : s.core.vretire = [])
    (hn : 1 ≤ n) (hne : ws ≠ []) (hw : ∀ w ∈ ws, w.left = n + 1 ∧ w.landed = false ∧ w.word = s.core.vword) :
    leavesPending s (vDone s (s.core.pushWrites ws).vStep fl) (nearer ws) := by
  obtain ⟨hp, ho⟩ := pushWrites_step hv hr hn fun w h => (hw w h).1
  have hword : (s.core.pushWrites ws).vStep.vword = s.core.vword := by
    have h := congrArg Core.vword ho
    exact h
  refine leavesPending_vDone hp ho (by simpa [nearer] using hne) (List.forall_mem_map.2 fun w h => ?_)
  obtain ⟨hl, hld, hwd⟩ := hw w h
  exact ⟨by simp only [hl]; omega, hld, hwd.trans hword.symm⟩

/-- What holds of the writes that a word leaves, in order. -/
theorem getElem?_of_leavesPending {s u : State} {n : Nat} {φ : Nat → VWrite} (h : leavesPending s u ((List.range n).map φ)) :
    u.core.vpend.length = n ∧ ∀ k < n, ∃ w, u.core.vpend[k]? = some w ∧ bare w = bare (φ k) := by
  obtain ⟨h, -⟩ := h
  have hl := congrArg List.length h
  simp only [List.length_map, List.length_range] at hl
  refine ⟨hl, fun k hk => ?_⟩
  have hk' : (u.core.vpend.map bare)[k]? = some (bare (φ k)) := by
    rw [h, List.getElem?_map, List.getElem?_map, List.getElem?_range hk]; rfl
  rw [List.getElem?_map, Option.map_eq_some_iff] at hk'
  exact hk'

end Sys2Proof.Proofs
end

section
/-! An element-wise word outside a chain whose elements fit one step (R206–R211, R213). -/
namespace Sys2Proof.Proofs
open Sys2Proof.Machine Sys2Proof.Safety Sys2Proof.Laws

/-! ### The slots of the words -/

theorem exec_of_slotOf {i : Instr} {t : Tab (BitVec 128)} {sl : VSlot} (h : slotOf i t = some sl) (s : State) : exec i s = slotWord i s := by
  cases i <;> cases h <;> rfl

/-- The slot reads regions only, and writes one: RA, RB and ND are zero (R213). -/
def plainSlot (sl : VSlot) : Prop := sl.nd = false ∧ ∀ v ∈ sl.srcs, ∃ r, v = .region r

theorem toNat_of_ne_one {z : BitVec 1} (h : z ≠ 1#1) : z.toNat = 0 := by bv_omega

theorem toNat_of_srcOf {t : Tab (BitVec 128)} {x : BitVec 1} {a : BitVec 4} (h : ∃ r, srcOf t x a = .region r) : x.toNat = 0 := by
  obtain ⟨r, h⟩ := h
  unfold srcOf at h
  split at h
  · cases h
  next hx => exact toNat_of_ne_one hx

theorem slotTwo_plain {t : Tab (BitVec 128)} {w : Nat} {k : VKind} {d a b : BitVec 4} {x y z : BitVec 1} {ct : BitVec 3}
    (h : plainSlot (slotTwo t w k d a b x y z ct)) : x.toNat = 0 ∧ y.toNat = 0 ∧ z.toNat = 0 :=
  ⟨toNat_of_srcOf (h.2 _ (List.mem_cons_self ..)), toNat_of_srcOf (h.2 _ (List.mem_cons_of_mem _ (List.mem_cons_self ..))),
    toNat_of_ne_one (beq_eq_false_iff_ne.1 h.1)⟩

theorem slotOne_plain {t : Tab (BitVec 128)} {w : Nat} {k : VKind} {d a : BitVec 4} {x z : BitVec 1} {ct : BitVec 3}
    (h : plainSlot (slotOne t w k d a x z ct)) : x.toNat = 0 ∧ z.toNat = 0 :=
  ⟨toNat_of_srcOf (h.2 _ (List.mem_cons_self ..)), toNat_of_ne_one (beq_eq_false_iff_ne.1 h.1)⟩

theorem encode_of_plain {i : Instr} {t : Tab (BitVec 128)} {sl : VSlot} (h : slotOf i t = some sl) (hp : plainSlot sl) :
    ∃ w, encode i = some w ∧ w / 8 % 8 = 0 := by
  cases i <;> cases h
  case vcvt | vnot | vabs | vneg | vmov | vexp2 | vlog2 | vrcp | vrsq | vsqrt | vsin | vcos | vtanh =>
    obtain ⟨hx, hz⟩ := slotOne_plain hp
    exact ⟨_, rfl, by omega⟩
  case vdefer => cases hp.1
  all_goals
    obtain ⟨hx, hy, hz⟩ := slotTwo_plain hp
    exact ⟨_, rfl, by omega⟩

/-! ### One element: R208 -/

/-- The value of the region's element in a computation type. -/
def valueIn (ct : Nat) (r : Region) (code : Nat) : Nat := (readCt ct r.fmt r.u code).1

/-- Reading regions never fails; the values come in order. -/
theorem readSrcs_regions (ct : Nat) (get : Region → Nat) (ring : List RingEntry) (rs : List Region) :
    ∃ fl, readSrcs ct get ring (rs.map .region) = .ok (rs.map (fun r => valueIn ct r (get r)), fl) := by
  induction rs with
  | nil => exact ⟨_, rfl⟩
  | cons r t ih =>
    obtain ⟨fl, h⟩ := ih
    exact ⟨_, by simp only [List.map_cons, readSrcs, VSrc.read, h]; rfl⟩

/-- A slot of kind `k` under `ct` from the regions `rs` into `rd`. -/
def slotFrom (k : VKind) (ct : Nat) (rd : Region) (rs : List Region) (w : BitVec 32) : VSlot := ⟨k, ct, false, rd, rs.map .region, w⟩

/-- The operands of an element: the sources, and the old destination element where it is one. -/
def operandsOf (k : VKind) (ct : Nat) (rd : Region) (rs : List Region) (get : Region → Nat) : List Nat :=
  rs.map (fun r => valueIn ct r (get r)) ++ if k.readsDest then [valueIn ct rd (get rd)] else []

theorem eval_of_readSrcs {sl : VSlot} {get : Region → Nat} {ring : List RingEntry} {vs : List Nat} {fl : FlagSet} (hk : sl.kind ≠ .cvt)
    (hd : sl.nd = false) (h : readSrcs sl.ct get ring (sl.srcs ++ if sl.kind.readsDest then [.region sl.d] else []) = .ok (vs, fl)) :
    ∃ e, sl.eval get ring = .ok e ∧ e.out = (sl.d.outCt sl.ct (sl.kind.result sl.ct vs).1).1 := by
  refine ⟨⟨(sl.kind.result sl.ct vs).1, (sl.d.outCt sl.ct (sl.kind.result sl.ct vs).1).1,
    fl ||| (sl.kind.result sl.ct vs).2 ||| (sl.d.outCt sl.ct (sl.kind.result sl.ct vs).1).2⟩, ?_, rfl⟩
  simp only [VSlot.eval, if_neg hk, h, hd, Bool.false_eq_true, if_false]

theorem eval_slotFrom {k : VKind} {ct : Nat} {rd : Region} {rs : List Region} {w : BitVec 32} (get : Region → Nat) (ring : List RingEntry)
    (hk : k ≠ .cvt) : ∃ e, (slotFrom k ct rd rs w).eval get ring = .ok e
      ∧ e.out = (rd.outCt ct (k.result ct (operandsOf k ct rd rs get)).1).1 := by
  have hsrcs : rs.map .region ++ (if k.readsDest then [.region rd] else []) = (rs ++ if k.readsDest then [rd] else []).map VSrc.region := by
    rw [List.map_append]
    split <;> rfl
  have hops : (rs ++ if k.readsDest then [rd] else []).map (fun r => valueIn ct r (get r)) = operandsOf k ct rd rs get := by
    rw [List.map_append, operandsOf]
    split <;> rfl
  obtain ⟨fl, h⟩ := readSrcs_regions ct get ring (rs ++ if k.readsDest then [rd] else [])
  rw [hops, ← hsrcs] at h
  exact eval_of_readSrcs (sl := slotFrom k ct rd rs w) hk rfl h

theorem eval_slotFrom_cvt {ct : Nat} {rd r : Region} {rs : List Region} {w : BitVec 32} (get : Region → Nat) (ring : List RingEntry) :
    ∃ e, (slotFrom .cvt ct rd (r :: rs) w).eval get ring = .ok e ∧ e.out = (rd.out (elemVal r.fmt r.u (get r))).1 :=
  ⟨_, rfl, rfl⟩

/-- The code that a slot leaves for an element whose codes `get` reads: that of VCVT from the exact source, any other from the result of
its operands (R208, R217). -/
def slotCode (k : VKind) (ct : Nat) (rd : Region) (rs : List Region) (get : Region → Nat) : Nat :=
  if k = .cvt then (rd.out (elemVal (rs.headD default).fmt (rs.headD default).u (get (rs.headD default)))).1
  else (rd.outCt ct (k.result ct (operandsOf k ct rd rs get)).1).1

theorem eval_slotCode {k : VKind} {ct : Nat} {rd : Region} {rs : List Region} {w : BitVec 32} (hs : rs ≠ []) (get : Region → Nat)
    (ring : List RingEntry) : ∃ e, (slotFrom k ct rd rs w).eval get ring = .ok e ∧ e.out = slotCode k ct rd rs get := by
  by_cases hk : k = .cvt
  · obtain ⟨r, t, rfl⟩ := List.exists_cons_of_ne_nil hs
    rw [slotCode, if_pos hk, hk]
    exact eval_slotFrom_cvt get ring
  · rw [slotCode, if_neg hk]
    exact eval_slotFrom get ring hk

/-! ### One step: R209–R211 -/

theorem foldl_stepElems (sl : VSlot) (c : Core) (get : Nat → Region → Nat) {f : Nat → Elem} (l : List Nat) (acc : List VWrite × FlagSet)
    (h : ∀ k ∈ l, sl.eval (get k) [] = .ok (f k)) :
    (l.foldl (fun (acc : List VWrite × FlagSet) i => match sl.eval (get i) [] with
      | .error _ => acc
      | .ok e => (acc.1 ++ [sl.write c 0 i e], acc.2 ||| e.flags)) acc).1 = acc.1 ++ l.map (fun k => sl.write c 0 k (f k)) := by
  induction l generalizing acc with
  | nil => simp
  | cons k t ih =>
    rw [List.foldl_cons, h k (List.mem_cons_self ..), ih _ fun j hj => h j (List.mem_cons_of_mem _ hj)]
    simp

/-- The writes of one step, where no element fails. -/
theorem stepElems_writes {sl : VSlot} {c : Core} {n : Nat} {f : Nat → Elem}
    (h : ∀ k < n, sl.eval (fun r => r.code (c.buf r.space) k) [] = .ok (f k)) :
    (stepElems sl c 0 n).1 = (List.range n).map (fun k => sl.write c 0 k (f k)) := by
  have hr : (List.range n).map (0 + ·) = List.range n := by simp
  rw [stepElems, hr]
  exact (foldl_stepElems sl c (fun k r => r.code (c.buf r.space) k) _ _ fun k hk => h k (List.mem_range.1 hk)).trans (List.nil_append _)

theorem wordSteps_one {sl : VSlot} {n e : Nat} {c : Core} (he : n ≤ e) :
    ∃ fl, wordSteps sl n e 1 0 c 0#6 = ((c.pushWrites (stepElems sl c 0 n).1).vStep, fl) :=
  ⟨_, by simp only [wordSteps, Nat.sub_zero, Nat.min_eq_right he]; rfl⟩

theorem holdFor_nil {rs : List Region} {n fuel : Nat} {c : Core} (h : c.vpend = []) : holdFor rs n fuel c = c := by
  cases fuel with
  | zero => rfl
  | succ fuel => simp [holdFor, h]

/-- The checks of R207: of the destination, then of the sources in order. -/
theorem check_slotFrom (k : VKind) (ct : Nat) (rd : Region) (rs : List Region) (w : BitVec 32) (c : Core) (n : Nat) (h : BitVec 8) :
    (slotFrom k ct rd rs w).check c (some n) h = (checkRegion c rd true k.readsDest ct n h).or
      (rs.findSome? (fun x => checkRegion c x false (k != .cvt) ct n h)) := by
  have hs : (slotFrom k ct rd rs w).sources = rs := by
    simp only [VSlot.sources, slotFrom, List.filterMap_map, Function.comp_def, List.filterMap_some]
  simp only [VSlot.check, hs]
  simp only [slotFrom, Bool.false_eq_true, if_false, Option.getD_some]
  cases checkRegion c rd true k.readsDest ct n h <;> rfl

theorem regions_slotFrom (k : VKind) (ct : Nat) (rd : Region) (rs : List Region) (w : BitVec 32) :
    (slotFrom k ct rd rs w).regions = rd :: rs := by
  simp [VSlot.regions, VSlot.sources, slotFrom, List.filterMap_map]

/-- The pending write of element `j` after the step that makes it. -/
def slotWrite (k : VKind) (ct : Nat) (rd : Region) (rs : List Region) (w : BitVec 32) (c : Core) (j : Nat) (e : Elem) : VWrite :=
  { (slotFrom k ct rd rs w).write c 0 j e with left := if k.isSf then 8 else 3 }

theorem left_slotFrom (k : VKind) (ct : Nat) (rd : Region) (rs : List Region) (w : BitVec 32) (c : Core) (j : Nat) (e : Elem) :
    ((slotFrom k ct rd rs w).write c 0 j e).left = (if k.isSf then 8 else 3) + 1 := by
  cases h : k.isSf <;> simp only [VSlot.write, slotFrom, h] <;> rfl

section
variable {k : VKind} {ct : Nat} {rd : Region} {rs : List Region} {w : BitVec 32} {t : State}

theorem elementWord_empty (hc : rd.count = 0) : elementWord (slotFrom k ct rd rs w) t = .next (stepAfter t.unit t) := if_pos hc

variable (hc : rd.count ≠ 0)
include hc

theorem elementWord_fault {f : Flt} (h : (slotFrom k ct rd rs w).check t.core (some rd.count) t.hyp = some f) :
    elementWord (slotFrom k ct rd rs w) t = .fault f :=
  (if_neg hc).trans (by simp only [show (slotFrom k ct rd rs w).d = rd from rfl, h])

variable (hb : (slotFrom k ct rd rs w).check t.core (some rd.count) t.hyp = none) (hv : t.core.vpend = [])
include hb hv

theorem elementWord_full (hr : rd.noRoom t.core = true) : elementWord (slotFrom k ct rd rs w) t = .blocked vSend 8 :=
  (if_neg hc).trans (by simp only [show (slotFrom k ct rd rs w).d = rd from rfl, hb, vSend_nil hv, hr, if_true])

/-- With room for them, the elements of one step are all pending. -/
theorem elementWord_writes (hs : rs ≠ []) (hr : rd.noRoom t.core = false) (hq : t.core.vretire = []) (hn : rd.count ≤ rateOf (rd :: rs) (ct == 1)) :
    ∃ (u : State) (f : Nat → Elem), elementWord (slotFrom k ct rd rs w) t = .next u
      ∧ leavesPending t u ((List.range rd.count).map fun j => slotWrite k ct rd rs w t.core j (f j))
      ∧ ∀ j, (f j).out = slotCode k ct rd rs (fun r => r.code (t.core.buf r.space) j) := by
  choose f hf hout using fun j => eval_slotCode (k := k) (ct := ct) (rd := rd) (w := w) hs (fun r => r.code (t.core.buf r.space) j) []
  obtain ⟨fl, hsteps⟩ := wordSteps_one (sl := slotFrom k ct rd rs w) (c := t.core) hn
  have hws := stepElems_writes (sl := slotFrom k ct rd rs w) (c := t.core) (n := rd.count) fun j _ => hf j
  have hx : elementWord (slotFrom k ct rd rs w) t
      = .next (vDone t (t.core.pushWrites (stepElems (slotFrom k ct rd rs w) t.core 0 rd.count).1).vStep fl) := by
    refine (if_neg hc).trans ?_
    simp only [show (slotFrom k ct rd rs w).d = rd from rfl, show (slotFrom k ct rd rs w).ct = ct from rfl, hb, vSend_nil hv, hr,
      Bool.false_eq_true, if_false, holdFor_nil hv, regions_slotFrom, stepsOf_one hc hn, hsteps]
  refine ⟨_, f, hx, ?_, hout⟩
  have hleave := leavesPending_step (s := t) (ws := (stepElems (slotFrom k ct rd rs w) t.core 0 rd.count).1) (n := if k.isSf then 8 else 3)
    (fl := fl) hv hq (by split <;> decide) (by simpa [hws] using hc) (by
      rw [hws]
      exact List.forall_mem_map.2 fun j _ => ⟨left_slotFrom .., rfl, rfl⟩)
  have hnear : nearer (stepElems (slotFrom k ct rd rs w) t.core 0 rd.count).1
      = (List.range rd.count).map fun j => slotWrite k ct rd rs w t.core j (f j) := by
    rw [hws, nearer, List.map_map]
    refine List.map_congr_left fun j _ => ?_
    simp only [Function.comp_apply, left_slotFrom, Nat.add_sub_cancel, slotWrite]
  rwa [← hnear]

end

/-! ### The word -/

/-- What a word outside a chain does where it issues (R213). -/
def slotBody (i : Instr) (s : State) : WordResult :=
  match s.core.chain with
  | some ch => .next (s.mapCore (fun c => { c with chain := some { ch with slots := ch.slots ++ [i] } }))
  | none =>
    if (encode i).getD 0 / 8 % 8 ≠ 0 then .fault ⟨cIllegal, 11, 0#64⟩
    else match slotOf i s.core.d with
      | some sl => elementWord sl s
      | none => .next s

theorem slotWord_eq (i : Instr) (s : State) : slotWord i s = .next (issueWith (fun _ => none) i (slotBody i) s) := rfl

theorem plainSlot_slotFrom (k : VKind) (ct : Nat) (rd : Region) (rs : List Region) (w : BitVec 32) : plainSlot (slotFrom k ct rd rs w) :=
  ⟨rfl, fun _ hv => (List.mem_map.1 hv).imp fun _ h => h.2.symm⟩

/-- The region that a field of a vector word names. -/
def regionIn (s : State) (x : BitVec 4) : Region := regionOf (s.core.d.get x.toNat)

/-- The clause of the statement for the word `i`: `old` where it reads its destination, `exact` for a conversion, `left` the steps that
are left to its writes, `src` the fields of its sources, and `f` its result on its operands. -/
def meetsElement (s : State) (d : BitVec 4) (i : Instr) (ct : Nat) (old exact : Bool) (left : Nat) (src : List (BitVec 4)) (f : List Nat → Nat) : Prop :=
  s.core.chain = none → s.core.vpend = [] → s.core.vretire = [] → issues s i →
  let rd := regionIn s d
  let n := rd.count
  let rs := src.map (regionIn s)
  let c := (takeRing i s).core
  let bad : Option Flt := (checkRegion c rd true old ct n s.hyp).or
    (rs.findSome? (fun x => checkRegion c x false (!exact) ct n s.hyp))
  let value (x : Region) (k : Nat) : Nat := valueIn ct x (x.code (s.core.buf x.space) k)
  (∀ e, n ≠ 0 → bad = some e → exec i s = .next (faultOf s s.unit e))
  ∧ (n = 0 → ∃ u, exec i s = .next u ∧ u.core.vpend = [] ∧ u.core.wb = s.core.wb ∧ u.core.ab = s.core.ab ∧ u.core.as = s.core.as)
  ∧ (n ≠ 0 → bad = none → rd.noRoom s.core = true → blocks s i 8)
  ∧ (1 ≤ n → bad = none → rd.noRoom s.core = false → n ≤ rateOf (rd :: rs) (ct == 1) → ∃ u, exec i s = .next u ∧ u.core.vpend.length = n
      ∧ (∀ k < n, ∃ w, u.core.vpend[k]? = some w ∧ w.addr = rd.space * 2 ^ 28 + (rd.place k).1 ∧ w.nibble = (rd.place k).2
          ∧ w.left = left ∧ w.sf = (left == 8)
          ∧ w.bytes = natToBytes rd.size (if exact then (rd.out (elemVal (rs.headD default).fmt (rs.headD default).u
                ((rs.headD default).code (s.core.buf (rs.headD default).space) k))).1
              else (rd.outCt ct (f (rs.map (fun x => value x k) ++ (if old then [value rd k] else [])))).1))
      ∧ u.core.wb = s.core.wb ∧ u.core.ab = s.core.ab ∧ u.core.as = s.core.as ∧ u.mem = s.mem ∧ u.core.aflags = s.core.aflags
      ∧ (∀ v m, u.core.reg v m = s.core.reg v m))

/-- What a word that leaves pending writes keeps. -/
theorem keeps_of_leavesPending {s u : State} {ws : List VWrite} (h : leavesPending s u ws) :
    u.core.wb = s.core.wb ∧ u.core.ab = s.core.ab ∧ u.core.as = s.core.as ∧ u.mem = s.mem ∧ u.core.aflags = s.core.aflags
      ∧ (∀ v m, u.core.reg v m = s.core.reg v m) := by
  obtain ⟨-, h⟩ := h
  exact ⟨eq_of_offWrites h (·.core.wb) fun _ => rfl, eq_of_offWrites h (·.core.ab) fun _ => rfl, eq_of_offWrites h (·.core.as) fun _ => rfl,
    eq_of_offWrites h (·.mem) fun _ => rfl, eq_of_offWrites h (·.core.aflags) fun _ => rfl,
    fun v m => eq_of_offWrites h (fun s => s.core.reg v m) fun _ => by cases v <;> rfl⟩

theorem vpend_of_leavesPending_nil {s u : State} (h : leavesPending s u []) : u.core.vpend = [] :=
  List.map_eq_nil_iff.1 h.1

/-- A slot word meets its clause, with the result of its slot on its operands. -/
theorem meetsElement_of_slot {s : State} {i : Instr} {k : VKind} {ct : Nat} {d a : BitVec 4} {src : List (BitVec 4)} {f : List Nat → Nat}
    {w : BitVec 32} (h : slotOf i s.core.d = some (slotFrom k ct (regionIn s d) ((a :: src).map (regionIn s)) w))
    (hf : k ≠ .cvt → i.wf = true → ∀ l, f l = (k.result ct l).1) :
    meetsElement s d i ct k.readsDest (k == .cvt) (if k.isSf then 8 else 3) (a :: src) f := by
  intro hc hv hq hi rd n rs c bad value
  have hrs : rs ≠ [] := List.cons_ne_nil _ _
  obtain ⟨word, hword, hbits⟩ := encode_of_plain h (plainSlot_slotFrom ..)
  have hbody : slotBody i (takeRing i s) = elementWord (slotFrom k ct rd rs w) (takeRing i s) := by
    have hc' : (takeRing i s).core.chain = none := by rw [takeRing_eq]; exact hc
    have hd' : (takeRing i s).core.d = s.core.d := by rw [takeRing_eq]
    simp only [slotBody, hc', hd', hword, Option.getD_some, hbits, ne_eq, not_true_eq_false, if_false, h]
    rfl
  have hx : exec i s = .next (issueWith (fun _ => none) i (slotBody i) s) := (exec_of_slotOf h s).trans (slotWord_eq i s)
  have hbad : (slotFrom k ct rd rs w).check (takeRing i s).core (some rd.count) (takeRing i s).hyp = bad := by
    rw [check_slotFrom, takeRing_hyp]
    rfl
  have hv' := (takeRing_vpend i s).trans hv
  have hq' := (takeRing_vretire i s).trans hq
  refine ⟨fun e hn hb => faults_of_issueWith hx (hbody.trans (elementWord_fault hn (hbad.trans hb))) hi, fun hn => ?_,
    fun hn hb hr => blocks_of_issueWith hx (hbody.trans (elementWord_full hn (hbad.trans hb) hv' ((takeRing_noRoom i s _).trans hr))) (vSend_nil hv),
    fun hn hb hr hrate => ?_⟩
  · obtain ⟨u, hu, hl⟩ := leavesPending_of_exec hx (hbody.trans (elementWord_empty hn)) (leavesPending_nil hv' hq') hi
    obtain ⟨hwb, hab, has, -⟩ := keeps_of_leavesPending hl
    exact ⟨u, hu, vpend_of_leavesPending_nil hl, hwb, hab, has⟩
  · obtain ⟨u', g, hu', hl', hout⟩ := elementWord_writes (w := w) (Nat.ne_of_gt hn) (hbad.trans hb) hv' hrs ((takeRing_noRoom i s _).trans hr) hq' hrate
    obtain ⟨u, hu, hl⟩ := leavesPending_of_exec hx (hbody.trans hu') hl' hi
    obtain ⟨hlen, hget⟩ := getElem?_of_leavesPending hl
    refine ⟨u, hu, hlen, fun j hj => ?_, keeps_of_leavesPending hl⟩
    obtain ⟨v, hv, hbare⟩ := hget j hj
    have hbytes : v.bytes = natToBytes rd.size (slotCode k ct rd rs (fun r => r.code (s.core.buf r.space) j)) := by
      have h := congrArg VWrite.bytes hbare
      refine h.trans (congrArg (natToBytes rd.size) ((hout j).trans ?_))
      rw [takeRing_eq]
      rfl
    refine ⟨v, hv, congrArg VWrite.addr hbare, congrArg VWrite.nibble hbare, congrArg VWrite.left hbare, (congrArg VWrite.sf hbare).trans ?_, hbytes.trans ?_⟩
    · cases hsf : k.isSf <;> exact hsf
    · refine congrArg (natToBytes rd.size) ?_
      by_cases hk : k = .cvt
      · simp only [slotCode, hk, if_true, beq_self_eq_true]
      · have hcode : f (operandsOf k ct rd rs (fun r => r.code (s.core.buf r.space) j)) = _ :=
          hf hk (wf_of_earlyFault hword (of_issues hi).2.1) _
        simp only [slotCode, hk, if_false, beq_eq_false_iff_ne.2 hk, Bool.false_eq_true, ← hcode]
        rfl

end Sys2Proof.Proofs
end

section
/-! A reciprocal is the quotient of 1 in binary32 (R218): a quotient with a bit that marks its rest rounds as the exact one does, at
whatever exponent its dividend is written (R61–R64). -/
namespace Sys2Proof.Proofs
open Sys2Proof.Machine

/-- A quotient with one more bit, set when the rest is not zero. -/
def marked (A n : Nat) : Nat := 2 * (A / n) + if A % n = 0 then 0 else 1

/-- The exact quotient to the nearest integer, ties to even, and whether it is inexact. -/
def nearest (A N : Nat) : Nat × Bool :=
  (if 2 * (A % N) > N ∨ (2 * (A % N) = N ∧ A / N % 2 = 1) then A / N + 1 else A / N, decide (A % N ≠ 0))

theorem nearest_scale (A N : Nat) {c : Nat} (hc : 0 < c) : nearest (A * c) (N * c) = nearest A N := by
  have h1 : 2 * (A % N * c) > N * c ↔ 2 * (A % N) > N := by
    rw [← Nat.mul_assoc]
    exact Nat.mul_lt_mul_right hc
  have h2 : 2 * (A % N * c) = N * c ↔ 2 * (A % N) = N := by
    rw [← Nat.mul_assoc]
    exact Nat.mul_left_inj hc.ne'
  have h3 : A % N * c ≠ 0 ↔ A % N ≠ 0 := by simp [hc.ne']
  simp only [nearest, Nat.mul_mod_mul_right, Nat.mul_div_mul_right _ _ hc, h1, h2, h3]

/-- A quotient by `n * h` from the one by `n`. -/
theorem div_mod_mul (A n h : Nat) : A / (n * h) = A / n / h ∧ A % (n * h) = n * (A / n % h) + A % n := by
  rw [Nat.div_div_eq_div_mul, Nat.mod_mul]
  exact ⟨rfl, Nat.add_comm _ _⟩

/-- The mark stands for the rest where a quotient is compared with a whole number. -/
theorem marked_cmp {n r x h m : Nat} (hr : r < n) (hm : m = if r = 0 then 0 else 1) :
    (2 * x + m > 2 * h ↔ n * x + r > n * h) ∧ (2 * x + m = 2 * h ↔ n * x + r = n * h) := by
  have hm' : m = 0 ∧ r = 0 ∨ m = 1 ∧ 0 < r := by
    rw [hm]
    split <;> omega
  rcases Nat.lt_trichotomy x h with hx | rfl | hx
  · have := Nat.mul_le_mul_left n hx
    rw [Nat.mul_succ] at this
    omega
  · omega
  · have := Nat.mul_le_mul_left n hx
    rw [Nat.mul_succ] at this
    omega

/-- The marked quotient rounds at two or more places above its last bit as the exact one. -/
theorem roundAt_marked (neg : Bool) {A n : Nat} (hn : 0 < n) {e q : Int} (h : e + 2 ≤ q) :
    roundAt .rne neg (marked A n) e q = nearest A (n * 2 ^ (q - e - 1).toNat) := by
  obtain ⟨j, hj⟩ : ∃ j : Nat, q - e = j + 2 := ⟨(q - e - 2).toNat, by omega⟩
  have hd : pow2 (q - e) = 2 * (2 * 2 ^ j) := by
    rw [hj, pow2, show (((j : Int) + 2).toNat) = j + 2 by omega, pow_succ, pow_succ]
    ring
  have hh : 2 ^ (q - e - 1).toNat = 2 * 2 ^ j := by
    rw [hj, show (((j : Int) + 2 - 1).toNat) = j + 1 by omega, pow_succ, Nat.mul_comm]
  obtain ⟨m, hm⟩ : ∃ m, m = if A % n = 0 then 0 else 1 := ⟨_, rfl⟩
  have hm1 : m ≤ 1 := by rw [hm]; split <;> omega
  obtain ⟨hdiv, hmod⟩ := div_mod_mul A n (2 * 2 ^ j)
  have hk : marked A n / (2 * (2 * 2 ^ j)) = A / n / (2 * 2 ^ j) := by
    rw [marked, ← hm, ← Nat.div_div_eq_div_mul, show (2 * (A / n) + m) / 2 = A / n by omega]
  have hrest : marked A n % (2 * (2 * 2 ^ j)) = 2 * (A / n % (2 * 2 ^ j)) + m := by
    rw [marked, ← hm, Nat.mod_mul, show (2 * (A / n) + m) / 2 = A / n by omega, show (2 * (A / n) + m) % 2 = m by omega, Nat.add_comm]
  obtain ⟨hgt, heq⟩ := marked_cmp (x := A / n % (2 * 2 ^ j)) (h := 2 ^ j) (Nat.mod_lt A hn) hm
  obtain ⟨-, hzero⟩ := marked_cmp (x := A / n % (2 * 2 ^ j)) (h := 0) (Nat.mod_lt A hn) hm
  have hup : (2 * (2 * (A / n % (2 * 2 ^ j)) + m) > 2 * (2 * 2 ^ j) ↔ 2 * (n * (A / n % (2 * 2 ^ j)) + A % n) > n * (2 * 2 ^ j))
      ∧ (2 * (2 * (A / n % (2 * 2 ^ j)) + m) = 2 * (2 * 2 ^ j) ↔ 2 * (n * (A / n % (2 * 2 ^ j)) + A % n) = n * (2 * 2 ^ j)) := by
    rw [Nat.mul_left_comm n 2]
    omega
  have hne : 2 * (A / n % (2 * 2 ^ j)) + m ≠ 0 ↔ n * (A / n % (2 * 2 ^ j)) + A % n ≠ 0 := by
    simpa using not_congr hzero
  have hq : ¬q ≤ e := by omega
  simp only [roundAt, if_neg hq, hd, hk, hrest, hh, nearest, hdiv, hmod, hup.1, hup.2, hne, Bool.or_eq_true, Bool.and_eq_true,
    decide_eq_true_eq, beq_iff_eq]

theorem log2_marked {A n c : Nat} (hq : A / n ≠ 0) : Nat.log2 (marked (A * 2 ^ c) n) = Nat.log2 (A / n) + c + 1 := by
  have hn : 0 < n := Nat.pos_of_ne_zero fun h => hq (by rw [h, Nat.div_zero])
  obtain ⟨hlo, hhi⟩ := (Nat.log2_eq_iff hq).1 rfl
  have hlo' : 2 ^ (Nat.log2 (A / n) + c) ≤ A * 2 ^ c / n := by
    rw [Nat.le_div_iff_mul_le hn, pow_add, Nat.mul_right_comm]
    exact Nat.mul_le_mul_right _ ((Nat.le_div_iff_mul_le hn).1 hlo)
  have hhi' : A * 2 ^ c / n < 2 ^ (Nat.log2 (A / n) + c + 1) := by
    rw [Nat.div_lt_iff_lt_mul hn, Nat.add_right_comm, pow_add, Nat.mul_right_comm]
    exact Nat.mul_lt_mul_of_pos_right ((Nat.div_lt_iff_lt_mul hn).1 hhi) (Nat.two_pow_pos c)
  have hp := pow_succ 2 (Nat.log2 (A / n) + c)
  have hp' := pow_succ 2 (Nat.log2 (A / n) + c + 1)
  have hm : marked (A * 2 ^ c) n = 2 * (A * 2 ^ c / n) ∨ marked (A * 2 ^ c) n = 2 * (A * 2 ^ c / n) + 1 := by
    unfold marked
    split <;> omega
  exact (Nat.log2_eq_iff (by omega)).2 ⟨by omega, by omega⟩

theorem marked_ne_zero {A n : Nat} (hq : A / n ≠ 0) : marked A n ≠ 0 := by
  unfold marked
  omega

/-- A dividend may be written with a smaller exponent. -/
theorem round_marked_scale (f : Fmt) (neg : Bool) {A n : Nat} (c : Nat) (e : Int) (hq : 2 ^ (f.mb + 1) ≤ A / n) :
    f.round .rne neg (marked (A * 2 ^ c) n) (e - c) = f.round .rne neg (marked A n) e := by
  have hq0 : A / n ≠ 0 := (Nat.lt_of_lt_of_le (Nat.two_pow_pos _) hq).ne'
  have hn : 0 < n := Nat.pos_of_ne_zero fun h => hq0 (by rw [h, Nat.div_zero])
  have hl : Nat.log2 (marked A n) = Nat.log2 (A / n) + 1 := by simpa using log2_marked (c := 0) hq0
  have hmb : f.mb + 1 ≤ Nat.log2 (A / n) := (Nat.le_log2 hq0).2 hq
  have hscale (q : Int) (h : e + 2 ≤ q) : roundAt .rne neg (marked (A * 2 ^ c) n) (e - c) q = roundAt .rne neg (marked A n) e q := by
    rw [roundAt_marked neg hn (by omega), roundAt_marked neg hn h, show (q - (e - c) - 1).toNat = (q - e - 1).toNat + c by omega, pow_add,
      ← Nat.mul_assoc, nearest_scale _ _ (Nat.two_pow_pos c)]
  have hm0 : marked (A * 2 ^ c) n ≠ 0 := by
    intro h0
    have := log2_marked (c := c) hq0
    rw [h0] at this
    simp at this
  have hexp : ((Nat.log2 (A / n) + c + 1 : Nat) : Int) + (e - c) = ((Nat.log2 (A / n) + 1 : Nat) : Int) + e := by push_cast; ring
  simp only [Fmt.round, if_neg hm0, if_neg (marked_ne_zero hq0), log2_marked hq0, hl, hexp]
  rw [hscale _ (by push_cast; omega)]
  split
  · rfl
  · split
    next hsub =>
      rw [hscale _ (by simp only [Fmt.qmin]; push_cast at hsub; omega)]
    next => rfl

theorem div_fin {x y : Bool} {m n : Nat} {e g : Int} (hm : m ≠ 0) (hn : n ≠ 0) : (FVal.div (.fin x m e) (.fin y n g)).1
    = .fin (x != y) (marked (m * 2 ^ (guardBits + Nat.log2 n)) n) (e - g - (guardBits + Nat.log2 n : Nat) - 1) := by
  simp only [FVal.div, if_neg hm, if_neg hn, marked]

/-- 1 divided by a value is the reciprocal, with the one rounding of R64. -/
theorem rcp_value (v : FVal) : (f32.arith .rne (FVal.div (f32.decode 0x3F800000) v).1).1 = (f32.arith .rne (FVal.div (.fin false 1 0) v).1).1 := by
  have hone : f32.decode 0x3F800000 = .fin false (2 ^ 23) (-23) := by decide
  rw [hone]
  cases v with
  | nan s => rfl
  | inf neg => rfl
  | fin y n g =>
    by_cases hn : n = 0
    · subst hn; rfl
    · have hq : 2 ^ (f32.mb + 1) ≤ 1 * 2 ^ (guardBits + Nat.log2 n) / n := by
        rw [Nat.le_div_iff_mul_le (Nat.pos_of_ne_zero hn), Nat.one_mul]
        have hlt : n < 2 ^ (Nat.log2 n + 1) := Nat.lt_log2_self
        rw [pow_succ] at hlt
        calc 2 ^ (f32.mb + 1) * n ≤ 2 ^ (f32.mb + 1) * (2 * 2 ^ Nat.log2 n) := Nat.mul_le_mul_left _ (by omega)
          _ = 2 ^ (f32.mb + 2) * 2 ^ Nat.log2 n := by rw [← Nat.mul_assoc, ← pow_succ]
          _ ≤ 2 ^ guardBits * 2 ^ Nat.log2 n := Nat.mul_le_mul_right _ (Nat.pow_le_pow_right (by decide) (by decide))
          _ = 2 ^ (guardBits + Nat.log2 n) := (pow_add ..).symm
      have hr := round_marked_scale f32 (false != y) 23 (0 - g - (guardBits + Nat.log2 n : Nat) - 1) hq
      rw [div_fin (by decide) hn, div_fin (by decide) hn]
      rw [show 2 ^ 23 * 2 ^ (guardBits + Nat.log2 n) = 1 * 2 ^ (guardBits + Nat.log2 n) * 2 ^ 23 by ring,
        show (-23 : Int) - g - (guardBits + Nat.log2 n : Nat) - 1 = 0 - g - (guardBits + Nat.log2 n : Nat) - 1 - (23 : Nat) by push_cast; ring]
      simp only [Fmt.arith, hr]

theorem rcp_apply (a : Nat) : (f32.divC .rne 0x3F800000 a).1 = (SpFn.rcp.apply a).1 := by
  have hv : SpFn.rcp.value (f32.decode a) = FVal.div (.fin false 1 0) (f32.decode a) ∨ ∃ s, f32.decode a = .nan s := by
    cases f32.decode a with
    | nan s => exact .inr ⟨s, rfl⟩
    | inf _ => exact .inl rfl
    | fin _ _ _ => exact .inl rfl
  obtain hv | ⟨s, hs⟩ := hv
  · simp only [SpFn.apply, hv]
    exact rcp_value _
  · simp only [SpFn.apply, Fmt.divC, hs]
    rfl

end Sys2Proof.Proofs
end

section
/-! The element-wise words of the VE (R215–R219), and RGN.SET (R214). -/
namespace Sys2Proof.Proofs
open Sys2Proof.Machine Sys2Proof.Safety Sys2Proof.Laws

/-! ### Integers of a computation type: R208 -/

theorem signed32_eq (ct x : Nat) : signed32 ct x = if ct = 2 then (BitVec.ofNat 32 x).toInt else ((x % 2 ^ 32 : Nat) : Int) := by
  have hs : sextNat 32 x = (BitVec.ofNat 32 x).toInt := by
    rw [← sextNat_toNat (by decide), BitVec.toNat_ofNat, sextNat, sextNat, Nat.mod_mod]
  rw [signed32, hs]

theorem signed32_modEq (ct x : Nat) : (signed32 ct x) % 4294967296 = ((x % 2 ^ 32 : Nat) : Int) := by
  unfold signed32 sextNat
  split <;> [split; skip] <;> omega

/-- The 32 bits of an integer are those of the code that it was read from. -/
theorem mod32_signed32 (ct x : Nat) : mod32 (signed32 ct x) = x % 2 ^ 32 := by
  have h := signed32_modEq ct x
  rw [mod32, show ((2 ^ 32 : Nat) : Int) = 4294967296 by norm_num, h, Int.toNat_natCast]

theorem signed32_shift (ct x : Nat) : (signed32 ct x % 32).toNat = x % 32 := by
  have h := signed32_modEq ct x
  omega

/-! ### Results: R215–R217 -/

/-- The result of a two-source word: `fl` on float codes, `int` on integers. -/
def twoOn (ct : Nat) (fl : Nat → Nat → Nat × FlagSet) (int : Int → Int → Int) (l : List Nat) : Nat :=
  if ct < 2 then (fl (l.getD 0 0) (l.getD 1 0)).1 else mod32 (int (signed32 ct (l.getD 0 0)) (signed32 ct (l.getD 1 0)))

section
variable {f ct : Nat} {fl : Nat → Nat → Nat × FlagSet} {int : Int → Int → Int}

theorem two_result (hf : ∀ x y, twoFloat f (ctFmt ct) x y = fl x y)
    (hi : ∀ x y, twoInt f ct x y = mod32 (int (signed32 ct x) (signed32 ct y))) (l : List Nat) :
    twoOn ct fl int l = ((VKind.two f).result ct l).1 := by
  by_cases h : ct < 2
  · simp only [twoOn, if_pos h, VKind.result, if_neg (show ¬2 ≤ ct by omega), hf]
  · simp only [twoOn, if_neg h, VKind.result, if_pos (show 2 ≤ ct by omega), hi]

theorem two_result_int (h : 2 ≤ ct) (hi : ∀ x y, twoInt f ct x y = mod32 (int (signed32 ct x) (signed32 ct y))) (l : List Nat) :
    twoOn ct fl int l = ((VKind.two f).result ct l).1 := by
  simp only [twoOn, if_neg (show ¬ct < 2 by omega), VKind.result, if_pos h, hi]

theorem two_result_bits (h : 2 ≤ ct) {op : Nat → Nat → Nat} (hi : ∀ x y, twoInt f ct x y = op (mod32 (signed32 ct x)) (mod32 (signed32 ct y)))
    (l : List Nat) : op (l.getD 0 0 % 2 ^ 32) (l.getD 1 0 % 2 ^ 32) = ((VKind.two f).result ct l).1 := by
  simp only [VKind.result, if_pos h, hi, mod32_signed32]

end

theorem twoInt_div (ct x y : Nat) : twoInt 3 ct x y = mod32 (if signed32 ct y = 0 then -1 else (signed32 ct x).tdiv (signed32 ct y)) := by
  simp only [twoInt]
  split
  · decide
  · rfl

theorem twoInt_shl (ct x y : Nat) : twoInt 9 ct x y = mod32 (signed32 ct x * 2 ^ (signed32 ct y % 32).toNat) := by
  simp only [twoInt, signed32_shift]
  push_cast
  rfl

theorem twoInt_shr (ct x y : Nat) : twoInt 10 ct x y = mod32 (signed32 ct x / 2 ^ (signed32 ct y % 32).toNat) := by
  simp only [twoInt, signed32_shift]
  push_cast
  rfl

/-- The result of a three-source word: VFMA, VFMS, VFNMA and VCLAMP. -/
theorem three_result_int {f ct : Nat} (h : 2 ≤ ct) (l : List Nat) :
    ((VKind.three f).result ct l).1 = threeInt f ct (l.getD 0 0) (l.getD 1 0) (l.getD 2 0) := by
  simp only [VKind.result, if_pos h]

theorem three_result_float {f ct : Nat} (h : ct < 2) (l : List Nat) :
    ((VKind.three f).result ct l).1 = (threeFloat f (ctFmt ct) (l.getD 0 0) (l.getD 1 0) (l.getD 2 0)).1 := by
  simp only [VKind.result, if_neg (show ¬2 ≤ ct by omega)]

/-- A compare of integers: 1 where it holds. -/
theorem cmp_result_int {f ct : Nat} {p : Int → Int → Prop} [DecidableRel p] {fl : Nat → Nat → Nat × FlagSet} (h : 2 ≤ ct)
    (hp : ∀ x y, (cmpCt f ct x y).1 = if p (signed32 ct x) (signed32 ct y) then 1 else 0) (l : List Nat) :
    twoOn ct fl (fun x y => if p x y then 1 else 0) l = ((VKind.cmp f).result ct l).1 := by
  simp only [twoOn, if_neg (show ¬ct < 2 by omega), VKind.result, hp]
  split <;> rfl

theorem cmpCt_eq_int {ct : Nat} (h : 2 ≤ ct) (x y : Nat) : (cmpCt 0 ct x y).1 = if signed32 ct x = signed32 ct y then 1 else 0 := by
  simp only [cmpCt, if_pos h, ctOne, decide_eq_true_eq]

theorem cmpCt_lt_int {ct : Nat} (h : 2 ≤ ct) (x y : Nat) : (cmpCt 1 ct x y).1 = if signed32 ct x < signed32 ct y then 1 else 0 := by
  simp only [cmpCt, if_pos h, ctOne, decide_eq_true_eq]

theorem cmpCt_le_int {ct : Nat} (h : 2 ≤ ct) (x y : Nat) : (cmpCt 2 ct x y).1 = if signed32 ct x ≤ signed32 ct y then 1 else 0 := by
  simp only [cmpCt, if_pos h, ctOne, Bool.or_eq_true, decide_eq_true_eq, Int.le_iff_lt_or_eq]

theorem cmpCt_eq_float {ct : Nat} (h : ct < 2) (x y : Nat) : (cmpCt 0 ct x y).1
    = if ((ctFmt ct).decode x).eqNum ((ctFmt ct).decode y) then ((ctFmt ct).arith .rne (.fin false 1 0)).1 else 0 := by
  simp only [cmpCt, if_neg (show ¬2 ≤ ct by omega), ctOne]

theorem cmpCt_lt_float {ct : Nat} (h : ct < 2) (x y : Nat) : (cmpCt 1 ct x y).1
    = if ((ctFmt ct).decode x).ltNum ((ctFmt ct).decode y) then ((ctFmt ct).arith .rne (.fin false 1 0)).1 else 0 := by
  simp only [cmpCt, if_neg (show ¬2 ≤ ct by omega), ctOne]

theorem not_result_int {ct : Nat} (l : List Nat) : (VKind.not.result ct l).1 = mod32 (-1 - signed32 ct (l.getD 0 0)) := by
  simp only [VKind.result, show ∀ x : Int, -x - 1 = -1 - x by intro x; omega]

/-- A result that is the model's own on floats, and `m` on integers. -/
theorem result_of_int {k : VKind} {ct m : Nat} {l : List Nat} (h : 2 ≤ ct → (k.result ct l).1 = m) :
    (if ct < 2 then (k.result ct l).1 else m) = (k.result ct l).1 := by
  split
  · rfl
  · exact (h (by omega)).symm

theorem abs_result_int {ct : Nat} (h : 2 ≤ ct) (h3 : ct ≤ 3) (l : List Nat) :
    (VKind.abs.result ct l).1 = if ct = 2 then mod32 (signed32 ct (l.getD 0 0)).natAbs else l.getD 0 0 := by
  simp only [VKind.result]
  split
  · rfl
  · rw [if_pos (by omega)]

/-- VSEL takes its first source where the condition is not zero. -/
theorem vsel_result (ct : Nat) (l : List Nat) :
    (if (if ct < 2 then !((ctFmt ct).decode (l.getD 2 0)).isZero else l.getD 2 0 % 2 ^ 32 != 0) then l.getD 0 0 else l.getD 1 0)
      = ((VKind.three 3).result ct l).1 := by
  by_cases h : ct < 2
  · rw [three_result_float h, if_pos h]
    cases hz : ((ctFmt ct).decode (l.getD 2 0)).isZero <;> simp only [threeFloat, hz] <;> rfl
  · rw [three_result_int (by omega), if_neg h]
    simp [threeInt]

theorem vclamp_result (ct : Nat) (l : List Nat) :
    (if ct < 2 then ((ctFmt ct).minC ((ctFmt ct).maxC (l.getD 2 0) (l.getD 0 0)).1 (l.getD 1 0)).1
      else mod32 (min (max (signed32 ct (l.getD 2 0)) (signed32 ct (l.getD 0 0))) (signed32 ct (l.getD 1 0))))
      = ((VKind.three 4).result ct l).1 := by
  by_cases h : ct < 2
  · rw [three_result_float h, if_pos h]
    rfl
  · rw [three_result_int (by omega), if_neg h]
    rfl

theorem ctLimit_of_wf {r d a : BitVec 4} {x z : BitVec 1} {t : BitVec 3} (h : (Instr.vabs r d a x z t).wf = true) : t.toNat ≤ 3 :=
  (of_decide_eq_true h).1

/-- Settles O38: a word outside a chain is its slot's step (`meetsElement_of_slot`), with the result of its slot's kind. -/
theorem vectorElementWords : Obligations.VectorElementWords := by
  intro s r d a b t rd n run ct g sg lo two bitsOp none2
  have hsg : sg = signed32 ct := funext fun x => (signed32_eq ct x).symm
  have hrun : run = meetsElement s d := rfl
  have hlo : lo = mod32 := rfl
  have hg : g = ctFmt ct := rfl
  have htwo : two = twoOn ct := by
    simp only [two, hsg]
    rfl
  clear_value two sg lo g run
  subst htwo hsg hlo hg hrun
  exact ⟨meetsElement_of_slot (k := .two 0) rfl fun _ _ => two_result (fun _ _ => rfl) fun _ _ => rfl,
    meetsElement_of_slot (k := .two 1) rfl fun _ _ => two_result (fun _ _ => rfl) fun _ _ => rfl,
    meetsElement_of_slot (k := .two 2) rfl fun _ _ => two_result (fun _ _ => rfl) fun _ _ => rfl,
    meetsElement_of_slot (k := .two 3) rfl fun _ _ => two_result (fun _ _ => rfl) (twoInt_div ct),
    meetsElement_of_slot (k := .two 4) rfl fun _ _ => two_result (fun _ _ => rfl) fun _ _ => rfl,
    meetsElement_of_slot (k := .two 5) rfl fun _ _ => two_result (fun _ _ => rfl) fun _ _ => rfl,
    fun h => meetsElement_of_slot (k := .two 6) rfl fun _ _ => two_result_bits h fun _ _ => rfl,
    fun h => meetsElement_of_slot (k := .two 7) rfl fun _ _ => two_result_bits h fun _ _ => rfl,
    fun h => meetsElement_of_slot (k := .two 8) rfl fun _ _ => two_result_bits h fun _ _ => rfl,
    fun h => meetsElement_of_slot (k := .two 9) rfl fun _ _ => two_result_int h (twoInt_shl ct),
    fun h => meetsElement_of_slot (k := .two 10) rfl fun _ _ => two_result_int h (twoInt_shr ct),
    meetsElement_of_slot (k := .not) rfl fun _ _ l => result_of_int (k := .not) fun _ => not_result_int l,
    meetsElement_of_slot (k := .abs) rfl fun _ hwf l => result_of_int (k := .abs) fun h => abs_result_int h (ctLimit_of_wf hwf) l,
    meetsElement_of_slot (k := .neg) rfl fun _ _ l => result_of_int (k := .neg) fun h => congrArg Prod.fst (if_pos h),
    meetsElement_of_slot (k := .mov) rfl fun _ _ _ => rfl,
    meetsElement_of_slot (k := .cvt) rfl fun h => absurd rfl h,
    meetsElement_of_slot (k := .three 0) rfl fun _ _ l => result_of_int (k := .three 0) fun h => three_result_int h l,
    meetsElement_of_slot (k := .three 1) rfl fun _ _ l => result_of_int (k := .three 1) fun h => three_result_int h l,
    meetsElement_of_slot (k := .three 2) rfl fun _ _ l => result_of_int (k := .three 2) fun h => three_result_int h l,
    meetsElement_of_slot (k := .three 3) rfl fun _ _ => vsel_result ct,
    meetsElement_of_slot (k := .three 4) rfl fun _ _ => vclamp_result ct,
    fun h => meetsElement_of_slot (k := .cmp 0) rfl fun _ _ => cmp_result_int h (cmpCt_eq_int h),
    fun h => meetsElement_of_slot (k := .cmp 1) rfl fun _ _ => cmp_result_int h (cmpCt_lt_int h),
    fun h => meetsElement_of_slot (k := .cmp 2) rfl fun _ _ => cmp_result_int h (cmpCt_le_int h),
    fun h => meetsElement_of_slot (k := .cmp 0) rfl fun _ _ l => (cmpCt_eq_float h _ _).symm,
    fun h => meetsElement_of_slot (k := .cmp 1) rfl fun _ _ l => (cmpCt_lt_float h _ _).symm,
    meetsElement_of_slot (k := .sf .exp2) rfl fun _ _ _ => rfl,
    meetsElement_of_slot (k := .sf .log2) rfl fun _ _ _ => rfl,
    meetsElement_of_slot (k := .sf .rcp) rfl fun _ _ _ => rcp_apply _,
    meetsElement_of_slot (k := .sf .rsq) rfl fun _ _ _ => rfl,
    meetsElement_of_slot (k := .sf .sqrt) rfl fun _ _ _ => rfl,
    meetsElement_of_slot (k := .sf .sin) rfl fun _ _ _ => rfl,
    meetsElement_of_slot (k := .sf .cos) rfl fun _ _ _ => rfl,
    meetsElement_of_slot (k := .sf .tanh) rfl fun _ _ _ => rfl,
    completes_of_ok rfl rfl⟩

end Sys2Proof.Proofs
end

section
/-! A reduction outside a chain whose elements fit one step (R209, R220, R76). -/
namespace Sys2Proof.Proofs
open Sys2Proof.Machine Sys2Proof.Safety Sys2Proof.Laws

/-! ### The tree: R76 -/

section
variable {α β γ : Type} {op : α → α → α × β} {op' : α → α → α × γ} {join : β → β → β} {join' : γ → γ → γ}

/-- The values of a tree are those of its nodes, whatever is joined beside them. -/
theorem treeLevel_fst (h : ∀ x y, (op x y).1 = (op' x y).1) : ∀ (l : List α) (acc : β) (acc' : γ),
    (treeLevel op join l acc).1 = (treeLevel op' join' l acc').1
  | [], _, _ | [_], _, _ => rfl
  | x :: y :: t, _, _ => congrArg₂ List.cons (h x y) (treeLevel_fst h t _ _)

theorem treeReduce_fst (h : ∀ x y, (op x y).1 = (op' x y).1) (fuel : Nat) (l : List α) (acc : β) (acc' : γ) :
    (treeReduce op join fuel l acc).1 = (treeReduce op' join' fuel l acc').1 := by
  induction fuel generalizing l acc acc' with
  | zero => rfl
  | succ n ih =>
    match l with
    | [] | [_] => rfl
    | x :: y :: t =>
      have hl := treeLevel_fst (join := join) (join' := join') h (x :: y :: t) acc acc'
      exact (congrArg (fun l => (treeReduce op join n l _).1) hl).trans (ih _ _ _)

/-- A level of an associative operation keeps what the whole folds to. -/
theorem foldl_treeLevel {g : α → α → α} (hg : ∀ x y, (op x y).1 = g x y) (ha : ∀ x y z, g (g x y) z = g x (g y z)) :
    ∀ (l : List α) (acc : β) (z : α), (treeLevel op join l acc).1.foldl g z = l.foldl g z
  | [], _, _ | [_], _, _ => rfl
  | x :: y :: t, acc, z => by
    have ih := foldl_treeLevel hg ha t (join acc (op x y).2) (g z (op x y).1)
    rw [hg, ← ha] at ih
    simpa only [List.foldl_cons, ha, treeLevel, hg] using ih

theorem length_treeLevel : ∀ (l : List α) (acc : β), (treeLevel op join l acc).1.length = (l.length + 1) / 2
  | [], _ | [_], _ => by simp [treeLevel]
  | x :: y :: t, acc => by
    have ih := length_treeLevel t (join acc (op x y).2)
    simp only [treeLevel, List.length_cons, ih]
    omega

/-- A tree of enough levels of an associative operation is its fold. -/
theorem treeReduce_foldl {g : α → α → α} (hg : ∀ x y, (op x y).1 = g x y) (ha : ∀ x y z, g (g x y) z = g x (g y z))
    (fuel : Nat) (x : α) (t : List α) (acc : β) (hl : t.length < 2 ^ fuel) : (treeReduce op join fuel (x :: t) acc).1 = some (t.foldl g x) := by
  induction fuel generalizing x t acc with
  | zero =>
    obtain rfl : t = [] := List.length_eq_zero_iff.1 (by omega)
    rfl
  | succ n ih =>
    match t with
    | [] => rfl
    | y :: t =>
      have hlen := length_treeLevel (op := op) (join := join) t (join acc (op x y).2)
      rw [pow_succ, List.length_cons] at hl
      have h := ih (op x y).1 (treeLevel op join t (join acc (op x y).2)).1 (treeLevel op join t (join acc (op x y).2)).2 (by omega)
      rw [foldl_treeLevel hg ha] at h
      exact h.trans (congrArg (fun z => some (t.foldl g z)) (hg x y))

end

/-! ### The largest, and the first of those: R220 -/

/-- The later of two elements, where its key is larger. -/
def larger {α : Type} (key : α → Int) (x y : α) : α := if key x < key y then y else x

section
variable {α : Type} {key : α → Int}

theorem larger_assoc (x y z : α) : larger key (larger key x y) z = larger key x (larger key y z) := by
  unfold larger
  grind

theorem foldl_larger_keeps {p : α} {l : List α} (h : ∀ x ∈ l, key x ≤ key p) : l.foldl (larger key) p = p :=
  List.foldlRecOn l _ (motive := fun q => q = p) rfl fun q hq x hx => by
    rw [hq]
    exact if_neg (Int.not_lt.2 (h x hx))

theorem foldl_larger_lt {p z : α} {l : List α} (hz : key z < key p) (h : ∀ x ∈ l, key x < key p) : key (l.foldl (larger key) z) < key p :=
  List.foldlRecOn l _ (motive := fun q => key q < key p) hz fun q hq x hx => by
    unfold larger
    split
    · exact h x hx
    · exact hq

/-- The fold finds the element that is larger than all before it, and that none after it exceeds. -/
theorem foldl_larger {p z : α} {pre post t : List α} (hl : z :: t = pre ++ p :: post) (hpre : ∀ x ∈ pre, key x < key p)
    (hpost : ∀ x ∈ post, key x ≤ key p) : t.foldl (larger key) z = p := by
  cases pre with
  | nil =>
    obtain ⟨rfl, rfl⟩ := List.cons.inj hl
    exact foldl_larger_keeps hpost
  | cons y pre =>
    obtain ⟨rfl, rfl⟩ := List.cons.inj (hl.trans (List.cons_append ..))
    obtain ⟨hz, hpre⟩ := List.forall_mem_cons.1 hpre
    rw [List.foldl_append, List.foldl_cons, larger, if_pos (foldl_larger_lt hz hpre), foldl_larger_keeps hpost]

end

/-! ### What a reduction writes -/

section
variable {f ct : Nat} {rd : Region}

theorem reduceOut_tree (hf : f ≠ 4) {node : Nat → Nat → Nat} (hn : ∀ x y, (reduceNode f ct x y).1 = node x y) (l : List Nat) :
    (reduceOut f ct rd l).1 = (rd.outCt ct (((treeReduce (fun x y => (node x y, 0#6)) (· ||| ·) 17 l 0#6).1).getD 0)).1 := by
  rw [← treeReduce_fst (op := reduceNode f ct) (join := (· ||| ·)) (acc := 0#6) hn]
  simp only [reduceOut, if_neg hf]

/-- VRARGMAX writes the index of the first largest leaf. -/
theorem reduceOut_argmax {n m : Nat} {leaf : Nat → Nat} (hct : 2 ≤ ct) (hfmt : intFmt rd.fmt = false) (hn : n ≤ 2 ^ 17) (hm : m < n)
    (hle : ∀ k < n, signed32 ct (leaf k) ≤ signed32 ct (leaf m)) (hlt : ∀ k < m, signed32 ct (leaf k) < signed32 ct (leaf m)) :
    (reduceOut 4 ct rd ((List.range n).map leaf)).1 = (rd.out (.ofInt m)).1 := by
  obtain ⟨j, rfl⟩ := Nat.exists_eq_add_of_le (show m + 1 ≤ n from hm)
  have hzip : ((List.range (m + 1 + j)).map leaf).zip (List.range ((List.range (m + 1 + j)).map leaf).length)
      = (List.range (m + 1 + j)).map fun k => (leaf k, k) := by
    rw [List.length_map, List.length_range, List.map_prod_right_eq_zip]
  have hsplit : (List.range (m + 1 + j)).map (fun k => (leaf k, k)) = (List.range m).map (fun k => (leaf k, k)) ++ (leaf m, m) ::
      (List.range j).map (fun k => (leaf (m + 1 + k), m + 1 + k)) := by
    simp [List.range_add, List.range_succ, Function.comp_def]
  obtain ⟨z, t, hzt⟩ := List.exists_cons_of_ne_nil (l := (List.range (m + 1 + j)).map fun k => (leaf k, k)) (by simp)
  have hlen : t.length < 2 ^ 17 := by
    have h := congrArg List.length hzt
    simp at h
    omega
  have hpost : ∀ p ∈ (List.range j).map (fun k => (leaf (m + 1 + k), m + 1 + k)), signed32 ct p.1 ≤ signed32 ct (leaf m) :=
    List.forall_mem_map.2 fun k hk => hle _ (Nat.add_lt_add_left (List.mem_range.1 hk) _)
  have htree := treeReduce_foldl (op := argNode ct) (join := (· ||| ·)) (g := larger fun p => signed32 ct p.1)
    (fun x y => by rw [argNode, if_pos hct]; rfl) larger_assoc 17 z t 0#6 hlen
  rw [foldl_larger (hzt.symm.trans hsplit) (by simpa using hlt) hpost, ← hzt, ← hzip] at htree
  simp only [reduceOut, if_true, htree, Option.getD_some, hfmt, Bool.false_eq_true, and_false, if_false]

end

/-! ### The word: R209, R210 -/

/-- The checks of R207: of the destination, then of the source. -/
def reduceCheck (rd ra : Region) (ct : Nat) (s : State) : Option Flt :=
  match checkRegion s.core rd true false ct 1 s.hyp with
  | some x => some x
  | none => checkRegion s.core ra false true ct ra.count s.hyp

theorem reduceCheck_eq (rd ra : Region) (ct : Nat) (s : State) : reduceCheck rd ra ct s
    = (checkRegion s.core rd true false ct 1 s.hyp).or (checkRegion s.core ra false true ct ra.count s.hyp) := by
  unfold reduceCheck
  cases checkRegion s.core rd true false ct 1 s.hyp <;> rfl

/-- What a reduction from `ra` into `rd` does where it issues. -/
def reduceOn (f : Nat) (rd ra : Region) (ct : Nat) (s : State) : WordResult :=
  if ra.count = 0 ∨ rd.count = 0 then .next (stepAfter s.unit s)
  else match reduceCheck rd ra ct s with
    | some x => .fault x
    | none =>
      if rd.noRoom (vSend s).core then .blocked vSend 8
      else
        let p := leafSteps f ct ra ra.count (rateOf [rd, ra] (ct == 1)) (stepsOf ra.count (rateOf [rd, ra] (ct == 1))) 0
          (holdFor [ra] ra.count 16 (vSend s).core) [] 0#6
        let o := reduceOut f ct rd p.2.1
        let c := (List.range 5).foldl (fun c _ => c.vStep) p.1
        .next (vDone (vSend s) (c.pushWrites [rd.write c 0 4 false 0 o.1]).vStep (p.2.2 ||| o.2))

theorem reduceWord_eq (i : Instr) (f : Nat) (d a : BitVec 4) (t : BitVec 3) (s : State) : reduceWord i f d a t s
    = .next (issueWith (fun _ => none) i (fun s => reduceOn f (regionIn s d) (regionIn s a) t.toNat s) s) := rfl

/-- The leaves of a reduction of the region `ra`. -/
def leavesOf (f ct : Nat) (ra : Region) (c : Core) : List Nat :=
  (List.range ra.count).map fun k => (leafOf f ct (valueIn ct ra (ra.code (c.buf ra.space) k))).1

theorem leafSteps_one {f ct e : Nat} {ra : Region} {c : Core} (he : ra.count ≤ e) (hv : c.vpend = []) (hr : c.vretire = []) :
    ∃ fl, leafSteps f ct ra ra.count e 1 0 c [] 0#6 = (c, leavesOf f ct ra c, fl) := by
  refine ⟨(leafSteps f ct ra ra.count e 1 0 c [] 0#6).2.2, Prod.ext (vStep_idle hv hr) (Prod.ext ?_ rfl)⟩
  simp only [leafSteps, Nat.sub_zero, Nat.min_eq_right he, List.nil_append, List.map_map, leavesOf]
  exact List.map_congr_left fun k _ => by simp only [Function.comp_apply, Nat.zero_add, valueIn]

section
variable {f ct : Nat} {rd ra : Region} {t : State}

theorem reduceOn_empty (h : ra.count = 0 ∨ rd.count = 0) : reduceOn f rd ra ct t = .next (stepAfter t.unit t) := if_pos h

variable (hc : ra.count ≠ 0 ∧ rd.count ≠ 0)
include hc

theorem reduceOn_fault {e : Flt} (h : reduceCheck rd ra ct t = some e) :
    reduceOn f rd ra ct t = .fault e :=
  (if_neg (not_or.2 hc)).trans (by simp only [h])

variable (hb : reduceCheck rd ra ct t = none) (hv : t.core.vpend = [])
include hb hv

theorem reduceOn_full (hr : rd.noRoom t.core = true) : reduceOn f rd ra ct t = .blocked vSend 8 :=
  (if_neg (not_or.2 hc)).trans (by simp only [hb, vSend_nil hv, hr, if_true])

/-- With room for it, the reduced value is pending. -/
theorem reduceOn_writes (hr : rd.noRoom t.core = false) (hq : t.core.vretire = []) (hn : ra.count ≤ rateOf [rd, ra] (ct == 1)) :
    ∃ u, reduceOn f rd ra ct t = .next u
      ∧ leavesPending t u [rd.write t.core 0 3 false 0 (reduceOut f ct rd (leavesOf f ct ra t.core)).1] := by
  obtain ⟨fl, hsteps⟩ := leafSteps_one (f := f) (ct := ct) hn hv hq
  refine ⟨_, (if_neg (not_or.2 hc)).trans ?_, leavesPending_step (n := 3) (fl := fl ||| (reduceOut f ct rd (leavesOf f ct ra t.core)).2)
    (ws := [rd.write t.core 0 4 false 0 (reduceOut f ct rd (leavesOf f ct ra t.core)).1]) hv hq (by decide) (List.cons_ne_nil _ _)
    (List.forall_mem_singleton.2 ⟨rfl, rfl, rfl⟩)⟩
  have hidle : (List.range 5).foldl (fun (c : Core) _ => c.vStep) t.core = t.core :=
    List.foldlRecOn _ _ (motive := fun c => c = t.core) rfl fun c h _ _ => by rw [h, vStep_idle hv hq]
  simp only [hb, vSend_nil hv, hr, Bool.false_eq_true, if_false, holdFor_nil hv, stepsOf_one hc.1 hn, hsteps, hidle]

end

theorem rateOf_le (rs : List Region) (b : Bool) : rateOf rs b ≤ 64 := by
  unfold rateOf
  split <;> [decide; split <;> decide]

/-- The clause of the statement for the reduction `i`, which writes `code`. -/
def meetsReduction (s : State) (d a : BitVec 4) (ct : Nat) (i : Instr) (code : Nat) : Prop :=
  s.core.chain = none → s.core.vpend = [] → s.core.vretire = [] → issues s i →
  let rd := regionIn s d
  let ra := regionIn s a
  let n := ra.count
  let c := (takeRing i s).core
  let bad : Option Flt := (checkRegion c rd true false ct 1 s.hyp).or (checkRegion c ra false true ct n s.hyp)
  (∀ e, n ≠ 0 → rd.count ≠ 0 → bad = some e → exec i s = .next (faultOf s s.unit e))
  ∧ (n = 0 ∨ rd.count = 0 → ∃ u, exec i s = .next u ∧ u.core.vpend = [] ∧ u.core.ab = s.core.ab ∧ u.core.as = s.core.as)
  ∧ (n ≠ 0 → rd.count ≠ 0 → bad = none → rd.noRoom s.core = true → blocks s i 8)
  ∧ (1 ≤ n → rd.count ≠ 0 → bad = none → rd.noRoom s.core = false → n ≤ rateOf [rd, ra] (ct == 1) → ∃ u w, exec i s = .next u ∧ u.core.vpend = [w]
      ∧ w.addr = rd.space * 2 ^ 28 + (rd.place 0).1 ∧ w.left = 3 ∧ w.bytes = natToBytes rd.size code
      ∧ u.core.ab = s.core.ab ∧ u.core.as = s.core.as ∧ u.mem = s.mem)

/-- A reduction meets its clause, with the value of its tree. -/
theorem meetsReduction_of_exec {s : State} {d a : BitVec 4} {t : BitVec 3} {i : Instr} {f code : Nat} (hx : exec i s = reduceWord i f d a t s)
    (hcode : (regionIn s a).count ≤ 64 → code = (reduceOut f t.toNat (regionIn s d) (leavesOf f t.toNat (regionIn s a) s.core)).1) :
    meetsReduction s d a t.toNat i code := by
  intro _ hv hq hi rd ra n c bad
  have hx : exec i s = .next (issueWith (fun _ => none) i (fun s => reduceOn f (regionIn s d) (regionIn s a) t.toNat s) s) :=
    hx.trans (reduceWord_eq ..)
  have hregion (x : BitVec 4) : regionIn (takeRing i s) x = regionIn s x := by rw [takeRing_eq]; rfl
  have hbody : reduceOn f (regionIn (takeRing i s) d) (regionIn (takeRing i s) a) t.toNat (takeRing i s)
      = reduceOn f rd ra t.toNat (takeRing i s) := by rw [hregion, hregion]
  have hbad : reduceCheck rd ra t.toNat (takeRing i s) = bad := by rw [reduceCheck_eq, takeRing_hyp]
  have hv' := (takeRing_vpend i s).trans hv
  have hq' := (takeRing_vretire i s).trans hq
  refine ⟨fun e hn hd hb => faults_of_issueWith hx (hbody.trans (reduceOn_fault ⟨hn, hd⟩ (hbad.trans hb))) hi, fun hn => ?_,
    fun hn hd hb hr => blocks_of_issueWith hx (hbody.trans (reduceOn_full ⟨hn, hd⟩ (hbad.trans hb) hv' ((takeRing_noRoom i s _).trans hr))) (vSend_nil hv),
    fun hn hd hb hr hrate => ?_⟩
  · obtain ⟨u, hu, hl⟩ := leavesPending_of_exec hx (hbody.trans (reduceOn_empty hn)) (leavesPending_nil hv' hq') hi
    obtain ⟨-, hab, has, -⟩ := keeps_of_leavesPending hl
    exact ⟨u, hu, vpend_of_leavesPending_nil hl, hab, has⟩
  · obtain ⟨u', hu', hl'⟩ := reduceOn_writes ⟨Nat.ne_of_gt hn, hd⟩ (hbad.trans hb) hv' ((takeRing_noRoom i s _).trans hr) hq' hrate
    obtain ⟨u, hu, hl⟩ := leavesPending_of_exec hx (hbody.trans hu') hl' hi
    obtain ⟨-, hab, has, hmem, -⟩ := keeps_of_leavesPending hl
    obtain ⟨w, hw, hbare⟩ := List.map_eq_singleton_iff.1 hl.1
    have hleaves : leavesOf f t.toNat ra (takeRing i s).core = leavesOf f t.toNat ra s.core := by rw [takeRing_eq]; rfl
    rw [hleaves, ← hcode (hrate.trans (rateOf_le ..))] at hbare
    exact ⟨u, w, hu, hw, congrArg VWrite.addr hbare, congrArg VWrite.left hbare, congrArg VWrite.bytes hbare, hab, has, hmem⟩

/-! ### The nodes and the leaves -/

section
variable {f ct : Nat}

theorem reduceNode_result {fl : Nat → Nat → Nat × FlagSet} {int : Int → Int → Int}
    (hr : ∀ x y, reduceNode f ct x y = if 2 ≤ ct then (mod32 (int (signed32 ct x) (signed32 ct y)), 0#6) else fl x y) (x y : Nat) :
    (reduceNode f ct x y).1 = if ct < 2 then (fl x y).1 else mod32 (int (signed32 ct x) (signed32 ct y)) := by
  rw [hr]
  by_cases h : ct < 2
  · rw [if_neg (show ¬2 ≤ ct by omega), if_pos h]
  · rw [if_pos (show 2 ≤ ct by omega), if_neg h]

theorem leafOf_plain (h3 : f ≠ 3) (v : Nat) : (leafOf f ct v).1 = v := by
  simp only [leafOf, if_neg h3]
  split <;> rfl

theorem leafOf_square (ct v : Nat) : (leafOf 3 ct v).1
    = if ct < 2 then ((ctFmt ct).mulC .rne v v).1 else mod32 (signed32 ct v * signed32 ct v) := by
  by_cases h : ct < 2
  · simp only [leafOf, if_true, if_neg (show ¬2 ≤ ct by omega), if_pos h]
  · simp only [leafOf, if_true, if_pos (show 2 ≤ ct by omega), if_neg h]

theorem leavesOf_plain (h3 : f ≠ 3) (ra : Region) (c : Core) :
    leavesOf f ct ra c = (List.range ra.count).map fun k => valueIn ct ra (ra.code (c.buf ra.space) k) :=
  List.map_congr_left fun _ _ => leafOf_plain h3 _

theorem leavesOf_square (ra : Region) (c : Core) : leavesOf 3 ct ra c
    = ((List.range ra.count).map fun k => valueIn ct ra (ra.code (c.buf ra.space) k)).map fun v =>
      if ct < 2 then ((ctFmt ct).mulC .rne v v).1 else mod32 (signed32 ct v * signed32 ct v) := by
  rw [List.map_map]
  exact List.map_congr_left fun _ _ => leafOf_square ct _

end

/-- Settles O40: the word's one step (`reduceOn_writes`), with the tree of its nodes over its leaves. -/
theorem vectorReductions : Obligations.VectorReductions := by
  intro s r d a t rd ra n ct leaf leaves run g sg lo out
  have hsg : sg = signed32 ct := funext fun x => (signed32_eq ct x).symm
  have hrun : run = meetsReduction s d a ct := rfl
  have hlo : lo = mod32 := rfl
  have hg : g = ctFmt ct := rfl
  clear_value sg lo g run
  subst hsg hlo hg hrun
  have hnode {f : Nat} {fl : Nat → Nat → Nat × FlagSet} {int : Int → Int → Int} (hf : f ≠ 4)
      (hr : ∀ x y, reduceNode f ct x y = if 2 ≤ ct then (mod32 (int (signed32 ct x) (signed32 ct y)), 0#6) else fl x y) (l : List Nat) :
      out (fun x y => if ct < 2 then (fl x y).1 else mod32 (int (signed32 ct x) (signed32 ct y))) l = (reduceOut f ct rd l).1 :=
    (reduceOut_tree hf (reduceNode_result hr) l).symm
  refine ⟨meetsReduction_of_exec (f := 0) rfl fun _ => ?_, meetsReduction_of_exec (f := 1) rfl fun _ => ?_, meetsReduction_of_exec (f := 2) rfl fun _ => ?_,
    meetsReduction_of_exec (f := 3) rfl fun _ => ?_, fun m hct hfmt hm hle hlt => ?_⟩
  · rw [leavesOf_plain (by decide)]
    exact hnode (by decide) (fun _ _ => rfl) _
  · rw [leavesOf_plain (by decide)]
    exact hnode (by decide) (fun _ _ => rfl) _
  · rw [leavesOf_plain (by decide)]
    exact hnode (by decide) (fun _ _ => rfl) _
  · rw [leavesOf_square]
    exact hnode (by decide) (fun _ _ => rfl) _
  · refine meetsReduction_of_exec (f := 4) rfl fun hn => ?_
    rw [leavesOf_plain (by decide)]
    exact (reduceOut_argmax hct hfmt (hn.trans (by decide)) hm hle hlt).symm

end Sys2Proof.Proofs
end

section
/-! What a chain's run leaves as it is (R210, R211, R222, R225). -/
namespace Sys2Proof.Proofs
open Sys2Proof.Machine Sys2Proof.Safety Sys2Proof.Laws

/-! ### The core beside the VE's pipeline -/

/-- A core but for the VE's pending writes, the words that wait to retire, and what their retirement raises and pushes. -/
def offVector (c : Core) : Core := { offPending c with vretire := [], aflags := 0#6, tokens := [] }

/-- A core but for that, and the local buffers. -/
def offRun (c : Core) : Core := offVector (offBuffers c)

/-- A core but for the words that wait to retire, and what their retirement raises and pushes. -/
def offRetire (c : Core) : Core := { c with vretire := [], aflags := 0#6, tokens := [] }

theorem offRetire_fillSignals (c : Core) (u : Sqr) (sb sa : Bool) (h : BitVec 8) : offRetire (c.fillSignals u sb sa h) = offRetire c := by
  have hp (c : Core) (n : Nat) : offRetire ((c.unreserveToken n).pushToken n h) = offRetire c := rfl
  cases sb <;> cases sa
  · rfl
  · exact hp c _
  · exact hp c _
  · exact (hp _ _).trans (hp c _)

theorem offRetire_vRetire (c : Core) : offRetire c.vRetire = offRetire c := by
  have hr (d : Core) (fl : FlagSet) : offRetire (d.raiseFlags fl) = offRetire d := rfl
  refine List.foldlRecOn _ _ (motive := fun d => offRetire d = offRetire c) ?_ fun d hd r _ => ?_
  · rfl
  · exact (offRetire_fillSignals _ _ _ _ _).trans ((hr d r.flags).trans hd)

theorem offVector_of_offRetire {c d : Core} (h : offRetire c = offRetire d) : offVector c = offVector d :=
  congrArg (fun e : Core => offPending e) h

theorem offVector_of_offPending {c d : Core} (h : offPending c = offPending d) : offVector c = offVector d :=
  congrArg (fun e : Core => { e with vretire := [], aflags := 0#6, tokens := [] }) h

theorem offVector_vRetire (c : Core) : offVector c.vRetire = offVector c := offVector_of_offRetire (offRetire_vRetire c)

theorem offVector_flagsAtRetire (c : Core) (h : BitVec 8) (fl : FlagSet) : offVector (c.flagsAtRetire h fl) = offVector c := by
  unfold Core.flagsAtRetire
  simp only []
  split
  · rfl
  · split <;> rfl

theorem offRun_of_offVector {c d : Core} (h : offVector c = offVector d) : offRun c = offRun d := congrArg offBuffers h

theorem offRun_of_offBuffers {c d : Core} (h : offBuffers c = offBuffers d) : offRun c = offRun d := congrArg offVector h

theorem offRun_countPackets (n : Nat) (c : Core) : offRun (countPackets n c) = offRun c :=
  offRun_of_offVector (offVector_of_offPending (samePending_countPackets n c).2)

theorem offRun_pushWrites (c : Core) (ws : List VWrite) : offRun (c.pushWrites ws) = offRun c := by
  unfold Core.pushWrites
  simp only []
  split
  · rfl
  · exact offRun_countPackets _ _

theorem offRun_landAll (c : Core) (ws : List VWrite) : offRun (c.landAll ws) = offRun c := by
  have h := offBuffers_foldl_landWrite ((ws.filter (fun w => !w.windowed && !w.landed)).filter (fun w => !w.sf)
    ++ (ws.filter (fun w => !w.windowed && !w.landed)).filter (·.sf)) c
  exact (offRun_of_offBuffers h :)

theorem offRun_vStep (c : Core) : offRun c.vStep = offRun c :=
  (offRun_of_offVector (offVector_vRetire _)).trans (offRun_landAll _ _)

theorem offRun_holdFor (rs : List Region) (n fuel : Nat) (c : Core) : offRun (holdFor rs n fuel c) = offRun c := by
  induction fuel generalizing c with
  | zero => rfl
  | succ fuel ih =>
    unfold holdFor
    split
    · exact (ih _).trans (offRun_vStep c)
    · rfl

/-! ### The elements of a chain -/

theorem offRun_deferElem {c d : Core} {q : Region} {k path i s : Nat} {ring : List RingEntry} (h : deferElem c q k path i s ring = .ok d) :
    offRun d = offRun c := by
  unfold deferElem at h
  split at h
  · cases h; rfl
  · split at h
    · cases h
    · simp only [] at h
      split at h
      · cases h
      · cases h
        exact offRun_pushWrites _ _

theorem offRun_elemSlots {drain : Bool} {i n : Nat} {l : List (VSlot × Nat)} {c : Core} {ring : List RingEntry} {fl : FlagSet}
    {p : Core × List RingEntry × FlagSet} (h : elemSlots drain i n l c ring fl = .ok p) : offRun p.1 = offRun c := by
  induction l generalizing n c ring fl with
  | nil => cases h; rfl
  | cons x t ih =>
    obtain ⟨sl, s⟩ := x
    unfold elemSlots at h
    split at h
    · split at h
      · cases h
      next d hd => exact (ih h).trans (offRun_deferElem hd)
    · split at h
      · cases h
      · split at h
        · cases h
        · refine (ih h).trans ?_
          split
          · rfl
          · exact offRun_pushWrites _ _

theorem offRun_blockElems (drain : Bool) (slots : List (VSlot × Nat)) (cnt : Nat) (es : List ChainElem) (p : Nat) (r : ChainRun) :
    offRun (blockElems drain slots cnt es p r).core = offRun r.core := by
  induction es generalizing p r with
  | nil => rfl
  | cons e t ih =>
    unfold blockElems
    split
    · rfl
    next c ring fl h => exact (ih _ _).trans (offRun_elemSlots h)

theorem offRun_steps (l : List Nat) (c : Core) : offRun (l.foldl (fun c _ => c.vStep) c) = offRun c :=
  List.foldlRecOn l _ (motive := fun d => offRun d = offRun c) rfl fun d hd _ _ => (offRun_vStep d).trans hd

theorem offRun_chainBlocks (drain : Bool) (slots : List (VSlot × Nat)) (b : Nat) (ess : List (List ChainElem)) (r : ChainRun) :
    offRun (chainBlocks drain slots b ess r).core = offRun r.core := by
  induction ess generalizing r with
  | nil => rfl
  | cons es t ih =>
    have hb : ∀ n, offRun ((List.range n).foldl (fun c _ => c.vStep) (blockElems drain slots es.length es 0 r).core) = offRun r.core :=
      fun n => (offRun_steps _ _).trans (offRun_blockElems ..)
    unfold chainBlocks
    simp only []
    split
    · exact hb _
    · exact (ih _).trans (hb _)

theorem offRun_removeEntries (c : Core) (q : Region) (gone : List Nat) : offRun (removeEntries c q gone) = offRun c := offRun_pushWrites _ _

theorem offRun_chainRun {t : State} (hv : t.core.vpend = []) (ch : Chain) : offRun (chainRun t ch).core = offRun t.core := by
  unfold chainRun
  rw [vSend_nil hv]
  simp only []
  split
  · split
    · rfl
    · split
      · rfl
      · exact (offRun_chainBlocks ..).trans ((offRun_holdFor ..).trans (offRun_holdFor ..))
  · split
    · rfl
    · split
      · exact offRun_holdFor ..
      · split
        · rfl
        · split
          · exact (offRun_chainBlocks ..).trans ((offRun_holdFor ..).trans (offRun_holdFor ..))
          · exact (offRun_removeEntries ..).trans ((offRun_chainBlocks ..).trans ((offRun_holdFor ..).trans (offRun_holdFor ..)))
  · rfl

/-! ### Window writes go out -/

/-- The machine but for the fabric, and the VE's pipeline of the core in focus. -/
def offSent (s : State) : State := { offFabric s with core := offVector s.core }

theorem eq_of_offSent {α : Type} {s t : State} (h : offSent s = offSent t) (f : State → α) (hf : ∀ s, f (offSent s) = f s) : f s = f t := by
  rw [← hf s, h, hf t]

theorem offSent_of_offFabric {s t : State} (h : offFabric s = offFabric t) : offSent s = offSent t :=
  congrArg (fun u : State => { u with core := offVector u.core }) h

theorem offSent_of_offVector {s : State} {c : Core} (h : offVector c = offVector s.core) : offSent { s with core := c } = offSent s :=
  congrArg (fun d : Core => { offFabric s with core := d }) h

theorem offSent_sendVector (n : Nat) (s : State) : offSent (sendVector n s) = offSent s := by
  induction n generalizing s with
  | zero => rfl
  | succ n ih =>
    unfold sendVector
    split
    · rfl
    · split
      · rfl
      · refine (ih _).trans ((offSent_of_offVector (offVector_vRetire _)).trans ((offSent_of_offFabric (offFabric_sendFor ..)).trans ?_))
        exact offSent_of_offVector rfl

theorem offSent_vSend (s : State) : offSent (vSend s) = offSent s := by
  unfold vSend
  split
  · rfl
  · exact (offSent_sendVector _ _).trans (offSent_of_offVector (offVector_of_offPending (samePending_countPackets _ _).2))

theorem offSent_vDone (s : State) (c : Core) (fl : FlagSet) : offSent (vDone s c fl) = offSent { s with core := c } :=
  (offSent_vSend _).trans (offSent_of_offVector (s := { s with core := c }) (offVector_flagsAtRetire c s.hyp fl))

end Sys2Proof.Proofs
end

section
/-! VCH.BEGIN, VDRAIN, the slots of a chain, and VCH.END (R222, R224, R225). -/
namespace Sys2Proof.Proofs
open Sys2Proof.Machine Sys2Proof.Safety Sys2Proof.Laws

/-- A word that issues leaves what its body leaves, but for what the issue of any word moves. -/
theorem exec_still {i : Instr} {body : State → WordResult} {s v : State} (hx : exec i s = .next (issueWith (fun _ => none) i body s))
    (hb : body (takeRing i s) = .next v) (hi : issues s i) : ∃ u, exec i s = .next u ∧ still u = still v :=
  ⟨_, exec_of_issueWith hx hb hi, still_retire i s .next v⟩

/-! ### A chain ends: R222 -/

/-- The core when a chain has run. -/
def chainEnded (t : State) (ch : Chain) : Core :=
  let r := chainRun t ch
  let c : Core := { r.core with chain := none, veprog := 0#64, ring := r.ring }
  if r.done = 0 then c.vStep else c

/-- A chain that may run in `t` runs to its end. -/
structure ChainMayEnd (i : Instr) (t : State) (ch : Chain) : Prop where
  idle : t.core.vpend = []
  waits : t.core.veprog.getLsbD 16 = true ∨ t.core.waitsReady .ve ch.waits = true
  signals : (t.core.reserveSignals .ve i.ring).signalsReady .ve ch.waits = true
  room : ∀ sl ∈ ch.slots.filterMap (fun i => slotOf i t.core.d), sl.d.noRoom t.core = false
  clean : (chainRun t ch).fault = none

theorem runChain_ends {i : Instr} {t : State} {ch : Chain} (h : ChainMayEnd i t ch) :
    ∃ u, runChain i t ch = .next u ∧ still u = still (vDone t (chainEnded t ch) (chainRun t ch).flags) := by
  obtain ⟨hv, hw, hs, hroom, hf⟩ := h
  have hw' : (!t.core.veprog.getLsbD 16 && !t.core.waitsReady .ve ch.waits) = false := by
    obtain hw | hw := hw <;> simp [hw]
  have hroom' : (ch.slots.filterMap (fun i => slotOf i t.core.d)).any (fun sl => !sl.nd && !sl.kind.isDefer && sl.d.noRoom t.core) = false :=
    List.any_eq_false.2 fun sl hsl => by simp [hroom sl hsl]
  unfold runChain
  simp only [hw', hs, vSend_nil hv, hroom', hf, Bool.not_true, Bool.false_eq_true, if_false]
  refine ⟨_, rfl, (still_giveRing ..).trans ?_⟩
  split
  · rfl
  · exact congrArg (fun c => { vDone t _ _ with core := c }) (stillCore_takeWaits _ _ _)

/-- What VCH.END comes to, but for what the issue of any word moves. -/
theorem exec_vchEnd {s : State} {ch : Chain} {r : BitVec 4} (hi : issues s (.vchEnd r)) (hc : s.core.chain = some ch)
    (h : ChainMayEnd (.vchEnd r) (takeRing (.vchEnd r) s) ch) : ∃ u, exec (.vchEnd r) s = .next u
      ∧ still u = still (vDone (takeRing (.vchEnd r) s) (chainEnded (takeRing (.vchEnd r) s) ch) (chainRun (takeRing (.vchEnd r) s) ch).flags) := by
  obtain ⟨v, hv, hst⟩ := runChain_ends h
  have hc' : (takeRing (.vchEnd r) s).core.chain = some ch := by rw [takeRing_eq]; exact hc
  have hx : exec (.vchEnd r) s = .next (issueWith (fun _ => none) (.vchEnd r) (fun s => match s.core.chain with
    | none => .next s
    | some ch => runChain (.vchEnd r) s ch) s) := rfl
  obtain ⟨u, hu, hst'⟩ := exec_still (v := v) hx (by simp only [hc', hv]) hi
  exact ⟨u, hu, hst'.trans hst⟩

theorem offRun_chainEnded {t : State} (hv : t.core.vpend = []) (ch : Chain) : offRun (chainEnded t ch)
    = offRun { t.core with chain := none, veprog := 0#64, ring := (chainRun t ch).ring } := by
  have h : offRun { (chainRun t ch).core with chain := none, veprog := 0#64, ring := (chainRun t ch).ring }
      = offRun { t.core with chain := none, veprog := 0#64, ring := (chainRun t ch).ring } :=
    congrArg (fun c : Core => { c with chain := none, veprog := 0#64, ring := (chainRun t ch).ring }) (offRun_chainRun hv ch)
  unfold chainEnded
  simp only []
  split
  · exact (offRun_vStep _).trans h
  · exact h

/-- What a chain ends with: it is closed, the bytes that its run leaves stand, and beside the VE's pipeline nothing else changes. -/
theorem chainEnds {s t u : State} {ch : Chain} {fl : FlagSet} (ht : still t = still s) (hv : t.core.vpend = [])
    (hu : still u = still (vDone t (chainEnded t ch) fl)) :
    u.core.chain = none ∧ u.core.veprog = 0#64 ∧ u.core.ring = (chainRun t ch).ring ∧ u.mem = s.mem ∧ u.core.wb = (chainEnded t ch).wb
      ∧ u.core.ab = (chainEnded t ch).ab ∧ u.core.as = (chainEnded t ch).as ∧ (∀ v n, u.core.reg v n = s.core.reg v n) := by
  have hsent := offSent_vDone t (chainEnded t ch) fl
  have hrun := offRun_chainEnded hv ch
  have hend {α : Type} (f : State → α) (h : ∀ s, f (still s) = f s) (h' : ∀ s, f (offSent s) = f s) :
      f u = f { t with core := chainEnded t ch } := (eq_of_still hu f h).trans (eq_of_offSent hsent f h')
  have hkeep {α : Type} (f : Core → α) (h : ∀ c, f (offRun c) = f c) :
      f (chainEnded t ch) = f { t.core with chain := none, veprog := 0#64, ring := (chainRun t ch).ring } := by
    rw [← h, hrun, h]
  refine ⟨(hend (·.core.chain) (fun _ => rfl) fun _ => rfl).trans (hkeep (·.chain) fun _ => rfl),
    (hend (·.core.veprog) (fun _ => rfl) fun _ => rfl).trans (hkeep (·.veprog) fun _ => rfl),
    (hend (·.core.ring) (fun _ => rfl) fun _ => rfl).trans (hkeep (·.ring) fun _ => rfl),
    (hend (·.mem) (fun _ => rfl) fun _ => rfl).trans (eq_of_still ht State.mem fun _ => rfl),
    hend (·.core.wb) (fun _ => rfl) fun _ => rfl, hend (·.core.ab) (fun _ => rfl) fun _ => rfl, hend (·.core.as) (fun _ => rfl) fun _ => rfl,
    fun v n => ?_⟩
  have hreg := hkeep (·.reg v n) fun _ => by cases v <;> rfl
  have hreg' : Core.reg { t.core with chain := none, veprog := 0#64, ring := (chainRun t ch).ring } v n = t.core.reg v n := by
    cases v <;> rfl
  exact (hend (·.core.reg v n) (fun _ => by cases v <;> rfl) fun _ => by cases v <;> rfl).trans (hreg.trans (hreg'.trans (reg_of_still ht v n)))

theorem takeRing_rooms {s : State} {i : Instr} {ch : Chain} (h : ∀ sl ∈ ch.slots.filterMap (fun i => slotOf i s.core.d), sl.d.noRoom s.core = false) :
    ∀ sl ∈ ch.slots.filterMap (fun j => slotOf j (takeRing i s).core.d), sl.d.noRoom (takeRing i s).core = false := by
  rw [takeRing_eq]
  exact h

/-! ### A chain with nothing to run: R222, R225 -/

theorem offRetire_vStep {c : Core} (hv : c.vpend = []) : offRetire c.vStep = offRetire c := by
  have h : c.vStep = { c with vpend := [] }.vRetire := by
    simp only [Core.vStep, hv, List.map_nil, List.filter_nil, Core.landAll, List.append_nil, List.foldl_nil]
  rw [h, ← hv]
  exact offRetire_vRetire c

theorem vpend_vDone {s : State} {c : Core} {fl : FlagSet} (hv : c.vpend = []) : (vDone s c fl).core.vpend = [] := by
  have h : (c.flagsAtRetire s.hyp fl).vpend = [] := by
    unfold Core.flagsAtRetire
    simp only []
    split
    · exact hv
    · split <;> exact hv
  rw [vDone, vSend_nil (s := { s with core := c.flagsAtRetire s.hyp fl }) h]
  exact h

/-- The run of a chain with no element. -/
def idleRun (t : State) (ch : Chain) : ChainRun := ⟨0, t.core, t.core.ring, 0#6, none, ch.start, false⟩

theorem chainEnds_idle {s : State} {ch : Chain} {r : BitVec 4} (hi : issues s (.vchEnd r)) (hc : s.core.chain = some ch) (hv : s.core.vpend = [])
    (hw : ch.waits = 0#4) (hroom : ∀ sl ∈ ch.slots.filterMap (fun i => slotOf i s.core.d), sl.d.noRoom s.core = false)
    (hrun : chainRun (takeRing (.vchEnd r) s) ch = idleRun (takeRing (.vchEnd r) s) ch) :
    ∃ u, exec (.vchEnd r) s = .next u ∧ u.core.chain = none ∧ u.core.veprog = 0#64 ∧ u.core.vpend = [] ∧ u.core.ab = s.core.ab
      ∧ u.core.as = s.core.as ∧ u.core.wb = s.core.wb ∧ u.mem = s.mem := by
  have ht := still_takeRing (.vchEnd r) s
  have hv' := (takeRing_vpend (.vchEnd r) s).trans hv
  obtain ⟨u, hu, hst⟩ := exec_vchEnd hi hc ⟨hv', .inr (by rw [hw]; rfl), by rw [hw]; rfl, takeRing_rooms hroom, by rw [hrun]; rfl⟩
  obtain ⟨hchain, hprog, -, hmem, hwb, hab, has, -⟩ := chainEnds ht hv' hst
  have hend : offRetire (chainEnded (takeRing (.vchEnd r) s) ch) = offRetire { (takeRing (.vchEnd r) s).core with chain := none, veprog := 0#64 } := by
    rw [chainEnded, hrun]
    exact offRetire_vStep hv'
  have hkeep {α : Type} (f : Core → α) (h : ∀ c, f (offRetire c) = f c) :
      f (chainEnded (takeRing (.vchEnd r) s) ch) = f { (takeRing (.vchEnd r) s).core with chain := none, veprog := 0#64 } := by
    rw [← h, hend, h]
  refine ⟨u, hu, hchain, hprog, (vpend_of_still hst).trans (vpend_vDone ((hkeep (·.vpend) fun _ => rfl).trans hv')),
    hab.trans ((hkeep (·.ab) fun _ => rfl).trans ?_), has.trans ((hkeep (·.as) fun _ => rfl).trans ?_),
    hwb.trans ((hkeep (·.wb) fun _ => rfl).trans ?_), hmem⟩
  · exact eq_of_still ht (·.core.ab) fun _ => rfl
  · exact eq_of_still ht (·.core.as) fun _ => rfl
  · exact eq_of_still ht (·.core.wb) fun _ => rfl

/-- A chain over a region with no element. -/
theorem chainRun_empty {t : State} {ch : Chain} {e d : BitVec 4} (hv : t.core.vpend = []) (hh : ch.head = .vchBegin e d)
    (hn : (regionIn t d).count = 0) : chainRun t ch = idleRun t ch := by
  unfold chainRun
  rw [vSend_nil hv]
  simp only [hh]
  exact if_pos hn

/-- A drained queue with no entry. -/
theorem chainRun_drained {t : State} {ch : Chain} {e q p : BitVec 4} (hv : t.core.vpend = []) (hh : ch.head = .vdrain e q p)
    (hq : queueFault (regionIn t q) = none) (hm : t.core.marks = []) (hc : readLE t.core.ab (regionIn t q).off 4 = 0) :
    chainRun t ch = idleRun t ch := by
  have hseen : t.core.seenAb (regionIn t q).off 4 0 = 0 := by
    simp only [Core.seenAb, Core.seenBuf, hv, List.filter_nil]
    exact hc
  have hmark (n : Nat) : t.core.bufMark 1 (regionIn t q).off n = none := by
    simp [Core.bufMark, markHit_nil hm]
  have hes : drainEntries t.core (regionIn t q) p.toNat = [] := by
    simp only [drainEntries, hseen, Nat.min_zero, List.range_zero, List.filterMap_nil]
  unfold chainRun
  rw [vSend_nil hv]
  unfold regionIn at hq hmark hes
  simp only [hh, hq, hmark, Option.or_none, holdFor_nil hv, hes, List.isEmpty_nil, if_true]
  rfl

/-! ### A chain of one slot over one element: R210, R222 -/

theorem chunks_single {α : Type} {n : Nat} (hn : 1 ≤ n) (x : α) : chunks n [x] 2 = [[x]] := by
  simp [chunks, List.take_of_length_le, List.drop_of_length_le, hn]

theorem seen_idle {c : Core} (hv : c.vpend = []) (r : Region) (i : Nat) : r.seen c 0 i = r.code (c.buf r.space) i := by
  simp only [Region.seen, Core.seenBuf, hv, List.filter_nil]

/-- Steps that a block of `n` elements takes. -/
def blockSteps (slots : List (VSlot × Nat)) (n : Nat) : Nat := (slots.map (fun p => slotSteps n p.2)).foldl (· + ·) 0

/-- The core after `n` steps. -/
def stepsLater (n : Nat) (c : Core) : Core := (List.range n).foldl (fun c _ => c.vStep) c

theorem stepsLater_one (c : Core) : stepsLater 1 c = c.vStep := rfl

/-- The last block of a chain, and its steps. -/
theorem chainBlocks_last (drain : Bool) (slots : List (VSlot × Nat)) (b : Nat) (es : List ChainElem) (r : ChainRun) :
    chainBlocks drain slots b [es] r = { blockElems drain slots es.length es 0 r with
      core := stepsLater (blockSteps slots ((blockElems drain slots es.length es 0 r).done - r.done)) (blockElems drain slots es.length es 0 r).core } := by
  unfold chainBlocks
  simp only []
  split <;> rfl

theorem blockSteps_single {sl : VSlot} {e : Nat} (he : 1 ≤ e) : blockSteps [(sl, e)] 1 = 1 := by
  simp [blockSteps, slotSteps, Nat.div_self he]

/-- A block of one element, in a chain of one slot, takes one step. -/
theorem chainBlocks_single {sl : VSlot} {e b : Nat} (he : 1 ≤ e) {x : ChainElem} {r : ChainRun} {c : Core} {ring : List RingEntry} {fl : FlagSet}
    (h : blockElems false [(sl, e)] 1 [x] 0 r = { r with done := r.done + 1, core := c, ring := ring, flags := fl }) :
    chainBlocks false [(sl, e)] b [[x]] r = { r with done := r.done + 1, core := c.vStep, ring := ring, flags := fl } := by
  rw [chainBlocks_last, List.length_singleton, h]
  simp only [Nat.add_sub_cancel_left, blockSteps_single he, stepsLater_one]

section
variable {c : Core} {ct e : Nat} {rd : Region} {rs : List Region} {w : BitVec 32} (hv : c.vpend = []) (hs : rs ≠ [])
include hv hs

theorem elemSlots_mov (n : Nat) (pre : List RingEntry) (fl : FlagSet) : ∃ (x : Elem) (ring : List RingEntry) (fl' : FlagSet),
    elemSlots false 0 n [(slotFrom .mov ct rd rs w, 0)] c pre fl = .ok (c.pushWrites [(slotFrom .mov ct rd rs w).write c 0 0 x], ring, fl')
      ∧ x.out = slotCode .mov ct rd rs (fun r => r.code (c.buf r.space) 0) := by
  obtain ⟨x, hx, hout⟩ := eval_slotCode (k := .mov) (ct := ct) (rd := rd) (w := w) hs (fun r => r.seen c 0 0) pre
  refine ⟨x, pushRing pre ct x.code n, fl ||| x.flags, ?_, by simpa only [seen_idle hv] using hout⟩
  have hkind : (slotFrom .mov ct rd rs w).kind = .mov := rfl
  have hnd : (slotFrom .mov ct rd rs w).nd = false := rfl
  have hct : (slotFrom .mov ct rd rs w).ct = ct := rfl
  simp only [elemSlots, hkind, hnd, hct, Bool.false_eq_true, if_false, hx]

theorem chainBlocks_mov (he : 1 ≤ e) (b : Nat) (pre : List RingEntry) {r : ChainRun} (hr : r.core = c) :
    ∃ (x : Elem) (ring : List RingEntry) (fl : FlagSet), chainBlocks false [(slotFrom .mov ct rd rs w, e)] b [[⟨0, pre⟩]] r
        = { r with done := r.done + 1, core := (c.pushWrites [(slotFrom .mov ct rd rs w).write c 0 0 x]).vStep, ring := ring, flags := fl }
      ∧ x.out = slotCode .mov ct rd rs (fun r => r.code (c.buf r.space) 0) := by
  obtain ⟨x, ring, fl, hx, hout⟩ := elemSlots_mov (ct := ct) (rd := rd) (w := w) hv hs ((r.start * 65536 + r.done) * 16) pre r.flags
  have hoff : slotOffsets 1 0 [(slotFrom .mov ct rd rs w, e)] 0 = [(slotFrom .mov ct rd rs w, 0)] := by
    simp [slotOffsets]
  exact ⟨x, ring, fl, chainBlocks_single he (by simp only [blockElems, hoff, hr, hx]), hout⟩

end

theorem one_le_rateOf (rs : List Region) (b : Bool) : 1 ≤ rateOf rs b := by
  unfold rateOf
  split <;> [decide; split <;> decide]

/-- A chain of one move over a region of one element leaves the write of its step. -/
theorem chainRun_mov {t : State} {ch : Chain} {e d : BitVec 4} {ct : Nat} {rd : Region} {rs : List Region} {w : BitVec 32}
    (hv : t.core.vpend = []) (hp : t.core.veprog = 0#64) (hh : ch.head = .vchBegin e d) (hn : (regionIn t d).count = 1)
    (hslots : ch.slots.filterMap (fun i => slotOf i t.core.d) = [slotFrom .mov ct rd rs w]) (hs : rs ≠ [])
    (hb : (slotFrom .mov ct rd rs w).check t.core (some 1) t.hyp = none) :
    ∃ (x : Elem) (ring : List RingEntry) (fl : FlagSet), chainRun t ch
        = ⟨0 + 1, (t.core.pushWrites [(slotFrom .mov ct rd rs w).write t.core 0 0 x]).vStep, ring, fl, none, ch.start, true⟩
      ∧ x.out = slotCode .mov ct rd rs (fun r => r.code (t.core.buf r.space) 0) := by
  obtain ⟨x, ring, fl, hx, hout⟩ := chainBlocks_mov (ct := ct) (rd := rd) (w := w) hv hs (one_le_rateOf (rd :: rs) (ct == 1))
    (rateOf (rd :: rs) (ct == 1)) (ringOf t.core.ring) (r := ⟨0, t.core, ringOf t.core.ring, 0#6, none, ch.start, true⟩) rfl
  refine ⟨x, ring, fl, ?_, hout⟩
  have hprog : progOf 0#64 = 0 := by decide
  have hdefer : (slotFrom .mov ct rd rs w).kind.isDefer = false := rfl
  have hct : (slotFrom .mov ct rd rs w).ct = ct := rfl
  unfold regionIn at hn
  unfold chainRun
  rw [vSend_nil hv]
  simp only [hh, hn, hslots, hp, hprog, hb, hdefer, hct, holdFor_nil hv, regions_slotFrom, List.flatMap_cons, List.flatMap_nil, List.append_nil,
    List.any_cons, List.any_nil, Bool.or_false, List.findSome?_cons, List.findSome?_nil, Option.map_none, Bool.false_eq_true, if_false,
    Nat.sub_zero, List.range_one, List.map_cons, List.map_nil, Nat.add_zero, Nat.reduceAdd, one_ne_zero, chunks_single (one_le_rateOf _ _)]
  exact hx

/-- A state whose chain is closed, with the ring that its run leaves. -/
def chainClosed (t : State) (ring : List RingEntry) : State := t.mapCore (fun c => { c with chain := none, veprog := 0#64, ring := ring })

/-- A chain that has run for one element leaves that element's write pending. -/
theorem leavesPending_chainEnded {t : State} {ch : Chain} {v : VWrite} {ring : List RingEntry} {fl : FlagSet} (hv : t.core.vpend = [])
    (hq : t.core.vretire = []) (hw : v.left = 4 ∧ v.landed = false ∧ v.word = t.core.vword)
    (hrun : chainRun t ch = ⟨0 + 1, (t.core.pushWrites [v]).vStep, ring, fl, none, ch.start, true⟩) :
    leavesPending (chainClosed t ring) (vDone t (chainEnded t ch) (chainRun t ch).flags) (nearer [v]) := by
  obtain ⟨hleft, hland, hword⟩ := hw
  obtain ⟨hp, ho⟩ := pushWrites_step (c := t.core) (ws := [v]) (n := 3) hv hq (by decide) (List.forall_mem_singleton.2 hleft)
  have hend : chainEnded t ch = { (t.core.pushWrites [v]).vStep with chain := none, veprog := 0#64, ring := ring } := by
    rw [chainEnded, hrun]
    rfl
  have hoff : offPending (chainEnded t ch) = offPending (chainClosed t ring).core := by
    rw [hend]
    exact congrArg (fun c : Core => { c with chain := none, veprog := 0#64, ring := ring }) ho
  have hvword : (chainEnded t ch).vword = t.core.vword := by
    have h := congrArg Core.vword hoff
    exact h
  have hpend : (chainEnded t ch).vpend.map bare = (nearer [v]).map bare := by
    rw [hend]
    exact hp
  exact leavesPending_vDone (s := chainClosed t ring) hpend hoff (List.cons_ne_nil _ _) (List.forall_mem_singleton.2
    ⟨by simp only [hleft]; decide, hland, hword.trans hvword.symm⟩)

/-- A chain of one move over a region of one element ends with the moved value pending. -/
theorem chainEnds_mov {s : State} {ch : Chain} {r d : BitVec 4} {ct : Nat} {rd ra : Region} {w : BitVec 32} (hi : issues s (.vchEnd r))
    (hc : s.core.chain = some ch) (hh : ch.head = .vchBegin 0#4 d) (hp : s.core.veprog = 0#64) (hv : s.core.vpend = []) (hq : s.core.vretire = [])
    (hn : (regionIn s d).count = 1) (hslots : ch.slots.filterMap (fun i => slotOf i s.core.d) = [slotFrom .mov ct rd [ra] w])
    (hrd : checkRegion (takeRing (.vchEnd r) s).core rd true false ct 1 s.hyp = none)
    (hra : checkRegion (takeRing (.vchEnd r) s).core ra false true ct 1 s.hyp = none) (hroom : rd.noRoom s.core = false) :
    ∃ u v, exec (.vchEnd r) s = .next u ∧ u.core.chain = none ∧ u.core.vpend = [v] ∧ v.addr = rd.space * 2 ^ 28 + (rd.place 0).1
      ∧ v.left = 3 ∧ v.bytes = natToBytes rd.size (rd.outCt ct (valueIn ct ra (ra.code (s.core.buf ra.space) 0))).1
      ∧ u.core.ab = s.core.ab ∧ u.core.as = s.core.as := by
  have ht := still_takeRing (.vchEnd r) s
  have hd : (takeRing (.vchEnd r) s).core.d = s.core.d := eq_of_still ht (·.core.d) fun _ => rfl
  have hv' := (takeRing_vpend (.vchEnd r) s).trans hv
  have hwaits : ch.waits = 0#4 := by rw [Chain.waits, hh]; rfl
  have hcheck : (slotFrom .mov ct rd [ra] w).check (takeRing (.vchEnd r) s).core (some 1) (takeRing (.vchEnd r) s).hyp = none := by
    rw [check_slotFrom, takeRing_hyp]
    simp only [VKind.readsDest, hrd, List.findSome?_cons, List.findSome?_nil, Option.none_or, show (VKind.mov != .cvt) = true by decide, hra]
  obtain ⟨o, ring, fl, hrun, hout⟩ := chainRun_mov hv' ((eq_of_still ht (·.core.veprog) fun _ => rfl).trans hp) hh
    (by rw [regionIn, hd]; exact hn) (by rw [hd]; exact hslots) (List.cons_ne_nil _ _) hcheck
  obtain ⟨u, hu, hst⟩ := exec_vchEnd hi hc ⟨hv', .inr (by rw [hwaits]; rfl), by rw [hwaits]; rfl,
    takeRing_rooms (by rw [hslots]; exact List.forall_mem_singleton.2 hroom), by rw [hrun]⟩
  obtain ⟨hpend, hoff⟩ := leavesPending_chainEnded hv' ((takeRing_vretire _ _).trans hq) ⟨rfl, rfl, rfl⟩ hrun
  have hkeep {α : Type} (f : State → α) (h : ∀ s, f (still s) = f s) (h' : ∀ s, f (offWrites s) = f s) :
      f u = f (chainClosed (takeRing (.vchEnd r) s) ring) := (eq_of_still hst f h).trans (eq_of_offWrites hoff f h')
  rw [← vpend_of_still hst] at hpend
  obtain ⟨v, hv, hbare⟩ := List.map_eq_singleton_iff.1 hpend
  refine ⟨u, v, hu, hkeep (·.core.chain) (fun _ => rfl) fun _ => rfl, hv, congrArg VWrite.addr hbare, congrArg VWrite.left hbare,
    (congrArg VWrite.bytes hbare).trans (congrArg (natToBytes rd.size) (hout.trans ?_)),
    (hkeep (·.core.ab) (fun _ => rfl) fun _ => rfl).trans (eq_of_still ht (·.core.ab) fun _ => rfl),
    (hkeep (·.core.as) (fun _ => rfl) fun _ => rfl).trans (eq_of_still ht (·.core.as) fun _ => rfl)⟩
  rw [takeRing_eq]
  rfl

/-! ### A chain opens, and its slots join: R222 -/

/-- The ring waits of a word that issues are there. -/
theorem waitsReady_of_issues {s : State} {i : Instr} (h : issues s i) : s.core.waitsReady s.unit i.ring = true := by
  obtain ⟨hr, -⟩ := h
  simp only [State.ready, Bool.and_eq_true, Option.isNone_iff_eq_none] at hr
  obtain ⟨⟨-, hb⟩, -⟩ := hr
  by_contra hw
  rw [Bool.not_eq_true] at hw
  unfold issueBlock at hb
  split at hb
  · cases hb
  · simp [hw] at hb

/-- A stamp leaves a word that issues free to issue. -/
theorem stampState_of_issues {s : State} {i : Instr} (h : issues s i) : stampState s = .free ∨ stampState s = .now := by
  obtain ⟨hr, -⟩ := h
  simp only [State.ready, Bool.and_eq_true, Bool.or_eq_true, beq_iff_eq] at hr
  obtain ⟨⟨⟨⟨-, hs⟩, -⟩, -⟩, -⟩ := hr
  exact hs

theorem openChain_opens {s : State} {i : Instr} (hi : issues s i) (hu : s.unit = .ve) : openChain i s
    = .next (s.mapCore (fun c => { (c.issued .ve).advance .ve s.baseAddr .next with chain := some ⟨i, s.groupAddr, []⟩ })) := by
  obtain ⟨ha, he, -⟩ := of_issues hi
  have hw := waitsReady_of_issues hi
  rw [hu] at hw
  unfold openChain
  obtain hs | hs := stampState_of_issues hi <;>
    simp only [ha, he, hs, hw, Bool.not_true, Bool.or_true, Bool.false_eq_true, if_false, if_true]

/-- A word of a major that only the VE has issues in the VE (R49). -/
theorem unit_of_veMajor {s : State} {i : Instr} {r : BitVec 4} {m : Nat} {t : Layout} (hl : layout i = body r m t)
    (hm : ∀ u, u ≠ .ve → majorIn m u = false) (hi : issues s i) : s.unit = .ve := by
  by_contra hu
  exact unit_ne_of_major hl (hm _ hu) hi rfl

/-- A word that opens a chain keeps its ring waits for the chain's end. -/
theorem opens_of_exec {s : State} {i : Instr} (hx : exec i s = openChain i s) (hu : issues s i → s.unit = .ve) (hi : issues s i) :
    ∃ u, exec i s = .next u ∧ u.core.chain = some ⟨i, s.groupAddr, []⟩ ∧ u.core.ve.run = s.core.ve.run ∧ u.core.ab = s.core.ab
      ∧ u.core.vpend = s.core.vpend ∧ u.core.ring = s.core.ring ∧ u.core.tokens = s.core.tokens := by
  have hst := stillCore_advance s.core .ve s.baseAddr .next
  have hkeep {α : Type} (f : Core → α) (h : ∀ c, f (stillCore c) = f c) : f ((s.core.issued .ve).advance .ve s.baseAddr .next) = f s.core := by
    rw [← h, hst, h]
  exact ⟨_, hx.trans (openChain_opens hi (hu hi)), rfl, hkeep (·.ve.run) fun _ => rfl, hkeep (·.ab) fun _ => rfl, hkeep (·.vpend) fun _ => rfl,
    hkeep (·.ring) fun _ => rfl, tokens_advance _ _ _ _⟩

/-- Inside a chain a slot word joins the slots, and takes no step. -/
theorem joins_of_slot {s : State} {i : Instr} {sl : VSlot} {ch : Chain} (h : slotOf i s.core.d = some sl) (hi : issues s i)
    (hc : s.core.chain = some ch) : ∃ u, exec i s = .next u ∧ u.core.chain = some { ch with slots := ch.slots ++ [i] } ∧ u.core.ab = s.core.ab
      ∧ u.core.as = s.core.as ∧ u.core.vpend = s.core.vpend ∧ u.core.ring = s.core.ring := by
  have hc' : (takeRing i s).core.chain = some ch := by rw [takeRing_eq]; exact hc
  have ht := still_takeRing i s
  obtain ⟨u, hu, hst⟩ := exec_still (v := (takeRing i s).mapCore (fun c => { c with chain := some { ch with slots := ch.slots ++ [i] } }))
    ((exec_of_slotOf h s).trans (slotWord_eq i s)) (by simp only [slotBody, hc']) hi
  exact ⟨u, hu, eq_of_still hst (·.core.chain) fun _ => rfl,
    (eq_of_still hst (·.core.ab) fun _ => rfl).trans (eq_of_still ht (·.core.ab) fun _ => rfl),
    (eq_of_still hst (·.core.as) fun _ => rfl).trans (eq_of_still ht (·.core.as) fun _ => rfl),
    (eq_of_still hst (·.core.vpend) fun _ => rfl).trans (eq_of_still ht (·.core.vpend) fun _ => rfl),
    (eq_of_still hst (·.core.ring) fun _ => rfl).trans (eq_of_still ht (·.core.ring) fun _ => rfl)⟩

/-- Settles O41: a head opens its chain (`opens_of_exec`), slots join it (`joins_of_slot`), and VCH.END runs it (`exec_vchEnd`) to what its run
leaves (`chainEnds`). -/
theorem chainWords : Obligations.ChainWords := by
  intro s r d a b q p x y z t k opens joins
  have hunit {i : Instr} {l : Layout} (hl : layout i = body r 0x2D l) : issues s i → s.unit = .ve :=
    unit_of_veMajor hl fun u hu => by revert hu; cases u <;> decide
  refine ⟨fun hi _ => opens_of_exec rfl (hunit rfl) hi, fun hi _ => opens_of_exec rfl (hunit rfl) hi, fun _ => joins_of_slot rfl, fun _ => joins_of_slot rfl,
    fun _ => joins_of_slot rfl, fun _ => joins_of_slot rfl, fun _ => joins_of_slot rfl, ?_, ?_, ?_, ?_⟩
  · rintro ch e hi hc hh - hv rfl hn hroom
    have hregion : regionIn (takeRing (.vchEnd r) s) d = regionIn s d := by rw [takeRing_eq]; rfl
    obtain ⟨u, hu, hchain, -, hpend, hab, has, -⟩ := chainEnds_idle hi hc hv (by rw [Chain.waits, hh]; rfl) hroom
      (chainRun_empty ((takeRing_vpend _ _).trans hv) hh (by rw [hregion]; exact hn))
    exact ⟨u, hu, hchain, hab, has, hpend⟩
  · rintro ch e m hi hc hh hp hv hq rfl hslots hn rd ra v hrd hra - hroom
    exact chainEnds_mov (w := _) hi hc hh hp hv hq hn (by rw [hslots]; rfl) hrd hra hroom
  · intro ch hi hc hv hq taken run resumed hw hs hroom hf hdone
    have ht := still_takeRing (.vchEnd r) s
    have hv' := (takeRing_vpend (.vchEnd r) s).trans hv
    have hprog : taken.core.veprog = s.core.veprog := eq_of_still ht (·.core.veprog) fun _ => rfl
    obtain ⟨u, hu, hst⟩ := exec_vchEnd hi hc ⟨hv', hprog ▸ hw, hs, takeRing_rooms hroom, hf⟩
    have hend : chainEnded taken ch = { run.core with chain := none, veprog := 0#64, ring := run.ring } := if_neg hdone
    obtain ⟨hchain, hveprog, hring, hmem, hwb, hab, has, hreg⟩ := chainEnds ht hv' hst
    rw [hend] at hwb hab has
    exact ⟨u, hu, hchain, hveprog, hring, hmem, hwb, hab, has, hreg⟩
  · rintro ch hi hc hh - hv - hroom rq hqf hm hcnt
    have ht := takeRing_eq (.vchEnd r) s
    have hregion : regionIn (takeRing (.vchEnd r) s) q = rq := by rw [ht]; rfl
    refine chainEnds_idle hi hc hv (by rw [Chain.waits, hh]; rfl) hroom
      (chainRun_drained ((takeRing_vpend _ _).trans hv) hh (by rw [hregion]; exact hqf) (by rw [ht]; exact hm) ?_)
    rw [hregion, ht]
    exact hcnt

end Sys2Proof.Proofs
end
